-- ==== Sys2Proof/Word.lean ====
section
/-! DEFINITION. The word types of the Kwasor 4820 (spec/09 R123, spec/00 R1) and finite maps kept as plain lists. -/

namespace Sys2Proof

/-- A g register, an address, a control register: 64 bits (R123). -/
abbrev Word := BitVec 64

/-- A byte of memory or scratch (R1). -/
abbrev Byte := BitVec 8

/-- A lane of a v or z register, an FP32 value, a control word (R123, R128). -/
abbrev W32 := BitVec 32

/-- A v or z register, the data of a beat: 16 lanes of 32 bits (R3, R123). -/
abbrev Lanes := BitVec 512

/-- The number of a g, v or z register: a five-bit field of a word. -/
abbrev Reg := BitVec 5

/-- A finite map kept as a list of pairs; a key not listed has no entry. -/
abbrev FMap (κ α : Type) := List (κ × α)

/-- The entry of key `k`. -/
def FMap.get? {κ α : Type} [DecidableEq κ] : FMap κ α → κ → Option α
  | [], _ => none
  | (k', v) :: l, k => if k' = k then some v else FMap.get? l k

/-- The entry of key `k`, or `d` where there is none. -/
def FMap.getD {κ α : Type} [DecidableEq κ] (m : FMap κ α) (k : κ) (d : α) : α :=
  (FMap.get? m k).getD d

/-- The map with key `k` set to `v`. -/
def FMap.set {κ α : Type} [DecidableEq κ] : FMap κ α → κ → α → FMap κ α
  | [], k, v => [(k, v)]
  | (k', v') :: l, k, v => if k' = k then (k, v) :: l else (k', v') :: FMap.set l k v

/-- The map without key `k`. -/
def FMap.erase {κ α : Type} [DecidableEq κ] : FMap κ α → κ → FMap κ α
  | [], _ => []
  | (k', v') :: l, k => if k' = k then FMap.erase l k else (k', v') :: FMap.erase l k

end Sys2Proof
end

