-- ==== Sys2Proof/Machine/Fp.lean ====
section
/-! DEFINITION. Number formats and arithmetic of chapter 04: exact values, decoding, rounding and conversion
(R47-R60), FP32 operations (R64-R66), the function algorithms with their tables (R67-R71), scans and reductions
(R72), the matrix cell (R61-R63). -/

namespace Sys2Proof.Machine

open Sys2Proof

/-! ## Exact values -/

/-- A value: NaN, an infinity, or ±m × 2^e exactly; a zero keeps its sign (R50). -/
inductive Num where
  | nan
  | inf (neg : Bool)
  | fin (neg : Bool) (m : Nat) (e : Int)
  deriving DecidableEq, Repr

/-- 2 to the power of an integer, as numerator and denominator. -/
def pow2 (e : Int) : Nat × Nat := if 0 ≤ e then (2 ^ e.toNat, 1) else (1, 2 ^ (-e).toNat)

/-- An integer as a value. -/
def Num.ofInt (i : Int) : Num := .fin (decide (i < 0)) i.natAbs 0

/-- The value with its sign changed. -/
def Num.neg : Num → Num
  | .nan => .nan
  | .inf s => .inf (!s)
  | .fin s m e => .fin (!s) m e

/-- The magnitude. -/
def Num.abs : Num → Num
  | .nan => .nan
  | .inf _ => .inf false
  | .fin _ m e => .fin false m e

/-- The value × 2^k, exactly. -/
def Num.scale (k : Int) : Num → Num
  | .fin s m e => .fin s m (e + k)
  | x => x

/-- The sign of a value (a NaN counts as positive). -/
def Num.isNeg : Num → Bool
  | .nan => false
  | .inf s => s
  | .fin s _ _ => s

/-- The value is a zero. -/
def Num.isZero : Num → Bool
  | .fin _ 0 _ => true
  | _ => false

/-- The signed integer of ±m × 2^(e - lo). -/
def signedAt (s : Bool) (m : Nat) (e lo : Int) : Int :=
  let n : Int := ((m * 2 ^ (e - lo).toNat : Nat) : Int)
  if s then -n else n

/-- The exact product (R63, R64). -/
def Num.mul : Num → Num → Num
  | .nan, _ => .nan
  | _, .nan => .nan
  | .inf s, .inf t => .inf (s != t)
  | .inf s, .fin t m _ => if m = 0 then .nan else .inf (s != t)
  | .fin t m _, .inf s => if m = 0 then .nan else .inf (s != t)
  | .fin s m e, .fin t n f => .fin (s != t) (m * n) (e + f)

/-- The exact sum; the sign of an exact zero is that of both terms where they agree, else negative only where `dn`
says that the sum rounds down (R63, R64). -/
def Num.add (dn : Bool) : Num → Num → Num
  | .nan, _ => .nan
  | _, .nan => .nan
  | .inf s, .inf t => if s = t then .inf s else .nan
  | .inf s, .fin _ _ _ => .inf s
  | .fin _ _ _, .inf s => .inf s
  | .fin s m e, .fin t n f =>
    let lo := if e ≤ f then e else f
    let i := signedAt s m e lo + signedAt t n f lo
    if i = 0 then .fin (if s = t then s else dn) 0 0
    else .fin (decide (i < 0)) i.natAbs lo

/-! ## Floating formats (R50-R52) -/

/-- The parameters of a floating format: exponent bits, fraction bits, bias, whether it has infinities, whether it has
NaNs, its largest finite code and its canonical NaN. -/
structure FloatFmt where
  ex : Nat
  mb : Nat
  bias : Nat
  hasInf : Bool
  hasNan : Bool
  maxCode : Nat
  nanCode : Nat
  deriving DecidableEq, Repr

/-- E2M1 (R50). -/
def fmtE2M1 : FloatFmt := ⟨2, 1, 1, false, false, 0x7, 0⟩
/-- E2M3 (R50). -/
def fmtE2M3 : FloatFmt := ⟨2, 3, 1, false, false, 0x1F, 0⟩
/-- E3M2 (R50). -/
def fmtE3M2 : FloatFmt := ⟨3, 2, 3, false, false, 0x1F, 0⟩
/-- E4M3 (R50, R52). -/
def fmtE4M3 : FloatFmt := ⟨4, 3, 7, false, true, 0x7E, 0x7F⟩
/-- E5M2 (R50, R52). -/
def fmtE5M2 : FloatFmt := ⟨5, 2, 15, true, true, 0x7B, 0x7E⟩
/-- FP16 (R50, R52). -/
def fmtFP16 : FloatFmt := ⟨5, 10, 15, true, true, 0x7BFF, 0x7E00⟩
/-- BF16 (R50, R52). -/
def fmtBF16 : FloatFmt := ⟨8, 7, 127, true, true, 0x7F7F, 0x7FC0⟩
/-- K19 without its container's low bits (R50, R52). -/
def fmtK19 : FloatFmt := ⟨8, 10, 127, true, true, 0x3FBFF, 0x3FE00⟩
/-- FP32 (R50, R52). -/
def fmtFP32 : FloatFmt := ⟨8, 23, 127, true, true, 0x7F7FFFFF, 0x7FC00000⟩

/-- The value of a code of a floating format (R50). -/
def FloatFmt.decode (f : FloatFmt) (c : Nat) : Num :=
  let s := c / 2 ^ (f.ex + f.mb) % 2 == 1
  let x := c / 2 ^ f.mb % 2 ^ f.ex
  let m := c % 2 ^ f.mb
  if f.hasInf && x == 2 ^ f.ex - 1 then (if m = 0 then .inf s else .nan)
  else if f.hasNan && !f.hasInf && x == 2 ^ f.ex - 1 && m == 2 ^ f.mb - 1 then .nan
  else if x = 0 then .fin s m (1 - (f.bias : Int) - f.mb)
  else .fin s (2 ^ f.mb + m) ((x : Int) - f.bias - f.mb)

/-- The sign bit of a code. -/
def FloatFmt.signBit (f : FloatFmt) (s : Bool) : Nat := if s then 2 ^ (f.ex + f.mb) else 0

/-- Whether a magnitude n + r/d (0 ≤ r < d) rounds up to n + 1 (R6, R55): codes 0 round_ne, 1 round_up, 2 round_dn,
3 round_tz. -/
def roundsUp (rc : Nat) (neg : Bool) (n r d : Nat) : Bool :=
  match rc with
  | 0 => decide (d < 2 * r) || (2 * r == d && n % 2 == 1)
  | 1 => !neg && r != 0
  | 2 => neg && r != 0
  | _ => false

/-- A magnitude m × 2^e as a multiple of 2^q, rounded. -/
def roundMag (rc : Nat) (neg : Bool) (m : Nat) (e q : Int) : Nat :=
  if q ≤ e then m * 2 ^ (e - q).toNat
  else
    let d := 2 ^ (q - e).toNat
    let n := m / d
    if roundsUp rc neg n (m % d) d then n + 1 else n

/-- What an overflow gives (R56). -/
def FloatFmt.overflow (f : FloatFmt) (rc : Nat) (sat neg : Bool) : Nat :=
  let inf := (2 ^ f.ex - 1) * 2 ^ f.mb
  let toInf := f.hasInf && !sat && (match rc with | 0 => true | 1 => !neg | 2 => neg | _ => false)
  f.signBit neg + if toInf then inf else f.maxCode

/-- The code of a value in a floating format, rounded once (R52, R56). -/
def FloatFmt.encode (f : FloatFmt) (rc : Nat) (sat : Bool) : Num → Nat
  | .nan => if f.hasNan then f.nanCode else 0
  | .inf s => f.signBit s + if f.hasInf && !sat then (2 ^ f.ex - 1) * 2 ^ f.mb else f.maxCode
  | .fin s m e =>
    if m = 0 then f.signBit s
    else
      let top : Int := e + Nat.log2 m
      let lo : Int := 1 - (f.bias : Int) - f.mb
      let q := if top - f.mb < lo then lo else top - f.mb
      let n := roundMag rc s m e q
      let code := (q - lo).toNat * 2 ^ f.mb + n
      if f.maxCode < code then f.overflow rc sat s else f.signBit s + code

/-! ## FP32 lanes (R64-R66) -/

/-- The value of an FP32 lane. -/
def f32 (w : W32) : Num := fmtFP32.decode w.toNat

/-- A value rounded to an FP32 lane. -/
def toF32 (rc : Nat) (x : Num) : W32 := BitVec.ofNat 32 (fmtFP32.encode rc false x)

/-- a × b + c exactly, rounded once to FP32, as a value. -/
def fmaNum (a b c : Num) : Num := f32 (toF32 0 ((a.mul b).add false c))

/-- a + b of FP32 lanes under a rounding code (R64). -/
def f32add (rc : Nat) (a b : W32) : W32 := toF32 rc ((f32 a).add (rc == 2) (f32 b))

/-- a - b of FP32 lanes (R64). -/
def f32sub (rc : Nat) (a b : W32) : W32 := toF32 rc ((f32 a).add (rc == 2) (f32 b).neg)

/-- a × b of FP32 lanes (R64). -/
def f32mul (rc : Nat) (a b : W32) : W32 := toF32 rc ((f32 a).mul (f32 b))

/-- a × b + c of FP32 lanes with one rounding (R64). -/
def f32fma (rc : Nat) (a b c : W32) : W32 := toF32 rc (((f32 a).mul (f32 b)).add (rc == 2) (f32 c))

/-- An FP32 lane is a NaN. -/
def isNan32 (a : W32) : Bool := f32 a == .nan

/-- A key that orders FP32 lanes that are no NaN, -0 below +0 (R65). -/
def key32 (a : W32) : Int := if a.getLsbD 31 then -((a.toNat % 2 ^ 31 : Nat) : Int) - 1 else (a.toNat : Int)

/-- The canonical FP32 NaN (R52). -/
def nan32 : W32 := 0x7FC00000#32

/-- `vmax` on FP32 lanes (R65). -/
def f32max (a b : W32) : W32 := if isNan32 a || isNan32 b then nan32 else if key32 a < key32 b then b else a

/-- `vmin` on FP32 lanes (R65). -/
def f32min (a b : W32) : W32 := if isNan32 a || isNan32 b then nan32 else if key32 b < key32 a then b else a

/-- A key in which -0 equals +0 (R65). -/
def cmpKey32 (a : W32) : Int := if a.getLsbD 31 then -((a.toNat % 2 ^ 31 : Nat) : Int) else (a.toNat : Int)

/-! ## Decoding elements (R49-R54) -/

/-- The floating format of a code of R47, its block-scaled kinds by their elements. -/
def floatOf (fmt : Nat) : Option FloatFmt :=
  match fmt with
  | 0x08 => some fmtE2M1
  | 0x09 => some fmtE3M2
  | 0x0A => some fmtE2M3
  | 0x0B => some fmtE4M3
  | 0x0C => some fmtE5M2
  | 0x0D => some fmtBF16
  | 0x0E => some fmtFP16
  | 0x0F => some fmtK19
  | 0x10 => some fmtFP32
  | 0x13 => some fmtE2M1
  | 0x14 => some fmtE3M2
  | 0x15 => some fmtE2M3
  | 0x16 => some fmtE4M3
  | 0x17 => some fmtE5M2
  | _ => none

/-- The bits of a packed element of a format (R47, R48). -/
def fmtBits (fmt : Nat) : Nat :=
  match fmt with
  | 0x00 => 4 | 0x01 => 4 | 0x08 => 4 | 0x12 => 4 | 0x13 => 4
  | 0x04 => 16 | 0x05 => 16 | 0x0D => 16 | 0x0E => 16
  | 0x06 => 32 | 0x07 => 32 | 0x0F => 32 | 0x10 => 32
  | _ => 8

/-- The code is block-scaled (R47). -/
def isBlockScaled (fmt : Nat) : Bool := decide (0x12 ≤ fmt) && decide (fmt ≤ 0x18)

/-- The code is reserved (R47). -/
def isReservedFmt (fmt : Nat) : Bool := decide (0x19 ≤ fmt)

/-- The integer formats: bits and whether signed (R49). -/
def intOf (fmt : Nat) : Option (Nat × Bool) :=
  match fmt with
  | 0x00 => some (4, true) | 0x01 => some (4, false) | 0x02 => some (8, true) | 0x03 => some (8, false)
  | 0x04 => some (16, true) | 0x05 => some (16, false) | 0x06 => some (32, true) | 0x07 => some (32, false)
  | _ => none

/-- The integer of a code of n bits. -/
def intVal (n : Nat) (signed : Bool) (c : Nat) : Int :=
  let c := c % 2 ^ n
  if signed && decide (2 ^ (n - 1) ≤ c) then (c : Int) - 2 ^ n else (c : Int)

/-- The magnitudes of a K4 type in units of 1/8 (R53). -/
def k4Set (ty : Nat) : List Nat :=
  match ty with
  | 1 => [0, 4, 8, 12, 16, 24, 32, 48]
  | 2 => [0, 1, 2, 4, 8, 16, 32, 64]
  | _ => [0, 8, 16, 24, 32, 48, 64, 96]

/-- The value of a K4 code under its scale byte (R53). -/
def k4Val (sb c : Nat) : Num :=
  let e : Int := (sb % 64 : Nat) - 32
  if sb / 64 % 4 = 0 then (Num.ofInt (intVal 4 true c)).scale e
  else .fin (c / 8 % 2 == 1) ((k4Set (sb / 64 % 4)).getD (c % 8) 0) (e - 3)

/-- The value of an E8M0 code (R51). -/
def e8m0Val (c : Nat) : Num := if c % 256 = 255 then .nan else .fin false 1 ((c % 256 : Nat) - 127)

/-- The value of an element of a format of R47 with its block's scale byte (R49-R54). -/
def elemVal (fmt sb c : Nat) : Num :=
  if fmt = 0x11 then e8m0Val c
  else if fmt = 0x12 then k4Val sb c
  else if fmt = 0x18 then (if sb % 256 = 255 then .nan else (Num.ofInt (intVal 8 true c)).scale ((sb % 256 : Nat) - 127 - 6))
  else
    match intOf fmt with
    | some (n, s) => Num.ofInt (intVal n s c)
    | none =>
      match floatOf fmt with
      | some f =>
        let c := if fmt = 0x0F then c / 2 ^ 13 else c
        if decide (0x13 ≤ fmt) && sb % 256 == 255 then .nan
        else if 0x13 ≤ fmt then (f.decode c).scale ((sb % 256 : Nat) - 127)
        else f.decode c
      | none => .nan

/-! ## Conversion (R55-R60) -/

/-- A value rounded to an integer. -/
def roundInt (rc : Nat) (s : Bool) (m : Nat) (e : Int) : Int :=
  let n : Int := ((roundMag rc s m e 0 : Nat) : Int)
  if s then -n else n

/-- A conversion into an integer format of n bits (R57): the code. -/
def toInt (n : Nat) (signed : Bool) (rc : Nat) (x : Num) : Nat :=
  let hi : Int := if signed then 2 ^ (n - 1) - 1 else 2 ^ n - 1
  let lo : Int := if signed then -(2 ^ (n - 1)) else 0
  let i : Int := match x with
    | .nan => 0
    | .inf s => if s then lo else hi
    | .fin s m e => roundInt rc s m e
  let i := if i < lo then lo else if hi < i then hi else i
  (i % 2 ^ n).toNat

/-- A conversion into E8M0 (R58). -/
def toE8M0 (x : Num) : Nat :=
  match x with
  | .fin _ m e =>
    if m = 0 then 0
    else
      let f : Int := e + Nat.log2 m + 127
      if f < 0 then 0 else if 254 < f then 254 else f.toNat
  | _ => 255

/-- The index of the set value that a magnitude of n/d eighths rounds to; a tie goes to the even index (R59). -/
def k4Index (rc : Nat) (s : Bool) (set : List Nat) (n d : Nat) : Nat :=
  let below := (set.filter fun u => decide (u * d ≤ n)).length - 1
  let u := set.getD below 0
  if below = 7 ∨ u * d = n then below
  else
    let w := set.getD (below + 1) 0
    let up := match rc with
      | 0 => decide ((u + w) * d < 2 * n) || ((u + w) * d == 2 * n && below % 2 == 1)
      | 1 => !s
      | 2 => s
      | _ => false
    if up then below + 1 else below

/-- A conversion of a quotient into a K4 code of a type (R59). -/
def toK4 (ty rc : Nat) (x : Num) : Nat :=
  match x with
  | .nan => 0
  | .inf s => if ty = 0 then (if s then 8 else 7) else (if s then 15 else 7)
  | .fin s m e =>
    if ty = 0 then toInt 4 true rc x
    else
      let p := pow2 (e + 3)
      (if s then 8 else 0) + k4Index rc s (k4Set ty) (m * p.1) p.2

/-- The code of a value in a format of R47, with the scale byte of its block for a block-scaled one (R55-R59; a scale
of 0xFF is NaN, DEDUCED, log 25); a K19 code fills its container. -/
def convert (fmt rc : Nat) (sat : Bool) (sb : Nat) (x : Num) : Nat :=
  if fmt = 0x11 then toE8M0 x
  else if fmt = 0x12 then toK4 (sb / 64 % 4) rc (x.scale (32 - ((sb % 64 : Nat) : Int)))
  else if fmt = 0x18 then toInt 8 true rc (if sb % 256 = 255 then .nan else x.scale (127 - ((sb % 256 : Nat) : Int) + 6))
  else
    match intOf fmt with
    | some (n, s) => toInt n s rc x
    | none =>
      match floatOf fmt with
      | some f =>
        let y := if fmt < 0x13 then x else if sb % 256 = 255 then .nan else x.scale (127 - ((sb % 256 : Nat) : Int))
        let c := f.encode rc sat y
        if fmt = 0x0F then c * 2 ^ 13 else c
      | none => 0

/-! ## The function algorithms (R67-R71) -/

/-- X[i], the round_ne value of 2^(i/64) (R67). -/
def tabX : List Nat :=
  [0x3F800000, 0x3F8164D2, 0x3F82CD87, 0x3F843A29, 0x3F85AAC3, 0x3F871F62, 0x3F88980F, 0x3F8A14D5,
   0x3F8B95C2, 0x3F8D1ADF, 0x3F8EA43A, 0x3F9031DC, 0x3F91C3D3, 0x3F935A2B, 0x3F94F4F0, 0x3F96942D] ++
  [0x3F9837F0, 0x3F99E046, 0x3F9B8D3A, 0x3F9D3EDA, 0x3F9EF532, 0x3FA0B051, 0x3FA27043, 0x3FA43516,
   0x3FA5FED7, 0x3FA7CD94, 0x3FA9A15B, 0x3FAB7A3A, 0x3FAD583F, 0x3FAF3B79, 0x3FB123F6, 0x3FB311C4] ++
  [0x3FB504F3, 0x3FB6FD92, 0x3FB8FBAF, 0x3FBAFF5B, 0x3FBD08A4, 0x3FBF179A, 0x3FC12C4D, 0x3FC346CD,
   0x3FC5672A, 0x3FC78D75, 0x3FC9B9BE, 0x3FCBEC15, 0x3FCE248C, 0x3FD06334, 0x3FD2A81E, 0x3FD4F35B] ++
  [0x3FD744FD, 0x3FD99D16, 0x3FDBFBB8, 0x3FDE60F5, 0x3FE0CCDF, 0x3FE33F89, 0x3FE5B907, 0x3FE8396A,
   0x3FEAC0C7, 0x3FED4F30, 0x3FEFE4BA, 0x3FF28177, 0x3FF5257D, 0x3FF7D0DF, 0x3FFA83B3, 0x3FFD3E0C]

/-- G[i], the round_ne value of 1/(1 + i/64) (R67). -/
def tabG : List Nat :=
  [0x3F800000, 0x3F7C0FC1, 0x3F783E10, 0x3F74898D, 0x3F70F0F1, 0x3F6D7304, 0x3F6A0EA1, 0x3F66C2B4,
   0x3F638E39, 0x3F607038, 0x3F5D67C9, 0x3F5A740E, 0x3F579436, 0x3F54C77B, 0x3F520D21, 0x3F4F6475] ++
  [0x3F4CCCCD, 0x3F4A4588, 0x3F47CE0C, 0x3F4565C8, 0x3F430C31, 0x3F40C0C1, 0x3F3E82FA, 0x3F3C5264,
   0x3F3A2E8C, 0x3F381703, 0x3F360B61, 0x3F340B41, 0x3F321643, 0x3F302C0B, 0x3F2E4C41, 0x3F2C7692] ++
  [0x3F2AAAAB, 0x3F28E83F, 0x3F272F05, 0x3F257EB5, 0x3F23D70A, 0x3F2237C3, 0x3F20A0A1, 0x3F1F1166,
   0x3F1D89D9, 0x3F1C09C1, 0x3F1A90E8, 0x3F191F1A, 0x3F17B426, 0x3F164FDA, 0x3F14F209, 0x3F139A86] ++
  [0x3F124925, 0x3F10FDBC, 0x3F0FB824, 0x3F0E7835, 0x3F0D3DCB, 0x3F0C08C1, 0x3F0AD8F3, 0x3F09AE41,
   0x3F088889, 0x3F0767AB, 0x3F064B8A, 0x3F053408, 0x3F042108, 0x3F03126F, 0x3F020821, 0x3F010204]

/-- H[i], the round_ne value of -log2(G[i]) (R67). -/
def tabH : List Nat :=
  [0x00000000, 0x3CB73CB3, 0x3D35D690, 0x3D8759C9, 0x3DB31FB7, 0x3DDE420E, 0x3E0462C4, 0x3E195751,
   0x3E2E00D1, 0x3E42615F, 0x3E567AEF, 0x3E6A4F70, 0x3E7DE0B5, 0x3E88983F, 0x3E92203D, 0x3E9B8925] ++
  [0x3EA4D3C2, 0x3EAE00D1, 0x3EB71110, 0x3EC0052D, 0x3EC8DDD3, 0x3ED19BAF, 0x3EDA3F60, 0x3EE2C97E,
   0x3EEB3A9E, 0x3EF39355, 0x3EFBD42A, 0x3F01FED4, 0x3F060828, 0x3F0A0650, 0x3F0DF98A, 0x3F11E20E] ++
  [0x3F15C01A, 0x3F1993E4, 0x3F1D5DA0, 0x3F211D84, 0x3F24D3C3, 0x3F28808D, 0x3F2C2410, 0x3F2FBE7F,
   0x3F335004, 0x3F36D8CA, 0x3F3A58FE, 0x3F3DD0C9, 0x3F41404E, 0x3F44A7BB, 0x3F480731, 0x3F4B5ED6] ++
  [0x3F4EAECF, 0x3F51F740, 0x3F553847, 0x3F58720A, 0x3F5BA4A5, 0x3F5ED038, 0x3F61F4E5, 0x3F6512C6,
   0x3F6829FA, 0x3F6B3AA0, 0x3F6E44CF, 0x3F7148A2, 0x3F744636, 0x3F773DA2, 0x3F7A2F03, 0x3F7D1A71]

/-- S[i], the round_ne value of 1/sqrt(1 + i/32), and of half that argument's for i from 32 (R67). -/
def tabS : List Nat :=
  [0x3F800000, 0x3F7C1764, 0x3F785B42, 0x3F74C867, 0x3F715BEF, 0x3F6E133E, 0x3F6AEBF5, 0x3F67E3ED,
   0x3F64F92E, 0x3F6229ED, 0x3F5F7483, 0x3F5CD76E, 0x3F5A514A, 0x3F57E0CF, 0x3F5584CD, 0x3F533C2E] ++
  [0x3F5105EC, 0x3F4EE116, 0x3F4CCCCD, 0x3F4AC83F, 0x3F48D2AB, 0x3F46EB5A, 0x3F4511A3, 0x3F4344E6,
   0x3F41848F, 0x3F3FD012, 0x3F3E26EB, 0x3F3C889F, 0x3F3AF4BA, 0x3F396ACE, 0x3F37EA74, 0x3F36734A] ++
  [0x3F3504F3, 0x3F32416A, 0x3F2F9D53, 0x3F2D166C, 0x3F2AAAAB, 0x3F285835, 0x3F261D5F, 0x3F23F8A2,
   0x3F21E89B, 0x3F1FEC04, 0x3F1E01B3, 0x3F1C2896, 0x3F1A5FB2, 0x3F18A61F, 0x3F16FB06, 0x3F155DA2] ++
  [0x3F13CD3A, 0x3F124925, 0x3F10D0C3, 0x3F0F6381, 0x3F0E00D5, 0x3F0CA83F, 0x3F0B5948, 0x3F0A137D,
   0x3F08D677, 0x3F07A1D2, 0x3F067532, 0x3F05503E, 0x3F0432A5, 0x3F031C1A, 0x3F020C52, 0x3F01030A]

/-- An entry of a table as a value. -/
def tabVal (t : List Nat) (i : Nat) : Num := fmtFP32.decode (t.getD i 0)

/-- c1, c2, c3: ln 2, (ln 2)²/2, (ln 2)³/6 (R67). -/
def tabC : List Nat := [0x3F317218, 0x3E75FDF0, 0x3D635847]

/-- d1, d2, d3: 1/ln 2, -1/(2 ln 2), 1/(3 ln 2) (R67). -/
def tabD : List Nat := [0x3FB8AA3B, 0xBF38AA3B, 0x3EF6384F]

/-- The value rounded to FP32 under round_ne, as a value. -/
def rne32 (x : Num) : Num := f32 (toF32 0 x)

/-- The value 1. -/
def one : Num := .fin false 1 0

/-- +∞ and -∞ as FP32 lanes. -/
def inf32 (neg : Bool) : W32 := if neg then 0xFF800000#32 else 0x7F800000#32

/-- A zero as an FP32 lane. -/
def zero32 (neg : Bool) : W32 := if neg then 0x80000000#32 else 0#32

/-- floor(±m × 2^e × 2^k). -/
def floorMul (s : Bool) (m : Nat) (e k : Int) : Int :=
  let p := pow2 (e + k)
  let n : Int := ((m * p.1 : Nat) : Int)
  (if s then -n else n) / ((p.2 : Nat) : Int)

/-- E of a finite nonzero value: floor(log2 |x|) (R67). -/
def expOf (m : Nat) (e : Int) : Int := e + Nat.log2 m

/-- M of a finite nonzero value: |x|/2^E (R67). -/
def mantOf (m : Nat) : Num := .fin false m (-(Nat.log2 m : Int))

/-- floor(n × (M - 1)) for n = 2^k (R69-R71). -/
def mantIndex (m k : Nat) : Nat := (m - 2 ^ Nat.log2 m) * 2 ^ k / 2 ^ Nat.log2 m

/-- `vexp2` (R68). -/
def vexp2Lane (w : W32) : W32 :=
  match f32 w with
  | .nan => nan32
  | .inf s => if s then 0#32 else inf32 false
  | .fin s m e =>
    if decide (1 ≤ floorMul s m e (-7)) then inf32 false
    else if s && decide (150 * (pow2 e).2 < m * (pow2 e).1) then 0#32
    else
      let j := floorMul s m e 6
      let f := (Num.fin s m e).add false (Num.ofInt (-j) |>.scale (-6))
      let i := (j % 64).toNat
      let q := fmaNum (tabVal tabC 2) f (tabVal tabC 1)
      let q := fmaNum q f (tabVal tabC 0)
      let q := rne32 (q.mul f)
      let y := fmaNum (tabVal tabX i) q (tabVal tabX i)
      toF32 0 (y.scale ((j - i) / 64))

/-- `vlog2` (R69). -/
def vlog2Lane (w : W32) : W32 :=
  match f32 w with
  | .nan => nan32
  | .inf s => if s then nan32 else inf32 false
  | .fin s m e =>
    if m = 0 then inf32 true
    else if s then nan32
    else
      let i := mantIndex m 6
      let t := fmaNum (mantOf m) (tabVal tabG i) one.neg
      let q := fmaNum (tabVal tabD 2) t (tabVal tabD 1)
      let q := fmaNum q t (tabVal tabD 0)
      let q := rne32 (q.mul t)
      let h := rne32 ((Num.ofInt (expOf m e)).add false (tabVal tabH i))
      toF32 0 (h.add false q)

/-- `vrcp` (R70). -/
def vrcpLane (w : W32) : W32 :=
  match f32 w with
  | .nan => nan32
  | .inf s => zero32 s
  | .fin s m e =>
    if m = 0 then inf32 s
    else
      let g := tabVal tabG (mantIndex m 6)
      let d := fmaNum (mantOf m).neg g one
      let q := fmaNum d d d
      let q := fmaNum q d d
      let y := fmaNum g q g
      let r := toF32 0 (y.scale (-(expOf m e)))
      if s then r ||| 0x80000000#32 else r

/-- `vrsq` (R71). -/
def vrsqLane (w : W32) : W32 :=
  match f32 w with
  | .nan => nan32
  | .inf s => if s then nan32 else 0#32
  | .fin s m e =>
    if m = 0 then inf32 s
    else if s then nan32
    else
      let ex := expOf m e
      let odd := ex % 2 = 1
      let z := if odd then (mantOf m).scale 1 else mantOf m
      let i := mantIndex m 5 + if odd then 32 else 0
      let f := if odd then ex - 1 else ex
      let si := tabVal tabS i
      let g := rne32 (z.mul si)
      let d := fmaNum g.neg si one
      let q := fmaNum (.fin false 5 (-4)) d (.fin false 3 (-3))
      let q := fmaNum q d (.fin false 1 (-1))
      let q := rne32 (q.mul d)
      let y := fmaNum si q si
      toF32 0 (y.scale (-(f / 2)))

/-! ## Scans and reductions (R72) -/

/-- One step of the tree of `vred`: lanes 2i and 2i + 1 of a list combined. -/
def redStep (op : W32 → W32 → W32) : List W32 → List W32
  | a :: b :: l => op a b :: redStep op l
  | l => l

/-- `vred`: lane i combined with lane i + 2^j at step j (R72). -/
def vredTree (op : W32 → W32 → W32) (l : List W32) : W32 :=
  (redStep op (redStep op (redStep op (redStep op l)))).getD 0 0#32

/-- One step of `vscan` at a distance. -/
def scanStep (op : W32 → W32 → W32) (d : Nat) (l : List W32) : List W32 :=
  l.take d ++ List.zipWith op l (l.drop d)

/-- `vscan`, inclusive (R72). -/
def vscanTree (op : W32 → W32 → W32) (l : List W32) : List W32 :=
  scanStep op 8 (scanStep op 4 (scanStep op 2 (scanStep op 1 l)))

/-! ## The matrix cell (R61-R63) -/

/-- The MX width class of a format code: products per cell, none where it has no class (R47, R61). -/
def mxClass (fmt : Nat) : Option Nat :=
  match fmt with
  | 0x00 => some 8 | 0x01 => some 8 | 0x08 => some 8 | 0x12 => some 8 | 0x13 => some 8
  | 0x02 => some 4 | 0x03 => some 4 | 0x09 => some 4 | 0x0A => some 4 | 0x0B => some 4 | 0x0C => some 4
  | 0x14 => some 4 | 0x15 => some 4 | 0x16 => some 4 | 0x17 => some 4 | 0x18 => some 4
  | 0x04 => some 2 | 0x05 => some 2 | 0x0D => some 2 | 0x0E => some 2
  | _ => none

/-- Element k of 512 data bits in a format (R48). -/
def elemCode (fmt : Nat) (data : Lanes) (k : Nat) : Nat :=
  (data.extractLsb' (fmtBits fmt * k) (fmtBits fmt)).toNat

/-- The scale byte of the block of element k (R48). -/
def scaleByte (scale : W32) (k : Nat) : Nat := (scale.extractLsb' (8 * (k / 32)) 8).toNat

/-- Element k of a beat as a value with its block's scale (R48-R54). -/
def beatVal (fmt : Nat) (data : Lanes) (scale : W32) (k : Nat) : Num :=
  elemVal fmt (scaleByte scale k) (elemCode fmt data k)

/-- One k-group added to p with one rounding; an exactly zero sum is +0 (R62, R63). -/
def cellStep (p : Num) (terms : List Num) : Num :=
  match terms.foldl (fun x t => x.add false t) p with
  | .fin _ 0 _ => .fin false 0 0
  | x => rne32 x

/-- A column's sum over the k-groups 0 to 15 (R62). -/
def columnSum (w : Nat) (feed wt : Nat → Num) : W32 :=
  toF32 0 ((List.range 16).foldl (fun p g =>
    cellStep p ((List.range w).map fun j => (feed (w * g + j)).mul (wt (w * g + j)))) (.fin false 0 0))

/-- The row that one interval adds: column n of the weights (R62). -/
def mxRow (fa fb : Nat) (feed : Lanes) (fscale : W32) (weights : Vector Lanes 16) (wscale : Vector W32 16) : List W32 :=
  match mxClass fa with
  | none => List.replicate 16 nan32
  | some w =>
    let feedVals := (List.range (16 * w)).map (beatVal fa feed fscale)
    (weights.toList.zip wscale.toList).map fun c =>
      columnSum w (fun k => feedVals.getD k .nan) (beatVal fb c.1 c.2)

end Sys2Proof.Machine
end

