-- ==== Sys2Proof/Config.lean ====
section
/-! DEFINITION. What an implementation fixes and the free values: opaque constants with no body, so that no proof can
see a value of one (INVENTORY.md, What the manual leaves open). -/

namespace Sys2Proof

/-- A count of an event whose number depends on caches, DRAM or other timing (R12, R198): free, by draw (DESIGN CHOICE, log 17). -/
opaque Config.freeCount : Nat → BitVec 48

/-- What a 32-byte sector written under one seal domain and key installation reads as under another: ciphertext
decrypted under another key (R80, R347). Arguments: domain and epoch it was written under, domain and epoch of the
reader, the sector's number, its bytes (DESIGN CHOICE, log 16). -/
opaque Config.sealView : Nat → Nat → Nat → Nat → Nat → BitVec 256 → BitVec 256

/-- A byte the spec leaves free, by draw: bytes of a save area in the device's own arrangement (R331), bytes that host
memory or a peer supplies (DESIGN CHOICE, log 18). -/
opaque Config.freeByte : Nat → Byte

/-- The answer of the security core to an SPDM request: certificate, signature, key share (R346), by draw (DESIGN CHOICE, log 19). -/
opaque Config.spdmAnswer : Nat → BitVec 512

/-- The digest of what measurement block 3 covers, the firmware configuration (R346, R354), as a list of numbers (DESIGN CHOICE, log 19). -/
opaque Config.digest : List Nat → BitVec 256

/-- Which entry a full TLB gives up for a new one (R93 states sizes and no choice), by draw (DESIGN CHOICE, log 109). -/
opaque Config.tlbVictim : Nat → Nat

/-- Whether an activation restored by `ctxload` is that of a `loopw`: the image of R207 holds no bit for it (DESIGN CHOICE, log 23). -/
opaque Config.loopForm : Nat → Bool

/-- Whether a host's write to a context page is protected by IDE (R348): the write names the context and the value only, by draw (DESIGN
CHOICE, log 138). -/
opaque Config.hostIde : Nat → Bool

end Sys2Proof
end

