-- ==== Sys2Proof/Syntax.lean ====
section
/-! DEFINITION. The instructions: one constructor for every row of spec/opcode_table.json. Control words follow
spec/09 R128-R139, phase words R140-R142; the rows without a word of their own are the device's steps (spec/95). -/

namespace Sys2Proof

/-- The condition codes of R131. -/
inductive CC where
  | eq | ne | lt | ge | ltu | geu | gt | le | gtu | leu
  deriving DecidableEq, Repr

/-- The access sizes of R130: 1, 2, 4 and 8 bytes. -/
inductive Size where
  | b | h | w | d
  deriving DecidableEq, Repr

/-- The scopes of R107 and R135. -/
inductive Scope where
  | tile | panel | dev | sys
  deriving DecidableEq, Repr

/-- The pred field of a phase word (R140). -/
inductive Pred where
  | always | ifSet | ifClear | ifRunning
  deriving DecidableEq, Repr

/-- The five elements of a tile (R16), in the numbering of R145 and R316. -/
inductive Elem where
  | mx | vx | ls | xb | tk
  deriving DecidableEq, Repr

/-- The operand fields of a VX word (R142). -/
structure VF where
  d : Reg
  a : Reg
  b : Reg
  c : Reg
  k : BitVec 3
  aux : BitVec 5
  rnd : BitVec 2
  deriving DecidableEq, Repr

/-- Who an instruction is executed for: a service-core thread `2·core + thread` (0-31, the security core is 32),
the sequencer thread or the slice engine of a strand of a panel, or a tile of a panel (for a phase word). -/
inductive Party where
  | core (n : Nat)
  | seq (panel strand : Nat)
  | slice (panel strand : Nat)
  | tile (panel t : Nat)
  deriving DecidableEq, Repr

/-- A cache of data lines: a tile's L1 or a service core's (R74), or the L2 sideband store (R82). -/
inductive CacheUnit where
  | tile (panel t : Nat)
  | core (n : Nat)
  | l2
  deriving DecidableEq, Repr

/-- An engine with a queue of commands: a copy channel of a context, a press command, a quilt command, the
pattern loader of a panel, the accesses at the admission of a task, a party's bobbin unit, the generator of an in-stream of a
strand for a tile. -/
inductive EngineId where
  | copy (ctx chan : Nat)
  | press (cmd : Nat)
  | quilt (cmd : Nat)
  | load (panel : Nat)
  | admission (entry : Nat)
  | bobbin (p : Party)
  | stream (panel tile stream : Nat)
  deriving DecidableEq, Repr

/-- The kinds of access of R92 and R94. -/
inductive Access where
  | read | write | exec | amo
  deriving DecidableEq, Repr

/-- The owner of a set of four counters (R197). -/
inductive CounterUnit where
  | panel (p : Nat)
  | core (n : Nat)
  deriving DecidableEq, Repr

/-- Where an error lies: the rows of the table of R326 (a copy in the L2 by its sector, a TLB entry by the unit that holds it and its page), a
completion of the host port with an error status for a page of host memory, from now on or no longer (R340), and the stores that nothing checks
(R310, R351): a result of the press, a register of a tile's VX, an interval of its MX, an entry of its operand latch, a scatter's write in a
strand's log there. -/
inductive ErrorSite where
  | cleanCopy (u : CacheUnit) (line : Nat)
  | instructionCache (p : Party)
  | scratchWord (panel tile off : Nat)
  | coreScratchWord (core off : Nat)
  | logAtPublish (panel strand : Nat)
  | phaseTable (panel : Nat)
  | fabricLink (panel : Nat)
  | sector (pa : Nat)
  | saveSlot (entry : Nat)
  | readout (entry : Nat)
  | patternLoad (panel : Nat)
  | tlbEntry (unit : Nat) (base : Nat)
  | hostPage (page : Nat) (failing : Bool)
  | pressWindow (cmd line : Nat)
  | datapath (panel tile : Nat) (d : Reg)
  | mxDatapath (panel tile : Nat)
  | gatherBuffer (panel tile : Nat) (entry : BitVec 4)
  | scatterBuffer (panel tile strand : Nat)
  deriving DecidableEq, Repr

/-- What a cold reset finds and firmware writes (R352): whether the image's signature verifies, the digest of the boot ROM and of the
image and the image's rollback counter; the failed physical blocks of the dies, the CXL ports that train with the bytes behind each, the
links that train, each link's inbound window (link, first byte, end, seal domain), whether this device is the grandmaster. -/
structure BootConfig where
  verified : Bool
  rom : BitVec 256
  image : BitVec 256
  rollback : Nat
  ports : List (Nat × Nat)
  failed : List Nat
  linksUp : List Nat
  windows : List (Nat × Nat × Nat × Nat)
  grandmaster : Bool
  deriving DecidableEq, Repr

/-- What firmware writes when it enables a context (R353, R354): quota, seal domain, threads, the runtime's thread
and entry address, first-tier groups and second-tier units of 512 MiB. -/
structure ContextConfig where
  ctx : Nat
  quota : BitVec 14
  dom : BitVec 6
  threads : BitVec 32
  runtime : Nat
  entry : Word
  groups : List Nat
  ranges : List Nat
  deriving DecidableEq, Repr

/-- A flit of a seam link (R344, R345): up to 64 payload bytes for an address, with the channel of the copy that sends them; the answer of
the receiver, an acknowledgement or a refusal; the messages of the clock. -/
inductive Flit where
  | payload (ctx chan addr : Nat) (bytes : List Byte)
  | ack (ctx chan : Nat)
  | refusal (ctx chan : Nat)
  | sync
  | followUp (t1 : Nat)
  | delayReq
  | delayResp (t4 : Nat)
  deriving DecidableEq, Repr

/-- A message of the clock at a link (R345): it goes out over the link or comes in. -/
structure LinkEnd where
  link : Nat
  out : Bool
  deriving DecidableEq, Repr

/-- A host's request at the function of a context (R342, R348): under IDE or not. -/
structure HostReq where
  ctx : Nat
  ide : Bool
  deriving DecidableEq, Repr

/-- An SPDM request (R346), in the clear or in the secured session of a context: with a nonce, or with the index of a measurement block. -/
structure SpdmReq where
  session : Option Nat
  value : Nat
  deriving DecidableEq, Repr

/-- What Henid does at the bench (R267, R294, R337): continues a stopped party, loads image bytes, sets a breakpoint of a strand of a task
(the number of its panel in pattern order and the strand) or of a service-core thread, sets a one-shot breakpoint on a row, sets
`set hold all`, notes a task that it launched. -/
inductive HenidCmd where
  | continue_ (p : Party)
  | load (ctx : Nat) (va : Word) (bytes : List Byte)
  | breakStrand (task : BitVec 32) (panel strand : Nat) (pc : Word)
  | breakCore (thread : Nat) (pc : Word)
  | tbreak (panel tile : Nat) (e : Elem) (row : Nat)
  | holdAll (on : Bool)
  | launched (task : BitVec 32)
  | preempt (ctx : Nat) (task : BitVec 32)
  deriving DecidableEq, Repr

/-- The instructions and steps of the part, one constructor per row of spec/opcode_table.json. -/
inductive Instr where
  -- integer and address arithmetic, R161
  | add (d a b : Reg)
  | sub (d a b : Reg)
  | mul (d a b : Reg)
  | mulh (d a b : Reg)
  | mulhu (d a b : Reg)
  | div (d a b : Reg)
  | divu (d a b : Reg)
  | rem (d a b : Reg)
  | remu (d a b : Reg)
  | and (d a b : Reg)
  | or (d a b : Reg)
  | xor (d a b : Reg)
  | andn (d a b : Reg)
  | shl (d a b : Reg)
  | shr (d a b : Reg)
  | sra (d a b : Reg)
  | rol (d a b : Reg)
  | ror (d a b : Reg)
  | clz (d a : Reg)
  | ctz (d a : Reg)
  | popc (d a : Reg)
  | min (d a b : Reg)
  | max (d a b : Reg)
  | minu (d a b : Reg)
  | maxu (d a b : Reg)
  | sel (d a b c : Reg)
  | cmp (cc : CC) (d a b : Reg)
  | lea (d a b : Reg) (s : BitVec 3)
  | bext (d a b : Reg)
  | bins (d a b : Reg)
  -- immediate forms, R162
  | addi (d a : Reg) (imm : BitVec 16)
  | muli (d a : Reg) (imm : BitVec 16)
  | andi (d a : Reg) (imm : BitVec 16)
  | ori (d a : Reg) (imm : BitVec 16)
  | xori (d a : Reg) (imm : BitVec 16)
  | shli (d a : Reg) (sh : BitVec 6)
  | shri (d a : Reg) (sh : BitVec 6)
  | srai (d a : Reg) (sh : BitVec 6)
  | rori (d a : Reg) (sh : BitVec 6)
  | cmpi (cc : CC) (d a : Reg) (imm : BitVec 12)
  | mini (d a : Reg) (imm : BitVec 16)
  | maxi (d a : Reg) (imm : BitVec 16)
  | minui (d a : Reg) (imm : BitVec 16)
  | maxui (d a : Reg) (imm : BitVec 16)
  | movi (d : Reg) (imm : BitVec 49)
  -- control registers, R205
  | cget (d : Reg) (n : BitVec 16)
  | cset (a : Reg) (n : BitVec 16)
  -- loads, stores and scratch forms, R170-R172
  | ld (sz : Size) (d a : Reg) (off : BitVec 14)
  | ldZ (sz : Size) (d a : Reg) (off : BitVec 14)
  | st (sz : Size) (d a : Reg) (off : BitVec 14)
  | ldS (sz : Size) (d a : Reg) (off : BitVec 14)
  | ldSZ (sz : Size) (d a : Reg) (off : BitVec 14)
  | stS (sz : Size) (d a : Reg) (off : BitVec 14)
  | stfill (d a : Reg) (off : BitVec 14)
  | ldsync (d a : Reg) (off : BitVec 14)
  | ldsyncE (d a : Reg) (off : BitVec 14)
  -- cache maintenance, R173
  | prefetch (a : Reg) (off : BitVec 14)
  | clean (a : Reg) (off : BitVec 14)
  | flush (a : Reg) (off : BitVec 14)
  | inval (a : Reg) (off : BitVec 14)
  | invalI
  -- flow and hardware loops, R163-R169
  | br (off : BitVec 26)
  | jal (off : BitVec 26)
  | jalr (d a : Reg) (imm : BitVec 16)
  | bcc (cc : CC) (a b : Reg) (off : BitVec 12)
  | lexit (cc : CC) (a b : Reg) (slot : BitVec 2)
  | loop (slot : BitVec 2) (a : Reg) (e : BitVec 15) (bound : BitVec 24)
  | loopw (slot : BitVec 2) (e : BitVec 15) (bound : BitVec 24)
  | nop
  | fin
  -- traps, returns and system forms, R204-R207
  | trap (a : Reg)
  | eret
  | tlbinv (a b : Reg)
  | tlbinvComplete (p : Party)
  | ctxsave (a : Reg)
  | ctxload (a : Reg)
  -- service-core vector forms, R208-R211
  | vld (d a : Reg) (off : BitVec 14)
  | vst (d a : Reg) (off : BitVec 14)
  | vgather (d a b : Reg)
  | vscatter (d a b : Reg)
  | vmovg (d a b : Reg)
  | vmovz (d a b : Reg)
  | vop (op : BitVec 5) (w : BitVec 30)
  -- synchronisation, R174
  | bind (a b c : Reg)
  | unbind (c : Reg)
  | acq (sc : Scope) (sz : Size) (a b : Reg)
  | rel (sc : Scope) (sz : Size) (a b : Reg)
  | fence (sc : Scope)
  -- barriers and time, R177
  | bar (sc : Scope) (a b c : Reg)
  | gbar (c : Reg)
  | gbarM (c : Reg)
  | tickget (a : Reg)
  | tickwait (a b : Reg)
  -- atomics, R175-R176; wide = 8 bytes
  | amoAdd (wide : Bool) (a b c : Reg)
  | amoAnd (wide : Bool) (a b c : Reg)
  | amoOr (wide : Bool) (a b c : Reg)
  | amoXor (wide : Bool) (a b c : Reg)
  | amoMin (wide : Bool) (a b c : Reg)
  | amoMax (wide : Bool) (a b c : Reg)
  | amoSwap (wide : Bool) (a b c : Reg)
  | amoCas (wide : Bool) (a b c : Reg)
  | amoFadd (a b c : Reg)
  -- block transfer, R178-R184
  | bttpl (a b : Reg)
  | apertureStore (d a : Reg) (off : BitVec 14)
  | copyStatusLoad (d a : Reg) (off : BitVec 14)
  | waitw (a b c : Reg)
  | pinwait (a b c : Reg)
  -- the bobbin unit, R185-R190
  | bdraw (a b c : Reg)
  | bdrawv (a b c : Reg)
  | bseed (a b : Reg)
  | bspool (a : Reg)
  | bspsave (a : Reg)
  | bmode (a : Reg)
  -- the quilt, R290
  | qinit (a c : Reg)
  | qapp (a b c : Reg)
  | qdesc (a b c : Reg)
  | qsplit (a b c : Reg)
  | qmerge (a b c : Reg)
  | qfork (a b c : Reg)
  | qevict (a b c : Reg)
  | qmark (a c : Reg)
  | qtrim (a c : Reg)
  | qstat (a b c : Reg)
  | qfree (a c : Reg)
  | nodeStep (cmd : Nat)
  | quiltCommandComplete (cmd : Nat)
  -- the press, R296
  | prcopy (a b c : Reg)
  | prfill (a b c : Reg)
  | prand (a b c : Reg)
  | pror (a b c : Reg)
  | prxor (a b c : Reg)
  | prnot (a b c : Reg)
  | pressCommandComplete (cmd : Nat)
  -- tasks and graphs, R194-R196
  | tsub (a b : Reg)
  | tdep (a b c : Reg)
  | gpset (a b c : Reg)
  | gpget (a b c : Reg)
  -- fabric commands, R253-R258
  | ldpat (a : Reg)
  | loadComplete (panel : Nat)
  | arm (a : Reg)
  | disarm
  | sgo (a : Reg)
  | sstop (a : Reg)
  | sspec (stream : BitVec 4) (ag : BitVec 2) (a : Reg) (entry : BitVec 11) (disp : BitVec 32)
  | slice (a b : Reg)
  | cond (a b : Reg)
  | tack (a : Reg)
  | tkwait (a b : Reg)
  | commit
  | mxhint (a : Reg)
  | cpost (a : Reg)
  -- counters, fitting, chalk, R199-R202, R336
  | pmsel (a b c : Reg)
  | pmrd (a b : Reg)
  | pmclr (a : Reg)
  | fitbeg (a b : Reg)
  | fitend (a : Reg)
  | fitstat (a b c : Reg)
  | chalk (a b : Reg)
  | chalkFire (ctx : Nat)
  | chalkLatch (ctx : Nat)
  -- matrix words, R228-R234
  | mxNop (p : Pred)
  | mxLd (p : Pred) (n : BitVec 4)
  | mxMm (p : Pred) (acc : BitVec 3) (row : BitVec 4)
  | mxMmg (p : Pred) (acc : BitVec 3) (row j : BitVec 4)
  | mxAcz (p : Pred) (mask : BitVec 8)
  | mxAcrd (p : Pred) (acc : BitVec 3) (row : BitVec 4) (w : Bool)
  | mxScl (p : Pred)
  | mxFmt (p : Pred) (fa fb : BitVec 5)
  | mxAcsv (p : Pred) (acc : BitVec 3) (row : BitVec 4) (i : BitVec 12)
  | mxAcld (p : Pred) (acc : BitVec 3) (row : BitVec 4) (i : BitVec 12)
  | intervalComplete (panel tile : Nat)
  | rampUpDone (panel : Nat)
  | rampDown (panel tile : Nat)
  | mxhintRampStart (panel : Nat)
  -- vector words, R235-R242
  | vadd (p : Pred) (f : VF)
  | vsub (p : Pred) (f : VF)
  | vmul (p : Pred) (f : VF)
  | vfma (p : Pred) (f : VF)
  | vmax (p : Pred) (f : VF)
  | vmin (p : Pred) (f : VF)
  | vexp2 (p : Pred) (f : VF)
  | vlog2 (p : Pred) (f : VF)
  | vrcp (p : Pred) (f : VF)
  | vrsq (p : Pred) (f : VF)
  | vcvt (p : Pred) (f : VF)
  | vcmp (p : Pred) (f : VF)
  | vsel (p : Pred) (f : VF)
  | vand (p : Pred) (f : VF)
  | vor (p : Pred) (f : VF)
  | vxor (p : Pred) (f : VF)
  | vshl (p : Pred) (f : VF)
  | vshr (p : Pred) (f : VF)
  | vperm (p : Pred) (f : VF)
  | vscan (p : Pred) (f : VF)
  | vred (p : Pred) (f : VF)
  | vbcast (p : Pred) (f : VF)
  | vpack (p : Pred) (f : VF)
  | vunpack (p : Pred) (f : VF)
  | vmov (p : Pred) (f : VF)
  | vmovIn (p : Pred) (f : VF)
  | vmovOut (p : Pred) (f : VF)
  | vidx (p : Pred) (f : VF)
  | vcount (p : Pred) (f : VF)
  | vminmax (p : Pred) (f : VF)
  -- scratchpad words, R243-R247
  | lsRd (p : Pred) (idx : BitVec 12) (ctr sh : BitVec 3)
  | lsWr (p : Pred) (idx : BitVec 12) (ctr sh : BitVec 3)
  | lsG (p : Pred) (vi : Reg) (base : BitVec 12)
  | gatherEntryWrite (panel tile : Nat)
  | lsS (p : Pred) (vd vi : Reg) (base : BitVec 12)
  | lsFe (p : Pred) (idx : BitVec 12) (wd : BitVec 3)
  | lsUpd (p : Pred) (idx : BitVec 12) (ctr sh op : BitVec 3)
  -- crossbar words, R225-R227
  | xbRoute (p : Pred) (srcA : BitVec 4) (outsA : BitVec 8) (srcB : BitVec 4) (outsB : BitVec 8) (stream : BitVec 4)
  | xbEase (p : Pred) (n e s w mx vx ls : BitVec 4)
  | xbHold (p : Pred) (src q : BitVec 4)
  -- counter, tack and schedule words, R248-R252
  | tkNop (p : Pred)
  | tkCnt (p : Pred) (c : BitVec 2) (field : BitVec 3) (value : BitVec 24)
  | tkCntTick (p : Pred)
  | tkSend (p : Pred) (ch : BitVec 4)
  | tkWait (p : Pred) (ch : BitVec 4) (n : BitVec 12)
  | tkSel (p : Pred) (src : BitVec 2) (n : BitVec 12)
  | tkStitch (p : Pred)
  -- steps that the model's own order of a fabric cycle takes (R20-R39, R99, R321, R329)
  | placementArm (panel : Nat)
  | preparationComplete (panel : Nat)
  | taskReady (entry : Nat)
  | garmentDone (entry : Nat)
  | taskEnd (entry : Nat)
  | fittingPassEnd (entry : Nat)
  | replayBegin (ctx : Nat)
  | replayEnd (ctx : Nat)
  | apply (slice : Nat)
  | engineRead (e : EngineId) (part : Nat)
  | engineWrite (e : EngineId) (part : Nat)
  | completionWordWrite (e : EngineId)
  | waitSatisfied (p : Party)
  | waitTimeout (p : Party)
  | trapEntry (ctx : Nat)
  | freeze (entry : Nat)
  | readoutComplete (entry : Nat)
  | unassignedOpcode (w : W32)
  -- steps of a panel
  | publishSearchDone (panel : Nat)
  | tackArrive (panel : Nat) (ch : Nat)
  | wheelAdvance (panel : Nat)
  | streamBeatArrive (panel tile stream : Nat)
  -- the clock, R99, R345
  | tick
  | sync (link : LinkEnd)
  | followUp (link : LinkEnd) (t1 : Nat)
  | delayReq (link : LinkEnd)
  | delayResp (link : Nat) (t4 : Nat)
  -- dispatcher and Marker, R20-R39, R77, R193, R202
  | markerStep
  | greplayWrite (ctx : Nat) (v : Word)
  -- steps of the reference machine, R99
  | drain (panel tile : Nat) (line : Nat)
  | fill (u : CacheUnit) (line : Nat)
  | evict (u : CacheUnit) (line : Nat)
  | pageWalk (unit ctx priv : Nat) (acc : Access) (va : Word)
  -- traps, pre-emption, R321, R328-R329
  | preemptRequest (ctx : Nat) (v : Word)
  -- writes of control and page registers
  | ptrootWrite (ctx : Nat) (v : Word)
  | frtWrite (n : Nat) (which : BitVec 2) (v : Word)
  | hbmMapWrite (reg : BitVec 16) (v : Word)
  | loopRegisterWrite (p : Party) (slot field : BitVec 2) (v : Word)
  | tvecWrite (ctx : Nat) (v : Word)
  | registerWrite (p : Party) (ctx : Nat) (reg : BitVec 16) (v : Word)
  | fsumWrite (ctx : Nat) (v : Word)
  | cpolWrite (ctx : Nat) (v : Word)
  | slognWrite (ctx : Nat) (v : Word)
  -- the host, firmware and the outside world, chapter 21
  | hostWindowRead (req : HostReq) (off : BitVec 36) (n : Nat)
  | hostWindowWrite (req : HostReq) (off : BitVec 36) (bytes : List Byte)
  | flr (ctx : Nat)
  | flrComplete (ctx : Nat)
  | coldReset (cfg : BootConfig)
  | contextEnable (cfg : ContextConfig)
  | contextDisable (ctx : Nat)
  | flitReceive (link : Nat) (flit : Flit) (authOk : Bool) (crcOk : Bool)
  | linkDown (link : Nat)
  | linkRekey (link : Nat)
  | cert
  | chal (req : SpdmReq)
  | meas (req : SpdmReq)
  | keyEx (ctx : Nat)
  | sealKeyInstall (ctx : Nat) (dom : BitVec 6)
  | thermalClamp (block : Nat)
  | thermalRelease (block : Nat)
  | selfRefresh (stack pc : Nat)
  | uncorrectableError (site : ErrorSite)
  | fetchFault
  | publishDone (panel : Nat)
  | refreshCycle (stack pc : Nat)
  | secdedCorrection (u : CounterUnit)
  | tdispRequest (vf : Nat) (run : Bool)
  | henidContinue (c : HenidCmd)
  deriving DecidableEq, Repr

end Sys2Proof
end

