-- ==== Sys2Proof/WellFormed.lean ====
section
/-! DEFINITION. The instructions that have an encoding: the conditions under which a control word is assigned (R132-R139)
and under which `arm` accepts a phase word whatever the panel (R143, R225-R251). -/

namespace Sys2Proof

/-- The element types of a VX operation (R235). -/
inductive Ty where
  | f32 | s32 | u32
  deriving DecidableEq, Repr

/-- The ty code of aux[1:0]; 0b11 is refused (R235). -/
def tyOf (aux : BitVec 5) : Option Ty :=
  match (aux.extractLsb' 0 2).toNat with
  | 0 => some .f32
  | 1 => some .s32
  | 2 => some .u32
  | _ => none

/-- aux holds a ty code and nothing above it. -/
def auxIsTy (aux : BitVec 5) : Bool := (tyOf aux).isSome && aux.extractLsb' 2 3 == 0#3

/-- A nonzero rnd is read on f32 only (R235). -/
def rndFits (f : VF) : Bool := tyOf f.aux == some .f32 || f.rnd == 0#2

/-- A format code is assigned: 0x00 to 0x18 (R47). -/
def fmtAssigned (c : BitVec 5) : Bool := decide (c.toNat ≤ 0x18)

/-- A format code is block-scaled: 0x12 to 0x18 (R47). -/
def fmtScaled (c : BitVec 5) : Bool := decide (0x12 ≤ c.toNat ∧ c.toNat ≤ 0x18)

/-- The MX width class of a format code: the products per cell, 8, 4 or 2 (R47, R61). -/
def mxClass (c : BitVec 5) : Option Nat :=
  match c.toNat with
  | 0x00 | 0x01 | 0x08 | 0x12 | 0x13 => some 8
  | 0x02 | 0x03 | 0x09 | 0x0A | 0x0B | 0x0C | 0x14 | 0x15 | 0x16 | 0x17 | 0x18 => some 4
  | 0x04 | 0x05 | 0x0D | 0x0E => some 2
  | _ => none

/-- The scan and reduction operations of R239: op in aux[4:2] is below 6, and ops 3 to 5 require u32. -/
def redFits (aux : BitVec 5) : Bool :=
  let op := (aux.extractLsb' 2 3).toNat
  decide (op < 6) && (tyOf aux).isSome && (decide (op < 3) || tyOf aux == some .u32)

/-- The part counts of R242. -/
def packParts (wc : Nat) : Nat :=
  match wc with
  | 0 => 8
  | 1 => 4
  | 2 => 2
  | _ => 5

/-- The opcode of a VX word with its fields: the fields it does not read are zero and the codes it reads are assigned
(R143, R235-R242). Opcode 0x18 is `vmov` in its three forms. -/
def vxFits (op : Nat) (f : VF) : Bool :=
  match op with
  | 0x00 | 0x01 | 0x02 => f.c == 0#5 && auxIsTy f.aux && rndFits f
  | 0x03 => auxIsTy f.aux && rndFits f
  | 0x04 | 0x05 => f.c == 0#5 && auxIsTy f.aux && f.rnd == 0#2
  | 0x06 | 0x07 | 0x08 | 0x09 => f.b == 0#5 && f.c == 0#5 && f.aux == 0#5 && f.rnd == 0#2
  | 0x0A => fmtAssigned f.aux && fmtAssigned f.c && decide (f.k.toNat ≤ 1) &&
      (fmtScaled f.aux || fmtScaled f.c || f.b == 0#5)
  | 0x0B => f.c == 0#5 && f.rnd == 0#2 && (tyOf f.aux).isSome && decide ((f.aux.extractLsb' 2 3).toNat < 6) &&
      !f.d.getLsbD 3
  | 0x0C | 0x0D | 0x0E | 0x0F | 0x10 | 0x12 => f.c == 0#5 && f.aux == 0#5 && f.rnd == 0#2
  | 0x11 => f.c == 0#5 && (f.aux == 1#5 || f.aux == 2#5) && f.rnd == 0#2
  | 0x13 | 0x14 => f.b == 0#5 && f.c == 0#5 && redFits f.aux && f.rnd == 0#2
  | 0x15 => f.b == 0#5 && f.c == 0#5 && !f.aux.getLsbD 4 && f.rnd == 0#2
  | 0x16 | 0x17 => f.b == 0#5 && f.c == 0#5 && f.k == 0#3 && f.rnd == 0#2 &&
      decide ((f.aux.extractLsb' 2 3).toNat < packParts (f.aux.extractLsb' 0 2).toNat)
  | 0x18 => f.b == 0#5 && f.c == 0#5 && f.rnd == 0#2 &&
      (f.aux == 0#5 || (f.aux == 1#5 && f.a == 0#5) || (f.aux == 2#5 && f.d == 0#5 && f.k == 0#3))
  | 0x19 => f.a == 0#5 && f.b == 0#5 && f.c == 0#5 && f.aux == 0#5 && f.rnd == 0#2
  | 0x1A => f.a == 0#5 && f.b == 0#5 && f.c == 0#5 && f.aux == 0#5 && f.rnd == 0#2
  | 0x1B => f.b == 0#5 && f.c == 0#5 && f.k == 0#3 && f.rnd == 0#2 &&
      decide (1 ≤ (f.aux.extractLsb' 2 3).toNat ∧ (f.aux.extractLsb' 2 3).toNat ≤ 4 ∧
        (f.aux.extractLsb' 0 2).toNat < (f.aux.extractLsb' 2 3).toNat)
  | _ => false

/-- The operand fields of 30 bits of a VX word (R142). -/
def VF.ofBits (w : BitVec 30) : VF where
  d := w.extractLsb' 25 5
  a := w.extractLsb' 20 5
  b := w.extractLsb' 15 5
  c := w.extractLsb' 10 5
  k := w.extractLsb' 7 3
  aux := w.extractLsb' 2 5
  rnd := w.extractLsb' 0 2

/-- The 30 operand bits of a VX word (R142). -/
def VF.bits (f : VF) : BitVec 30 := f.d ++ f.a ++ f.b ++ f.c ++ f.k ++ f.aux ++ f.rnd

/-- The VX operations that `vop` performs (R211): `vmov` with aux 0 only, and no condition bit in `vcmp`. -/
def vopFits (op : BitVec 5) (w : BitVec 30) : Bool :=
  let f := VF.ofBits w
  vxFits op.toNat f && !(op == 0x18#5 && f.aux != 0#5) && !(op == 0x0B#5 && f.d.getLsbD 4)

/-- The counter field of an LS word names no counter above 3 (R243). -/
def ctrFits (ctr : BitVec 3) : Bool := decide (ctr.toNat ≤ 4)

/-- The groups of a crossbar word (R225): sources 0 to 8, or 0xF with no output; no output in both groups; a stream
only where a group uses st. -/
def routeFits (srcA : BitVec 4) (outsA : BitVec 8) (srcB : BitVec 4) (outsB : BitVec 8) (stream : BitVec 4) : Bool :=
  (decide (srcA.toNat ≤ 8) || (srcA == 0xF#4 && outsA == 0#8)) &&
  (decide (srcB.toNat ≤ 8) || (srcB == 0xF#4 && outsB == 0#8)) &&
  (outsA &&& outsB == 0#8) &&
  (stream == 0#4 || srcA == 7#4 || srcB == 7#4 || outsA.getLsbD 7 || outsB.getLsbD 7)

/-- The value of a `tk.cnt` word fits its field (R248). -/
def cntFits (c : BitVec 2) (field : BitVec 3) (value : BitVec 24) : Bool :=
  match field.toNat with
  | 0 | 1 => true
  | 2 => value.extractLsb' 16 8 == 0#8 && value.extractLsb' 0 16 != 0#16
  | 3 => c == 0#2 && value.extractLsb' 0 14 == 0#14
  | _ => false

/-- The instruction has an encoding. The device's steps, which have none, are well-formed. A route's q of an `xb.hold` whose source is no
stream, and the shift of an LS word with ctr = 0, may hold any value (R143; DESIGN CHOICE, log 130). -/
def Instr.wf : Instr → Bool
  | .ldZ sz _ _ _ => sz != .d
  | .ldSZ sz _ _ _ => sz != .d
  | .vop op w => vopFits op w
  | .mxAcz _ mask => mask != 0#8
  | .mxFmt _ fa fb => (mxClass fa).isSome && mxClass fa == mxClass fb
  | .vadd _ f => vxFits 0x00 f
  | .vsub _ f => vxFits 0x01 f
  | .vmul _ f => vxFits 0x02 f
  | .vfma _ f => vxFits 0x03 f
  | .vmax _ f => vxFits 0x04 f
  | .vmin _ f => vxFits 0x05 f
  | .vexp2 _ f => vxFits 0x06 f
  | .vlog2 _ f => vxFits 0x07 f
  | .vrcp _ f => vxFits 0x08 f
  | .vrsq _ f => vxFits 0x09 f
  | .vcvt _ f => vxFits 0x0A f
  | .vcmp _ f => vxFits 0x0B f
  | .vsel _ f => vxFits 0x0C f
  | .vand _ f => vxFits 0x0D f
  | .vor _ f => vxFits 0x0E f
  | .vxor _ f => vxFits 0x0F f
  | .vshl _ f => vxFits 0x10 f
  | .vshr _ f => vxFits 0x11 f
  | .vperm _ f => vxFits 0x12 f
  | .vscan _ f => vxFits 0x13 f
  | .vred _ f => vxFits 0x14 f
  | .vbcast _ f => vxFits 0x15 f
  | .vpack _ f => vxFits 0x16 f
  | .vunpack _ f => vxFits 0x17 f
  | .vmov _ f => vxFits 0x18 f && f.aux == 0#5
  | .vmovIn _ f => vxFits 0x18 f && f.aux == 1#5
  | .vmovOut _ f => vxFits 0x18 f && f.aux == 2#5
  | .vidx _ f => vxFits 0x19 f
  | .vcount _ f => vxFits 0x1A f
  | .vminmax _ f => vxFits 0x1B f
  | .lsRd _ _ ctr _ => ctrFits ctr
  | .lsWr _ _ ctr _ => ctrFits ctr
  | .lsUpd _ _ ctr _ _ => ctrFits ctr
  | .xbRoute _ sa oa sb ob strm => routeFits sa oa sb ob strm
  | .xbHold _ src _ => decide (src.toNat ≤ 7)
  | .tkCnt _ c field value => cntFits c field value
  | .tkSel _ src n => src == 0#2 || n == 0#12
  | _ => true

end Sys2Proof
end

