-- ==== Sys2Proof/Decode.lean ====
section
/-! DEFINITION. The decoder and the encoder of control words (R128-R137) and phase words (R140-R142). A word is
assigned exactly when it is the encoding of a well-formed instruction, so a must-be-zero field or bit that is nonzero
is refused in the same way as an unassigned code (R139 line 1, R143). -/

namespace Sys2Proof

/-- What an instruction is stored as: a control word of 32 or 64 bits, a phase word of 40, or nothing (a step of the
device that no word stands for). -/
inductive Enc where
  | w32 (w : W32)
  | w64 (w0 w1 : W32)
  | w40 (w : BitVec 40)
  | none
  deriving DecidableEq, Repr

/-! ## Formats (R129, R136, R140) -/

/-- Format R: op, d, a, b, fn. -/
def packR (op : BitVec 6) (d a b : Reg) (fn : BitVec 11) : W32 := op ++ d ++ a ++ b ++ fn

/-- Format I: op, d, a, imm16. -/
def packI (op : BitVec 6) (d a : Reg) (imm : BitVec 16) : W32 := op ++ d ++ a ++ imm

/-- Format M: op, d, a, size, offset. -/
def packM (op : BitVec 6) (d a : Reg) (sz : BitVec 2) (off : BitVec 14) : W32 := op ++ d ++ a ++ sz ++ off

/-- Format B: op, cc, a, b, off12. -/
def packB (op : BitVec 6) (cc : BitVec 4) (a b : Reg) (off : BitVec 12) : W32 := op ++ cc ++ a ++ b ++ off

/-- Format E: op 0x30, engine, fn, a, b, c, so. -/
def packE (engine : BitVec 4) (fn : BitVec 5) (a b c : Reg) (so : BitVec 2) : W32 :=
  0x30#6 ++ engine ++ fn ++ a ++ b ++ c ++ so

/-- Format J: op, off26. -/
def packJ (op : BitVec 6) (off : BitVec 26) : W32 := op ++ off

/-- Format X, first word: 0x3F, kind, payload. -/
def packX (kind : BitVec 4) (payload : BitVec 22) : W32 := 0x3F#6 ++ kind ++ payload

/-- A phase word: kind, opcode, pred, operands. -/
def packP (kind : BitVec 3) (opcode : BitVec 5) (pred : BitVec 2) (ops : BitVec 30) : BitVec 40 :=
  kind ++ opcode ++ pred ++ ops

/-! ## Codes -/

/-- The code of a condition (R131). -/
def CC.code : CC → BitVec 4
  | .eq => 0 | .ne => 1 | .lt => 2 | .ge => 3 | .ltu => 4 | .geu => 5 | .gt => 6 | .le => 7 | .gtu => 8 | .leu => 9

/-- The condition of a code; 0xA to 0xF are unassigned (R131). -/
def CC.ofCode (c : BitVec 4) : Option CC :=
  match c.toNat with
  | 0 => some .eq | 1 => some .ne | 2 => some .lt | 3 => some .ge | 4 => some .ltu | 5 => some .geu
  | 6 => some .gt | 7 => some .le | 8 => some .gtu | 9 => some .leu | _ => none

/-- The code of a size (R130). -/
def Size.code : Size → BitVec 2
  | .b => 0 | .h => 1 | .w => 2 | .d => 3

/-- The size of a code (R130). -/
def Size.ofCode (c : BitVec 2) : Size :=
  match c.toNat with
  | 0 => .b | 1 => .h | 2 => .w | _ => .d

/-- The bytes of an access of a size (R130). -/
def Size.bytes : Size → Nat
  | .b => 1 | .h => 2 | .w => 4 | .d => 8

/-- The code of a scope (R135). -/
def Scope.code : Scope → BitVec 2
  | .tile => 0 | .panel => 1 | .dev => 2 | .sys => 3

/-- The scope of a code (R135). -/
def Scope.ofCode (c : BitVec 2) : Scope :=
  match c.toNat with
  | 0 => .tile | 1 => .panel | 2 => .dev | _ => .sys

/-- The code of a pred field (R140). -/
def Pred.code : Pred → BitVec 2
  | .always => 0 | .ifSet => 1 | .ifClear => 2 | .ifRunning => 3

/-- The pred field of a code (R140). -/
def Pred.ofCode (c : BitVec 2) : Pred :=
  match c.toNat with
  | 0 => .always | 1 => .ifSet | 2 => .ifClear | _ => .ifRunning

/-- The kind code of an element's phase words (R140). -/
def Elem.kind : Elem → BitVec 3
  | .mx => 1 | .vx => 2 | .ls => 3 | .xb => 4 | .tk => 5

/-- The so field of an atomic: 0b10 is 4 bytes, 0b11 is 8 bytes (R135). -/
def amoSo (wide : Bool) : BitVec 2 := if wide then 3#2 else 2#2

/-- The scope form's register field of `acq` and `rel`: bits 6:4 zero, bits 3:2 the size (R135). -/
def sizeField (sz : Size) : Reg := 0#3 ++ sz.code

/-! ## The encoder -/

/-- How an instruction is stored: the encodings of R133-R142. -/
def Instr.encode : Instr → Enc
  | .add d a b => .w32 (packR 0x01 d a b 0x000)
  | .sub d a b => .w32 (packR 0x01 d a b 0x001)
  | .mul d a b => .w32 (packR 0x01 d a b 0x002)
  | .mulh d a b => .w32 (packR 0x01 d a b 0x003)
  | .mulhu d a b => .w32 (packR 0x01 d a b 0x004)
  | .div d a b => .w32 (packR 0x01 d a b 0x005)
  | .divu d a b => .w32 (packR 0x01 d a b 0x006)
  | .rem d a b => .w32 (packR 0x01 d a b 0x007)
  | .remu d a b => .w32 (packR 0x01 d a b 0x008)
  | .and d a b => .w32 (packR 0x01 d a b 0x009)
  | .or d a b => .w32 (packR 0x01 d a b 0x00A)
  | .xor d a b => .w32 (packR 0x01 d a b 0x00B)
  | .andn d a b => .w32 (packR 0x01 d a b 0x00C)
  | .shl d a b => .w32 (packR 0x01 d a b 0x00D)
  | .shr d a b => .w32 (packR 0x01 d a b 0x00E)
  | .sra d a b => .w32 (packR 0x01 d a b 0x00F)
  | .rol d a b => .w32 (packR 0x01 d a b 0x010)
  | .ror d a b => .w32 (packR 0x01 d a b 0x011)
  | .clz d a => .w32 (packR 0x01 d a 0 0x012)
  | .ctz d a => .w32 (packR 0x01 d a 0 0x013)
  | .popc d a => .w32 (packR 0x01 d a 0 0x014)
  | .min d a b => .w32 (packR 0x01 d a b 0x015)
  | .max d a b => .w32 (packR 0x01 d a b 0x016)
  | .minu d a b => .w32 (packR 0x01 d a b 0x017)
  | .maxu d a b => .w32 (packR 0x01 d a b 0x018)
  | .sel d a b c => .w32 (packR 0x01 d a b (c ++ 0x19#6))
  | .cmp cc d a b => .w32 (packR 0x01 d a b (0#1 ++ cc.code ++ 0x1A#6))
  | .lea d a b s => .w32 (packR 0x01 d a b (0#2 ++ s ++ 0x1B#6))
  | .bext d a b => .w32 (packR 0x01 d a b 0x01C)
  | .bins d a b => .w32 (packR 0x01 d a b 0x01D)
  | .addi d a imm => .w32 (packI 0x02 d a imm)
  | .muli d a imm => .w32 (packI 0x03 d a imm)
  | .andi d a imm => .w32 (packI 0x04 d a imm)
  | .ori d a imm => .w32 (packI 0x05 d a imm)
  | .xori d a imm => .w32 (packI 0x06 d a imm)
  | .mini d a imm => .w32 (packI 0x0C d a imm)
  | .maxi d a imm => .w32 (packI 0x0D d a imm)
  | .minui d a imm => .w32 (packI 0x0E d a imm)
  | .maxui d a imm => .w32 (packI 0x0F d a imm)
  | .shli d a sh => .w32 (packI 0x07 d a (0#10 ++ sh))
  | .shri d a sh => .w32 (packI 0x08 d a (0#10 ++ sh))
  | .srai d a sh => .w32 (packI 0x09 d a (0#10 ++ sh))
  | .rori d a sh => .w32 (packI 0x0A d a (0#10 ++ sh))
  | .cmpi cc d a imm => .w32 (packI 0x0B d a (cc.code ++ imm))
  | .movi d imm => .w64 (packX 0 (d ++ imm.extractLsb' 32 17)) (imm.extractLsb' 0 32)
  | .cget d n => .w32 (packI 0x10 d 0 n)
  | .cset a n => .w32 (packI 0x11 0 a n)
  | .ld sz d a off => .w32 (packM 0x12 d a sz.code off)
  | .ldZ sz d a off => .w32 (packM 0x13 d a sz.code off)
  | .st sz d a off => .w32 (packM 0x14 d a sz.code off)
  | .ldS sz d a off => .w32 (packM 0x15 d a sz.code off)
  | .ldSZ sz d a off => .w32 (packM 0x16 d a sz.code off)
  | .stS sz d a off => .w32 (packM 0x17 d a sz.code off)
  | .stfill d a off => .w32 (packM 0x18 d a 3 off)
  | .ldsync d a off => .w32 (packM 0x19 d a 3 off)
  | .ldsyncE d a off => .w32 (packM 0x1A d a 3 off)
  | .prefetch a off => .w32 (packM 0x1B 0 a 0 off)
  | .clean a off => .w32 (packM 0x1B 1 a 0 off)
  | .flush a off => .w32 (packM 0x1B 2 a 0 off)
  | .inval a off => .w32 (packM 0x1B 3 a 0 off)
  | .invalI => .w32 (packM 0x1B 4 0 0 0)
  | .br off => .w32 (packJ 0x1C off)
  | .jal off => .w32 (packJ 0x1D off)
  | .jalr d a imm => .w32 (packI 0x1E d a imm)
  | .bcc cc a b off => .w32 (packB 0x1F cc.code a b off)
  | .lexit cc a b slot => .w32 (packB 0x20 cc.code a b (0#10 ++ slot))
  | .loop slot a e bound => .w64 (packX 3 (slot ++ a ++ e)) (0#8 ++ bound)
  | .loopw slot e bound => .w64 (packX 4 (slot ++ 0#5 ++ e)) (0#8 ++ bound)
  | .nop => .w32 (packR 0x21 0 0 0 0)
  | .fin => .w32 (packR 0x21 0 0 0 1)
  | .trap a => .w32 (packR 0x21 0 a 0 2)
  | .eret => .w32 (packR 0x21 0 0 0 3)
  | .tlbinv a b => .w32 (packR 0x21 0 a b 4)
  | .ctxsave a => .w32 (packR 0x21 0 a 0 5)
  | .ctxload a => .w32 (packR 0x21 0 a 0 6)
  | .vld d a off => .w32 (packM 0x22 d a 0 off)
  | .vst d a off => .w32 (packM 0x23 d a 0 off)
  | .vgather d a b => .w32 (packR 0x24 d a b 0)
  | .vscatter d a b => .w32 (packR 0x24 d a b 1)
  | .vmovg d a b => .w32 (packR 0x24 d a b 2)
  | .vmovz d a b => .w32 (packR 0x24 d a b 3)
  | .vop op w => .w64 (packX 2 (op ++ 0#17)) (0#2 ++ w)
  | .bind a b c => .w32 (packE 0 0 a b c 0)
  | .unbind c => .w32 (packE 0 1 0 0 c 0)
  | .acq sc sz a b => .w32 (packE 0 2 a b (sizeField sz) sc.code)
  | .rel sc sz a b => .w32 (packE 0 3 a b (sizeField sz) sc.code)
  | .fence sc => .w32 (packE 0 4 0 0 0 sc.code)
  | .bar sc a b c => .w32 (packE 1 0 a b c sc.code)
  | .gbar c => .w32 (packE 1 1 0 0 c 0)
  | .gbarM c => .w32 (packE 1 2 0 0 c 0)
  | .tickget a => .w32 (packE 1 3 a 0 0 0)
  | .tickwait a b => .w32 (packE 1 4 a b 0 0)
  | .amoAdd wide a b c => .w32 (packE 2 0 a b c (amoSo wide))
  | .amoAnd wide a b c => .w32 (packE 2 1 a b c (amoSo wide))
  | .amoOr wide a b c => .w32 (packE 2 2 a b c (amoSo wide))
  | .amoXor wide a b c => .w32 (packE 2 3 a b c (amoSo wide))
  | .amoMin wide a b c => .w32 (packE 2 4 a b c (amoSo wide))
  | .amoMax wide a b c => .w32 (packE 2 5 a b c (amoSo wide))
  | .amoSwap wide a b c => .w32 (packE 2 6 a b c (amoSo wide))
  | .amoCas wide a b c => .w32 (packE 2 7 a b c (amoSo wide))
  | .amoFadd a b c => .w32 (packE 2 8 a b c 2)
  | .bttpl a b => .w32 (packE 3 0 a b 0 0)
  | .waitw a b c => .w32 (packE 3 1 a b c 0)
  | .pinwait a b c => .w32 (packE 3 2 a b c 0)
  | .bdraw a b c => .w32 (packE 4 0 a b c 0)
  | .bdrawv a b c => .w32 (packE 4 1 a b c 0)
  | .bseed a b => .w32 (packE 4 2 a b 0 0)
  | .bspool a => .w32 (packE 4 3 a 0 0 0)
  | .bspsave a => .w32 (packE 4 4 a 0 0 0)
  | .bmode a => .w32 (packE 4 5 a 0 0 0)
  | .qinit a c => .w32 (packE 5 0 a 0 c 0)
  | .qapp a b c => .w32 (packE 5 1 a b c 0)
  | .qdesc a b c => .w32 (packE 5 2 a b c 0)
  | .qsplit a b c => .w32 (packE 5 3 a b c 0)
  | .qmerge a b c => .w32 (packE 5 4 a b c 0)
  | .qfork a b c => .w32 (packE 5 5 a b c 0)
  | .qevict a b c => .w32 (packE 5 6 a b c 0)
  | .qmark a c => .w32 (packE 5 7 a 0 c 0)
  | .qtrim a c => .w32 (packE 5 8 a 0 c 0)
  | .qstat a b c => .w32 (packE 5 9 a b c 0)
  | .qfree a c => .w32 (packE 5 10 a 0 c 0)
  | .prcopy a b c => .w32 (packE 6 0 a b c 0)
  | .prfill a b c => .w32 (packE 6 1 a b c 0)
  | .prand a b c => .w32 (packE 6 2 a b c 0)
  | .pror a b c => .w32 (packE 6 3 a b c 0)
  | .prxor a b c => .w32 (packE 6 4 a b c 0)
  | .prnot a b c => .w32 (packE 6 5 a b c 0)
  | .tsub a b => .w32 (packE 7 0 a b 0 0)
  | .tdep a b c => .w32 (packE 7 1 a b c 0)
  | .gpset a b c => .w32 (packE 7 2 a b c 0)
  | .gpget a b c => .w32 (packE 7 3 a b c 0)
  | .ldpat a => .w32 (packE 8 0 a 0 0 0)
  | .arm a => .w32 (packE 8 1 a 0 0 0)
  | .disarm => .w32 (packE 8 2 0 0 0 0)
  | .sgo a => .w32 (packE 8 3 a 0 0 0)
  | .sstop a => .w32 (packE 8 4 a 0 0 0)
  | .slice a b => .w32 (packE 8 5 a b 0 0)
  | .cond a b => .w32 (packE 8 6 a b 0 0)
  | .tack a => .w32 (packE 8 7 a 0 0 0)
  | .tkwait a b => .w32 (packE 8 8 a b 0 0)
  | .commit => .w32 (packE 8 9 0 0 0 0)
  | .mxhint a => .w32 (packE 8 10 a 0 0 0)
  | .cpost a => .w32 (packE 8 11 a 0 0 0)
  | .sspec stream ag a entry disp => .w64 (packX 1 (stream ++ ag ++ a ++ entry)) disp
  | .pmsel a b c => .w32 (packE 9 0 a b c 0)
  | .pmrd a b => .w32 (packE 9 1 a b 0 0)
  | .pmclr a => .w32 (packE 9 2 a 0 0 0)
  | .fitbeg a b => .w32 (packE 9 3 a b 0 0)
  | .fitend a => .w32 (packE 9 4 a 0 0 0)
  | .fitstat a b c => .w32 (packE 9 5 a b c 0)
  | .chalk a b => .w32 (packE 9 6 a b 0 0)
  | .mxNop p => .w40 (packP 1 0x00 p.code 0)
  | .mxLd p n => .w40 (packP 1 0x01 p.code (n ++ 0#26))
  | .mxMm p acc row => .w40 (packP 1 0x02 p.code (acc ++ row ++ 0#23))
  | .mxMmg p acc row j => .w40 (packP 1 0x03 p.code (acc ++ row ++ j ++ 0#19))
  | .mxAcz p mask => .w40 (packP 1 0x04 p.code (mask ++ 0#22))
  | .mxAcrd p acc row w => .w40 (packP 1 0x05 p.code (acc ++ row ++ BitVec.ofBool w ++ 0#22))
  | .mxScl p => .w40 (packP 1 0x06 p.code 0)
  | .mxFmt p fa fb => .w40 (packP 1 0x07 p.code (fa ++ fb ++ 0#20))
  | .mxAcsv p acc row i => .w40 (packP 1 0x08 p.code (acc ++ row ++ i ++ 0#11))
  | .mxAcld p acc row i => .w40 (packP 1 0x09 p.code (acc ++ row ++ i ++ 0#11))
  | .vadd p f => .w40 (packP 2 0x00 p.code f.bits)
  | .vsub p f => .w40 (packP 2 0x01 p.code f.bits)
  | .vmul p f => .w40 (packP 2 0x02 p.code f.bits)
  | .vfma p f => .w40 (packP 2 0x03 p.code f.bits)
  | .vmax p f => .w40 (packP 2 0x04 p.code f.bits)
  | .vmin p f => .w40 (packP 2 0x05 p.code f.bits)
  | .vexp2 p f => .w40 (packP 2 0x06 p.code f.bits)
  | .vlog2 p f => .w40 (packP 2 0x07 p.code f.bits)
  | .vrcp p f => .w40 (packP 2 0x08 p.code f.bits)
  | .vrsq p f => .w40 (packP 2 0x09 p.code f.bits)
  | .vcvt p f => .w40 (packP 2 0x0A p.code f.bits)
  | .vcmp p f => .w40 (packP 2 0x0B p.code f.bits)
  | .vsel p f => .w40 (packP 2 0x0C p.code f.bits)
  | .vand p f => .w40 (packP 2 0x0D p.code f.bits)
  | .vor p f => .w40 (packP 2 0x0E p.code f.bits)
  | .vxor p f => .w40 (packP 2 0x0F p.code f.bits)
  | .vshl p f => .w40 (packP 2 0x10 p.code f.bits)
  | .vshr p f => .w40 (packP 2 0x11 p.code f.bits)
  | .vperm p f => .w40 (packP 2 0x12 p.code f.bits)
  | .vscan p f => .w40 (packP 2 0x13 p.code f.bits)
  | .vred p f => .w40 (packP 2 0x14 p.code f.bits)
  | .vbcast p f => .w40 (packP 2 0x15 p.code f.bits)
  | .vpack p f => .w40 (packP 2 0x16 p.code f.bits)
  | .vunpack p f => .w40 (packP 2 0x17 p.code f.bits)
  | .vmov p f => .w40 (packP 2 0x18 p.code f.bits)
  | .vmovIn p f => .w40 (packP 2 0x18 p.code f.bits)
  | .vmovOut p f => .w40 (packP 2 0x18 p.code f.bits)
  | .vidx p f => .w40 (packP 2 0x19 p.code f.bits)
  | .vcount p f => .w40 (packP 2 0x1A p.code f.bits)
  | .vminmax p f => .w40 (packP 2 0x1B p.code f.bits)
  | .lsRd p idx ctr sh => .w40 (packP 3 0x00 p.code (idx ++ ctr ++ sh ++ 0#12))
  | .lsWr p idx ctr sh => .w40 (packP 3 0x01 p.code (idx ++ ctr ++ sh ++ 0#12))
  | .lsG p vi base => .w40 (packP 3 0x02 p.code (vi ++ base ++ 0#13))
  | .lsS p vd vi base => .w40 (packP 3 0x03 p.code (vd ++ vi ++ base ++ 0#8))
  | .lsFe p idx wd => .w40 (packP 3 0x04 p.code (idx ++ wd ++ 0#15))
  | .lsUpd p idx ctr sh op => .w40 (packP 3 0x05 p.code (idx ++ ctr ++ sh ++ op ++ 0#9))
  | .xbRoute p srcA outsA srcB outsB stream => .w40 (packP 4 0x00 p.code (srcA ++ outsA ++ srcB ++ outsB ++ stream ++ 0#2))
  | .xbEase p n e s w mx vx ls => .w40 (packP 4 0x01 p.code (n ++ e ++ s ++ w ++ mx ++ vx ++ ls ++ 0#2))
  | .xbHold p src q => .w40 (packP 4 0x02 p.code (src ++ q ++ 0#22))
  | .tkNop p => .w40 (packP 5 0x00 p.code 0)
  | .tkCnt p c field value => .w40 (packP 5 0x01 p.code (c ++ field ++ 0#1 ++ value))
  | .tkCntTick p => .w40 (packP 5 0x01 p.code (0#2 ++ 4#3 ++ 0#25))
  | .tkSend p ch => .w40 (packP 5 0x02 p.code (ch ++ 0#26))
  | .tkWait p ch n => .w40 (packP 5 0x03 p.code (ch ++ n ++ 0#14))
  | .tkSel p src n => .w40 (packP 5 0x04 p.code (src ++ 0#2 ++ n ++ 0#14))
  | .tkStitch p => .w40 (packP 5 0x05 p.code 0)
  | .tlbinvComplete _ => .none
  | .apertureStore _ _ _ => .none
  | .copyStatusLoad _ _ _ => .none
  | .nodeStep _ => .none
  | .quiltCommandComplete _ => .none
  | .pressCommandComplete _ => .none
  | .loadComplete _ => .none
  | .chalkFire _ => .none
  | .chalkLatch _ => .none
  | .intervalComplete _ _ => .none
  | .rampUpDone _ => .none
  | .rampDown _ _ => .none
  | .mxhintRampStart _ => .none
  | .gatherEntryWrite _ _ => .none
  | .publishDone _ => .none
  | .tackArrive _ _ => .none
  | .wheelAdvance _ => .none
  | .streamBeatArrive _ _ _ => .none
  | .tick => .none
  | .sync _ => .none
  | .followUp _ _ => .none
  | .delayReq _ => .none
  | .delayResp _ _ => .none
  | .markerStep => .none
  | .placementArm _ => .none
  | .preparationComplete _ => .none
  | .taskReady _ => .none
  | .garmentDone _ => .none
  | .taskEnd _ => .none
  | .fittingPassEnd _ => .none
  | .greplayWrite _ _ => .none
  | .replayBegin _ => .none
  | .replayEnd _ => .none
  | .drain _ _ _ => .none
  | .apply _ => .none
  | .fill _ _ => .none
  | .evict _ _ => .none
  | .engineRead _ _ => .none
  | .engineWrite _ _ => .none
  | .completionWordWrite _ => .none
  | .pageWalk _ _ _ _ _ => .none
  | .waitSatisfied _ => .none
  | .waitTimeout _ => .none
  | .trapEntry _ => .none
  | .preemptRequest _ _ => .none
  | .freeze _ => .none
  | .readoutComplete _ => .none
  | .ptrootWrite _ _ => .none
  | .frtWrite _ _ _ => .none
  | .hbmMapWrite _ _ => .none
  | .loopRegisterWrite _ _ _ _ => .none
  | .tvecWrite _ _ => .none
  | .registerWrite _ _ _ _ => .none
  | .fsumWrite _ _ => .none
  | .cpolWrite _ _ => .none
  | .slognWrite _ _ => .none
  | .hostWindowRead _ _ _ => .none
  | .hostWindowWrite _ _ _ => .none
  | .flr _ => .none
  | .flrComplete _ => .none
  | .coldReset _ => .none
  | .contextEnable _ => .none
  | .contextDisable _ => .none
  | .flitReceive _ _ _ _ => .none
  | .linkDown _ => .none
  | .linkRekey _ => .none
  | .cert => .none
  | .chal _ => .none
  | .meas _ => .none
  | .keyEx _ => .none
  | .sealKeyInstall _ _ => .none
  | .thermalClamp _ => .none
  | .thermalRelease _ => .none
  | .selfRefresh _ _ => .none
  | .uncorrectableError _ => .none
  | .unassignedOpcode _ => .none
  | .fetchFault => .none
  | .publishSearchDone _ => .none
  | .refreshCycle _ _ => .none
  | .secdedCorrection _ => .none
  | .tdispRequest _ _ => .none
  | .henidContinue _ => .none

/-! ## The decoder -/

/-- The alu group by fn (R133), its fields taken as the form has them. -/
def decodeAlu (w : W32) : Option Instr :=
  let d := w.extractLsb' 21 5
  let a := w.extractLsb' 16 5
  let b := w.extractLsb' 11 5
  match (w.extractLsb' 0 6).toNat with
  | 0x00 => some (.add d a b)
  | 0x01 => some (.sub d a b)
  | 0x02 => some (.mul d a b)
  | 0x03 => some (.mulh d a b)
  | 0x04 => some (.mulhu d a b)
  | 0x05 => some (.div d a b)
  | 0x06 => some (.divu d a b)
  | 0x07 => some (.rem d a b)
  | 0x08 => some (.remu d a b)
  | 0x09 => some (.and d a b)
  | 0x0A => some (.or d a b)
  | 0x0B => some (.xor d a b)
  | 0x0C => some (.andn d a b)
  | 0x0D => some (.shl d a b)
  | 0x0E => some (.shr d a b)
  | 0x0F => some (.sra d a b)
  | 0x10 => some (.rol d a b)
  | 0x11 => some (.ror d a b)
  | 0x12 => some (.clz d a)
  | 0x13 => some (.ctz d a)
  | 0x14 => some (.popc d a)
  | 0x15 => some (.min d a b)
  | 0x16 => some (.max d a b)
  | 0x17 => some (.minu d a b)
  | 0x18 => some (.maxu d a b)
  | 0x19 => some (.sel d a b (w.extractLsb' 6 5))
  | 0x1A => (CC.ofCode (w.extractLsb' 6 4)).map fun cc => .cmp cc d a b
  | 0x1B => some (.lea d a b (w.extractLsb' 6 3))
  | 0x1C => some (.bext d a b)
  | 0x1D => some (.bins d a b)
  | _ => none

/-- The cache group by d (R134). -/
def decodeCache (w : W32) : Option Instr :=
  let a := w.extractLsb' 16 5
  let off := w.extractLsb' 0 14
  match (w.extractLsb' 21 5).toNat with
  | 0 => some (.prefetch a off)
  | 1 => some (.clean a off)
  | 2 => some (.flush a off)
  | 3 => some (.inval a off)
  | 4 => some .invalI
  | _ => none

/-- The system group by fn (R134). -/
def decodeSystem (w : W32) : Option Instr :=
  let a := w.extractLsb' 16 5
  let b := w.extractLsb' 11 5
  match (w.extractLsb' 0 11).toNat with
  | 0 => some .nop
  | 1 => some .fin
  | 2 => some (.trap a)
  | 3 => some .eret
  | 4 => some (.tlbinv a b)
  | 5 => some (.ctxsave a)
  | 6 => some (.ctxload a)
  | _ => none

/-- The vector group by fn (R134). -/
def decodeVector (w : W32) : Option Instr :=
  let d := w.extractLsb' 21 5
  let a := w.extractLsb' 16 5
  let b := w.extractLsb' 11 5
  match (w.extractLsb' 0 11).toNat with
  | 0 => some (.vgather d a b)
  | 1 => some (.vscatter d a b)
  | 2 => some (.vmovg d a b)
  | 3 => some (.vmovz d a b)
  | _ => none

/-- The engine group by engine and fn (R135). -/
def decodeEngine (w : W32) : Option Instr :=
  let a := w.extractLsb' 12 5
  let b := w.extractLsb' 7 5
  let c := w.extractLsb' 2 5
  let so := w.extractLsb' 0 2
  match (w.extractLsb' 22 4).toNat, (w.extractLsb' 17 5).toNat with
  | 0, 0 => some (.bind a b c)
  | 0, 1 => some (.unbind c)
  | 0, 2 => some (.acq (Scope.ofCode so) (Size.ofCode (c.extractLsb' 0 2)) a b)
  | 0, 3 => some (.rel (Scope.ofCode so) (Size.ofCode (c.extractLsb' 0 2)) a b)
  | 0, 4 => some (.fence (Scope.ofCode so))
  | 1, 0 => some (.bar (Scope.ofCode so) a b c)
  | 1, 1 => some (.gbar c)
  | 1, 2 => some (.gbarM c)
  | 1, 3 => some (.tickget a)
  | 1, 4 => some (.tickwait a b)
  | 2, 0 => some (.amoAdd (so == 3#2) a b c)
  | 2, 1 => some (.amoAnd (so == 3#2) a b c)
  | 2, 2 => some (.amoOr (so == 3#2) a b c)
  | 2, 3 => some (.amoXor (so == 3#2) a b c)
  | 2, 4 => some (.amoMin (so == 3#2) a b c)
  | 2, 5 => some (.amoMax (so == 3#2) a b c)
  | 2, 6 => some (.amoSwap (so == 3#2) a b c)
  | 2, 7 => some (.amoCas (so == 3#2) a b c)
  | 2, 8 => some (.amoFadd a b c)
  | 3, 0 => some (.bttpl a b)
  | 3, 1 => some (.waitw a b c)
  | 3, 2 => some (.pinwait a b c)
  | 4, 0 => some (.bdraw a b c)
  | 4, 1 => some (.bdrawv a b c)
  | 4, 2 => some (.bseed a b)
  | 4, 3 => some (.bspool a)
  | 4, 4 => some (.bspsave a)
  | 4, 5 => some (.bmode a)
  | 5, 0 => some (.qinit a c)
  | 5, 1 => some (.qapp a b c)
  | 5, 2 => some (.qdesc a b c)
  | 5, 3 => some (.qsplit a b c)
  | 5, 4 => some (.qmerge a b c)
  | 5, 5 => some (.qfork a b c)
  | 5, 6 => some (.qevict a b c)
  | 5, 7 => some (.qmark a c)
  | 5, 8 => some (.qtrim a c)
  | 5, 9 => some (.qstat a b c)
  | 5, 10 => some (.qfree a c)
  | 6, 0 => some (.prcopy a b c)
  | 6, 1 => some (.prfill a b c)
  | 6, 2 => some (.prand a b c)
  | 6, 3 => some (.pror a b c)
  | 6, 4 => some (.prxor a b c)
  | 6, 5 => some (.prnot a b c)
  | 7, 0 => some (.tsub a b)
  | 7, 1 => some (.tdep a b c)
  | 7, 2 => some (.gpset a b c)
  | 7, 3 => some (.gpget a b c)
  | 8, 0 => some (.ldpat a)
  | 8, 1 => some (.arm a)
  | 8, 2 => some .disarm
  | 8, 3 => some (.sgo a)
  | 8, 4 => some (.sstop a)
  | 8, 5 => some (.slice a b)
  | 8, 6 => some (.cond a b)
  | 8, 7 => some (.tack a)
  | 8, 8 => some (.tkwait a b)
  | 8, 9 => some .commit
  | 8, 10 => some (.mxhint a)
  | 8, 11 => some (.cpost a)
  | 9, 0 => some (.pmsel a b c)
  | 9, 1 => some (.pmrd a b)
  | 9, 2 => some (.pmclr a)
  | 9, 3 => some (.fitbeg a b)
  | 9, 4 => some (.fitend a)
  | 9, 5 => some (.fitstat a b c)
  | 9, 6 => some (.chalk a b)
  | _, _ => none

/-- A 32-bit word by its major opcode (R132), before the check of its zero fields. -/
def decodeRaw (w : W32) : Option Instr :=
  let d := w.extractLsb' 21 5
  let a := w.extractLsb' 16 5
  let imm := w.extractLsb' 0 16
  let sh := w.extractLsb' 0 6
  let sz := Size.ofCode (w.extractLsb' 14 2)
  let off := w.extractLsb' 0 14
  match (w.extractLsb' 26 6).toNat with
  | 0x01 => decodeAlu w
  | 0x02 => some (.addi d a imm)
  | 0x03 => some (.muli d a imm)
  | 0x04 => some (.andi d a imm)
  | 0x05 => some (.ori d a imm)
  | 0x06 => some (.xori d a imm)
  | 0x07 => some (.shli d a sh)
  | 0x08 => some (.shri d a sh)
  | 0x09 => some (.srai d a sh)
  | 0x0A => some (.rori d a sh)
  | 0x0B => (CC.ofCode (w.extractLsb' 12 4)).map fun cc => .cmpi cc d a (w.extractLsb' 0 12)
  | 0x0C => some (.mini d a imm)
  | 0x0D => some (.maxi d a imm)
  | 0x0E => some (.minui d a imm)
  | 0x0F => some (.maxui d a imm)
  | 0x10 => some (.cget d imm)
  | 0x11 => some (.cset a imm)
  | 0x12 => some (.ld sz d a off)
  | 0x13 => some (.ldZ sz d a off)
  | 0x14 => some (.st sz d a off)
  | 0x15 => some (.ldS sz d a off)
  | 0x16 => some (.ldSZ sz d a off)
  | 0x17 => some (.stS sz d a off)
  | 0x18 => some (.stfill d a off)
  | 0x19 => some (.ldsync d a off)
  | 0x1A => some (.ldsyncE d a off)
  | 0x1B => decodeCache w
  | 0x1C => some (.br (w.extractLsb' 0 26))
  | 0x1D => some (.jal (w.extractLsb' 0 26))
  | 0x1E => some (.jalr d a imm)
  | 0x1F => (CC.ofCode (w.extractLsb' 22 4)).map fun cc => .bcc cc (w.extractLsb' 17 5) (w.extractLsb' 12 5) (w.extractLsb' 0 12)
  | 0x20 => (CC.ofCode (w.extractLsb' 22 4)).map fun cc => .lexit cc (w.extractLsb' 17 5) (w.extractLsb' 12 5) (w.extractLsb' 0 2)
  | 0x21 => decodeSystem w
  | 0x22 => some (.vld d a off)
  | 0x23 => some (.vst d a off)
  | 0x24 => decodeVector w
  | 0x30 => decodeEngine w
  | _ => none

/-- The instruction of a 32-bit control word, none where the word is unassigned (R132-R135, R139 line 1). -/
def decodeWord (w : W32) : Option Instr :=
  (decodeRaw w).bind fun i => if i.wf = true ∧ i.encode = .w32 w then some i else none

/-- A long form by its kind (R136), before the check of its zero fields. -/
def decodeLongRaw (w0 w1 : W32) : Option Instr :=
  match (w0.extractLsb' 22 4).toNat with
  | 0 => some (.movi (w0.extractLsb' 17 5) (w0.extractLsb' 0 17 ++ w1))
  | 1 => some (.sspec (w0.extractLsb' 18 4) (w0.extractLsb' 16 2) (w0.extractLsb' 11 5) (w0.extractLsb' 0 11) w1)
  | 2 => some (.vop (w0.extractLsb' 17 5) (w1.extractLsb' 0 30))
  | 3 => some (.loop (w0.extractLsb' 20 2) (w0.extractLsb' 15 5) (w0.extractLsb' 0 15) (w1.extractLsb' 0 24))
  | 4 => some (.loopw (w0.extractLsb' 20 2) (w0.extractLsb' 0 15) (w1.extractLsb' 0 24))
  | _ => none

/-- The major opcode of a word begins a long form (R128). -/
def isLongFirst (w : W32) : Bool := w.extractLsb' 26 6 == 0x3F#6

/-- The instruction of a long form, none where it is unassigned (R136, R139 line 1). -/
def decodeLong (w0 w1 : W32) : Option Instr :=
  (decodeLongRaw w0 w1).bind fun i => if i.wf = true ∧ i.encode = .w64 w0 w1 then some i else none

/-- A phase word's MX form by its opcode (R229). -/
def decodeMx (p : Pred) (opcode : BitVec 5) (o : BitVec 30) : Option Instr :=
  let acc := o.extractLsb' 27 3
  let row := o.extractLsb' 23 4
  match opcode.toNat with
  | 0x00 => some (.mxNop p)
  | 0x01 => some (.mxLd p (o.extractLsb' 26 4))
  | 0x02 => some (.mxMm p acc row)
  | 0x03 => some (.mxMmg p acc row (o.extractLsb' 19 4))
  | 0x04 => some (.mxAcz p (o.extractLsb' 22 8))
  | 0x05 => some (.mxAcrd p acc row (o.getLsbD 22))
  | 0x06 => some (.mxScl p)
  | 0x07 => some (.mxFmt p (o.extractLsb' 25 5) (o.extractLsb' 20 5))
  | 0x08 => some (.mxAcsv p acc row (o.extractLsb' 11 12))
  | 0x09 => some (.mxAcld p acc row (o.extractLsb' 11 12))
  | _ => none

/-- A phase word's VX form by its opcode (R141, R235-R242). -/
def decodeVx (p : Pred) (opcode : BitVec 5) (o : BitVec 30) : Option Instr :=
  let f := VF.ofBits o
  match opcode.toNat with
  | 0x00 => some (.vadd p f)
  | 0x01 => some (.vsub p f)
  | 0x02 => some (.vmul p f)
  | 0x03 => some (.vfma p f)
  | 0x04 => some (.vmax p f)
  | 0x05 => some (.vmin p f)
  | 0x06 => some (.vexp2 p f)
  | 0x07 => some (.vlog2 p f)
  | 0x08 => some (.vrcp p f)
  | 0x09 => some (.vrsq p f)
  | 0x0A => some (.vcvt p f)
  | 0x0B => some (.vcmp p f)
  | 0x0C => some (.vsel p f)
  | 0x0D => some (.vand p f)
  | 0x0E => some (.vor p f)
  | 0x0F => some (.vxor p f)
  | 0x10 => some (.vshl p f)
  | 0x11 => some (.vshr p f)
  | 0x12 => some (.vperm p f)
  | 0x13 => some (.vscan p f)
  | 0x14 => some (.vred p f)
  | 0x15 => some (.vbcast p f)
  | 0x16 => some (.vpack p f)
  | 0x17 => some (.vunpack p f)
  | 0x18 => some (if f.aux = 1#5 then .vmovIn p f else if f.aux = 2#5 then .vmovOut p f else .vmov p f)
  | 0x19 => some (.vidx p f)
  | 0x1A => some (.vcount p f)
  | 0x1B => some (.vminmax p f)
  | _ => none

/-- A phase word's LS form by its opcode (R244). -/
def decodeLs (p : Pred) (opcode : BitVec 5) (o : BitVec 30) : Option Instr :=
  let idx := o.extractLsb' 18 12
  let ctr := o.extractLsb' 15 3
  let sh := o.extractLsb' 12 3
  match opcode.toNat with
  | 0x00 => some (.lsRd p idx ctr sh)
  | 0x01 => some (.lsWr p idx ctr sh)
  | 0x02 => some (.lsG p (o.extractLsb' 25 5) (o.extractLsb' 13 12))
  | 0x03 => some (.lsS p (o.extractLsb' 25 5) (o.extractLsb' 20 5) (o.extractLsb' 8 12))
  | 0x04 => some (.lsFe p idx ctr)
  | 0x05 => some (.lsUpd p idx ctr sh (o.extractLsb' 9 3))
  | _ => none

/-- A phase word's XB form by its opcode (R225-R227). -/
def decodeXb (p : Pred) (opcode : BitVec 5) (o : BitVec 30) : Option Instr :=
  match opcode.toNat with
  | 0x00 => some (.xbRoute p (o.extractLsb' 26 4) (o.extractLsb' 18 8) (o.extractLsb' 14 4) (o.extractLsb' 6 8)
      (o.extractLsb' 2 4))
  | 0x01 => some (.xbEase p (o.extractLsb' 26 4) (o.extractLsb' 22 4) (o.extractLsb' 18 4) (o.extractLsb' 14 4)
      (o.extractLsb' 10 4) (o.extractLsb' 6 4) (o.extractLsb' 2 4))
  | 0x02 => some (.xbHold p (o.extractLsb' 26 4) (o.extractLsb' 22 4))
  | _ => none

/-- A phase word's TK form by its opcode (R248-R252). -/
def decodeTk (p : Pred) (opcode : BitVec 5) (o : BitVec 30) : Option Instr :=
  match opcode.toNat with
  | 0x00 => some (.tkNop p)
  | 0x01 => some (if o.extractLsb' 25 3 = 4#3 then .tkCntTick p
      else .tkCnt p (o.extractLsb' 28 2) (o.extractLsb' 25 3) (o.extractLsb' 0 24))
  | 0x02 => some (.tkSend p (o.extractLsb' 26 4))
  | 0x03 => some (.tkWait p (o.extractLsb' 26 4) (o.extractLsb' 14 12))
  | 0x04 => some (.tkSel p (o.extractLsb' 28 2) (o.extractLsb' 14 12))
  | 0x05 => some (.tkStitch p)
  | _ => none

/-- A phase word by its kind (R140), before the check of its zero fields. -/
def decodePhaseRaw (w : BitVec 40) : Option Instr :=
  let p := Pred.ofCode (w.extractLsb' 30 2)
  let opcode := w.extractLsb' 32 5
  let o := w.extractLsb' 0 30
  match (w.extractLsb' 37 3).toNat with
  | 1 => decodeMx p opcode o
  | 2 => decodeVx p opcode o
  | 3 => decodeLs p opcode o
  | 4 => decodeXb p opcode o
  | 5 => decodeTk p opcode o
  | _ => none

/-- The instruction of a phase word; none for the empty row and for a word that no panel's `arm` accepts (R143). -/
def decodePhase (w : BitVec 40) : Option Instr :=
  (decodePhaseRaw w).bind fun i => if i.wf = true ∧ i.encode = .w40 w then some i else none

/-- The instruction that a table word of `nbits` bits stands for: a control word, a phase word of 40 bits, or a long
form whose second word is bits 63:32. -/
def decodeTableWord (nbits w : Nat) : Option Instr :=
  if nbits = 40 then decodePhase (BitVec.ofNat 40 w)
  else
    let w0 := BitVec.ofNat 32 w
    if isLongFirst w0 then decodeLong w0 (BitVec.ofNat 32 (w / 2 ^ 32)) else decodeWord w0

/-- The bytes of the first word of an instruction's encoding that `c.trapval` records (R314): zero where no control
word stands for it. -/
def Instr.firstWord (i : Instr) : W32 :=
  match i.encode with
  | .w32 w => w
  | .w64 w _ => w
  | _ => 0

/-- The length of a control word in bytes (R128). -/
def Instr.len (i : Instr) : Nat :=
  match i.encode with
  | .w64 _ _ => 8
  | _ => 4

end Sys2Proof
end

