-- ==== Sys2Proof/Machine/State.lean ====
section
/-! DEFINITION. The state of the part as plain data: threads, contexts, panels and tiles, memory, caches and queues,
engines, the dispatcher, the platform; and the state right after reset (INVENTORY.md, State). -/

namespace Sys2Proof.Machine

open Sys2Proof

/-! ## Stops -/

/-- The reasons a step can stop the machine. -/
inductive Fault where
  /-- An access of machine privilege to device registers that the spec gives no map for (R88, R170; DESIGN CHOICE, log 20). Safe: the
  model stops where the hardware would go on. -/
  | deviceRegister (pa : Nat)
  deriving DecidableEq, Repr

/-- The reasons a step can be refused. -/
inductive Refusal where
  /-- The instruction has no meaning in this model. Safe: nothing is claimed of it. -/
  | notModelled (mnemonic : String)
  deriving DecidableEq, Repr

/-! ## Causes, privilege, objects -/

/-- The trap causes of R314. -/
inductive Cause where
  | illegal | priv | align | xlate | perm | sealed | loopBound | loopSpec | waitBound | barOver
  | cfgLoad | cfgKind | cfgOp | ecc | engine | quilt | press | logFull | detRet | preempt
  deriving DecidableEq, Repr

/-- The number of a cause (R314). -/
def Cause.num : Cause → Nat
  | .illegal => 1 | .priv => 2 | .align => 3 | .xlate => 4 | .perm => 5 | .sealed => 6 | .loopBound => 7
  | .loopSpec => 8 | .waitBound => 9 | .barOver => 10 | .cfgLoad => 11 | .cfgKind => 12 | .cfgOp => 13
  | .ecc => 14 | .engine => 15 | .quilt => 16 | .press => 17 | .logFull => 18 | .detRet => 19 | .preempt => 20

/-- The privilege levels of R313. -/
inductive Priv where
  | user | supervisor | machine
  deriving DecidableEq, Repr

/-- The code of a privilege level in `c.party` (R313). -/
def Priv.code : Priv → Nat
  | .user => 0 | .supervisor => 1 | .machine => 2

/-- The objects that faults and containment act on (R18, R319). -/
inductive FObj where
  | strand (panel strand : Nat)
  | panel (panel : Nat)
  | garment (entry : Nat)
  | task (entry : Nat)
  | graph (ctx : Nat)
  | context (ctx : Nat)
  | nothing
  deriving DecidableEq, Repr

/-- A precise trap of an instruction: its cause, the value for `c.trapval` (R314), and for a translation fault the
values of `c.xlva` and `c.xlinfo` (R94). -/
structure Trap where
  cause : Cause
  val : Word
  xl : Option (Word × Word)
  deriving DecidableEq, Repr

/-- A fault as it is offered (R321): the cause and values, the task and source of `c.trapcause`, the location of
`c.fwhere` and `c.fpc`, the faulting party if it is a thread, the object offered first, and the engine command whose
access the fault holds (R355); whether the consumption of a poisoned entry raised it (R29). -/
structure FaultRec where
  cause : Cause
  val : Word
  xl : Option (Word × Word)
  source : Nat
  task : BitVec 32
  fwhere : Word
  fpc : Word
  party : Option Party
  obj : FObj
  engine : Option EngineId
  poisoned : Bool
  deriving DecidableEq, Repr

/-! ## Threads -/

/-- A hardware loop slot (R123, R166): the architectural fields start, end, count and left, the latched copies, the
pending bits, and the activation. -/
structure LoopSlot where
  start : Word
  stop : Word
  count : Word
  left : Word
  lstart : Word
  lstop : Word
  lcount : Word
  pstart : Bool
  pstop : Bool
  pcount : Bool
  active : Bool
  exits : Bool
  deriving DecidableEq, Repr

/-- An inactive slot with every field zero (R126, R193). -/
def LoopSlot.clear : LoopSlot := ⟨0, 0, 0, 0, 0, 0, 0, false, false, false, false, false⟩

/-- An entry of a bound-region table (R104). -/
structure BoundEntry where
  base : Word
  length : Word
  object : Word
  deriving DecidableEq, Repr

/-- A spool of the bobbin unit (R185): direction numbers (none for the reset numbers of R186), seeds, mode. -/
structure Spool where
  dirs : Option (List W32)
  seeds : List W32
  mode : Nat
  deriving DecidableEq, Repr

/-- A wait a thread is in (R30): the instruction that waits, the fabric cycle it began in, its timeout (none for a wait
that carries no timeout), and whether its arrival has applied, with the garment barrier's phase (R160). -/
structure Wait where
  instr : Instr
  since : Nat
  timeout : Option Nat
  arrived : Bool
  deriving DecidableEq, Repr

/-- What a thread is doing (R20, R193, R320). -/
inductive ThreadStatus where
  | idle | running | stopped | finished | killed
  deriving DecidableEq, Repr

/-- The architectural state of a thread or slice engine (R123, R104, R185, R193, R203); `passed`: it has stopped at
the breakpoint of its pc (R267); `before`: what it was doing when it took the fault it handles (R320-R322). -/
structure Thread where
  g : Vector Word 32
  pc : Word
  loops : Vector LoopSlot 4
  order : List Nat
  k : Vector (BitVec 16) 8
  z : Vector Lanes 32
  bound : List BoundEntry
  spool : Spool
  wait : Option Wait
  status : ThreadStatus
  ctx : Nat
  priv : Priv
  task : BitVec 32
  tscratch : Word
  sig : Word
  dseq : Nat
  issued : Nat
  touched : List Nat
  passed : Bool
  before : ThreadStatus
  deriving DecidableEq, Repr

/-- The reset spool (R186). -/
def Spool.reset : Spool := ⟨none, List.replicate 32 0, 0⟩

/-- A thread with every register zero (R193; DESIGN CHOICE, log 5). -/
def Thread.clear : Thread where
  g := Vector.replicate 32 0
  pc := 0
  loops := Vector.replicate 4 LoopSlot.clear
  order := [0, 1, 2, 3]
  k := Vector.replicate 8 0
  z := Vector.replicate 32 0
  bound := []
  spool := Spool.reset
  wait := none
  status := .idle
  ctx := 0
  priv := .user
  task := 0
  tscratch := 0
  sig := 0
  dseq := 0
  issued := 0
  touched := []
  passed := false
  before := .idle

/-! ## Beats and tiles -/

/-- A beat (R3, R214): data, scale lane, bubble bit. -/
structure Beat where
  data : Lanes
  scale : W32
  bubble : Bool
  deriving DecidableEq, Repr

/-- A bubble beat (R214). -/
def Beat.bubbleBeat : Beat := ⟨0, 0, true⟩

/-- A run of bytes of a memory write, with its page's policy and seal domain (R79, R91). -/
structure MemPart where
  pa : Nat
  bytes : List Byte
  wt : Bool
  dom : Nat
  deriving DecidableEq, Repr

/-- An entry of a basting log (R99, R220, R247): a write to a scratchpad of the panel (sequencer `.s` stores name the
tile; `full` for `stfill`), a write to memory, an undo entry with the live cycle it was made in, or a sideband byte with its page's seal
domain. -/
inductive LogEntry where
  | scratch (tile off : Nat) (bytes : List Byte) (full : Bool)
  | memory (parts : List MemPart)
  | undo (off : Nat) (bytes : List Byte) (live : Nat)
  | side (pa : Nat) (scale : Byte) (dom : Nat)
  deriving DecidableEq, Repr

/-- An interval in flight (R228, R230): accumulator, row, the rows to add (none for a bubble interval), the pipeline
steps still to take. -/
structure Interval where
  acc : BitVec 3
  row : BitVec 4
  out : Option (List W32)
  left : Nat
  deriving DecidableEq, Repr

/-- A gather in flight (R245): the strand, the row offsets and scale bytes of its lanes, the entries written so far. -/
structure Gather where
  strand : Nat
  offs : List Nat
  scales : List Byte
  done : Nat
  age : Nat
  deriving DecidableEq, Repr

/-- An ease queue (R215, R226): the depth in force, the depth to come, the beats by age (newest first). -/
structure Ease where
  depth : Nat
  next : Nat
  queue : List Beat
  deriving DecidableEq, Repr

/-- A counter of TK (R248, R249). -/
structure TkCounter where
  start : BitVec 24
  bound : BitVec 24
  step : BitVec 16
  lstart : BitVec 24
  lbound : BitVec 24
  lstep : BitVec 16
  value : BitVec 24
  deriving DecidableEq, Repr

/-- A cell of one byte: an address and its byte. -/
abbrev Cells := List (Nat × Byte)

/-- The dirty bytes of a tile (R97): by address, the byte and the seal domain of the leaf it was written through (R80). -/
abbrev Pool := FMap Nat (Byte × Nat)

/-- The state of a tile (R123, R215, R228, R248, R75-R77, R97). `inp` and `out` are the latches read in this live cycle, `inpNext` and
`outNext` those filled in it; `edge` holds the beats at the inputs n, e, s, w, `edgeNext` those of the next cycle; `bad` the scratch words
with an uncorrectable error (R326); `stores` the store-to-load table: by strand the rows of 64 bytes of the latest writes, newest first
(R243). -/
structure Tile where
  v : Vector Lanes 32
  k : Vector (BitVec 16) 8
  acc : Vector (Vector Lanes 16) 8
  weights : Vector Lanes 16
  wscale : Vector W32 16
  oplatch : Vector Beat 16
  fa : BitVec 5
  fb : BitVec 5
  pipe : List Interval
  gathers : List Gather
  quiet : Nat
  rampTo : Nat
  rampDown : Nat
  inp : Vector Beat 5
  inpNext : Vector Beat 5
  out : Vector Beat 5
  outNext : Vector Beat 5
  edge : Vector Beat 4
  edgeNext : Vector Beat 4
  ease : Vector Ease 7
  hold : Beat
  counters : Vector TkCounter 4
  chainLen : Nat
  startCh : Nat
  doneCh : Nat
  running : Bool
  cond : Bool
  condNext : Option Bool
  pending : Vector Nat 16
  scratch : Cells
  empties : List Nat
  pins : List Nat
  bad : List Nat
  logs : Vector (List LogEntry) 4
  pool : Pool
  lines : Cells
  queues : FMap Nat (List Beat)
  stores : List (Nat × Nat)
  deriving DecidableEq, Repr

/-- A counter right after a placement arm: start and bound 0, step 1 (R248). -/
def TkCounter.clear : TkCounter := ⟨0, 0, 1, 0, 0, 1, 0⟩

/-- A tile right after a placement arm (R77, R228, R248; v, k and latches DESIGN CHOICE, log 7, log 8). -/
def Tile.clear : Tile where
  v := Vector.replicate 32 0
  k := Vector.replicate 8 0
  acc := Vector.replicate 8 (Vector.replicate 16 0)
  weights := Vector.replicate 16 0
  wscale := Vector.replicate 16 0
  oplatch := Vector.replicate 16 Beat.bubbleBeat
  fa := 0x02
  fb := 0x02
  pipe := []
  gathers := []
  quiet := 65
  rampTo := 0
  rampDown := 0
  inp := Vector.replicate 5 Beat.bubbleBeat
  inpNext := Vector.replicate 5 Beat.bubbleBeat
  out := Vector.replicate 5 Beat.bubbleBeat
  outNext := Vector.replicate 5 Beat.bubbleBeat
  edge := Vector.replicate 4 Beat.bubbleBeat
  edgeNext := Vector.replicate 4 Beat.bubbleBeat
  ease := Vector.replicate 7 ⟨0, 0, []⟩
  hold := Beat.bubbleBeat
  counters := Vector.replicate 4 TkCounter.clear
  chainLen := 1
  startCh := 0
  doneCh := 0
  running := false
  cond := false
  condNext := none
  pending := Vector.replicate 16 0
  scratch := []
  empties := []
  pins := []
  bad := []
  logs := Vector.replicate 4 []
  pool := []
  lines := []
  queues := []
  stores := []

/-! ## Patterns and panels -/

/-- The states of a stream (R221). -/
inductive StreamState where
  | idle | running | ended
  deriving DecidableEq, Repr

/-- A stream-spec entry (R146). -/
structure StreamSpec where
  esize : Nat
  ndims : Nat
  dirOut : Bool
  port : BitVec 8
  fmt : Nat
  counts : List Nat
  strides : List Int
  deriving DecidableEq, Repr

/-- A stream slot of a strand (R218): its spec, generator, base, state; and for each target tile the beats delivered to its queue and the beats
consumed or filled (R220, R261), the parts of its next beat that are read (their number, bytes and element addresses with their seal domains; R101),
the fault of that beat. A path stream has its number among the outgoing paths of the image (R33); an incoming one keeps the beats received since the
last stitch, which no generator can fetch again (R262). -/
structure StreamSlot where
  spec : StreamSpec
  ag : Nat
  base : Word
  state : StreamState
  fetched : FMap Nat Nat
  moved : FMap Nat Nat
  parts : FMap Nat (Nat × List Byte × List (Nat × Nat))
  fault : FMap Nat Trap
  path : Nat
  past : List Beat
  deriving DecidableEq, Repr

/-- A beat of a path stream on its way (R219): the stream's number, its path, the peer panel's number, the beat's serial number in its
strand and stream. -/
structure PathBeat where
  stream : Nat
  path : Nat
  peer : Nat
  serial : Nat
  beat : Beat
  deriving DecidableEq, Repr

/-- An entry of a condition queue (R29): a posted value, or a poisoned entry with its cause and values. -/
inductive CondEntry where
  | value (v : Word)
  | poisoned (t : Trap)
  deriving DecidableEq, Repr

/-- The header fields and sections of a pattern image as loaded (R15, R144-R146). -/
structure Image where
  width : Nat
  height : Nat
  wheel : Nat
  strands : Nat
  l1 : Nat
  sched : Bool
  cpolStrand : BitVec 2
  cpolPanel : BitVec 2
  rows : List (BitVec 32)
  readout : Word
  logmax : List Nat
  entry : List Nat
  sentry : List Nat
  slice : Nat × Nat
  phases : List (BitVec 40)
  specs : List StreamSpec
  scratch : List (Nat × Nat × List Byte)
  reserve : List (Nat × Nat × Nat)
  deriving DecidableEq, Repr

/-- What a load of a pattern is doing (R26, R27, R254, R355): reading, held by a fault that waits, done, or failed with
E.CFGLOAD. -/
inductive LoadState where
  | reading | held | loaded | failed
  deriving DecidableEq, Repr

/-- A load of a pattern into a panel, for the strand whose `ldpat` began it; `replay`: it is performed again after a retry, before that
strand's thread issues its first word (R254). -/
structure Load where
  addr : Word
  state : LoadState
  image : Option Image
  loadId : Nat
  strand : Nat
  replay : Bool
  deriving DecidableEq, Repr

/-- A strand of a panel (R19, R20): whether it is finished or killed, its sequencer log, its condition queue with the entries taken since
`slice` and the `slice` operands, its stream slots, its recorded image address, and that of a failed load to be raised (R254); the path
beats it has sent that still wait for their frame slots, and by stream the serial numbers of the next path beat to send and to take (R33,
R219). -/
structure Strand where
  finished : Bool
  killed : Bool
  log : List LogEntry
  queue : List CondEntry
  taken : Nat
  sliceArgs : Option (Word × Word)
  sliceStop : Bool
  skip : Nat
  streams : FMap Nat StreamSlot
  loadAddr : Option Word
  failed : Option Word
  sending : List PathBeat
  pathSent : FMap Nat Nat
  pathGot : FMap Nat Nat
  deriving DecidableEq, Repr

/-- A strand at its start (R126, R255). -/
def Strand.clear : Strand := ⟨false, false, [], [], 0, none, true, 0, [], none, none, [], [], []⟩

/-- The states of a panel (R20); `stopping`: it has stopped for a freeze whose engine commands have still to complete (R329, steps 1 and 2). -/
inductive PanelState where
  | loading | preparing | live | killed | stopping | frozen
  deriving DecidableEq, Repr

/-- The causes of a clamp, in the order of R224, and the publish search of R243. -/
inductive ClampCause where
  | lateReply | translation | tackWait | condWait | drain | rampUp | publish | fabricFault | freeze | search
  deriving DecidableEq, Repr

/-- A cause of the present clamp: for a wait the cycle it began and its timeout, for a counted hold the cycles left. -/
structure Hold where
  cause : ClampCause
  tile : Nat
  elem : Elem
  since : Nat
  left : Nat
  deriving DecidableEq, Repr

/-- A tack on its way (R250): its channel, and the live cycle it is raised in, or, for one that a thread sends in a
clamped cycle, the fabric cycle (DEDUCED, log 26). -/
structure Flight where
  ch : Nat
  due : Nat
  clamped : Bool
  deriving DecidableEq, Repr

/-- A counter of performance events (R197): its event and qualifier, its count, its overflow flag. -/
structure Counter where
  event : Option Nat
  qual : Nat
  count : BitVec 48
  ovf : Bool
  deriving DecidableEq, Repr

/-- A counter that counts nothing (DESIGN CHOICE, log 6). -/
def Counter.clear : Counter := ⟨none, 0, 0, false⟩

/-- The commit shadow of a panel (R261): with the present schedule the one chosen for the next turn and the nullified cycles still to come (R28,
R42), and with the tiles' pending counts those of the lead AG tile (R250). -/
structure Shadow where
  tiles : FMap Nat Tile
  strands : List Strand
  threads : List Thread
  row : Nat
  schedB : Bool
  nextB : Bool
  switching : Nat
  agPending : Vector Nat 16
  deriving DecidableEq, Repr

/-- A chalk trigger (R200, R336). -/
inductive ChalkArm where
  | onTick (t : Word)
  | onOverflow (mask : BitVec 4)
  | onTack (ch : Nat)
  deriving DecidableEq, Repr

/-- A panel (R15-R20, R26, R213, R224, R259, R336); `uid` tells it from every other panel placed in the same blocks at another time;
`wrote`: its placement load has written the entries of its pattern (R27); `agLast`: by block, the fabric cycle of the last beat that its
AG tile delivered (R223); `rowAt`: the row that its wheel broadcast last with the number after that fabric cycle (R118); `half`: the tiles fed
in the first of the two cycles of a row, where some of its blocks share a physical block as hosts and others as guests (R31). -/
structure Panel where
  ctx : Nat
  entry : Nat
  index : Nat
  bx : Nat
  byy : Nat
  uid : Nat
  imageAddr : Word
  image : Image
  loadId : Nat
  wrote : Bool
  state : PanelState
  prep : Nat
  row : Nat
  schedB : Bool
  nextB : Bool
  switching : Nat
  live : Nat
  tok : Nat
  lastAdv : Nat
  holds : List Hold
  rampHold : Nat
  publishHold : Nat
  stitch : Bool
  strands : Vector Strand 4
  tiles : FMap Nat Tile
  agPending : Vector Nat 16
  tacks : List Flight
  hint : List Nat
  load : Option Load
  shadow : Option Shadow
  counters : Vector Counter 4
  faulted : List FaultRec
  skips : List (Nat × Nat)
  rowRun : Option Bool
  seeds : List W32
  armedAt : Nat
  chalk : Option ChalkArm
  chalkHit : Bool
  agLast : FMap Nat Nat
  rowAt : Nat × Nat
  half : Option (List Nat)
  deriving DecidableEq, Repr

/-! ## Tasks and garments -/

/-- A task record (R192). -/
structure TaskRec where
  addr : Word
  args : Word
  npanels : Nat
  prio : Nat
  bound : Nat
  taskPolicy : BitVec 2
  garmentPolicy : BitVec 2
  nonPreempt : Bool
  opened : Bool
  deps : List (BitVec 32)
  graph : Nat
  gpmask : Word
  image : List Word
  deriving DecidableEq, Repr

/-- How far a task is (R20, R22, R27); `barred` is a task whose access at admission was left unresolved (R355). -/
inductive TaskState where
  | opened | waiting | ready | held | barred | loading | running | done | error | discarded
  deriving DecidableEq, Repr

/-- A slot of the frame held for a path of a garment (R33): its number, the task's entry, the number of the sending panel, the number of the
path among that panel's; `half`: the first of the two slots of a half-rate panel's transfer. -/
structure FrameSlot where
  slot : Nat
  entry : Nat
  panel : Nat
  path : Nat
  half : Bool
  deriving DecidableEq, Repr

/-- A dependence of a task (R22, R195). -/
inductive Dep where
  | task (id : BitVec 32)
  | word (pa : Nat) (value : Word)
  deriving DecidableEq, Repr

/-- A fitting plan and its results (R201-R203): the plan, the pass under way, the captured pages with the seal domains that their sectors had,
the counts and signatures recorded. -/
structure Fitting where
  passes : Nat
  buffer : Word
  pages : Nat
  slots : List (List (Nat × Nat))
  pass : Nat
  bufferPas : List Nat
  captured : List Nat
  tags : List (FMap Nat (Nat × Nat))
  overflow : Bool
  counts : List (List Word)
  sigs : List Word
  sigParts : List (Nat × Nat × Word)
  deriving DecidableEq, Repr

/-- An entry of the dependence table (R22, R191): the task and the garment it launches; `retries`: the retries absorbed within its
execution, by level and, for a panel or strand, the number of the panel in pattern order and the strand (R21); `gbarArrived`: the strands
that have arrived, by panel number in pattern order (R120). -/
structure TaskEntry where
  gen : Nat
  ctx : Nat
  record : TaskRec
  state : TaskState
  deps : List Dep
  ndeps : Nat
  submitPriv : Priv
  inReplay : Bool
  age : Nat
  bypass : Nat
  admitted : Bool
  panels : List Nat
  frames : List Nat
  thread : Option Nat
  retries : FMap (Nat × Nat) Nat
  fit : Option Fitting
  frozen : Option (List Panel × List Thread × Nat)
  deferred : Bool
  wantFreeze : Bool
  saveSlot : Nat
  gbarArrived : List (Nat × Nat)
  gbarMerge : Bool
  deriving DecidableEq, Repr

/-- A resident pattern in the phase tables of blocks (R24, R26): the load that wrote it, the numbers of its entries in each element's
table, whether it is owned by a placed panel, and when it was freed. -/
structure TableUse where
  loadId : Nat
  entries : List Nat
  owner : Option Nat
  freedAt : Nat
  deriving DecidableEq, Repr

/-- What a load wrote (R24): context, image address, origin and shape, the image. -/
structure LoadInfo where
  ctx : Nat
  addr : Word
  bx : Nat
  byy : Nat
  image : Image
  deriving DecidableEq, Repr

/-! ## Engines -/

/-- A copy template (R178). -/
structure Template where
  src : Word
  dst : Word
  length : Nat
  cw : Bool
  peer : Nat
  sstride : Word
  dstride : Word
  cwaddr : Word
  cwval : Word
  deriving DecidableEq, Repr

/-- A copy accepted by a channel (R180): its addresses, what it has read and written so far (one bit per 512-byte part), the physical ranges that
it has written; its issuer, the `uid` of the issuer's panel (0 for a core), privilege and task; the flits sent to a peer that it has not
answered (R344). -/
structure Copy where
  src : Word
  dst : Word
  length : Nat
  peer : Nat
  cw : Bool
  cwaddr : Word
  value : Word
  party : Party
  uid : Nat
  priv : Priv
  task : BitVec 32
  readParts : List (Nat × List Byte)
  wroteParts : List Nat
  ranges : List (Nat × Nat)
  heldFault : Bool
  cwChecked : Bool
  failed : Bool
  unanswered : Nat
  deriving DecidableEq, Repr

/-- A channel of a context's copy engine (R180, R181). -/
structure Channel where
  queue : List Copy
  fault : Bool
  deriving DecidableEq, Repr

/-- The modes and masks of the HBM map (R85-R87). -/
structure HbmMap where
  mode : List Nat
  mc : FMap Nat Word
  mp : FMap Nat Word
  deriving DecidableEq, Repr

/-- The paths of a press span (R302). -/
inductive PressPath where
  | subarray | bank | fallback
  deriving DecidableEq, Repr

/-- What a press command knows before its first write (R300): its spans, the pages of its operands (physical address and
seal domain), the pattern, the completion record's address and domain, the map read once, the path of each span. -/
structure PressPlan where
  count : Nat
  dst : List (Nat × Nat)
  srcs : List (List (Nat × Nat))
  pattern : Word
  record : Option (Nat × Nat)
  map : HbmMap
  paths : List PressPath
  deriving DecidableEq, Repr

/-- A press command accepted (R296-R309): its form, operands and issuer; its record once read; its plan; the source lines read, by number,
with their bytes and the sectors that carry an error, the lines written; a held fault and whether it is the completion record's; its code.
-/
structure PressCmd where
  op : Nat
  ctx : Nat
  party : Party
  uid : Nat
  dst : Word
  desc : Word
  record : Word
  priv : Priv
  task : BitVec 32
  data : List Byte
  plan : Option PressPlan
  ready : List (Nat × List Byte × List Nat)
  wrote : List Nat
  heldFault : Bool
  heldRecord : Bool
  failed : Option Nat
  deriving DecidableEq, Repr

/-- A quilt command accepted (R290, R291): its form, operands and issuer; how far it is (0 not begun, 1 past its read phase,
2 done); the record read; the pages translated (page number, physical address, domain, for writing); the private nodes of its path and
those still to make private; slots and refcount increments reserved, and the pool; the completion word's address, result
fields and code; the events it counts; a held fault and whether it is the completion word's; its failure code. -/
structure QuiltCmd where
  op : Nat
  ctx : Nat
  party : Party
  uid : Nat
  a : Word
  b : Word
  record : Word
  priv : Priv
  task : BitVec 32
  stage : Nat
  data : List Byte
  pages : List (Nat × Nat × Nat × Bool)
  script : List (List Byte)
  reserved : Nat
  pool : Nat
  incs : List Nat
  cw : Option (Nat × Nat)
  word : Nat
  code : Nat
  evs : List (Nat × Nat)
  heldFault : Bool
  heldRecord : Bool
  failed : Option Nat
  deriving DecidableEq, Repr

/-- A command of a bobbin unit accepted (R110, R189): the bytes it has still to write, to memory or to a scratch location of its issuer's
panel (tile) or core (none), its task and its context. -/
structure BobbinCmd where
  uid : Nat
  task : BitVec 32
  ctx : Nat
  parts : List MemPart
  scratch : Option (Option Nat × Nat × List Byte)
  deriving DecidableEq, Repr

/-! ## Memory system -/

/-- The unit that issued a request to memory (R197): a service core, or a panel by its `uid`. -/
inductive Writer where
  | core (core : Nat)
  | panel (uid : Nat)
  deriving DecidableEq, Repr

/-- An update in a home queue (R99): the bytes it writes, the seal domain it writes under, the task it is issued for; a press write goes
past the L2 to memory (R311); the sectors whose poison ends with it (R327), and the unit that issued it (R197). -/
structure Update where
  cells : Cells
  dom : Nat
  task : BitVec 32
  past : Bool
  cures : List Nat
  writer : Option Writer
  deriving DecidableEq, Repr

/-- A read or an `amo` of a thread that waits in a home queue (R97, R99): its number, the thread, the bytes it names, its seal domain and
task; for an `amo` the kind, the operand and the value that `cas` expects. -/
structure HomeAsk where
  id : Nat
  party : Party
  pa : Nat
  n : Nat
  dom : Nat
  task : BitVec 32
  amo : Option (Nat × Nat × Nat)
  deriving DecidableEq, Repr

/-- What waits in a home queue (R97). -/
inductive HomeReq where
  | update (u : Update)
  | ask (a : HomeAsk)
  deriving DecidableEq, Repr

/-- The read or `amo` that a thread has placed in a home queue and waits for: its number, the instruction, the bytes it names and those of
them that the thread's log or cache held, the first byte asked of the home, whether it is an `amo`, and once it is answered the bytes read, with
the first poisoned sector among them (R99, R100, R327). -/
structure Asked where
  id : Nat
  instr : Instr
  tg : Nat × Nat
  held : Cells
  base : Nat
  amo : Bool
  reply : Option (List Byte × Option Nat)
  deriving DecidableEq, Repr

/-- A run of sectors from `lo` to below `hi` that hold dirty bytes in the L2, and the unit that wrote them last (R197, R311). -/
structure DirtyRun where
  lo : Nat
  hi : Nat
  writer : Option Writer
  deriving DecidableEq, Repr

/-- A logged `amo` (R116). -/
structure DEntry where
  addr : Nat
  issuer : Nat
  strand : Nat
  seq : Nat
  kind : Nat
  wide : Bool
  operand : Word
  entry : Nat
  dom : Nat
  deriving DecidableEq, Repr

/-- A TLB entry (R93): the unit that holds it, its context, the base and level of the page, the leaf. -/
structure TlbEntry where
  unit : Nat
  ctx : Nat
  base : Nat
  level : Nat
  leaf : Word
  deriving DecidableEq, Repr

/-- A word held by an instruction cache (R74). -/
structure IcWord where
  owner : Party
  pa : Nat
  word : W32
  deriving DecidableEq, Repr

/-- The sideband of a resident line (R82): 16 scale bytes, which of them are dirty, the unit and the task that wrote last, and whether the
bytes were poisoned when they were filled (R327). -/
structure Sideband where
  bytes : List Byte
  dirty : List Bool
  writer : Option Writer
  task : BitVec 32
  bad : Bool
  deriving DecidableEq, Repr

/-- An entry of the format range table (R83). -/
structure FrtEntry where
  base : Word
  limit : Word
  scale : Word
  deriving DecidableEq, Repr

/-- The scratch of a service core (R74, R76, R113), its words with an uncorrectable error (R326), its counters and L1. -/
structure Core where
  scratch : Cells
  empties : List Nat
  pins : List Nat
  bad : List Nat
  l1 : Cells
  counters : Vector Counter 4
  lastCtx : Option Nat
  deriving DecidableEq, Repr

/-- A core's scratch zero and full, its pin map clear, its L1 empty, its counters clear (DESIGN CHOICE, log 6, log 9, log 11). -/
def Core.clear : Core := ⟨[], [], [], [], [], Vector.replicate 4 Counter.clear, none⟩

/-! ## Contexts -/

/-- GREPLAY (R36) with the graph held for the pending replay, and whether a task or the graph of the running replay was killed, so that
its end sets fail. -/
structure Greplay where
  busy : Bool
  pend : Bool
  ovr : Bool
  fail : Bool
  bad : Bool
  graph : BitVec 8
  pendGraph : BitVec 8
  running : BitVec 8
  begun : Bool
  policy : BitVec 2
  failing : Bool
  deriving DecidableEq, Repr

/-- A context (R127, R315-R330, R340-R354): queued faults with the cycles they arose in (R321); `voided`: the object of the fault under
handling was killed, so that `c.fact` acts on nothing (R325); `dueSince`: the cycle in which the due fault arose. -/
structure Context where
  trapcause : Word
  trappc : Word
  trapval : Word
  fwhere : Word
  fpc : Word
  xlva : Word
  xlinfo : Word
  fact : Option (BitVec 2)
  ptroot : Word
  tvec : Word
  preempt : Word
  save : Word
  chalkbase : Word
  gtab : Word
  hwin : Word
  fsum : Word
  seeds : List Word
  greplay : Greplay
  cstat : Word
  slogn : Word
  sloga : Word
  cpol : BitVec 2
  scmap : BitVec 32
  gps : FMap (Nat × Nat) Word
  templates : FMap Nat Template
  chans : FMap Nat Channel
  faultQ : List (FaultRec × Nat)
  handling : Option (FaultRec × Nat)
  voided : Bool
  delivery : Option (FaultRec × Nat)
  dueSince : Nat
  groups : List Nat
  ranges : List Nat
  runtime : Option Nat
  chalkFired : List Nat
  fwreq : List (Nat × Word)
  killed : Bool
  slots : List (Nat × Nat)
  deriving DecidableEq, Repr

/-- The context page and registers right after reset: zero but for CPOL, which is 0b10 (R36, R83-R90, R315-R318,
R330, R341, R353; trappc, trapval and xlva DESIGN CHOICE, log 5). -/
def Context.clear : Context where
  trapcause := 0
  trappc := 0
  trapval := 0
  fwhere := 0
  fpc := 0
  xlva := 0
  xlinfo := 0
  fact := none
  ptroot := 0
  tvec := 0
  preempt := 0
  save := 0
  chalkbase := 0
  gtab := 0
  hwin := 0
  fsum := 0
  seeds := List.replicate 32 0
  greplay := ⟨false, false, false, false, false, 0, 0, 0, false, 0, false⟩
  cstat := 0
  slogn := 0
  sloga := 0
  cpol := 2
  scmap := 0
  gps := []
  templates := []
  chans := []
  faultQ := []
  handling := none
  voided := false
  delivery := none
  dueSince := 0
  groups := []
  ranges := []
  runtime := none
  chalkFired := []
  fwreq := []
  killed := false
  slots := []

/-! ## The platform -/

/-- A seam link (R344, R348): up or down, its inbound window and the window's seal domain, the flits of both directions since the last key,
its key's number; the flits that it has sent, oldest first; the departure of the last Sync sent (R345). -/
structure Link where
  up : Bool
  window : Nat × Nat
  dom : Nat
  flits : Nat
  key : Nat
  replays : Nat
  out : List Flit
  syncAt : Option Nat
  deriving DecidableEq, Repr

/-- The discipline of the frame clock (R345). -/
structure Clock where
  grandmaster : Bool
  lock : Bool
  master : Option Nat
  t1 : Option Nat
  t2 : Option Nat
  t3 : Option Nat
  t4 : Option Nat
  owed : Int
  lastFix : Nat
  lastSync : Nat
  deriving DecidableEq, Repr

/-- An answer of the security core (R346): the `c.devid` values of a certificate, the digest of a measurement, the bytes that the spec does
not give (certificate body, signature, key share); the context whose secured session encrypts and authenticates it, none in the clear. -/
structure SpdmAnswer where
  devid : List Word
  digest : Option (BitVec 256)
  body : BitVec 512
  session : Option Nat
  deriving DecidableEq, Repr

/-- The SPDM services of the security core (R346): the contexts with a secured session, the answers given; the measurement blocks 1 to 4 as
recorded. -/
structure Spdm where
  sessions : List Nat
  responses : List SpdmAnswer
  blocks : List (BitVec 256)
  deriving DecidableEq, Repr

/-- An answer to the host (R342): the bytes of a read, or an unsupported request. -/
inductive HostAnswer where
  | data (bytes : List Byte)
  | unsupported
  deriving DecidableEq, Repr

/-- What the scheduler of the model does next (DESIGN CHOICE, log 1): take a device step, let a party issue, or let it issue with its access
to a home left in the home queue (R99, R100). -/
inductive Action where
  | event (i : Instr)
  | party (p : Party)
  | queued (p : Party)
  deriving DecidableEq, Repr

/-- What a breakpoint names (R267, R294): a strand of a panel of a task, by the panel's number in pattern order, or a service-core thread.
-/
inductive BreakAt where
  | strand (task : BitVec 32) (panel strand : Nat)
  | core (thread : Nat)
  deriving DecidableEq, Repr

/-- The state of the part. `focus`, `agenda`, `fresh` and `nextId` are the model's own (DESIGN CHOICE, log 1, log 3). The debug unit has
holds with the cycle each began in, breakpoints of threads, one-shot breakpoints (panel, tile, element, row), and what
`set hold all` and `preempt` need (R267, R337, R338). -/
structure State where
  focus : Party
  agenda : List Action
  fresh : Nat
  nextId : Nat
  threads : FMap Party Thread
  contexts : FMap Nat Context
  panels : FMap Nat Panel
  tasks : FMap Nat TaskEntry
  gens : FMap Nat Nat
  blocked : Option Nat
  frames : List FrameSlot
  tables : FMap Nat (List TableUse)
  loads : FMap Nat LoadInfo
  mem : List Host.Cell
  homeQ : FMap Nat (List HomeReq)
  asked : FMap Party Asked
  dlog : FMap Nat (List DEntry)
  poison : List Nat
  seals : FMap Nat (Nat × Nat)
  sides : FMap Nat Sideband
  l2 : List Nat
  l2Dom : FMap Nat Nat
  l2Dirty : List DirtyRun
  frt : FMap Nat FrtEntry
  hbmMode : List Nat
  hbmMc : FMap Nat Word
  hbmMp : FMap Nat Word
  tlb : List TlbEntry
  icache : List IcWord
  cores : FMap Nat Core
  cycle : Nat
  tick : Word
  clock : Clock
  failedBlocks : List Nat
  mailbox : List (Nat × Nat)
  rollback : Nat
  links : FMap Nat Link
  press : FMap Nat PressCmd
  quilts : FMap Nat QuiltCmd
  bobbin : FMap Party (List BobbinCmd)
  hot : List Nat
  selfRefresh : List (Nat × Nat)
  spdm : Spdm
  keys : FMap Nat Nat
  epochs : FMap Nat Nat
  tdiRun : List Nat
  hostUp : Bool
  hostBad : List Nat
  verified : Bool
  ports : FMap Nat Nat
  outbox : List HostAnswer
  debugHolds : List (Party × Nat)
  breaks : List (BreakAt × Word)
  tbreaks : List (Nat × Nat × Nat × Nat)
  holdAll : Bool
  henidTasks : List (BitVec 32)
  unplaced : List (BitVec 32)
  deriving DecidableEq, Repr

/-- The part right after a cold reset (R352): no context enabled, memory of the first and second tier zero, every table
and queue empty; the security core at machine privilege (R346; DEDUCED, log 2, log 4). (DEDUCED, log 12)
(DESIGN CHOICE, log 13) (DEDUCED, log 14) -/
def State.reset : State where
  focus := .core 32
  agenda := []
  fresh := 0
  nextId := 1
  threads := [(.core 32, { Thread.clear with priv := .machine })]
  contexts := []
  panels := []
  tasks := []
  gens := []
  blocked := none
  frames := []
  tables := []
  loads := []
  mem := []
  homeQ := []
  asked := []
  dlog := []
  poison := []
  seals := []
  sides := []
  l2 := []
  l2Dom := []
  l2Dirty := []
  frt := []
  hbmMode := []
  hbmMc := []
  hbmMp := []
  tlb := []
  icache := []
  cores := []
  cycle := 0
  tick := 0
  clock := ⟨false, true, none, none, none, none, none, 0, 0, 0⟩
  failedBlocks := []
  mailbox := []
  rollback := 0
  links := []
  press := []
  quilts := []
  bobbin := []
  hot := []
  selfRefresh := []
  spdm := ⟨[], [], List.replicate 4 0⟩
  keys := []
  epochs := []
  tdiRun := []
  hostUp := true
  hostBad := []
  verified := true
  ports := []
  outbox := []
  debugHolds := []
  breaks := []
  tbreaks := []
  holdAll := false
  henidTasks := []
  unplaced := []

end Sys2Proof.Machine
end

