-- ==== Sys2Proof/Machine/Memory.lean ====
section
/-! DEFINITION. Bytes and memory: the canonical list of home copies, seals and poison at the home (R80, R327), the physical map (R85-R88);
parties and their registers, counters (R197) and the fault summary (R324). -/

namespace Sys2Proof.Machine

open Sys2Proof

/-! ## Bits and bytes -/

/-- Sign extension to 64 bits (R130). -/
def sext64 {n : Nat} (b : BitVec n) : Word := b.signExtend 64

/-- Zero extension to 64 bits (R130). -/
def zext64 {n : Nat} (b : BitVec n) : Word := b.setWidth 64

/-- The field of bits hi:lo as a number. -/
def bitsOf (w : Word) (lo len : Nat) : Nat := (w.extractLsb' lo len).toNat

/-- The low `n` bytes of a number, least significant first (R1). -/
def toBytes : Nat → Nat → List Byte
  | 0, _ => []
  | n + 1, v => BitVec.ofNat 8 v :: toBytes n (v / 256)

/-- The number that bytes hold, least significant first (R1). -/
def ofBytes : List Byte → Nat
  | [] => 0
  | b :: l => b.toNat + 256 * ofBytes l

/-- The word of eight bytes. -/
def wordOf (bs : List Byte) : Word := BitVec.ofNat 64 (ofBytes bs)

/-- Bit `i` of `x` moved to bit 0 of a Bool. -/
def bitAt (x : Nat) (i : Nat) : Bool := x / 2 ^ i % 2 == 1

/-! ## Memory as a canonical list of cells -/

/-- The byte at an address; an address not listed reads as zero (R352; DESIGN CHOICE, log 10). -/
def readCell : Cells → Nat → Byte
  | [], _ => 0
  | (a', b) :: l, a => if a' = a then b else if a < a' then 0 else readCell l a

/-- The list with the byte at an address set, kept canonical: a zero byte is not listed. -/
def writeCell : Cells → Nat → Byte → Cells
  | [], a, b => if b = 0 then [] else [(a, b)]
  | (a', b') :: l, a, b =>
    if a < a' then (if b = 0 then (a', b') :: l else (a, b) :: (a', b') :: l)
    else if a' = a then (if b = 0 then l else (a, b) :: l)
    else (a', b') :: writeCell l a b

/-- Every address listed lies above `lo`, strictly rising, and no byte listed is zero. -/
def cellsAbove : Nat → Cells → Bool
  | _, [] => true
  | lo, (a, b) :: l => decide (lo ≤ a) && (b != 0) && cellsAbove (a + 1) l

/-- The canonical form of memory. -/
def Memory.wf (m : Cells) : Bool := cellsAbove 0 m

/-- The `n` bytes at an address. -/
def readBytes (m : Cells) (a : Nat) : Nat → List Byte
  | 0 => []
  | n + 1 => readCell m a :: readBytes m (a + 1) n

/-- The list with bytes written from an address upward. -/
def writeBytes (m : Cells) (a : Nat) : List Byte → Cells
  | [] => m
  | b :: bs => writeBytes (writeCell m a b) (a + 1) bs

/-- The list with every cell of a list of cells written. -/
def writeCells (m : Cells) : Cells → Cells
  | [] => m
  | (a, b) :: l => writeCells (writeCell m a b) l

/-- The list with the addresses from `lo` to below `hi` zero. -/
def clearRange (m : Cells) (lo hi : Nat) : Cells := m.filter fun c => decide (c.1 < lo) || decide (hi ≤ c.1)

/-- The list with the `n` bytes at `src` copied to `dst`. -/
def copyCells (m : Cells) (src dst n : Nat) : Cells :=
  writeCells (clearRange m dst (dst + n))
    ((m.filter fun c => decide (src ≤ c.1) && decide (c.1 < src + n)).map fun c => (c.1 - src + dst, c.2))

/-! ## The physical address space (R81, R85-R88) -/

/-- What a physical address names (R88). -/
inductive PaKind where
  | first | second | device | host | nothing
  deriving DecidableEq, Repr

/-- The size of the memory behind a CXL port: as populated, 256 GiB where nothing says less (R88; DESIGN CHOICE, log 21). -/
def portSize (s : State) (p : Nat) : Nat := FMap.getD s.ports p (2 ^ 38)

/-- The target of a physical address (R88). -/
def paKind (s : State) (pa : Nat) : PaKind :=
  if pa < 0x00C000000000 then .first
  else if 0x010000000000 ≤ pa ∧ pa < 0x030000000000 then
    let p := (pa - 0x010000000000) / 2 ^ 38
    if (pa - 0x010000000000) % 2 ^ 38 < portSize s p then .second else .nothing
  else if 0x0F0000000000 ≤ pa ∧ pa < 0x100000000000 then .device
  else if 2 ^ 51 ≤ pa ∧ pa < 2 ^ 52 then .host
  else .nothing

/-- The home slice of an address (R81). -/
def sliceOf (pa : Nat) : Nat :=
  (pa / 2 ^ 8 % 512) ^^^ (pa / 2 ^ 17 % 512) ^^^ (pa / 2 ^ 26 % 512) ^^^ (pa / 2 ^ 35 % 512) ^^^ (pa / 2 ^ 44 % 256)

/-- The line of an address: its number in units of 256 bytes (R81). -/
def lineOf (pa : Nat) : Nat := pa / 256

/-- The sector of an address: its number in units of 32 bytes. -/
def sectorOf (pa : Nat) : Nat := pa / 32

/-! ## Seals and poison at the home (R80, R327, R347) -/

/-- The installation of a domain's key in force (R347). -/
def epochOf (s : State) (dom : Nat) : Nat := if dom = 0 then 0 else FMap.getD s.epochs dom 0

/-- The sector was written under the key that a domain has now (R80). -/
def sealFits (s : State) (dom sec : Nat) : Bool := FMap.getD s.seals sec (0, 0) == (dom, epochOf s dom)

/-- What the 32 bytes of a sector read as under a domain's key (R80; DESIGN CHOICE, log 16). -/
def sectorView (s : State) (dom sec : Nat) : BitVec 256 :=
  let plain := BitVec.ofNat 256 (ofBytes (readBytes s.mem (sec * 32) 32))
  let tag := FMap.getD s.seals sec (0, 0)
  if tag == (dom, epochOf s dom) then plain
  else Config.sealView tag.1 tag.2 dom (epochOf s dom) sec plain

/-- The byte at an address as an access of a domain reads it at the home. -/
def homeByte (s : State) (dom pa : Nat) : Byte :=
  if sealFits s dom (sectorOf pa) then readCell s.mem pa
  else (sectorView s dom (sectorOf pa)).extractLsb' (8 * (pa % 32)) 8

/-- The `n` bytes at an address as an access of a domain reads them at the home. -/
def homeBytes (s : State) (dom pa : Nat) : Nat → List Byte
  | 0 => []
  | n + 1 => homeByte s dom pa :: homeBytes s dom (pa + 1) n

/-- The sector retagged for a writer of a domain: bytes it does not write are the ciphertext decrypted under its key. -/
def sealSector (s : State) (dom sec : Nat) : State :=
  if sealFits s dom sec then s
  else
    let bytes := toBytes 32 (sectorView s dom sec).toNat
    let tag := (dom, epochOf s dom)
    { s with
      mem := writeBytes s.mem (sec * 32) bytes
      seals := if tag = (0, 0) then FMap.erase s.seals sec else FMap.set s.seals sec tag }

/-- Some byte of a range is poisoned (R327). -/
def poisoned (s : State) (pa n : Nat) : Bool :=
  s.poison.any fun sec => decide (sec * 32 < pa + n) && decide (pa < sec * 32 + 32)

/-- The first poisoned sector of a range (R314, R327). -/
def badSector (s : State) (pa n : Nat) : Option Nat :=
  (List.range ((pa + n + 31) / 32 - pa / 32)).map (pa / 32 + ·) |>.find? fun sec => s.poison.contains sec

/-- The cells of a sector that a list of cells writes. -/
def coversSector (cells : Cells) (sec : Nat) : Bool :=
  (List.range 32).all fun i => cells.any fun c => c.1 == sec * 32 + i


/-! ## Contexts -/

/-- The context of a number. -/
def State.ctxt (s : State) (c : Nat) : Context := FMap.getD s.contexts c Context.clear

/-- The state with a context replaced. -/
def State.setCtxt (s : State) (c : Nat) (x : Context) : State := { s with contexts := FMap.set s.contexts c x }

/-- The seal domain of a context: CSTAT.seal (R341). -/
def ctxDomain (s : State) (c : Nat) : Nat := bitsOf (s.ctxt c).cstat 48 6

/-- The unit of 512 MiB that an address lies in is assigned to the context (R354): its group of the first tier, or its
unit of the second. -/
def assignedUnit (s : State) (c u : Nat) : Bool :=
  if u < 1536 then (s.ctxt c).groups.contains (u / 12)
  else if decide (2048 ≤ u) && decide (u < 6144) then (s.ctxt c).ranges.contains u
  else true

/-- Every unit of a page that belongs to the first or second tier is assigned to the context (R91). -/
def assignedPage (s : State) (c base size : Nat) : Bool :=
  (List.range (max 1 (size / 2 ^ 29))).all fun i => assignedUnit s c (base / 2 ^ 29 + i)

/-- A completion from a page of host memory carries an error status (R340). -/
def hostFails (s : State) (pa : Nat) : Bool := paKind s pa == .host && s.hostBad.contains (pa / 65536)

/-! ## Parties and registers -/

/-- The thread of a party; a sequencer, slice engine or core not listed is as at reset (DESIGN CHOICE, log 5). -/
def State.thread (s : State) (p : Party) : Thread := FMap.getD s.threads p Thread.clear

/-- The state with the thread of a party replaced. -/
def State.setThread (s : State) (p : Party) (t : Thread) : State := { s with threads := FMap.set s.threads p t }

/-- The thread that the instruction runs on. -/
def State.cur (s : State) : Thread := s.thread s.focus

/-- The state with that thread replaced. -/
def State.setCur (s : State) (t : Thread) : State := s.setThread s.focus t

/-- Register x of a thread; g0 reads zero (R123). -/
def Thread.get (t : Thread) (x : Reg) : Word := if x = 0#5 then 0#64 else t.g[x.toNat]'(x.isLt)

/-- Register x of a thread written; a write to g0 is discarded (R124). -/
def Thread.put (t : Thread) (x : Reg) (v : Word) : Thread :=
  if x = 0#5 then t else { t with g := t.g.set x.toNat v x.isLt }

/-- g[x] of the running thread. -/
def State.g (s : State) (x : Reg) : Word := s.cur.get x

/-- The state with g[x] of the running thread written (R124). -/
def State.setG (s : State) (x : Reg) (v : Word) : State := s.setCur (s.cur.put x v)

/-- A panel. -/
def State.panel? (s : State) (p : Nat) : Option Panel := FMap.get? s.panels p

/-- The state with a panel replaced. -/
def State.setPanel (s : State) (p : Nat) (x : Panel) : State := { s with panels := FMap.set s.panels p x }

/-- The state with a panel, if it exists, changed. -/
def State.modPanel (s : State) (p : Nat) (f : Panel → Panel) : State :=
  match s.panel? p with
  | some x => s.setPanel p (f x)
  | none => s

/-- A tile of a panel. -/
def Panel.tile (x : Panel) (t : Nat) : Tile := FMap.getD x.tiles t Tile.clear

/-- The panel with a tile replaced. -/
def Panel.setTile (x : Panel) (t : Nat) (y : Tile) : Panel := { x with tiles := FMap.set x.tiles t y }

/-- The tiles of a panel (R8: a block is 2 rows by 4 columns). -/
def Panel.ntiles (x : Panel) : Nat := 8 * x.image.width * x.image.height

/-- A strand of a panel. -/
def Panel.strand (x : Panel) (i : Nat) : Strand := x.strands[i % 4]'(Nat.mod_lt _ (by decide))

/-- The panel with a strand replaced. -/
def Panel.setStrand (x : Panel) (i : Nat) (y : Strand) : Panel :=
  { x with strands := x.strands.set (i % 4) y (Nat.mod_lt _ (by decide)) }

/-- The panel that a party belongs to. -/
def partyPanel : Party → Option Nat
  | .seq p _ => some p
  | .slice p _ => some p
  | .tile p _ => some p
  | .core _ => none

/-- The strand that a party belongs to. -/
def partyStrand : Party → Nat
  | .seq _ i => i
  | .slice _ i => i
  | _ => 0

/-- The context of a party: of its panel, or of its thread (R340). -/
def partyCtx (s : State) (p : Party) : Nat :=
  match partyPanel p with
  | some x => ((s.panel? x).map (·.ctx)).getD 0
  | none => (s.thread p).ctx

/-- The privilege of a party; sequencers, slices and tiles never run above user (R313). -/
def partyPriv (s : State) (p : Party) : Priv :=
  match p with
  | .core _ => (s.thread p).priv
  | _ => .user

/-- The task identifier of a dependence-table entry (R191). -/
def taskId (s : State) (entry : Nat) : BitVec 32 :=
  match FMap.get? s.tasks entry with
  | some e => BitVec.ofNat 32 (e.gen * 2 ^ 13 + entry % 2 ^ 13)
  | none => 0

/-- The `uid` of a party's panel; 0 for a core. -/
def partyUid (s : State) (p : Party) : Nat := (((partyPanel p).bind s.panel?).map (·.uid)).getD 0

/-- The task of a party. -/
def partyTask (s : State) (p : Party) : BitVec 32 :=
  match partyPanel p with
  | some x => ((s.panel? x).map fun y => taskId s y.entry).getD 0
  | none => (s.thread p).task

/-- The logical block number of a panel's lead block: 16·by + bx (R81). -/
def Panel.lead (x : Panel) : Nat := 16 * x.byy + x.bx

/-- The issuer number of a party (R116): 64·y + x of the top-left tile of the lead block, whose number is the panel's, or 4,096 + 2·core +
thread. -/
def issuerNo (p : Party) : Nat :=
  match partyPanel p with
  | some x => 64 * (2 * (x / 16)) + 4 * (x % 16)
  | none =>
    match p with
    | .core n => 4096 + n
    | _ => 0

/-- The core of a service-core thread. -/
def coreOf : Party → Nat
  | .core n => n / 2
  | _ => 0

/-- The core's own state. -/
def State.core? (s : State) (c : Nat) : Core := FMap.getD s.cores c Core.clear

/-- The state with a core's own state replaced. -/
def State.setCore (s : State) (c : Nat) (x : Core) : State := { s with cores := FMap.set s.cores c x }

/-- Every field of a list of entries changed by its key and value. -/
def mapVals {κ α : Type} (f : κ → α → α) (m : FMap κ α) : FMap κ α := m.map fun (k, v) => (k, f k v)

/-! ## Counters (R197) -/

/-- A counter that counts an event with a location qualifier takes `n` more: it wraps at 2^48 and sets its flag. -/
def Counter.add (c : Counter) (ev n : Nat) : Counter :=
  if c.event = some ev then
    { c with count := BitVec.ofNat 48 (c.count.toNat + n), ovf := c.ovf || decide (2 ^ 48 ≤ c.count.toNat + n) }
  else c

/-- An event of a panel counted (R197). -/
def Panel.count (x : Panel) (ev n : Nat) : Panel := { x with counters := x.counters.map fun c => c.add ev n }

/-- An event of a party counted in the counters of its panel or core (R197). -/
def countFor (s : State) (p : Party) (ev n : Nat) : State :=
  match p with
  | .core c => s.setCore (c / 2) { s.core? (c / 2) with counters := (s.core? (c / 2)).counters.map fun x => x.add ev n }
  | .seq x _ => s.modPanel x fun y => y.count ev n
  | .slice x _ => s.modPanel x fun y => y.count ev n
  | .tile x _ => s.modPanel x fun y => y.count ev n

/-! ## The fault summary (R324) -/

/-- A field of FSUM raised by one, saturating, and the cause recorded as the last counted. -/
def fsumAdd (w : Word) (lo len : Nat) (cause : Cause) : Word :=
  let v := bitsOf w lo len
  let v' := if v + 1 < 2 ^ len then v + 1 else v
  BitVec.ofNat 64 (w.toNat - v * 2 ^ lo - w.toNat % 32 + v' * 2 ^ lo + cause.num)

/-- FSUM of a context counted: field at bit 48 ignored, 32 contained, 16 late (16 bits), 8 dropped (8 bits).
(DEDUCED, log 66) -/
def countFault (s : State) (c lo len : Nat) (cause : Cause) : State :=
  s.setCtxt c { s.ctxt c with fsum := fsumAdd (s.ctxt c).fsum lo len cause }

end Sys2Proof.Machine
end

