-- ==== Sys2Proof/Machine/L2.lean ====
section
/-! DEFINITION. The home of a line: the HBM map (R85-R87), the L2 with its domains, sidebands and write-backs (R80-R84, R311, R327), the
home queues with their updates, reads and `amo`s (R97-R101, R176), and what an update does (R202, R266, R327). -/

namespace Sys2Proof.Machine

open Sys2Proof

/-! ## The HBM map (R85-R87) -/

/-- Parity of a number's low bits. -/
def parityBits (x : Nat) : Nat → Bool
  | 0 => false
  | n + 1 => (parityBits x n) != bitAt x n

/-- fold5 of PA[51:14] under a mask (R86). -/
def fold5 (x : Nat) : Nat :=
  (x / 2 ^ 14 % 32) ^^^ (x / 2 ^ 19 % 32) ^^^ (x / 2 ^ 24 % 32) ^^^ (x / 2 ^ 29 % 32) ^^^ (x / 2 ^ 34 % 32) ^^^
    (x / 2 ^ 39 % 32) ^^^ (x / 2 ^ 44 % 32) ^^^ (x / 2 ^ 49 % 8)

/-- The map of a state. -/
def hbmOf (s : State) : HbmMap := ⟨s.hbmMode, s.hbmMc, s.hbmMp⟩

/-- The stack and stack-internal address of a first-tier address (R85). -/
def stackAddr (m : HbmMap) (pa : Nat) : Nat × Nat :=
  let n := pa / 2 ^ 29
  if m.mode.contains (n / 12) then (n % 12, n / 12 * 2 ^ 29 + pa % 2 ^ 29)
  else (pa / 2 ^ 20 % 12, pa / 2 ^ 20 / 12 * 2 ^ 20 + pa % 2 ^ 20)

/-- The hash of a first-tier address: channel bits and pseudo-channel bit (R86). -/
def hbmHash (m : HbmMap) (pa : Nat) : Nat × Bool :=
  let n := pa / 2 ^ 29
  (fold5 (pa &&& (FMap.getD m.mc n 0#64).toNat), parityBits (pa &&& (FMap.getD m.mp n 0#64).toNat) 52)

/-- The location of a byte in a stack (R86): the internal address with its channel and pseudo-channel bits hashed. -/
def dramLoc (m : HbmMap) (pa : Nat) : Nat × Nat :=
  let (st, a) := stackAddr m pa
  let (ch, pc) := hbmHash m pa
  (st, a / 2 ^ 14 * 2 ^ 14 + ((a / 2 ^ 9 % 32) ^^^ ch) * 2 ^ 9 + ((a / 2 ^ 8 % 2) ^^^ pc.toNat) * 2 ^ 8 + a % 2 ^ 8)

/-- The physical address of a location (R85, R86): the map of R86 is a bijection on each 16 KiB block. -/
def paOfLoc (m : HbmMap) (st a : Nat) : Nat :=
  let hi := a / 2 ^ 14 * 2 ^ 14
  let base := if m.mode.contains (a / 2 ^ 29) then (a / 2 ^ 29 * 12 + st) * 2 ^ 29 + hi % 2 ^ 29
              else (hi / 2 ^ 20 * 12 + st) * 2 ^ 20 + hi % 2 ^ 20
  let (ch, pc) := hbmHash m base
  base + ((a / 2 ^ 9 % 32) ^^^ ch) * 2 ^ 9 + ((a / 2 ^ 8 % 2) ^^^ pc.toNat) * 2 ^ 8 + a % 2 ^ 8

/-- The channel and pseudo-channel of an address as ev47-ev51 number them: stack, and 2c + p (R198). -/
def hbmPlace (m : HbmMap) (pa : Nat) : Nat × Nat := let (st, a) := dramLoc m pa; (st, a / 2 ^ 8 % 64)

/-! ## Sectors in the L2 (R80-R84, R311) -/

/-- A format range table entry covers a physical address (R83). -/
def FrtEntry.covers (e : FrtEntry) (pa : Nat) : Bool :=
  e.base.getLsbD 63 && decide (bitsOf e.base 16 36 ≤ pa / 65536) && decide (pa / 65536 ≤ bitsOf e.limit 16 36)

/-- The lowest-numbered valid entry that covers an address (R83). -/
def frtFind (s : State) (pa : Nat) : Option FrtEntry :=
  ((List.range 16).filterMap fun n => FMap.get? s.frt n).find? fun e => e.covers pa

/-- The scale address of a code line (R84). -/
def scaleAddr (e : FrtEntry) (pa : Nat) : Nat := bitsOf e.scale 4 48 * 16 + (pa - bitsOf e.base 16 36 * 65536) / 256 * 16

/-- The unit of a party: its core or its panel. -/
def writerOf (s : State) (p : Party) : Option Writer :=
  match p with
  | .core n => some (.core (n / 2))
  | p => ((partyPanel p).bind s.panel?).map fun x => .panel x.uid

/-- An event of a pseudo-channel counted where a counter's qualifier names it (R198). -/
def Counter.addAt (c : Counter) (ev st pc : Nat) : Counter :=
  if (c.qual % 16 = 15 ∨ c.qual % 16 = st) ∧ (c.qual / 16 % 128 = 127 ∨ c.qual / 16 % 128 = pc) then c.add ev 1 else c

/-- A burst counted for the unit that issued the request, at the stack and pseudo-channel of its sector (R197, R198, R311). -/
def countBurst (s : State) (w : Option Writer) (ev sec : Nat) : State :=
  let (st, pc) := hbmPlace (hbmOf s) (32 * sec)
  match w with
  | some (.core c) => s.setCore c { s.core? c with counters := (s.core? c).counters.map fun x => x.addAt ev st pc }
  | some (.panel uid) => { s with panels := mapVals (fun _ x =>
      if x.uid = uid then { x with counters := x.counters.map fun c => c.addAt ev st pc } else x) s.panels }
  | none => s

/-- Events of a unit counted. -/
def countWriter (s : State) (w : Option Writer) (ev n : Nat) : State :=
  match w with
  | some (.core c) => s.setCore c { s.core? c with counters := (s.core? c).counters.map fun x => x.add ev n }
  | some (.panel uid) => { s with panels := mapVals (fun _ x => if x.uid = uid then x.count ev n else x) s.panels }
  | none => s

/-- A line may be allocated in a cache: it lies in the first or second tier (R79, R81). -/
def cacheable (s : State) (line : Nat) : Bool :=
  paKind s (line * 256) == .first || paKind s (line * 256) == .second

/-- The L2 holds sectors of a line. -/
def hasSectors (s : State) (line : Nat) : Bool := s.l2.any fun sec => sec / 8 == line

/-- The line is resident in the L2 with sectors or a sideband. -/
def inL2 (s : State) (line : Nat) : Bool := hasSectors s line || (FMap.get? s.sides line).isSome

/-- Sectors from `lo` to below `hi` hold dirty bytes in the L2, last written by a unit (R197, R311). -/
def markDirty (rs : List DirtyRun) (lo hi : Nat) (w : Option Writer) : List DirtyRun :=
  ⟨lo, hi, w⟩ :: (rs.flatMap fun r => [⟨r.lo, min r.hi lo, r.writer⟩, ⟨max r.lo hi, r.hi, r.writer⟩]).filter fun r => decide (r.lo < r.hi)

/-- The sector holds dirty bytes in the L2. -/
def isDirty (rs : List DirtyRun) (sec : Nat) : Bool := rs.any fun r => decide (r.lo ≤ sec) && decide (sec < r.hi)

/-- The dirty sectors of a list without those from `lo` to below `hi`. -/
def cleanSectors (rs : List DirtyRun) (lo hi : Nat) : List DirtyRun :=
  (rs.flatMap fun r => [⟨r.lo, min r.hi lo, r.writer⟩, ⟨max r.lo hi, r.hi, r.writer⟩]).filter fun r => decide (r.lo < r.hi)

/-- The dirty sectors from `lo` to below `hi`, each with the unit that wrote it last. -/
def dirtyIn (rs : List DirtyRun) (lo hi : Nat) : List (Nat × Option Writer) :=
  rs.flatMap fun r => (List.range (min r.hi hi - max r.lo lo)).map fun i => (max r.lo lo + i, r.writer)

/-- Some sector of a line is dirty in the L2. -/
def hasDirty (rs : List DirtyRun) (line : Nat) : Bool := rs.any fun r => decide (r.lo < 8 * line + 8) && decide (8 * line < r.hi)

/-- The line is resident in the L2 under another seal domain than that of an access (R80). -/
def otherDomain (s : State) (dom line : Nat) : Bool :=
  (inL2 s line || hasDirty s.l2Dirty line) && FMap.getD s.l2Dom line 0 != dom

/-- The line carries the seal domain of the access that fills or writes it (R80). -/
def setL2Dom (s : State) (dom line : Nat) : State :=
  { s with l2Dom := if dom = 0 then FMap.erase s.l2Dom line else FMap.set s.l2Dom line dom }

/-- A sector that the L2 lacks is filled; one of the first tier is a read burst of the unit whose load asked for it (R311; DESIGN CHOICE,
log 31). -/
def fillSector (w : Option Writer) (dom : Nat) (s : State) (sec : Nat) : State :=
  if cacheable s (sec / 8) ∧ s.l2.contains sec = false then
    let s := setL2Dom { s with l2 := sec :: s.l2 } dom (sec / 8)
    if paKind s (32 * sec) = .first then countBurst s w 47 sec else s
  else s

/-- The dirty sectors from `lo` to below `hi` in the L2 are written back: one write burst for each of the first tier, of the unit that wrote it
last (R197, R311; DEDUCED, log 119). -/
def cleanRange (s : State) (lo hi : Nat) : State :=
  let secs := (dirtyIn s.l2Dirty lo hi).filter fun c => paKind s (32 * c.1) == .first
  { secs.foldl (fun s c => countBurst s c.2 48 c.1) s with l2Dirty := cleanSectors s.l2Dirty lo hi }

/-- The dirty sectors of a line are written back. -/
def cleanLine (s : State) (line : Nat) : State := cleanRange s (8 * line) (8 * line + 8)

/-- A line leaves the L2 with nothing written back. -/
def l2Drop (s : State) (line : Nat) : State :=
  { s with l2 := s.l2.filter fun sec => sec / 8 != line, l2Dom := FMap.erase s.l2Dom line }

/-- The contexts that a line's memory is assigned to. -/
def ownersOf (s : State) (line : Nat) : List Nat :=
  (s.contexts.filter fun c => assignedUnit s c.1 (line * 256 / 2 ^ 29)).map (·.1)

/-- A poisoned line that leaves a cache with no reader counts in FSUM.late (R327). (DEDUCED, log 88) -/
def countPoison (s : State) (line : Nat) : State :=
  if poisoned s (line * 256) 256 then (ownersOf s line).foldl (fun s c => countFault s c 16 16 .ecc) s else s

/-- The dirty bytes of a sideband with their scale addresses. -/
def dirtySide (sb : Sideband) (base : Nat) : Cells :=
  (List.range 16).filterMap fun i => if sb.dirty.getD i false then some (base + i, sb.bytes.getD i 0) else none

/-- The dirty sideband bytes of a line are written, as `wr` writes, to their scale address under the table in force, for the unit and task
that wrote them last; or dropped and counted for that unit (R84, R202; DEDUCED, log 120). -/
def evictSideWith (wr : State → Nat → Update → State) (s : State) (line : Nat) : State :=
  match FMap.get? s.sides line with
  | none => s
  | some sb =>
    let s := { s with sides := FMap.erase s.sides line }
    match frtFind s (line * 256) with
    | some e =>
      let a := scaleAddr e (line * 256)
      let cells := dirtySide sb a
      if cells.isEmpty then s else wr s a ⟨cells, 0, sb.task, false, [], sb.writer⟩
    | none => countWriter s sb.writer 41 (dirtySide sb 0).length

/-- A line leaves the L2 (R84, R99, R311, R327): its dirty sideband bytes and sectors are written back, a poisoned line is counted. -/
def evictWith (wr : State → Nat → Update → State) (s : State) (line : Nat) : State :=
  l2Drop (cleanLine (countPoison (evictSideWith wr s line) line) line) line

/-! ## Fitting captures (R42, R202, R266) -/

/-- The task is in pass 0 of a fitting run and the page is not yet captured, with room for it (R202). -/
def wantsCapture (f : Fitting) (page : Nat) : Bool :=
  f.pass == 0 && !f.captured.contains page && !f.overflow

/-- The dependence is a word at an address that now holds at least its value (R195). (DEDUCED, log 64) -/
def wordMet (s : State) (d : Dep) : Bool :=
  match d with
  | .word pa value => decide (value.toNat ≤ ofBytes (readBytes s.mem pa 8))
  | .task _ => false

/-- The dependence is a word that written bytes overlap. -/
def wordTouched (written : Nat → Bool) (d : Dep) : Bool :=
  match d with
  | .word pa _ => (List.range 8).any fun i => written (pa + i)
  | .task _ => false

/-- The word dependences that an update of these bytes meets are met (R195). -/
def releaseWords (s : State) (written : Nat → Bool) : State :=
  if s.tasks.isEmpty then s
  else { s with tasks := s.tasks.map fun (i, e) =>
      (i, { e with deps := e.deps.filter fun d => !(wordTouched written d && wordMet s d) }) }

/-- The seal domains and key installations of the sectors of a page, by the sector's place in it. -/
def pageTags (s : State) (pa : Nat) : FMap Nat (Nat × Nat) :=
  (s.seals.filter fun c => decide (pa / 32 ≤ c.1) && decide (c.1 < pa / 32 + 2048)).map fun c => (c.1 - pa / 32, c.2)

/-- A page of 64 KiB written at its homes with the bytes and the poison of another, its sectors under the given seal domains (R42, R202,
R266, R327): an engine write of every byte of the page. -/
def copyPage (s : State) (src dst : Nat) (tags : FMap Nat (Nat × Nat)) : State :=
  let a := src / 32
  let b := dst / 32
  let bad := (s.poison.filter fun c => decide (a ≤ c) && decide (c < a + 2048)).map fun c => c - a + b
  let s := { s with
    mem := copyCells s.mem src dst 65536
    seals := (s.seals.filter fun c => !(decide (b ≤ c.1) && decide (c.1 < b + 2048))) ++ tags.map fun c => (c.1 + b, c.2)
    poison := (s.poison.filter fun c => !(decide (b ≤ c) && decide (c < b + 2048))) ++ bad
    l2Dirty := markDirty s.l2Dirty b (b + 2048) none }
  releaseWords s fun pa => decide (dst ≤ pa) && decide (pa < dst + 65536)

/-- The tags of a page of the fitting buffer: sealed in the context's domain (R42). -/
def bufferTags (s : State) (c : Nat) : FMap Nat (Nat × Nat) :=
  if ctxDomain s c = 0 then [] else (List.range 2048).map fun i => (i, (ctxDomain s c, epochOf s (ctxDomain s c)))

/-- A page is captured in the next page of the buffer; the seal domains that its sectors had are kept beside it, for its restoring (R42, R202;
DESIGN CHOICE, log 134). -/
def capturePage (s : State) (entry : Nat) (e : TaskEntry) (f : Fitting) (page : Nat) : State :=
  let tags := pageTags s (page * 65536)
  let s := copyPage s (page * 65536) (f.bufferPas.getD f.captured.length 0) (bufferTags s e.ctx)
  let e := { FMap.getD s.tasks entry e with fit := some { f with captured := f.captured ++ [page], tags := f.tags ++ [tags] } }
  { s with tasks := FMap.set s.tasks entry e }

/-- The pages of 64 KiB of a fitting run captured before the first write of the task to them applies (R202). -/
def captureFor (s : State) (task : BitVec 32) (pa : Nat) : State :=
  let entry := task.toNat % 2 ^ 13
  match FMap.get? s.tasks entry with
  | some e =>
    match e.fit with
    | some f =>
      let page := pa / 65536
      if task ≠ 0 ∧ e.gen = task.toNat / 2 ^ 13 ∧ wantsCapture f page ∧ (paKind s pa = .first ∨ paKind s pa = .second) then
        if f.captured.length < f.bufferPas.length then capturePage s entry e f page
        else { s with tasks := FMap.set s.tasks entry { e with fit := some { f with overflow := true } } }
      else s
    | none => s
  | none => s

/-! ## Atomics (R176) -/

/-- The new value of an atomic of n bytes (R176), fadd apart: kinds add, and, or, xor, min, max, swap, cas. -/
def amoNew (kind n : Nat) (old v expected : Nat) : Nat :=
  let m := 2 ^ (8 * n)
  let sgn (x : Nat) : Int := if x < m / 2 then (x : Int) else (x : Int) - m
  match kind with
  | 0 => (old + v) % m
  | 1 => old &&& v
  | 2 => old ||| v
  | 3 => old ^^^ v
  | 4 => if sgn old ≤ sgn v then old else v
  | 5 => if sgn old ≤ sgn v then v else old
  | 6 => v
  | 7 => if old = expected then v else old
  | _ => old

/-- The sum of `fadd` on the bytes of two FP32 words (R176). -/
def faddNat (old v : Nat) : Nat := (f32add 0 (BitVec.ofNat 32 old) (BitVec.ofNat 32 v)).toNat

/-- The new value of an atomic (R176): kinds add, and, or, xor, min, max, swap, cas, fadd. -/
def amoResult (kind n : Nat) (old v expected : Nat) : Nat :=
  if kind = 8 then faddNat old v else amoNew kind n old v expected

/-! ## The home queues (R97, R99) -/

/-- An update enters the queue of its home (R99). -/
def pushReq (s : State) (pa : Nat) (r : HomeReq) : State :=
  let h := sliceOf pa
  { s with homeQ := FMap.set s.homeQ h (FMap.getD s.homeQ h [] ++ [r]) }

/-- An update enters the queue of its home (R99). -/
def pushUpdate (s : State) (pa : Nat) (u : Update) : State := pushReq s pa (.update u)

/-- The lines of a list of cells. -/
def cellLines (cells : Cells) : List Nat := (cells.map fun c => lineOf c.1).dedup

/-- What an update leaves in the L2: dirty sectors of the tiers' lines; a press write goes past it (R81, R311). -/
def l2Written (s : State) (u : Update) : State :=
  if u.past then s
  else
    let secs := ((u.cells.map fun c => sectorOf c.1).dedup).filter fun sec => cacheable s (sec / 8)
    let s := { s with l2Dirty := secs.foldl (fun d sec => markDirty d sec (sec + 1) u.writer) s.l2Dirty }
    ((secs.map (· / 8)).dedup).foldl (fun s l => setL2Dom s u.dom l) s

/-- The update writes its bytes on the home copies under its domain, with the pages of a fitting run captured first; the poison of the sectors
that it ends is over, and word dependences are tested (R80, R99, R202, R311, R327). -/
def landUpdate (s : State) (u : Update) : State :=
  let secs := (u.cells.map fun c => sectorOf c.1).dedup
  let s := (u.cells.map (·.1)).foldl (fun s a => captureFor s u.task a) s
  let s := secs.foldl (fun s sec => sealSector s u.dom sec) s
  let s := { s with
    mem := writeCells s.mem u.cells
    poison := s.poison.filter fun sec => !u.cures.contains sec }
  releaseWords (l2Written s u) fun a => u.cells.any fun c => c.1 == a

/-- Bytes with their addresses. -/
def cellsAt (a : Nat) : List Byte → Cells
  | [] => []
  | b :: bs => (a, b) :: cellsAt (a + 1) bs

/-- Sectors answered from the home enter a cache as clean bytes (R100). -/
def fillCells (lines : Cells) : Cells → Cells
  | [] => lines
  | (a, b) :: cs => fillCells (FMap.set lines a b) cs

/-- Bytes answered from the home enter a core's L1 (R100). -/
def fillL1 (s : State) (c pa : Nat) (bs : List Byte) : State :=
  s.setCore c { s.core? c with l1 := fillCells (s.core? c).l1 (cellsAt pa bs) }

/-- The answer to a service core's read of device memory enters its L1 (R100). -/
def answerL1 (s : State) (a : HomeAsk) (bs : List Byte) : State :=
  match a.party, a.amo with
  | .core c, none => if paKind s a.pa = .host then s else fillL1 s (c / 2) a.pa bs
  | _, _ => s

/-- A waiting read or `amo` is answered (R99): its bytes are read, an `amo` writes its new value in the same step, unless a byte is poisoned
(R327); a thread that no longer waits for it takes no answer. -/
def answerAsk (s : State) (a : HomeAsk) : State :=
  let bs := homeBytes s a.dom a.pa a.n
  let bad := badSector s a.pa a.n
  let s := match a.amo with
    | some (kind, v, expected) =>
      if bad.isSome then s
      else landUpdate s ⟨cellsAt a.pa (toBytes a.n (amoResult kind a.n (ofBytes bs) v expected)), a.dom, a.task, false, [], writerOf s a.party⟩
    | none => if bad.isSome then s else answerL1 s a bs
  match FMap.get? s.asked a.party with
  | some q => if q.id = a.id then { s with asked := FMap.set s.asked a.party { q with reply := some (bs, bad) } } else s
  | none => s

/-- A request performed on the home copies. -/
def landReq (s : State) : HomeReq → State
  | .update u => landUpdate s u
  | .ask a => answerAsk s a

/-- The lines of a range of bytes. -/
def linesOf (pa n : Nat) : List Nat := (List.range ((pa + n + 255) / 256 - pa / 256)).map (pa / 256 + ·)

/-- The lines that a request names, with its seal domain. -/
def HomeReq.names : HomeReq → Nat × List Nat
  | .update u => (u.dom, cellLines u.cells)
  | .ask a => (a.dom, linesOf a.pa a.n)

/-- The L2 gives up a line before a request of it is performed: one that it holds under another seal domain (R80), and every line that a press
writes (R305, R311). -/
def givesUp (s : State) (r : HomeReq) (line : Nat) : Bool :=
  otherDomain s r.names.1 line ||
    (match r with | .update u => u.past && (inL2 s line || hasDirty s.l2Dirty line) | .ask _ => false)

/-- All that is queued at a slice is performed by `f`, oldest first. -/
def flushWith (f : State → HomeReq → State) (s : State) (h : Nat) : State :=
  match FMap.getD s.homeQ h [] with
  | [] => s
  | r :: q => (r :: q).foldl f { s with homeQ := FMap.erase s.homeQ h }

/-- A request at its home: a line that the L2 gives up for it is cleaned and invalidated first (R80, R305). `n` bounds how many sidebands may write
back one after another, each into a line of a scale range. -/
def performAt : Nat → State → HomeReq → State
  | 0, s, r => landReq s r
  | n + 1, s, r =>
    let wr (s : State) (pa : Nat) (v : Update) : State := performAt n (flushWith (performAt n) s (sliceOf pa)) (.update v)
    landReq (r.names.2.foldl (fun s l => if givesUp s r l then evictWith wr s l else s) s) r

/-- A request is performed at its home (R99); 16 is the number of scale ranges (R83). -/
def perform (s : State) (r : HomeReq) : State := performAt 16 s r

/-- An update is performed at its home (R99). -/
def applyUpdate (s : State) (u : Update) : State := perform s (.update u)

/-- The step apply of R99 on a slice: its head is performed. -/
def applyHead (s : State) (h : Nat) : State :=
  match FMap.getD s.homeQ h [] with
  | [] => s
  | [u] => perform { s with homeQ := FMap.erase s.homeQ h } u
  | u :: q => perform { s with homeQ := FMap.set s.homeQ h q } u

/-- All that is queued at a slice is performed, oldest first: what lies ahead of a read or `amo` that is answered at once. -/
def flushSlice (s : State) (h : Nat) : State := flushWith perform s h

/-- The cell lies in one of the ranges. -/
def inRanges (rs : List (Nat × Nat)) (a : Nat) : Bool := rs.any fun r => decide (r.1 ≤ a) && decide (a < r.2)

/-- A request writes bytes of one of the ranges. -/
def HomeReq.meets (rs : List (Nat × Nat)) : HomeReq → Bool
  | .update u => u.cells.any fun c => inRanges rs c.1
  | .ask a => a.amo.isSome && (List.range a.n).any fun i => inRanges rs (a.pa + i)

/-- The head of a slice's queue is performed, again and again, until no request of it is one that a test selects; `n` is the length of the
queue. -/
def applyUntil (sel : HomeReq → Bool) (h : Nat) : Nat → State → State
  | 0, s => s
  | n + 1, s => if (FMap.getD s.homeQ h []).any sel then applyUntil sel h n (applyHead s h) else s

/-- Every request that a test selects is performed at its home, behind those ahead of it in its slice. -/
def flushReqs (s : State) (sel : HomeReq → Bool) : State :=
  s.homeQ.foldl (fun s c => applyUntil sel c.1 c.2.length s) s

/-- Every queued update to one of the ranges is performed (R106 step 2). -/
def flushRanges (s : State) (rs : List (Nat × Nat)) : State := flushReqs s (HomeReq.meets rs)

/-- Every queued update to one of the lines is performed. -/
def flushLines (s : State) (ls : List Nat) : State := flushRanges s (ls.map fun l => (l * 256, l * 256 + 256))

/-- The slices of the lines of a range of bytes. -/
def slicesOf (pa n : Nat) : List Nat := ((linesOf pa n).map fun l => sliceOf (l * 256)).dedup

/-- The sectors that a write of `n` bytes at `pa` writes whole. -/
def wholeSectors (pa n : Nat) : List Nat :=
  ((List.range ((pa + n) / 32 - pa / 32 + 1)).map (pa / 32 + ·)).filter fun sec => decide (pa ≤ 32 * sec) && decide (32 * sec + 32 ≤ pa + n)

/-- Bytes of a write of `n` bytes at `pa0` enter the home queues of their lines, one aligned part of 8 bytes after another (R99, R101;
DESIGN CHOICE, log 110); the part that ends a sector which the write covers ends its poison (R327). `fuel` bounds the number of parts. -/
def pushParts (s : State) (dom : Nat) (task : BitVec 32) (w : Option Writer) (pa0 : Nat) : Nat → Nat → List Byte → State
  | 0, _, _ => s
  | _, _, [] => s
  | fuel + 1, a, bs =>
    let n := 8 - a % 8
    let part := bs.take n
    let hi := a + part.length
    let cures := if hi % 32 = 0 ∧ pa0 + 32 ≤ hi then [hi / 32 - 1] else []
    pushParts (pushUpdate s a ⟨cellsAt a part, dom, task, false, cures, w⟩) dom task w pa0 fuel (a + n) (bs.drop n)

/-- Bytes that a unit writes enter the home queues of their lines (R99, R101). -/
def pushHome (s : State) (dom : Nat) (task : BitVec 32) (pa : Nat) (bs : List Byte) (w : Option Writer) : State :=
  pushParts s dom task w pa (bs.length / 8 + 2) pa bs

/-- A read of `n` bytes through the home queue: what is queued ahead of it is performed, and it returns the bytes. -/
def readHome (s : State) (dom pa n : Nat) : State × List Byte :=
  let s := flushSlice s (sliceOf pa)
  (s, homeBytes s dom pa n)

/-- A write performed at the homes at once, behind what is queued there. -/
def writeHomeNow (s : State) (dom : Nat) (task : BitVec 32) (pa : Nat) (bs : List Byte) (w : Option Writer) : State :=
  applyUpdate ((slicesOf pa bs.length).foldl flushSlice s) ⟨cellsAt pa bs, dom, task, false, wholeSectors pa bs.length, w⟩

/-- A read of `n` bytes that spans lines: each line's slice performs its queue first. -/
def readHomeLong (s : State) (dom pa n : Nat) : State × List Byte :=
  let s := (slicesOf pa n).foldl flushSlice s
  (s, homeBytes s dom pa n)

/-! ## Evictions and fills (R80, R82, R84, R311) -/

/-- A write that an eviction makes, behind what is queued at its home (R84). -/
def writeBehind (s : State) (pa : Nat) (u : Update) : State := applyUpdate (flushSlice s (sliceOf pa)) u

/-- The dirty sideband bytes of a line are written back (R84). -/
def evictSide (s : State) (line : Nat) : State := evictSideWith writeBehind s line

/-- The step evict on the L2 (R84, R99, R311, R327). -/
def evictL2 (s : State) (line : Nat) : State := evictWith writeBehind s line

/-- A read under a seal domain meets a line that the L2 holds under another: the line is cleaned and invalidated first (R80). -/
def l2Meet (s : State) (dom line : Nat) : State := if otherDomain s dom line then evictL2 s line else s

/-- A read of `n` bytes meets the lines of the L2 (R80). -/
def l2Reads (s : State) (dom pa n : Nat) : State :=
  (linesOf pa n).foldl (fun s l => l2Meet s dom l) s

/-- A line of a covered range that fills takes its 16 scale bytes into the sideband, read at their own home (R84); poisoned ones are noted
(R327). A resident line keeps the sideband that it holds. (DEDUCED, log 59) -/
def fillSide (s : State) (line : Nat) : State :=
  if inL2 s line then s
  else
    match frtFind s (line * 256) with
    | none => s
    | some e =>
      let a := scaleAddr e (line * 256)
      { s with sides := FMap.set s.sides line ⟨homeBytes s 0 a 16, List.replicate 16 false, none, 0, poisoned s a 16⟩ }

/-- A line of a covered range that is not resident fills whole, with its scale bytes, whose own sector fills too (R82, R84, R311). -/
def fillLine (w : Option Writer) (dom : Nat) (s : State) (line : Nat) : State :=
  if inL2 s line then s
  else
    match frtFind s (line * 256) with
    | none => s
    | some e =>
      let s := fillSide s line
      let s := ((List.range 8).map (line * 8 + ·)).foldl (fillSector w dom) s
      let a := scaleAddr e (line * 256)
      fillSector w 0 (l2Meet s 0 (lineOf a)) (a / 32)

/-- A sector is asked of the L2 under a seal domain: a line of a covered range fills whole; any other fills by sector (R80, R82, R84,
R311). -/
def l2Sector (w : Option Writer) (dom : Nat) (s : State) (sec : Nat) : State :=
  let s := l2Meet s dom (sec / 8)
  if s.l2.contains sec then s else fillSector w dom (fillLine w dom s (sec / 8)) sec

/-- A load of `n` bytes by a unit, or an engine's read (none), reaches the L2: the sectors that it lacks are filled (R311). -/
def l2Fill (s : State) (w : Option Writer) (dom pa n : Nat) : State :=
  ((List.range ((pa + n + 31) / 32 - pa / 32)).map (pa / 32 + ·)).foldl (l2Sector w dom) s

end Sys2Proof.Machine
end

