-- ==== Sys2Proof/Machine/Translate.lean ====
section
/-! DEFINITION. Translation (R90-R96, R356). -/

namespace Sys2Proof.Machine

open Sys2Proof

/-! ## Translation (R90-R96, R356) -/

/-- The page size of a leaf at a level (R90). -/
def pageSize (level : Nat) : Nat := if level = 1 then 2 ^ 42 else if level = 2 then 2 ^ 29 else 2 ^ 16

/-- The physical address that an entry's ppn field holds (R91). -/
def pteAddr (e : Word) : Nat := bitsOf e 16 36 * 65536

/-- A pointer or root may name this table: a 64 KiB page of the first tier assigned to the context (R91). -/
def tableOk (s : State) (c pa : Nat) : Bool := paKind s pa == .first && assignedUnit s c (pa / 2 ^ 29)

/-- A page of a leaf reaches host memory or device registers (R88, R91). -/
def reachesDevice (pa size : Nat) : Bool :=
  (decide (pa < 0x100000000000) && decide (0x0F0000000000 < pa + size)) || (decide (pa < 2 ^ 52) && decide (2 ^ 51 < pa + size))

/-- A valid entry is malformed (R91). -/
def pteMalformed (s : State) (c level : Nat) (e : Word) : Bool :=
  let leaf := e.getLsbD 1
  let reserved := bitsOf e 60 4 != 0 || e.getLsbD 52 || bitsOf e 10 6 != 0
  if leaf then
    let pa := pteAddr e
    reserved || decide (pa % pageSize level ≠ 0) ||
      ((bitsOf e 54 6 != 0 || e.getLsbD 53) && reachesDevice pa (pageSize level)) ||
      !assignedPage s c pa (pageSize level)
  else
    reserved || level == 3 || bitsOf e 54 6 != 0 || e.getLsbD 53 || bitsOf e 2 8 != 0 || !tableOk s c (pteAddr e)

/-- How a walk ends: a leaf with its level and its entry's address, a failed check with the level reached, or an entry that lies in a poisoned
sector (R327). -/
inductive WalkEnd where
  | leaf (e : Word) (level : Nat) (at_ : Nat)
  | bad (cause level : Nat)
  | ecc (sec : Nat)
  deriving DecidableEq, Repr

/-- The walk from a table through the levels left, each with its number and the place of its index (R90). -/
def walkFrom (s : State) (c va : Nat) : List (Nat × Nat) → Nat → State × WalkEnd
  | [], _ => (s, .bad 1 3)
  | (level, sh) :: rest, table =>
    let a := table + 8 * (va / 2 ^ sh % 8192)
    let (s, bs) := readHome s 0 a 8
    let e := wordOf bs
    if s.poison.contains (a / 32) then (s, .ecc (a / 32))
    else if !e.getLsbD 0 then (s, .bad 0 level)
    else if pteMalformed s c level e then (s, .bad 1 level)
    else if e.getLsbD 1 then (s, .leaf e level a)
    else walkFrom s c va rest (pteAddr e)

/-- The walk of a context's tables (R90). -/
def walk (s : State) (c va : Nat) : State × WalkEnd :=
  let root := (s.ctxt c).ptroot
  if !root.getLsbD 0 then (s, .bad 0 0)
  else if !tableOk s c (bitsOf root 16 36 * 65536) then (s, .bad 1 1)
  else walkFrom s c va [(1, 42), (2, 29), (3, 16)] (bitsOf root 16 36 * 65536)

/-- Who translates: the unit whose TLB serves (none for an engine), context, privilege of check 4, access, and the
fields of `c.xlinfo` that locate it (R94): source, tile, row, stream, strand. -/
structure XReq where
  unit : Option Nat
  ctx : Nat
  priv : Priv
  acc : Access
  src : Nat
  tile : Nat
  row : Nat
  stream : Nat
  strand : Nat
  deriving DecidableEq, Repr

/-- The code of an access (R94). -/
def accessCode : Access → Nat
  | .read => 0 | .write => 1 | .exec => 2 | .amo => 3

/-- The value of `c.xlinfo` (R94). -/
def xlinfoOf (q : XReq) (cause level : Nat) : Word :=
  BitVec.ofNat 64 (q.tile % 4096 * 2 ^ 32 + q.row % 32 * 2 ^ 27 + q.stream % 16 * 2 ^ 23 + q.strand % 4 * 2 ^ 21 +
    q.src % 8 * 2 ^ 18 + accessCode q.acc * 2 ^ 16 + cause % 16 * 2 ^ 12 + level % 4 * 2 ^ 10)

/-- The cause number of R314 for a cause field of `c.xlinfo`. -/
def xlCause (cause : Nat) : Cause := if cause = 4 then .perm else if cause = 5 then .sealed else .xlate

/-- The trap of a failed translation (R92, R94, R314). -/
def xlTrap (q : XReq) (va : Word) (cause level : Nat) : Trap :=
  let xlva : Word := va &&& 0x007FFFFFFFFFFFFF#64
  ⟨xlCause cause, if xlCause cause = .xlate then xlva else va, some (xlva, xlinfoOf q cause level)⟩

/-- The trap of a cause with a value and no translation values. -/
def mkTrap (c : Cause) (v : Word) : Trap := ⟨c, v, none⟩

/-- The E.ECC of a read of a poisoned byte (R314, R327). -/
def eccTrap (pa : Nat) : Trap := mkTrap .ecc (BitVec.ofNat 64 (pa / 32 * 32))

/-- A translated access: its physical address, its leaf's policy, D, PX and seal (R91). -/
structure Target where
  pa : Nat
  wt : Bool
  det : Bool
  px : Bool
  dom : Nat
  deriving DecidableEq, Repr

/-- The leaf allows the access's R, W or X check (R92 check 5). -/
def leafAllows (e : Word) : Access → Bool
  | .read => e.getLsbD 2
  | .write => e.getLsbD 3
  | .amo => e.getLsbD 3
  | .exec => e.getLsbD 4

/-- Checks 3 to 6 of R92 on a leaf: none where all pass, else the cause field. -/
def leafCheck (s : State) (q : XReq) (e : Word) (pa : Nat) : Option Nat :=
  if paKind s pa = .nothing then some 2
  else if q.priv = .user ∧ e.getLsbD 5 = false then some 4
  else if leafAllows e q.acc = false then some 4
  else if bitsOf e 54 6 ≠ 0 ∧ bitsOf e 54 6 ≠ ctxDomain s q.ctx then some 5
  else none

/-- The access writes memory. -/
def accessWrites : Access → Bool
  | .write => true | .amo => true | _ => false

/-- The physical address of a virtual address through a leaf of a level. -/
def leafAddr (e : Word) (level va : Nat) : Nat := pteAddr e + va % pageSize level

/-- What a leaf gives an access. -/
def targetOf (e : Word) (level va : Nat) : Target :=
  ⟨leafAddr e level va, e.getLsbD 7, e.getLsbD 6, e.getLsbD 53, bitsOf e 54 6⟩

/-- The TLB entry of a unit that serves a virtual address (R93). -/
def tlbFind (s : State) (unit : Option Nat) (c va : Nat) : Option TlbEntry :=
  s.tlb.find? fun t => some t.unit == unit && t.ctx == c && decide (t.base ≤ va) && decide (va < t.base + pageSize t.level)

/-- The leaf with A set, and M for a write, at its home: an `amo.or` (R92). -/
def markLeaf (s : State) (a : Nat) (e : Word) (w : Bool) : State × Word :=
  let e' : Word := e ||| 0x100#64 ||| (if w then 0x200#64 else 0#64)
  if e' = e then (s, e) else (writeHomeNow s 0 0 a (toBytes 8 e'.toNat) none, e')

/-- The entries that a unit's TLB holds: 512 for an AG tile, 256 for a service core (R93). -/
def tlbSize (u : Nat) : Nat := if u < 512 then 512 else 256

/-- A list of entries without the one of number k among those of a unit. -/
def dropEntry (u : Nat) : Nat → List TlbEntry → List TlbEntry
  | _, [] => []
  | k, t :: l => if t.unit = u then (match k with | 0 => l | k + 1 => t :: dropEntry u k l) else t :: dropEntry u k l

/-- A leaf enters the TLB of a unit: it replaces the entry of its page, and in a full TLB a free choice of the others (R93; DESIGN
CHOICE, DESIGN CHOICE, log 109). -/
def tlbInsert (s : State) (unit : Option Nat) (c va level : Nat) (e : Word) : State :=
  match unit with
  | none => s
  | some u =>
    let base := va / pageSize level * pageSize level
    let others := s.tlb.filter fun t => !(t.unit == u && t.ctx == c && t.base == base)
    let n := (others.filter fun t => t.unit == u).length
    if n < tlbSize u then { s with tlb := ⟨u, c, base, level, e⟩ :: others }
    else { s with fresh := s.fresh + 1, tlb := ⟨u, c, base, level, e⟩ :: dropEntry u (Config.tlbVictim s.fresh % n) others }

/-- A walk for an access with its checks (R92): the leaf marked and held by the unit's TLB, or the trap. -/
def walkChecked (s : State) (q : XReq) (va : Word) : Except Trap (State × Target) :=
  match walk s q.ctx va.toNat with
  | (_, .bad cause level) => .error (xlTrap q va cause level)
  | (_, .ecc sec) => .error (eccTrap (32 * sec))
  | (s, .leaf e level a) =>
    let pa := leafAddr e level va.toNat
    match leafCheck s q e pa with
    | some cause => .error (xlTrap q va cause level)
    | none =>
      let (s, e) := markLeaf s a e (accessWrites q.acc)
      .ok (tlbInsert s q.unit q.ctx va.toNat level e, targetOf e level va.toNat)

/-- Translation of an access (R90-R94): the state after it and what the address names, or the trap of the first check
that fails. -/
def translate (s : State) (q : XReq) (va : Word) : Except Trap (State × Target) :=
  if bitsOf va 55 9 ≠ 0 then .error (xlTrap q va 3 0)
  else if !(s.ctxt q.ctx).ptroot.getLsbD 0 then .error (xlTrap q va 0 0)
  else
    match tlbFind s q.unit q.ctx va.toNat with
    | none => walkChecked s q va
    | some t =>
      if accessWrites q.acc ∧ t.leaf.getLsbD 9 = false then walkChecked s q va
      else
        match leafCheck s q t.leaf (leafAddr t.leaf t.level va.toNat) with
        | some cause => .error (xlTrap q va cause t.level)
        | none => .ok (s, targetOf t.leaf t.level va.toNat)

/-- The physical address of a virtual address by the tables as they stand, without faults or marks: for lines that
overlap a region (R105, R106). -/
def peek (s : State) (c va : Nat) : Option (Nat × Nat) :=
  match walk s c va with
  | (_, .leaf e level _) => some (leafAddr e level va, pageSize level)
  | _ => none

/-- The physical ranges of a virtual region, page by page; `fuel` bounds the number of pages. -/
def regionRanges (s : State) (c : Nat) : Nat → Nat → Nat → List (Nat × Nat)
  | 0, _, _ => []
  | fuel + 1, va, hi =>
    if hi ≤ va then []
    else
      match peek s c va with
      | some (pa, size) =>
        let n := min (hi - va) (size - va % size)
        (pa, pa + n) :: regionRanges s c fuel (va + n) hi
      | none => regionRanges s c fuel ((va / 65536 + 1) * 65536) hi

/-- The physical ranges, widened to whole lines, of a region of `len` bytes. -/
def regionLines (s : State) (c : Nat) (base len : Nat) : List (Nat × Nat) :=
  (regionRanges s c (len / 65536 + 2) base (base + len)).map fun r => (r.1 / 256 * 256, (r.2 + 255) / 256 * 256)

end Sys2Proof.Machine
end

