-- ==== Sys2Proof/Machine/Ops.lean ====
section
/-! DEFINITION. Named operations on the state: registers and parties, killing and retrying objects (R20, R21, R325),
offering a fault, taking it and returning from it (R319-R323, R355), issuing and retiring an instruction (R138, R139,
R168). -/

namespace Sys2Proof.Machine

open Sys2Proof

/-! ## Translation for a party -/

/-- The unit that translates for a party (R93): the AG tile of its panel's lead block, or its service core. -/
def partyUnit (s : State) (p : Party) : Nat :=
  match partyPanel p with
  | some x => ((s.panel? x).map Panel.lead).getD 0
  | none => 512 + coreOf p

/-- How a party's own access translates: source 1 sequencer, 2 slice, 3 service core (R94). -/
def partyReq (s : State) (p : Party) (acc : Access) : XReq where
  unit := some (partyUnit s p)
  ctx := partyCtx s p
  priv := partyPriv s p
  acc := acc
  src := match p with | .seq _ _ => 1 | .slice _ _ => 2 | .core _ => 3 | .tile _ _ => 0
  tile := 0
  row := 0
  stream := 0
  strand := partyStrand p

/-- A fresh draw number for a free value. -/
def State.draw (s : State) : State × Nat := ({ s with fresh := s.fresh + 1 }, s.fresh)

/-! ## Logs dropped, lines drained, panels freed (R77, R118, R122, R329) -/

/-- The undo entries of a log restored in reverse order (R118). -/
def undoLog (cells : Cells) (log : List LogEntry) : Cells :=
  log.reverse.foldl (fun m e => match e with | .undo off bs _ => writeBytes m off bs | _ => m) cells

/-- A strand's log in a tile dropped, its undo entries restored first (R118, R122). -/
def Tile.dropLog (t : Tile) (i : Nat) : Tile :=
  let h : i % 4 < 4 := Nat.mod_lt _ (by decide)
  { t with
    scratch := undoLog t.scratch (t.logs[i % 4]'h), logs := t.logs.set (i % 4) [] h
    stores := t.stores.filter fun e => e.1 != i % 4 }

/-- A strand's logs dropped in every tile and in its sequencer. -/
def Panel.dropLogs (x : Panel) (i : Nat) : Panel :=
  let x := { x with tiles := mapVals (fun _ t => Tile.dropLog t i) x.tiles }
  x.setStrand i { x.strand i with log := [] }

/-- The strand numbers. -/
def strandIds : List Nat := [0, 1, 2, 3]

/-- The live cycle of an undo entry. -/
def LogEntry.live : LogEntry → Nat
  | .undo _ _ n => n
  | _ => 0

/-- An entry enters a list ordered by live cycle, behind the entries of its own cycle. -/
def insertUndo (e : LogEntry) : List LogEntry → List LogEntry
  | [] => [e]
  | f :: l => if e.live < f.live then e :: f :: l else f :: insertUndo e l

/-- Every strand's log in a tile dropped, the undo entries of all of them restored in reverse of the order they were made in (R118,
R122). -/
def Tile.dropAll (t : Tile) : Tile :=
  { t with
    scratch := undoLog t.scratch (t.logs.toList.flatten.foldl (fun l e => insertUndo e l) [])
    logs := Vector.replicate 4 [], stores := [] }

/-- Every log of a panel dropped (R122). -/
def Panel.dropAll (x : Panel) : Panel :=
  { x with
    tiles := mapVals (fun _ t => t.dropAll) x.tiles
    strands := x.strands.map fun st => { st with log := [] } }

/-- A tile's dirty bytes of a line, with their addresses and domains (R99). -/
def dirtyOf (t : Tile) (line : Nat) : Pool := t.pool.filter fun c => lineOf c.1 == line

/-- The dirty bytes of one domain. -/
def bytesUnder (cells : Pool) (dom : Nat) : Cells :=
  (cells.filter fun c => c.2.2 == dom).map fun c => (c.1, c.2.1)

/-- The masked update of dirty bytes of a panel; a sector that it writes whole is poisoned no more (R327). -/
def drained (uid : Nat) (task : BitVec 32) (cells : Cells) (dom : Nat) : Update :=
  ⟨cells, dom, task, false, ((cells.map fun c => sectorOf c.1).dedup).filter (coversSector cells), some (.panel uid)⟩

/-- The step drain of R99: all dirty bytes of a line enter its home queue and stay as clean bytes; those of one seal domain are one masked
update (R80), and a poisoned line is counted (R327). -/
def drainLine (s : State) (p t line : Nat) : State :=
  match s.panel? p with
  | none => s
  | some x =>
    let tl := x.tile t
    let cells := dirtyOf tl line
    if cells.isEmpty then s
    else
      let tl := { tl with
        pool := tl.pool.filter fun c => lineOf c.1 != line
        lines := cells.foldl (fun m c => FMap.set m c.1 c.2.1) tl.lines }
      let x := (x.setTile t tl).count 26 cells.length
      ((cells.map (·.2.2)).dedup).foldl
        (fun s d => pushUpdate s (line * 256) (drained x.uid (taskId s x.entry) (bytesUnder cells d) d))
        (countPoison (s.setPanel p x) line)

/-- The lines of which a tile holds dirty bytes. -/
def dirtyLines (t : Tile) : List Nat := (t.pool.map fun c => lineOf c.1).dedup

/-- Every dirty line of every tile of a panel that a test selects is drained. -/
def drainPanel (s : State) (p : Nat) (sel : Nat → Bool) : State :=
  match s.panel? p with
  | none => s
  | some x => x.tiles.foldl (fun s (t, tl) => ((dirtyLines tl).filter sel).foldl (fun s l => drainLine s p t l) s) s

/-- Every clean cached byte of a panel's tiles in a line that a test selects is dropped. -/
def dropClean (s : State) (p : Nat) (sel : Nat → Bool) : State :=
  s.modPanel p fun x => { x with
    tiles := mapVals (fun _ t => { t with lines := t.lines.filter fun c => !sel (lineOf c.1) }) x.tiles }

/-- The reads and `amo`s that wait in home queues for the parties that a test selects have no one to answer. -/
def State.unask (s : State) (sel : Party → Bool) : State := { s with asked := s.asked.filter fun c => !sel c.1 }

/-- A panel leaves its blocks: its dirty bytes drain, its lines are invalidated, its table entries stay as resident
(R26, R77); its instruction cache is empty for the next garment (R74), and the debug unit holds nothing of it. -/
def freePanel (s : State) (p : Nat) : State :=
  let s := (drainPanel s p fun _ => true).unask fun q => partyPanel q == some p
  { s with
    panels := FMap.erase s.panels p
    threads := s.threads.filter fun (q, _) => partyPanel q != some p
    icache := s.icache.filter fun w => partyPanel w.owner != some p
    debugHolds := s.debugHolds.filter fun q => partyPanel q.1 != some p
    tables := mapVals (fun _ us => us.map fun u =>
      if u.owner = some p then { u with owner := none, freedAt := s.cycle } else u) s.tables }

/-! ## Objects: parents, policies (R18, R21, R319) -/

/-- The panels of a task's garment. -/
def taskPanels (s : State) (entry : Nat) : List Nat := ((FMap.get? s.tasks entry).map (·.panels)).getD []

/-- The object above an object (R18); a task of no replay has no graph level (R21). -/
def parentOf (s : State) : FObj → FObj
  | .strand p _ => .panel p
  | .panel p => match s.panel? p with | some x => .garment x.entry | none => .nothing
  | .garment e => .task e
  | .task e =>
    match FMap.get? s.tasks e with
    | some t => if t.inReplay then .graph t.ctx else .context t.ctx
    | none => .nothing
  | .graph c => .context c
  | .context c => .context c
  | .nothing => .nothing

/-- The policy code of an object (R21): pattern header, task record, graph record, CPOL, with 0b11 of a context as
0b10. -/
def policyOf (s : State) : FObj → BitVec 2
  | .strand p _ => match s.panel? p with | some x => x.image.cpolStrand | none => 2
  | .panel p => match s.panel? p with | some x => x.image.cpolPanel | none => 2
  | .garment e => match FMap.get? s.tasks e with | some t => t.record.garmentPolicy | none => 2
  | .task e => match FMap.get? s.tasks e with | some t => t.record.taskPolicy | none => 2
  | .graph c => (s.ctxt c).greplay.policy
  | .context c => if (s.ctxt c).cpol = 3#2 then 2#2 else (s.ctxt c).cpol
  | .nothing => 0

/-- The climb of R21 through the levels under kill parent; six steps reach the context from any level. -/
def climb (s : State) : Nat → FObj → FObj
  | 0, o => o
  | n + 1, o => if policyOf s o = 3#2 then climb s n (parentOf s o) else o

/-- The context that an object belongs to. -/
def objCtx (s : State) : FObj → Nat
  | .strand p _ => ((s.panel? p).map (·.ctx)).getD 0
  | .panel p => ((s.panel? p).map (·.ctx)).getD 0
  | .garment e => ((FMap.get? s.tasks e).map (·.ctx)).getD 0
  | .task e => ((FMap.get? s.tasks e).map (·.ctx)).getD 0
  | .graph c => c
  | .context c => c
  | .nothing => 0

/-- The panels that an object covers. -/
def objPanels (s : State) : FObj → List Nat
  | .strand p _ => [p]
  | .panel p => [p]
  | .garment e => taskPanels s e
  | .task e => taskPanels s e
  | .graph c => (s.panels.filter fun (_, x) => x.ctx == c && ((FMap.get? s.tasks x.entry).map (·.inReplay)).getD false).map (·.1)
  | .context c => (s.panels.filter fun (_, x) => x.ctx == c).map (·.1)
  | .nothing => []

/-- The tasks that an object covers. -/
def objTasks (s : State) : FObj → List Nat
  | .garment e => [e]
  | .task e => [e]
  | .graph c => (s.tasks.filter fun (_, t) => t.ctx == c && t.inReplay).map (·.1)
  | .context c => (s.tasks.filter fun (_, t) => t.ctx == c).map (·.1)
  | _ => []

/-- The fault belongs to an object or to one below it (R325). -/
def faultUnder (s : State) (o : FObj) (f : FaultRec) : Bool :=
  match o with
  | .strand p i => f.obj == .strand p i
  | .panel p => f.obj == .panel p || strandIds.any fun i => f.obj == .strand p i
  | .context c => objCtx s f.obj == c
  | .nothing => false
  | o => (objTasks s o).any fun e => f.task == taskId s e && f.task != 0

/-! ## Kill and retry (R20, R21, R325) -/

/-- A task is over: done, killed or discarded. -/
def TaskState.isOver : TaskState → Bool
  | .done => true | .error => true | .discarded => true | _ => false

/-- The row that the wheel broadcasts next belongs to the strand (R15, R17). -/
def rowOf (x : Panel) (i : Nat) : Bool := bitAt (x.image.rows.getD i 0).toNat x.row

/-- The faults and holds of a panel without those of a strand that is killed: its rows go on, nullified (R20, R40, R320). -/
def Panel.releaseStrand (x : Panel) (p i : Nat) : Panel :=
  let mine := x.faulted.any fun f => f.obj == .strand p i
  let x := if mine then { x with
      faulted := x.faulted.filter fun f => f.obj != .strand p i
      holds := x.holds.filter fun h => h.cause != .fabricFault && h.cause != .translation } else x
  if rowOf x i then { x with holds := [], rampHold := 0 } else x

/-- A strand is killed: its log is dropped, it stops, its rows execute nullified (R21). -/
def killStrand (s : State) (p i : Nat) : State :=
  let s := s.modPanel p fun x =>
    let x := (x.dropLogs i).releaseStrand p i
    x.setStrand i { x.strand i with killed := !(x.strand i).finished, queue := [], sliceStop := true }
  let s := s.unask fun q => q == .seq p i || q == .slice p i
  let s := s.setThread (.seq p i) { s.thread (.seq p i) with status := .killed, wait := none }
  s.setThread (.slice p i) { s.thread (.slice p i) with status := .killed }

/-- A panel is killed with each of its strands; it is freed when its garment ends (R20, R21). -/
def killPanel (s : State) (p : Nat) : State :=
  (strandIds.foldl (fun s i => killStrand s p i) (s.modPanel p Panel.dropAll)).modPanel p fun x =>
    { x with state := .killed, holds := [], faulted := [] }

/-- The dependents of a task that was killed or discarded are discarded without running, level by level (R21). -/
def discardFrom : Nat → State → List (BitVec 32) → State
  | 0, s, _ => s
  | _, s, [] => s
  | n + 1, s, ids =>
    let hit := s.tasks.filter fun (_, t) =>
      !t.state.isOver && !t.admitted && t.deps.any fun d => match d with | .task id => ids.contains id | .word _ _ => false
    let ents := hit.map (·.1)
    discardFrom n { s with tasks := mapVals (fun e t => if ents.contains e then { t with state := .discarded } else t) s.tasks }
      (ents.map fun e => taskId s e)

/-- The replay that a killed or discarded task belongs to will end with fail set (R36). -/
def markFail (s : State) (entry : Nat) : State :=
  match FMap.get? s.tasks entry with
  | some t =>
    if t.inReplay then
      let x := s.ctxt t.ctx
      s.setCtxt t.ctx { x with greplay := { x.greplay with failing := true } }
    else s
  | none => s

/-- A channel in which a task's held copies are left unresolved (R355). -/
def Channel.unresolve (id : BitVec 32) (ch : Channel) : Channel :=
  { ch with queue := ch.queue.map fun c =>
      if c.task = id ∧ c.heldFault then { c with heldFault := false, failed := true } else c }

/-- Held accesses of a task's engine commands are left unresolved when it is killed (R355). -/
def unresolveTask (s : State) (id : BitVec 32) : State :=
  { s with
    press := mapVals (fun _ c =>
      if c.task = id ∧ c.heldFault then { c with heldFault := false, failed := some (c.failed.getD 0x53) } else c) s.press
    quilts := mapVals (fun _ c => if c.task = id ∧ c.heldFault then { c with heldFault := false, failed := some 0x49 } else c) s.quilts
    contexts := mapVals (fun _ x => { x with chans := mapVals (fun _ ch => ch.unresolve id) x.chans }) s.contexts }

/-- The thread of a service-core task ends: it idles (R164, R322). -/
def idleThread (s : State) (n : Nat) : State :=
  let s := s.unask (· == .core n)
  s.setThread (.core n) { s.thread (.core n) with status := .idle, wait := none, task := 0 }

/-- The virtual address of a slot (R330). -/
def slotAddr (x : Context) (i : Nat) : Nat := bitsOf x.save 24 31 * 2 ^ 24 + i * bitsOf x.save 8 8 * 2 ^ 24

/-- Bytes written by the device to a virtual address at supervisor privilege, at their homes; none where translation
fails. -/
def devWrite (s : State) (c : Nat) (va : Nat) (bs : List Byte) : Option State :=
  match translate s ⟨none, c, .supervisor, .write, 7, 0, 0, 0, 0⟩ (BitVec.ofNat 64 va) with
  | .ok (s, tg) => some (writeHomeNow s tg.dom 0 tg.pa bs none)
  | .error _ => none

/-- The save slots of a garment become free (R323, R326, R332); a state byte that cannot be written stays. -/
def freeSlots (s : State) (c entry : Nat) : State :=
  let x := s.ctxt c
  let mine := x.slots.filter fun l => l.2 == entry
  let s := s.setCtxt c { x with slots := x.slots.filter fun l => l.2 != entry }
  mine.foldl (fun s l => (devWrite s c (slotAddr x l.1 + 8) [0#8]).getD s) s

/-- The accepted request for a task that c.preempt shows ends, with the bit of its new outcome or none (R328, R334). -/
def preemptEnds (s : State) (c : Nat) (id : BitVec 32) (bit : Option Nat) : State :=
  let x := s.ctxt c
  if x.preempt = BitVec.ofNat 64 (2 ^ 63 + id.toNat) then
    s.setCtxt c { x with preempt := BitVec.ofNat 64 ((match bit with | some b => 2 ^ b | none => 0) + id.toNat) }
  else s

/-- A request that `c.preempt` shows as deferred lapses with its task (R333). -/
def lapseDeferred (s : State) (c : Nat) (id : BitVec 32) : State :=
  let x := s.ctxt c
  if x.preempt = BitVec.ofNat 64 (2 ^ 62 + id.toNat) then s.setCtxt c { x with preempt := zext64 id } else s

/-- A panel that has stopped to freeze runs on: what its stop withdrew is issued again. -/
def runOn (s : State) (p : Nat) : State :=
  match s.panel? p with
  | some x =>
    if x.state = .stopping then
      strandIds.foldl (fun s i =>
          let t := s.thread (.seq p i)
          s.setThread (.seq p i) { t with status := if t.status = .stopped then .running else t.status })
        (s.setPanel p { x with state := .live })
    else s
  | none => s

/-- The outcome of a fault replaces the freeze that waited for it: the garment's freeze is off, its panels run on, its slot is free, and the request
is under way no more (R334; DESIGN CHOICE, log 136). -/
def dropFreeze (s : State) (entry : Nat) : State :=
  match FMap.get? s.tasks entry with
  | some t =>
    if t.wantFreeze then
      let s := t.panels.foldl runOn s
      preemptEnds (freeSlots { s with tasks := FMap.set s.tasks entry { t with wantFreeze := false } } t.ctx entry) t.ctx (taskId s entry) none
    else s
  | none => s

/-- The faults of a context that a test selects, queued or due, are withdrawn; one under handling keeps busy until `eret`, whose `c.fact`
then acts on nothing (R325). -/
def Context.withdraw (x : Context) (sel : FaultRec → Bool) : Context :=
  { x with
    faultQ := x.faultQ.filter fun f => !sel f.1
    delivery := x.delivery.bind fun d => if sel d.1 then none else some d
    voided := x.voided || (x.handling.map fun h => sel h.1).getD false }

/-- A task ends unfinished: its panels are freed with their logs dropped, its frame slots returned, its thread ended, its
logged `amo`s and faults withdrawn, its dependents discarded (R21, R117, R325). -/
def abandonTask (s : State) (entry : Nat) (as : TaskState) : State :=
  match FMap.get? s.tasks entry with
  | none => s
  | some t =>
    if t.state.isOver then s
    else
      let id := taskId s entry
      let s := s.setCtxt t.ctx ((s.ctxt t.ctx).withdraw fun f => f.task == id)
      let s := t.panels.foldl (fun s p => freePanel (killPanel s p) p) s
      let s := match t.thread with | some n => idleThread s n | none => s
      let s := unresolveTask s id
      let s := { s with
        frames := s.frames.filter fun f => f.entry != entry
        blocked := if s.blocked = some entry then none else s.blocked
        dlog := mapVals (fun _ l => l.filter fun d => d.entry != entry) s.dlog
        tasks := FMap.set s.tasks entry { t with
          state := as, panels := [], thread := none, frozen := none, wantFreeze := false, deferred := false }
        unplaced := s.unplaced.filter (· != id) }
      let s := preemptEnds (freeSlots (markFail (lapseDeferred s t.ctx id) entry) t.ctx entry) t.ctx id (some 60)
      discardFrom 8192 s [id]

/-- A task is killed: it counts as done-with-error (R21). -/
def killTask (s : State) (entry : Nat) : State := abandonTask s entry .error

/-- Held accesses of every engine command of a context are left unresolved (R355). -/
def unresolveContext (s : State) (c : Nat) : State :=
  let x := s.ctxt c
  { s.setCtxt c { x with chans := mapVals (fun _ ch => { ch with queue := ch.queue.map fun q =>
      if q.heldFault then { q with heldFault := false, failed := true } else q }) x.chans } with
    press := mapVals (fun _ q => if q.ctx = c ∧ q.heldFault then { q with heldFault := false, failed := some (q.failed.getD 0x53) } else q) s.press
    quilts := mapVals (fun _ q => if q.ctx = c ∧ q.heldFault then { q with heldFault := false, failed := some 0x49 } else q) s.quilts }

/-- A context is killed: all of its work stops and its entries are released, FSUM.killed is set, its queued faults are
withdrawn and its save slots freed (R21, R323). (DEDUCED, log 104) A replay that was to begin after the running one begins no more (R21 and R36 do
not settle it: DESIGN CHOICE, log 135). -/
def killContext (s : State) (c : Nat) : State :=
  let ents := objTasks s (.context c)
  let s := unresolveContext (ents.foldl killTask s) c
  let x := s.ctxt c
  { s.setCtxt c { x with
      killed := true, faultQ := [], delivery := none, chalkFired := []
      voided := x.voided || x.handling.isSome
      fsum := x.fsum ||| 0x80#64
      greplay := { x.greplay with pend := false, failing := x.greplay.failing || x.greplay.busy } } with
    tasks := s.tasks.filter fun (e, _) => !ents.contains e
    asked := s.asked.filter fun q => !(match q.1 with | .core n => (s.thread (.core n)).ctx == c | _ => false)
    threads := mapVals (fun p t => match p with
      | .core _ => if t.ctx = c ∧ t.priv ≠ .machine ∧ t.status ≠ .idle then { t with status := .killed, wait := none } else t
      | _ => t) s.threads }

/-- A tile as the shadow holds it, with its SRAM, pool, lines and pin map as they stand; what the shadow does not list, as the array's quiet
stretch and ramps, is as at an arm (R232, R261, R262). -/
def restoreTile (now old : Tile) : Tile :=
  { old with
    quiet := 65, rampTo := 0, rampDown := 0
    scratch := now.scratch, empties := now.empties, pins := now.pins, bad := now.bad, pool := now.pool, lines := now.lines
    logs := Vector.replicate 4 [], queues := [], stores := [] }

/-- The slot holds an incoming path stream (R219). -/
def StreamSlot.isPathIn (sl : StreamSlot) : Bool := sl.spec.port.toNat / 64 == 3 && !sl.spec.dirOut

/-- A stream at its recorded position, to be fetched afresh from there; a path stream has the beats received so far (R262). -/
def restoreSlot (now : Option StreamSlot) (o : StreamSlot) : StreamSlot :=
  if o.isPathIn then
    match now with
    | some n => { o with fetched := n.fetched, past := n.past }
    | none => o
  else { o with fetched := o.moved, parts := [], fault := [] }

/-- A strand as the shadow holds it: no log, streams at their recorded positions, the slice engine to discard the entries already taken, no load of
it failed, for it is performed again (R254, R262). Path beats that it sent before the stitch stay on their way, and those sent after it are sent
again. (DEDUCED, log 38) -/
def restoreStrand (now o : Strand) : Strand :=
  { o with
    log := [], queue := [], skip := o.taken, sliceStop := o.sliceArgs.isNone, failed := none
    streams := mapVals (fun q st => restoreSlot (FMap.get? now.streams q) st) o.streams
    sending := now.sending.filter fun b => decide (b.serial < FMap.getD o.pathSent b.stream 0)
    pathGot := now.pathGot }

/-- The key of a strand's stream in the queues of a tile. -/
def queueKey (i q : Nat) : Nat := 16 * (i % 4) + q % 16

/-- The queues of the incoming path streams of a strand hold the beats received and not consumed by the last stitch (R262). -/
def refillPaths (x : Panel) (i : Nat) : Panel :=
  (x.strand i).streams.foldl (fun x (q, st) =>
    if st.isPathIn then st.fetched.foldl (fun x (t, _) =>
      x.setTile t { x.tile t with queues := FMap.set (x.tile t).queues (queueKey i q) (st.past.drop (FMap.getD st.moved t 0)) }) x
    else x) x

/-- A killed strand stays killed until its garment ends (R20, R21). -/
def keepKilled (now o : Strand) : Strand :=
  if now.killed then { o with killed := true, sliceArgs := none, sliceStop := true, skip := 0 } else o

/-- The slice engine's thread at the start that its `slice` operands give (R256). -/
def sliceStart (x : Panel) (i : Nat) (args : Option (Word × Word)) (t : Thread) : Thread :=
  match args with
  | some (pc, v) =>
    { Thread.clear with
      pc := pc, ctx := x.ctx, status := .running
      g := ((Vector.replicate 32 0 |>.set 3 x.imageAddr).set 4 (BitVec.ofNat 64 i)).set 5 v }
  | none => { t with status := .idle }

/-- A wait that goes on starts its timeout again (DEDUCED, log 57). -/
def restartWait (now : Nat) (w : Option Wait) : Option Wait := w.map fun w => { w with since := now }

/-- The entries that a load wrote are discarded (R27). -/
def discardEntries (s : State) (loadId : Nat) : State :=
  { s with tables := mapVals (fun _ us => us.filter fun u => u.loadId != loadId) s.tables, loads := FMap.erase s.loads loadId }

/-- The entries of a load that is not armed are freed (R254). -/
def freeLoad (s : State) (x : Panel) : State :=
  match x.load with
  | some l => discardEntries s l.loadId
  | none => s

/-- The load that a panel performs again: of the first strand with a recorded image address (R254). -/
def loadAgain (strands : List Strand) (id : Nat) : Option Load :=
  (strandIds.find? fun i => (strands.getD i Strand.clear).loadAddr.isSome).bind fun i =>
    (strands.getD i Strand.clear).loadAddr.map fun a => ⟨a, .reading, none, id, i, true⟩

/-- An `amo` that waits at its home stays on its way through a retry: every shadow taken since it was issued has its thread before it, and it is
not issued again (R43). A read is issued again. -/
def keepsAsk (p : Nat) (c : Party × Asked) : Bool := partyPanel c.1 != some p || c.2.amo

/-- A panel that has begun restarts from its shadow (R21, R262): tiles, strands, threads, row and schedules; the entries of a load not yet armed are
freed, and it is performed again (R254). -/
def retryPanel (s : State) (p : Nat) : State :=
  match s.panel? p with
  | none => s
  | some x =>
    let x := x.dropAll
    match (if x.state = .loading ∨ x.state = .preparing then none else x.shadow) with
    | none => s.setPanel p x
    | some sh =>
      let s := freeLoad s x
      let strands := Vector.ofFn fun i : Fin 4 =>
        keepKilled (x.strand i.val) (restoreStrand (x.strand i.val) (sh.strands.getD i.val Strand.clear))
      let y := { x with
        tiles := mapVals (fun t o => restoreTile (x.tile t) o) sh.tiles
        strands := strands
        row := sh.row, schedB := sh.schedB, nextB := sh.nextB, agPending := sh.agPending, switching := sh.switching, holds := []
        faulted := [], skips := [], rowRun := none, rampHold := 0, publishHold := 0, stitch := false, tacks := [], hint := []
        half := none, rowAt := (0, 0)
        load := loadAgain strands.toList s.nextId }
      let y := strandIds.foldl refillPaths y
      let s := { s.setPanel p y with nextId := s.nextId + 1, asked := s.asked.filter (keepsAsk p) }
      strandIds.foldl (fun s i =>
        let s := if (x.strand i).killed then s else
          let t := sh.threads.getD i (s.thread (.seq p i))
          s.setThread (.seq p i) { t with wait := restartWait s.cycle t.wait }
        s.setThread (.slice p i) (sliceStart y i (y.strand i).sliceArgs (s.thread (.slice p i)))) s

/-- The level of an object (R18). -/
def levelOf : FObj → Nat
  | .strand _ _ => 0
  | .panel _ => 1
  | .garment _ => 2
  | .task _ => 3
  | .graph _ => 4
  | .context _ => 5
  | .nothing => 6

/-- The place of an object in the retry counts of a task: its level, and for a panel or strand its panel's number in pattern order and the
strand, which stay as they are where a garment is placed again. -/
def retryKey (s : State) (o : FObj) : Nat × Nat :=
  let index (p : Nat) : Nat := ((s.panel? p).map (·.index)).getD 0
  (levelOf o, match o with | .strand p i => 4 * index p + i % 4 | .panel p => 4 * index p | _ => 0)

/-- The entry of the task that a fault belongs to. -/
def faultEntry (f : FaultRec) : Nat := f.task.toNat % 2 ^ 13

/-- The retries absorbed so far by an object within the execution of the fault's task (R21). -/
def retriesOf (s : State) (f : FaultRec) (o : FObj) : Nat :=
  ((FMap.get? s.tasks (faultEntry f)).map fun t => FMap.getD t.retries (retryKey s o) 0).getD 0

/-- One more retry counted for an object. -/
def countRetry (s : State) (f : FaultRec) (o : FObj) : State :=
  match FMap.get? s.tasks (faultEntry f) with
  | some t =>
    let k := retryKey s o
    { s with tasks := FMap.set s.tasks (faultEntry f) { t with retries := FMap.set t.retries k (FMap.getD t.retries k 0 + 1) } }
  | none => s

/-- Kill self on an object (R21): under the graph every task that is not done is discarded (R39). (DEDUCED, log 108) -/
def killObject (s : State) (o : FObj) : State :=
  let c := objCtx s o
  let s := s.setCtxt c ((s.ctxt c).withdraw (faultUnder s o))
  match o with
  | .strand p i => killStrand s p i
  | .panel p => killPanel s p
  | .garment e => killTask s e
  | .task e => killTask s e
  | .graph c => (objTasks s (.graph c)).foldl (fun s e => abandonTask s e .discarded) s
  | .context c => killContext s c
  | .nothing => s

/-- A task goes back to its queue after an undone placement, keeping its rank and age (R21, R27). -/
def requeueTask (s : State) (entry : Nat) : State :=
  match FMap.get? s.tasks entry with
  | some t =>
    if t.state.isOver then s
    else { s with tasks := FMap.set s.tasks entry { t with state := .ready, panels := [], admitted := false } }
  | none => s

/-! ## Trip ends (R168) -/

/-- A bit enters the control-path signature (R203). -/
def Thread.sign (t : Thread) (b : Bool) : Thread :=
  { t with sig := (t.sig.rotateLeft 1) ^^^ (if b then 1#64 else 0#64) }

/-- A loop slot. -/
def Thread.slot (t : Thread) (i : Nat) : LoopSlot := t.loops[i % 4]'(Nat.mod_lt _ (by decide))

/-- The thread with a loop slot replaced. -/
def Thread.setSlot (t : Thread) (i : Nat) (h : LoopSlot) : Thread :=
  { t with loops := t.loops.set (i % 4) h (Nat.mod_lt _ (by decide)) }

/-- Trip ends of the active slots that latch an address the word occupies, most recently entered first (R168): the
thread after them, the number of trips ended, and the trap of a `loopw` that falls through, whose resumption is at the
latched end + 4. -/
def tripEnds (addrs : List Word) : List Nat → Thread → Nat → Thread × Nat × Option Trap
  | [], t, n => (t, n, none)
  | i :: is, t, n =>
    let h := t.slot i
    if h.active && addrs.contains h.lstop then
      let left : Word := if h.left = 0#64 then 0#64 else h.left - 1#64
      if left ≠ 0#64 then
        ({ (t.setSlot i { h with left := left }).sign true with pc := h.lstart }, n + 1, none)
      else
        let t := (t.setSlot i { h with left := 0#64, active := false }).sign false
        if h.exits then
          ({ t with pc := h.lstop + 4#64 }, n + 1, some ⟨.loopBound, h.lstart + BitVec.ofNat 64 (i % 4), none⟩)
        else tripEnds addrs is t (n + 1)
    else tripEnds addrs is t n

/-- The addresses that the word occupies (R168). -/
def tripAddrs (i : Instr) (pc : Word) : List Word := if i.len = 8 then [pc, pc + 4#64] else [pc]

/-! ## Fetch without faults, and completion under ignore (R21) -/

/-- The owner of the instruction cache that a party fetches through: a core's two threads share one, and so do the
strands and slice engines of a sequencer (R74). -/
def icOwner : Party → Party
  | .core n => .core (n / 2 * 2)
  | .seq p _ => .seq p 0
  | .slice p _ => .seq p 0
  | .tile p t => .tile p t

/-- The word at a virtual address as a thread would fetch it, without faults: through its instruction cache. -/
def peekWord (s : State) (p : Party) (va : Word) : Option W32 :=
  match peek s (partyCtx s p) va.toNat with
  | some (pa, _) =>
    match s.icache.find? fun w => w.owner == icOwner p && w.pa == pa with
    | some w => some w.word
    | none => some (BitVec.ofNat 32 (ofBytes (homeBytes s (ctxDomain s (partyCtx s p)) pa 4)))
  | none => none

/-- The instruction at a virtual address, where it can be fetched and is assigned. -/
def peekInstr (s : State) (p : Party) (va : Word) : Option Instr :=
  match peekWord s p va with
  | some w =>
    if isLongFirst w then
      if va.toNat % 8 = 0 then (peekWord s p (va + 4#64)).bind fun w1 => decodeLong w w1 else none
    else decodeWord w
  | none => none

/-- The register that a load writes: a faulting load completed under ignore returns zero in it (R21). -/
def loadDest : Instr → Option Reg
  | .ld _ d _ _ => some d
  | .ldZ _ d _ _ => some d
  | .ldS _ d _ _ => some d
  | .ldSZ _ d _ _ => some d
  | .ldsync d _ _ => some d
  | .ldsyncE d _ _ => some d
  | .acq _ _ a _ => some a
  | .vgather _ _ _ => none
  | _ => none

/-- The z register that a vector load writes. -/
def loadDestZ : Instr → Option Reg
  | .vld d _ _ => some d
  | .vgather d _ _ => some d
  | _ => none

/-- The thread after its faulting instruction at a pc completed as a no-op, a load returning zero: it goes on after the word, whose trips
end (R21, R168); with the trips ended and the trap of a `loopw` that falls through. -/
def ignoredAt (s : State) (p : Party) (pc : Word) : Thread × Nat × Option Trap :=
  let t := { s.thread p with status := .running, wait := none }
  match peekInstr s p pc with
  | some i =>
    let t := match loadDest i with | some d => t.put d 0#64 | none => t
    let t := match loadDestZ i with | some d => { t with z := t.z.set d.toNat 0 d.isLt } | none => t
    tripEnds (tripAddrs i pc) t.order { t with pc := pc + BitVec.ofNat 64 i.len } 0
  | none => tripEnds [pc] t.order { t with pc := pc + 4#64 } 0

/-- A faulting beat of an in-stream completed under ignore: a load that returns zero (R21). -/
def zeroBeat (x : Panel) (t i q : Nat) (sl : StreamSlot) : Panel :=
  let tl := x.tile t
  let key := 16 * (i % 4) + q % 16
  let tl := { tl with queues := FMap.set tl.queues key (FMap.getD tl.queues key [] ++ [⟨0, 0, false⟩]) }
  let sl := { sl with
    fault := FMap.erase sl.fault t, parts := FMap.erase sl.parts t
    fetched := FMap.set sl.fetched t (FMap.getD sl.fetched t 0 + 1) }
  (x.setTile t tl).setStrand i { x.strand i with streams := FMap.set (x.strand i).streams q sl }

/-- A tack raises a channel's pending count in every tile and in the lead AG tile; a count of 255 stays (R250). -/
def raiseTack (x : Panel) (ch : Nat) : Panel :=
  let h : ch % 16 < 16 := Nat.mod_lt _ (by decide)
  { x with
    tiles := mapVals (fun _ t => { t with pending := t.pending.set (ch % 16) (min 255 (t.pending[ch % 16]'h + 1)) h }) x.tiles
    agPending := x.agPending.set (ch % 16) (min 255 (x.agPending[ch % 16]'h + 1)) h }

/-- The words of a list that a read of n bytes takes in. -/
def badIn (bad : List Nat) (off n : Nat) : Option Nat :=
  bad.find? fun w => decide (off < 8 * w + 8) && decide (8 * w < off + n)

/-- The scratchpad row that a gather reads next (R245). -/
def Gather.row (g : Gather) : Nat := g.offs.getD g.done 0

/-- A gather reads its next row in the present live cycle: entry i in t + 1 + i (R245). -/
def Gather.reading (g : Gather) : Bool := decide (g.done + 1 ≤ g.age)

/-- A gather of the tile that reads a row with an uncorrectable error in the present live cycle, and the word it lies in (R326). -/
def Tile.badGather (t : Tile) : Option (Gather × Nat) :=
  t.gathers.findSome? fun g => if g.reading then (badIn t.bad g.row 64).map fun w => (g, w) else none

/-- The gather whose read a fault of a row tells of: an E.ECC of LS in a tile with such a gather. -/
def badGatherOf (x : Panel) (t elem : Nat) (c : Cause) : Option Gather :=
  if elem = 2 ∧ c = .ecc then (x.tile t).badGather.map (·.1) else none

/-- A clamped row goes on past its fault under ignore: a faulting beat is zero, any other faulting word is a no-op, and
an overflowing tack raises no count beyond 255 (R21, R322). A gather whose read faults is the no-op: it ends (DESIGN CHOICE, log 142). -/
def ignoreRow (x : Panel) (t : Nat) (f : FaultRec) : Panel :=
  let x := { x with faulted := [], holds := x.holds.filter fun h => h.cause != .fabricFault && h.cause != .translation }
  let i := bitsOf f.fwhere 18 2
  let q := bitsOf f.fwhere 20 4
  let skip : Panel := { x with skips := x.skips ++ [(t, bitsOf f.fwhere 29 3)] }
  match f.obj with
  | .panel _ => if f.cause = .engine then (match x.tacks with | f :: l => raiseTack { x with tacks := l } f.ch | [] => x) else skip
  | _ =>
    match badGatherOf x t (bitsOf f.fwhere 29 3) f.cause with
    | some g => x.setTile t { x.tile t with gathers := (x.tile t).gathers.erase g }
    | none =>
    if f.source = 3 then
      match FMap.get? (x.strand i).streams q with
      | some sl => if (FMap.get? sl.fault t).isSome then zeroBeat x t i q sl else skip
      | none => skip
    else skip

/-- The panel's clamp for a fault is released and its row executes again (R94, R322). -/
def releaseClamp (s : State) (p : Nat) : State :=
  s.modPanel p fun x => { x with
    faulted := [], holds := x.holds.filter fun h => h.cause != .fabricFault && h.cause != .translation
    strands := x.strands.map fun st => { st with streams := mapVals (fun _ q => { q with fault := [] }) st.streams } }

/-- The task or garment of an object is over, so its late fault is counted and offered to no one (R319). -/
def objOver (s : State) : FObj → Bool
  | .task e => ((FMap.get? s.tasks e).map fun t => t.state.isOver).getD true
  | .garment e => ((FMap.get? s.tasks e).map fun t => t.state.isOver).getD true
  | _ => false

/-- The fault is a failed load or access at placement or admission, which has no word to complete (R21, R27). -/
def isPlacementFault (f : FaultRec) : Bool := f.source == 8

/-! ## Held accesses (R322, R355) -/

/-- The held access of an engine is left unresolved: the command fails as its own rules state (R355). -/
def unresolve (s : State) (e : EngineId) : State :=
  match e with
  | .copy c ch =>
    let x := s.ctxt c
    let chan := FMap.getD x.chans ch ⟨[], false⟩
    match chan.queue with
    | h :: q => s.setCtxt c { x with chans := FMap.set x.chans ch { chan with queue := { h with heldFault := false, failed := true } :: q } }
    | [] => s
  | .press n =>
    match FMap.get? s.press n with
    | some c => { s with press := FMap.set s.press n { c with heldFault := false, failed := some (c.failed.getD 0x53) } }
    | none => s
  | .quilt n =>
    match FMap.get? s.quilts n with
    | some c => { s with quilts := FMap.set s.quilts n { c with heldFault := false, failed := some 0x49 } }
    | none => s
  | .load p => s.modPanel p fun x => { x with load := x.load.map fun l => if l.state = .held then { l with state := .failed } else l }
  | .admission e =>
    match FMap.get? s.tasks e with
    | some t => if t.state = .held then { s with tasks := FMap.set s.tasks e { t with state := .barred } } else s
    | none => s
  | .bobbin _ => s
  | .stream _ _ _ => s

/-- The held access of an engine is issued again (R322, R355). -/
def reissue (s : State) (e : EngineId) : State :=
  match e with
  | .copy c ch =>
    let x := s.ctxt c
    let chan := FMap.getD x.chans ch ⟨[], false⟩
    match chan.queue with
    | h :: q => s.setCtxt c { x with chans := FMap.set x.chans ch { chan with queue := { h with heldFault := false } :: q } }
    | [] => s
  | .press n =>
    match FMap.get? s.press n with
    | some c => { s with press := FMap.set s.press n { c with heldFault := false, heldRecord := false } }
    | none => s
  | .quilt n =>
    match FMap.get? s.quilts n with
    | some c => { s with quilts := FMap.set s.quilts n { c with heldFault := false } }
    | none => s
  | .load p => s.modPanel p fun x => { x with load := x.load.map fun l => if l.state = .held then { l with state := .reading } else l }
  | .admission e =>
    match FMap.get? s.tasks e with
    | some t => if t.state = .held then requeueTask s e else s
    | none => s
  | .bobbin _ => s
  | .stream _ _ _ => s

/-- The fault of an engine's access is queued, due or under handling. -/
def Context.holdsEngine (x : Context) (e : EngineId) : Bool :=
  (x.faultQ.any fun f => f.1.engine == some e) || (x.delivery.any fun f => f.1.engine == some e) ||
    x.handling.any fun f => f.1.engine == some e

/-- The engines whose held access is one of a task's commands. -/
def heldEngines (s : State) (c : Nat) (id : BitVec 32) : List EngineId :=
  ((s.ctxt c).chans.filterMap fun (ch, q) => (q.queue.head?.filter fun h => h.task == id && h.heldFault).map fun _ => EngineId.copy c ch) ++
    (s.press.filterMap fun (n, q) => if q.task = id ∧ q.heldFault then some (.press n) else none) ++
    s.quilts.filterMap fun (n, q) => if q.task = id ∧ q.heldFault then some (.quilt n) else none

/-- The accesses of a task's engine commands whose faults a freeze withdrew are issued again at its resume (R334). -/
def reissueWithdrawn (s : State) (c : Nat) (id : BitVec 32) : State :=
  ((heldEngines s c id).filter fun e => !(s.ctxt c).holdsEngine e).foldl reissue s

/-! ## Taking a fault (R321) -/

/-- The value of `c.trapcause` at trap entry (R315). -/
def trapcauseOf (f : FaultRec) (prior : Priv) (remote : Bool) : Word :=
  BitVec.ofNat 64 (2 ^ 63 + prior.code * 2 ^ 61 + (if remote then 2 ^ 60 else 0) + f.source % 16 * 2 ^ 56 +
    f.task.toNat * 2 ^ 8 + f.cause.num)

/-- The handler's address that `c.tvec` names (R318, R321). -/
def handlerPc (tvec : Word) : Word := BitVec.ofNat 64 (bitsOf tvec 8 47 * 256)

/-- Register g31. -/
def g31 : Reg := 31#5

/-- Taking a fault (R321): `c.trapcause`, `c.trappc`, `c.trapval`, `c.fwhere` and `c.fpc` are written, for a
translation fault `c.xlva` and `c.xlinfo`; g31 and `c.tscratch` are swapped; the thread runs at supervisor from the
handler. A wait in progress is abandoned with its pc kept. (DEDUCED, log 92) -/
def takeTrap (s : State) (c : Nat) (f : FaultRec) (n : Nat) : State :=
  let p := Party.core n
  let t := s.thread p
  let x := s.ctxt c
  let remote := f.party != some p
  let xl := match f.xl with | some v => v | none => (x.xlva, x.xlinfo)
  let s := s.setCtxt c { x with
    trapcause := trapcauseOf f t.priv remote
    trappc := t.pc
    trapval := f.val
    fwhere := f.fwhere
    fpc := f.fpc
    xlva := xl.1
    xlinfo := xl.2
    fact := none
    handling := some (f, n)
    voided := false
    delivery := none }
  s.setThread p { t.put g31 t.tscratch with
    tscratch := t.get g31, priv := .supervisor, pc := handlerPc x.tvec, status := .running, wait := none, ctx := c
    before := if remote then t.status else .running }

/-- `c.tvec`.sthread (R318). -/
def tvecThread (x : Context) : Nat := bitsOf x.tvec 3 5

/-! ## Containment (R21) -/

/-- The task runs on a service-core thread. -/
def isCoreTask (s : State) (e : Nat) : Bool := ((FMap.get? s.tasks e).map fun t => t.record.npanels == 0).getD false

/-- Retry on an absorbing object: its panels restart from their shadows; a placement fault puts the task back into its queue; the faulting
task of a service core, whose thread has no stitch, is killed, and so is the object of a fourth fault (R21, R27, R325). -/
def retryObject (s : State) (f : FaultRec) (from_ o : FObj) : State :=
  if 3 ≤ retriesOf s f o then killObject s o
  else
    let again := (objPanels s o).foldl retryPanel (countRetry s f o)
    match from_ with
    | .task e =>
      if isPlacementFault f then requeueTask again e
      else if isCoreTask s e then (if o = .task e then killObject s o else killTask again e)
      else again
    | .context _ => killObject s o
    | _ => again

/-- Where a fault stopped: a thread's instruction completes under ignore, as `k` completes it; a clamped row goes on past it (R21, R322). -/
def ignoreWith (k : State → Party → Word → State) (s : State) (f : FaultRec) : State :=
  match f.party with
  | some (.tile p t) => s.modPanel p fun x => if x.faulted.contains f then ignoreRow x t f else x
  | some p => if f.cause = .loopBound then s.setThread p { s.thread p with status := .running } else k s p (s.thread p).pc
  | none => s

/-- Containment (R21): the fault climbs from its object and the policy found acts; `ign` completes it under ignore. -/
def containWith (ign : State → FaultRec → State) (s : State) (f : FaultRec) (from_ : FObj) : State :=
  if from_ = .nothing then countFault s (match f.party with | some p => partyCtx s p | none => 0) 16 16 f.cause
  else if objOver s from_ then countFault s (objCtx s from_) 16 16 f.cause
  else
    let c := objCtx s from_
    let o := climb s 6 from_
    let pol := policyOf s o
    if pol = 0#2 then
      let s := countFault s c 48 16 f.cause
      if isPlacementFault f then retryObject s f from_ from_ else ign s f
    else if pol = 1#2 then retryObject (countFault s c 32 16 f.cause) f from_ o
    else killObject (countFault s c 32 16 f.cause) o

/-- A fault not delivered to a handler: an engine's held access is left unresolved, any other fault is contained. -/
def settleWith (ign : State → FaultRec → State) (s : State) (f : FaultRec) : State :=
  match f.engine with
  | some e => unresolve s e
  | none => containWith ign s f f.obj

/-! ## Offering a fault (R321) -/

/-- A fault goes to its handler (R321): at once on the service-core thread that raised it, else it is due for the thread
of `c.tvec`. -/
def deliverFault (s : State) (c : Nat) (f : FaultRec) (since : Nat) : State :=
  match f.party with
  | some (.core n) => takeTrap s c f n
  | _ => s.setCtxt c { s.ctxt c with delivery := some (f, tvecThread (s.ctxt c)), dueSince := since }

/-- The order of faults that arise in one fabric cycle: task entry, source, tile (R321). -/
def faultBefore (f g : FaultRec) : Bool :=
  let a := faultEntry f
  let b := faultEntry g
  decide (a < b) || (a == b && (decide (f.source < g.source) || (f.source == g.source &&
    decide (bitsOf f.fwhere 32 12 < bitsOf g.fwhere 32 12))))

/-- A fault enters a context's queue, behind those of earlier cycles and in the order of its own cycle (R321). -/
def queueFault (f : FaultRec) (now : Nat) : List (FaultRec × Nat) → List (FaultRec × Nat)
  | [] => [(f, now)]
  | g :: l => if g.2 = now ∧ faultBefore f g.1 then (f, now) :: g :: l else g :: queueFault f now l

/-- The fault is one of a service-core thread's own instruction. -/
def ofCore (f : FaultRec) : Bool := match f.party with | some (.core _) => true | _ => false

/-- A fault waits for its turn: in the queue, or in the place of a due fault of the same cycle that comes after it (R321). -/
def waitFault (s : State) (x : Context) (f : FaultRec) : Context :=
  match x.delivery with
  | some (g, n) =>
    if x.dueSince = s.cycle ∧ faultBefore f g ∧ ofCore f = false then
      { x with delivery := some (f, n), faultQ := queueFault g s.cycle x.faultQ }
    else { x with faultQ := queueFault f s.cycle x.faultQ }
  | none => { x with faultQ := queueFault f s.cycle x.faultQ }

/-- A fault is offered (R321): contained when `c.tvec` is off or the queue is full, queued behind a fault under
handling, taken at once by the service-core thread that raised it, else due for the thread of `c.tvec`. -/
def offerWith (ign : State → FaultRec → State) (s : State) (c : Nat) (f : FaultRec) : State :=
  let x := s.ctxt c
  if !x.tvec.getLsbD 0 then settleWith ign s f
  else if x.trapcause.getLsbD 63 ∨ !x.faultQ.isEmpty ∨ x.delivery.isSome then
    if 32 ≤ x.faultQ.length then settleWith ign (s.setCtxt c { x with fsum := fsumAdd x.fsum 8 8 f.cause }) f
    else s.setCtxt c (waitFault s x f)
  else deliverFault s c f s.cycle

/-- The location of a thread's fault for `c.fwhere` (R316). (DEDUCED, log 42) -/
def fwhereOf (tile elem row stream strand panel issuer : Nat) : Word :=
  BitVec.ofNat 64 (tile % 4096 * 2 ^ 32 + elem % 8 * 2 ^ 29 + row % 32 * 2 ^ 24 + stream % 16 * 2 ^ 20 +
    strand % 4 * 2 ^ 18 + panel % 8 * 2 ^ 15 + issuer % 8192)

/-- The object of a service-core thread's own fault: its task, or its context for a thread with no task (R319; DEDUCED, log 22). -/
def coreObj (s : State) (n : Nat) : FObj :=
  let t := s.thread (.core n)
  if t.task = 0 then .context t.ctx else .task (t.task.toNat % 2 ^ 13)

/-- The fault that a thread's precise trap makes (R314-R319); `pz`: by the consumption of a poisoned entry (R29). -/
def threadFault (s : State) (p : Party) (t : Trap) (pz : Bool) : FaultRec :=
  match p with
  | .core n =>
    ⟨t.cause, t.val, t.xl, 0, partyTask s p, fwhereOf 0 7 0 0 0 0 (issuerNo p), 0, some p, coreObj s n, none, false⟩
  | p =>
    let x := (partyPanel p).getD 0
    let i := partyStrand p
    ⟨t.cause, t.val, t.xl, 1, partyTask s p,
      fwhereOf 0 7 0 0 i (((s.panel? x).map (·.index)).getD 0) (issuerNo p), (s.thread p).pc, some p, .strand x i, none, pz⟩

/-- The entries of a condition queue (R29). -/
def queueDepth : Nat := 16

/-- A poisoned entry is posted on a condition queue and the slice engine stops before its word; on a full queue the engine stalls there
(R29, R257). While a restart discards entries already taken, the entry is discarded and the engine issues its word again (R262; DESIGN
CHOICE, DESIGN CHOICE, log 111). -/
def postPoison (s : State) (p i : Nat) (t : Trap) : State :=
  match s.panel? p with
  | none => s
  | some x =>
    let st := x.strand i
    if st.skip ≠ 0 then s.setPanel p (x.setStrand i { st with skip := st.skip - 1 })
    else if queueDepth ≤ st.queue.length then s
    else
      let s := s.setPanel p ((x.setStrand i { st with queue := st.queue ++ [.poisoned t], sliceStop := true }).count 94 1)
      s.setThread (.slice p i) { s.thread (.slice p i) with status := .stopped }

/-- The thread's fault is one of the handler itself, before its `eret` (R323). -/
def faultOfHandler (s : State) (c : Nat) (p : Party) : Bool :=
  match (s.ctxt c).handling with
  | some (_, n) => p == .core n && (s.ctxt c).trapcause.getLsbD 63
  | none => false

/-- A wait whose arrival has applied stays with a sequencer thread that a fault stops: the form is performed and is not issued again
(R43, R160). -/
def arrivedWait (p : Party) (w : Option Wait) : Option Wait :=
  match p with
  | .core _ => none
  | _ => w.bind fun w => if w.arrived then some w else none

/-- A precise trap of a thread (R320-R323): it stops at the instruction, and the fault is offered by `off`; a fault of the
handler, which firmware contains, kills its context (R324); a slice posts a poisoned entry (R29). -/
def raiseWith (off : State → Nat → FaultRec → State) (s : State) (p : Party) (t : Trap) (pz : Bool) : State :=
  match p with
  | .slice x i => postPoison s x i t
  | .tile _ _ => s
  | p =>
    let c := partyCtx s p
    let s := countFor (s.setThread p { s.thread p with status := .stopped, wait := arrivedWait p (s.thread p).wait }) p 95 1
    let s := if t.cause = .logFull then countFor s p 38 1 else s
    if partyPriv s p = .machine then s
    else if faultOfHandler s c p then killContext (countFault s c 32 16 t.cause) c
    else off s c (threadFault s p t pz)

/-! ## Completion under ignore (R21), the offer of any fault -/

/-- A fault of a `loopw` that falls through, raised by the completion of its last word, is offered: under ignore the thread goes on past
the loop. -/
def offerLoop (s : State) (c : Nat) (f : FaultRec) : State := offerWith (ignoreWith fun s _ _ => s) s c f

/-- A thread's faulting instruction completes as a no-op, a load returning zero, its trips end, and the thread goes on after it (R21,
R168). -/
def completeIgnored (s : State) (p : Party) (pc : Word) : State :=
  let (t, n, tr) := ignoredAt s p pc
  let s := countFor (s.setThread p t) p 90 n
  match tr with
  | none => s
  | some tr => raiseWith offerLoop s p tr false

/-- A fault goes on under ignore (R21, R322). -/
def ignoreFault (s : State) (f : FaultRec) : State := ignoreWith completeIgnored s f

/-- Containment of a fault offered to an object (R21). -/
def containFrom (s : State) (f : FaultRec) (from_ : FObj) : State := containWith ignoreFault s f from_

/-- contain(f): offers a fault to its faulting object under R21. -/
def contain (s : State) (f : FaultRec) : State := containFrom s f f.obj

/-- A fault not delivered to a handler. -/
def settle (s : State) (f : FaultRec) : State := settleWith ignoreFault s f

/-- A fault is offered (R321). -/
def offer (s : State) (c : Nat) (f : FaultRec) : State := offerWith ignoreFault s c f

/-- A precise trap of a thread; that of a slice engine's word, a refused `cget` too, becomes a poisoned entry (R29, R139; DESIGN CHOICE,
log 129). -/
def raiseFor (s : State) (p : Party) (t : Trap) : State := raiseWith offer s p t false

/-- A trap of the running thread. -/
def raise (s : State) (t : Trap) : State := raiseFor s s.focus t

/-- The fault of a poisoned entry that the running thread has taken (R29). -/
def raisePoison (s : State) (t : Trap) : State := raiseWith offer s s.focus t true

/-- The fault at the head of the queue is offered again, those behind it waiting (R321, R322). -/
def offerNext (s : State) (c : Nat) : State :=
  match (s.ctxt c).faultQ with
  | f :: q =>
    let s := s.setCtxt c { s.ctxt c with faultQ := q }
    if (s.ctxt c).tvec.getLsbD 0 then deliverFault s c f.1 f.2 else settle s f.1
  | [] => s

/-! ## Returning from a fault (R322) -/

/-- The action that `eret` performs: the value of `c.fact` written since entry, else 0 for the thread's own fault and 2
for a remote one (R322). -/
def factOf (x : Context) (f : FaultRec) (n : Nat) : Nat :=
  match x.fact with
  | some v => v.toNat
  | none => if f.party = some (.core n) then 0 else 2

/-- The slice engine that posted a poisoned entry resumes: at its faulting word, or past it (R29). -/
def resumeSlice (s : State) (p i : Nat) (past : Bool) : State :=
  let sl := Party.slice p i
  if (s.thread sl).status = .stopped then
    let s := s.modPanel p fun x => x.setStrand i { x.strand i with sliceStop := false }
    let s := s.setThread sl { s.thread sl with status := .running }
    if past then completeIgnored s sl (s.thread sl).pc else s
  else s

/-- What `eret` does with the slice engine whose poisoned entry raised a fault (R29): it issues its faulting word again, or goes on past
it. -/
def resumePoison (s : State) (f : FaultRec) (act : Nat) : State :=
  if f.poisoned ∧ act ≤ 1 then
    match f.party with
    | some (.seq p i) => resumeSlice s p i (act == 1)
    | some (.tile p _) => match f.obj with | .strand _ i => resumeSlice s p i (act == 1) | _ => s
    | _ => s
  else s

/-- The thread stopped for the fault. -/
def stoppedFor (s : State) (f : FaultRec) : Bool :=
  match f.party with
  | some p => (s.thread p).status == .stopped
  | none => false

/-- The panel is clamped for the fault. -/
def clampedFor (s : State) (f : FaultRec) : Bool :=
  match f.party with
  | some (.tile p _) => ((s.panel? p).map fun x => x.faulted.contains f).getD false
  | _ => false

/-- What `eret` does with a remote fault by the action of `c.fact` (R322, R355). -/
def factAct (s : State) (f : FaultRec) (act : Nat) : State :=
  let s := resumePoison s f act
  match f.source, act with
  | 1, 0 => if stoppedFor s f then (match f.party with
      | some p => s.setThread p { s.thread p with status := .running, wait := restartWait s.cycle (s.thread p).wait }
      | none => s) else s
  | 1, 1 => if stoppedFor s f then ignoreFault (countFault s (objCtx s f.obj) 48 16 f.cause) f else s
  | 2, 0 => if clampedFor s f then (match f.party with | some (.tile p _) => releaseClamp s p | _ => s) else s
  | 3, 0 => if clampedFor s f then (match f.party with | some (.tile p _) => releaseClamp s p | _ => s) else s
  | 7, 0 => if clampedFor s f then (match f.party with | some (.tile p _) => releaseClamp s p | _ => s) else s
  | 2, 1 => if clampedFor s f then ignoreFault (countFault s (objCtx s f.obj) 48 16 f.cause) f else s
  | 3, 1 => if clampedFor s f then ignoreFault (countFault s (objCtx s f.obj) 48 16 f.cause) f else s
  | 7, 1 => if clampedFor s f then ignoreFault (countFault s (objCtx s f.obj) 48 16 f.cause) f else s
  | _, act =>
    match f.engine with
    | some e => if act = 0 then reissue s e else unresolve s e
    | none =>
      if f.source = 8 ∧ act ≠ 2 then
        match f.obj with
        | .task e => requeueTask s e
        | _ => s
      else if act = 2 then containFrom s f f.obj
      else s

/-- An action of 2 has the outcome of a fault of a garment's task replace its freeze (R334). -/
def factDone (s : State) (f : FaultRec) (act : Nat) : State :=
  if act = 2 ∧ f.task = taskId s (faultEntry f) then dropFreeze s (faultEntry f) else s

/-- The thread that handles ends with its task: `eret` does not return (R322). -/
def handlerEnded (s : State) (n : Nat) : Bool :=
  match (s.thread (.core n)).status with
  | .idle => true | .killed => true | _ => false

/-- The return of the handler: busy cleared, g31 swapped, prior restored, the pc from `c.trappc` (R322). (DEDUCED, log 43) -/
def leaveTrap (s : State) (c n : Nat) : State :=
  let p := Party.core n
  let x := s.ctxt c
  let t := s.thread p
  let prior : Priv := if bitsOf x.trapcause 61 2 = 0 then .user else if bitsOf x.trapcause 61 2 = 1 then .supervisor else .machine
  let s := s.setCtxt c { x with trapcause := x.trapcause &&& 0x7FFFFFFFFFFFFFFF#64, handling := none, fact := none }
  s.setThread p { t.put g31 t.tscratch with tscratch := t.get g31, priv := prior, pc := x.trappc, status := t.before, wait := none }

/-- The handling of a fault is over though its thread does not return. -/
def dropTrap (s : State) (c : Nat) : State :=
  s.setCtxt c { s.ctxt c with trapcause := (s.ctxt c).trapcause &&& 0x7FFFFFFFFFFFFFFF#64, handling := none }

/-- The handler's return where its thread still stands, then the next fault queued (R322). -/
def endHandling (s : State) (c n : Nat) : State :=
  offerNext (if handlerEnded s n then dropTrap s c else leaveTrap s c n) c

/-- The action of `eret` (R322) on a fault under handling: for an own fault the thread returns first, and its instruction is issued again,
completed or contained at the return address; for a remote one the action comes first. A fault whose object was killed has no action
(R325). -/
def eretAct (s : State) (c n : Nat) (f : FaultRec) (act : Nat) : State :=
  if (s.ctxt c).killed then offerNext (dropTrap s c) c
  else if (s.ctxt c).voided then endHandling s c n
  else if f.party = some (.core n) then
    if act = 0 then offerNext (leaveTrap s c n) c
    else if act = 1 then offerNext (ignoreFault (countFault (leaveTrap s c n) c 48 16 f.cause) f) c
    else offerNext (contain (leaveTrap s c n) f) c
  else endHandling (factDone (factAct s f act) f act) c n

/-- `eret` (R322); the request that an E.PREEMPT served is no longer under way (R328). -/
def eretFrom (s : State) (c n : Nat) : State :=
  match (s.ctxt c).handling with
  | none => leaveTrap s c n
  | some (f, _) =>
    let s := if f.cause = .preempt then preemptEnds s c f.task none else s
    eretAct s c n f (factOf (s.ctxt c) f n)

/-! ## Issuing an instruction (R138, R139) -/

/-- What an instruction's body ends in: the next word, a transfer to an address, a wait, the thread's state set by the
instruction itself, a trap, a trap of a form part of whose effect stands, no issue in this cycle, or a stop. -/
inductive Res where
  | ok (s : State)
  | jump (s : State) (pc : Word)
  | wait (s : State) (timeout : Option Nat) (arrived : Bool)
  | set (s : State)
  | trap (t : Trap)
  | trapAt (s : State) (t : Trap)
  | hold (s : State)
  | stop (f : Fault)
  deriving DecidableEq, Repr

/-- A trap with no translation values. -/
def trapOf (c : Cause) (v : Word) : Res := .trap ⟨c, v, none⟩

/-- A body that goes on after a translation. -/
def Res.bindX {α : Type} (r : Except Trap α) (f : α → Res) : Res :=
  match r with
  | .ok a => f a
  | .error t => .trap t

/-- The form is one of the fabric commands or `sspec` (R138). -/
def isFabric : Instr → Bool
  | .ldpat _ => true | .arm _ => true | .disarm => true | .sgo _ => true | .sstop _ => true | .slice _ _ => true
  | .cond _ _ => true | .tack _ => true | .tkwait _ _ => true | .commit => true | .mxhint _ => true | .cpost _ => true
  | .sspec _ _ _ _ _ => true
  | _ => false

/-- The form is a service-core form: vld, vst, the vector group, vop, eret, ctxsave, ctxload (R138). -/
def isCoreOnly : Instr → Bool
  | .vld _ _ _ => true | .vst _ _ _ => true | .vgather _ _ _ => true | .vscatter _ _ _ => true | .vmovg _ _ _ => true
  | .vmovz _ _ _ => true | .vop _ _ => true | .eret => true | .ctxsave _ => true | .ctxload _ => true
  | _ => false

/-- The slice subset: alu, the immediate forms, ld, ld.z, ld.s, ld.s.z, cget, br, bcc, cpost, nop (R138). -/
def isSliceForm : Instr → Bool
  | .add _ _ _ => true | .sub _ _ _ => true | .mul _ _ _ => true | .mulh _ _ _ => true | .mulhu _ _ _ => true
  | .div _ _ _ => true | .divu _ _ _ => true | .rem _ _ _ => true | .remu _ _ _ => true | .and _ _ _ => true
  | .or _ _ _ => true | .xor _ _ _ => true | .andn _ _ _ => true | .shl _ _ _ => true | .shr _ _ _ => true
  | .sra _ _ _ => true | .rol _ _ _ => true | .ror _ _ _ => true | .clz _ _ => true | .ctz _ _ => true
  | .popc _ _ => true | .min _ _ _ => true | .max _ _ _ => true | .minu _ _ _ => true | .maxu _ _ _ => true
  | .sel _ _ _ _ => true | .cmp _ _ _ _ => true | .lea _ _ _ _ => true | .bext _ _ _ => true | .bins _ _ _ => true
  | .addi _ _ _ => true | .muli _ _ _ => true | .andi _ _ _ => true | .ori _ _ _ => true | .xori _ _ _ => true
  | .shli _ _ _ => true | .shri _ _ _ => true | .srai _ _ _ => true | .rori _ _ _ => true | .cmpi _ _ _ _ => true
  | .mini _ _ _ => true | .maxi _ _ _ => true | .minui _ _ _ => true | .maxui _ _ _ => true
  | .ld _ _ _ _ => true | .ldZ _ _ _ _ => true | .ldS _ _ _ _ => true | .ldSZ _ _ _ _ => true
  | .cget _ _ => true | .br _ => true | .bcc _ _ _ _ => true | .cpost _ => true | .nop => true
  | _ => false

/-- The form is `cpost`. -/
def isCpost : Instr → Bool
  | .cpost _ => true | _ => false

/-- The party may run the form (R138). -/
def mayIssue (p : Party) (i : Instr) : Bool :=
  match p with
  | .core _ => !isFabric i
  | .seq _ _ => !isCoreOnly i && !isCpost i
  | .slice _ _ => isSliceForm i
  | .tile _ _ => false

/-- The form requires supervisor privilege (R138; of the fitting forms R202 names `fitstat` too: DEDUCED, log 112). -/
def needsSupervisor : Instr → Bool
  | .eret => true | .tlbinv _ _ => true | .ctxsave _ => true | .ctxload _ => true
  | .fitbeg _ _ => true | .fitend _ => true | .fitstat _ _ _ => true
  | _ => false

/-- The value of `c.trapval` that names the word (R314). -/
def wordVal (i : Instr) : Word := zext64 i.firstWord

/-- Lines 2 and 3 of R139: the trap of a form not allowed to its issuer, or above its privilege. -/
def issueCheck (i : Instr) (s : State) : Option Trap :=
  if mayIssue s.focus i = false then some ⟨.illegal, wordVal i, none⟩
  else if needsSupervisor i = true ∧ partyPriv s s.focus = .user then some ⟨.priv, wordVal i, none⟩
  else none

/-! ## Retiring an instruction (R163, R168) -/

/-- An instruction completes without transferring control: the pc moves to the next word, trips end (R163, R168). -/
def retire (i : Instr) (s : State) : State :=
  let p := s.focus
  let t := s.cur
  let pc := t.pc
  let t := { t with pc := pc + BitVec.ofNat 64 i.len }
  if t.loops.toList.all fun h => !h.active then s.setCur t
  else
    let (t, n, tr) := tripEnds (tripAddrs i pc) t.order t 0
    let s := countFor (s.setCur t) p 90 n
    match tr with
    | none => s
    | some tr => raise s tr

/-- An instruction transfers control (R163). -/
def jumpTo (s : State) (pc : Word) : State := s.setCur { s.cur with pc := pc }

/-- The sequencer thread's use of its live cycle, and ev88 (R198, R263). (DEDUCED, log 45) -/
def noteIssue (s : State) : State :=
  match s.focus with
  | .seq p _ =>
    match s.panel? p with
    | some x => (s.setCur { s.cur with issued := x.tok }).setPanel p (x.count 88 1)
    | none => s
  | _ => s

/-- The commit-after forms of R160: each implies a stitch before it, and once performed the shadow lies past it.
(DEDUCED, log 36) -/
def commitAfter : Instr → Bool
  | .amoAdd _ _ _ _ => true | .amoAnd _ _ _ _ => true | .amoOr _ _ _ _ => true | .amoXor _ _ _ _ => true
  | .amoMin _ _ _ _ => true | .amoMax _ _ _ _ => true | .amoSwap _ _ _ _ => true | .amoCas _ _ _ _ => true
  | .amoFadd _ _ _ => true | .rel _ _ _ _ => true | .bar _ _ _ _ => true | .gbar _ => true | .gbarM _ => true
  | .ldsyncE _ _ _ => true | .fin => true | .bttpl _ _ => true | .bdrawv _ _ _ => true | .bspool _ => true
  | .bspsave _ => true | .tsub _ _ => true | .tdep _ _ _ => true | .gpset _ _ _ => true | .pmsel _ _ _ => true
  | .pmclr _ => true | .chalk _ _ => true
  | .ldpat _ => true | .arm _ => true | .disarm => true | .sgo _ => true | .sstop _ => true | .slice _ _ => true
  | .cond _ _ => true | .tack _ => true | .tkwait _ _ => true | .commit => true | .mxhint _ => true | .cpost _ => true
  | .qinit _ _ => true | .qapp _ _ _ => true | .qdesc _ _ _ => true | .qsplit _ _ _ => true | .qmerge _ _ _ => true
  | .qfork _ _ _ => true | .qevict _ _ _ => true | .qmark _ _ => true | .qtrim _ _ => true | .qstat _ _ _ => true
  | .qfree _ _ => true | .prcopy _ _ _ => true | .prfill _ _ _ => true | .prand _ _ _ => true | .pror _ _ _ => true
  | .prxor _ _ _ => true | .prnot _ _ _ => true | .apertureStore _ _ _ => true
  | _ => false

/-- The row that a panel's wheel broadcast in the present fabric cycle, none where it is held or has not had its cycle. -/
def Panel.rowNow (x : Panel) (now : Nat) : Option Nat := if x.rowAt.1 = now + 1 then some x.rowAt.2 else none

/-- The header reserves a bank of the n bytes at an offset in the row that the wheel broadcast in the present cycle: `.s` accesses and engine
writes to the bank wait (R15, R118; DEDUCED, log 131). -/
def Panel.reserves (x : Panel) (now off n : Nat) : Bool :=
  match x.rowNow now with
  | none => false
  | some r => x.image.reserve.any fun e => e.2.2 == r && decide (off / 4096 ≤ e.1) && decide (e.1 * 4096 < off + n)

/-- The panel may not stitch now: a sequencer's log holds a `.s` store to a bank reserved in the present row, which the stitch would write (R118),
or a row has executed in part (R31). -/
def Panel.barsStitch (x : Panel) (now : Nat) : Bool :=
  x.half.isSome || strandIds.any fun i => (x.strand i).log.any fun e => match e with
    | .scratch _ off bs _ => x.reserves now off bs.length
    | _ => false

/-- The form stitches as it issues (R108, R160). -/
def stitches : Instr → Bool
  | .fence _ => true
  | i => commitAfter i

/-- The panel of a party may not stitch now (R31, R118). -/
def stitchBarred (s : State) (p : Party) : Bool := (((partyPanel p).bind s.panel?).map fun x => x.barsStitch s.cycle).getD false

/-- A stitching form waits for the end of a row, and of one that reserves a bank which its stitch writes (R31, R118; DEDUCED, log 131). -/
def stitchWaits (i : Instr) (s : State) : Bool := stitches i && stitchBarred s s.focus

/-- A thread as the shadow holds it (R160, R261): a wait only where its arrival has applied, and a word that trapped to
be issued again. (DEDUCED, log 37) -/
def shadowThread (t : Thread) : Thread :=
  { t with
    wait := t.wait.bind fun w => if w.arrived then some w else none
    status := if t.status = .stopped then .running else t.status }

/-- The commit shadow takes the state listed in R261, with each strand's position. -/
def takeShadow (s : State) (p : Nat) : State :=
  s.modPanel p fun x =>
    { x with
      shadow := some
        { tiles := x.tiles, strands := x.strands.toList, threads := strandIds.map fun i => shadowThread (s.thread (.seq p i))
          row := x.row, schedB := x.schedB, nextB := x.nextB, switching := x.switching, agPending := x.agPending } }

/-- After a commit-after form of a strand is performed, the shadow lies past it (R43, R160). -/
def commitShadow (i : Instr) (s : State) : State :=
  match s.focus with
  | .seq p _ => if commitAfter i then takeShadow s p else s
  | .slice p _ => if commitAfter i then takeShadow s p else s
  | _ => s

/-- The outcome of a body. (DEDUCED, log 34) -/
def finishRes (i : Instr) (s : State) : Res → Host.Outcome State Fault Refusal
  | .ok s' => .next (commitShadow i (noteIssue (retire i s')))
  | .jump s' pc => .next (noteIssue (jumpTo s' pc))
  | .wait s' timeout arrived =>
    let s' := s'.setCur { s'.cur with wait := some ⟨i, s.cycle, timeout, arrived⟩ }
    .next (countFor (if arrived then commitShadow i (noteIssue s') else noteIssue s') s.focus 91 1)
  | .set s' => .next (noteIssue s')
  | .trap t => .next (raise (noteIssue s) t)
  | .trapAt s' t => .next (raise (noteIssue s') t)
  | .hold s' => .next s'
  | .stop f => .fault f

/-- An instruction issued by the running thread: lines 2 and 3 of R139, then its body, in which line 4 stands.
(DEDUCED, log 46) -/
def issue (i : Instr) (s : State) (body : State → Res) : Host.Outcome State Fault Refusal :=
  match issueCheck i s with
  | some t => .next (raise (noteIssue s) t)
  | none => if stitchWaits i s then .next s else finishRes i s (body s)

/-! ## The debug unit (R267, R294, R337) -/

/-- The debug unit holds a party: a service-core thread by itself, any other with its panel (R267, R294). -/
def isHeld (s : State) (p : Party) : Bool :=
  match partyPanel p with
  | some x => s.debugHolds.any fun q => partyPanel q.1 == some x
  | none => s.debugHolds.any fun q => q.1 == p

/-- A breakpoint that names the party with its place in its task (R267). -/
def breakOf (s : State) (p : Party) : BreakAt :=
  match p with
  | .core n => .core n
  | p => .strand (partyTask s p) ((((partyPanel p).bind s.panel?).map (·.index)).getD 0) (partyStrand p)

/-- A party of a panel that is frozen, or has stopped to freeze, issues nothing (R329). -/
def inFrozen (s : State) (p : Party) : Bool :=
  match (partyPanel p).bind s.panel? with
  | some x => x.state == .frozen || x.state == .stopping
  | none => false

/-- A party that the debug unit holds, or whose panel is frozen or has stopped to freeze. -/
def isStill (s : State) (p : Party) : Bool := isHeld s p || inFrozen s p

/-- The parties that `set hold all` holds with every stop: panels and every service-core thread of the tasks that Henid launched, running
or stopped at a fault (R337). -/
def henidParties (s : State) : List Party :=
  (s.panels.filter fun c => s.henidTasks.contains (taskId s c.2.entry)).map (fun c => Party.seq c.1 0) ++
    (s.threads.filterMap fun c => match c.1 with
      | .core n => if c.2.task ≠ 0 ∧ s.henidTasks.contains c.2.task then some (.core n) else none
      | _ => none)

/-- A breakpoint stops a party before its word (R267, R294, R337); continued, the thread runs that word and does not stop again.
(DEDUCED, log 89) -/
def debugStop (s : State) (p : Party) : State :=
  let all := if s.holdAll then henidParties s else []
  { s with
    debugHolds := s.debugHolds ++ ((p :: all).map fun q => (q, s.cycle))
    threads := mapVals (fun q t => if q == p then { t with passed := true } else t) s.threads }

end Sys2Proof.Machine
end

