-- ==== Sys2Proof/Machine/Flags.lean ====
section
/-! DEFINITION. Conditions: the condition codes of control words (R131), the predicate of a phase word (R140), masks. No
control form sets a flag (R161). -/

namespace Sys2Proof.Machine

open Sys2Proof

/-- The condition holds of a and b (R131). -/
def ccHolds (cc : CC) (a b : Word) : Bool :=
  match cc with
  | .eq => a == b
  | .ne => a != b
  | .lt => a.slt b
  | .ge => !a.slt b
  | .ltu => a.ult b
  | .geu => !a.ult b
  | .gt => b.slt a
  | .le => !b.slt a
  | .gtu => b.ult a
  | .leu => !b.ult a

/-- 1 where a condition holds, else 0. -/
def boolWord (b : Bool) : Word := if b then 1#64 else 0#64

/-- The word executes on a tile (R140); in every other case it is nullified. -/
def predHolds (p : Pred) (t : Tile) : Bool :=
  match p with
  | .always => true
  | .ifSet => t.cond
  | .ifClear => !t.cond
  | .ifRunning => t.running

end Sys2Proof.Machine
end

