-- ==== Sys2Proof/Machine/Operands.lean ====
section
/-! DEFINITION. Operand forms: immediates and offsets (R130), panel scratch addresses (R78), scratch-tagged addresses
(R159), lanes of v and z registers (R3), the byte offset of an LS word (R243). -/

namespace Sys2Proof.Machine

open Sys2Proof

/-- The address of a load or store: g[a] + sext(offset) × n (R130, R170). -/
def memAddr (s : State) (a : Reg) (off : BitVec 14) (n : Nat) : Word := s.g a + sext64 off * BitVec.ofNat 64 n

/-- The address of a cache form: g[a] + sext(offset) (R130, R173). -/
def cacheAddr (s : State) (a : Reg) (off : BitVec 14) : Word := s.g a + sext64 off

/-- The address of the word's target: 4 × sext(offset) from the word (R130). -/
def relTarget {n : Nat} (pc : Word) (off : BitVec n) : Word := pc + 4#64 * sext64 off

/-- The address is a multiple of n. -/
def aligned (a : Word) (n : Nat) : Bool := a.toNat % n == 0

/-- A scratch location: a tile of the issuer's panel, or a core's scratch, with the byte offset; for a command, scratch of an issuer's panel
that has left its blocks since (R293, R309): what it writes there reaches nothing, what it reads there is free. -/
inductive ScratchLoc where
  | tile (t off : Nat)
  | core (c off : Nat)
  | gone (off : Nat)
  deriving DecidableEq, Repr

/-- The scratchpad size of a tile (R75). -/
def scratchSize (x : Panel) : Nat := (64 - 4 * x.image.l1) * 4096

/-- The dense tile index of a tile of a panel (R145). -/
def denseTile (x : Panel) (lx ly : Nat) : Nat := ly * (4 * x.image.width) + lx

/-- The scratch tile index 64·ly + lx of a dense index (R78, R145). -/
def tileIndex (x : Panel) (t : Nat) : Nat := 64 * (t / (4 * x.image.width)) + t % (4 * x.image.width)

/-- A panel scratch address (R78): the location of `size` bytes, none where the access raises E.PERM. -/
def panelScratch (x : Panel) (a : Word) (size : Nat) : Option ScratchLoc :=
  let off := bitsOf a 0 18
  let lx := bitsOf a 18 6
  let ly := bitsOf a 24 6
  if bitsOf a 30 34 = 0 ∧ lx < 4 * x.image.width ∧ ly < 2 * x.image.height ∧ off + size ≤ scratchSize x then
    some (.tile (denseTile x lx ly) off)
  else none

/-- The size of a service core's scratch (R74). -/
def coreScratchSize : Nat := 2 ^ 19

/-- A service-core `.s` address: bits 63:19 are zero (R78). -/
def coreScratch (c : Nat) (a : Word) : Option ScratchLoc :=
  if bitsOf a 19 45 = 0 then some (.core c (bitsOf a 0 19)) else none

/-- The location of a `.s` address for the running party (R171). -/
def scratchLoc (s : State) (p : Party) (a : Word) (size : Nat) : Option ScratchLoc :=
  match p with
  | .core n => coreScratch (n / 2) a
  | p => ((partyPanel p).bind s.panel?).bind fun x => panelScratch x a size

/-- The address is scratch-tagged: bits 63:62 are 0b10 or 0b11 (R159). -/
def isTagged (a : Word) : Bool := a.getLsbD 63

/-- Tag 0b11: service-core scratch. -/
def isCoreTag (a : Word) : Bool := a.getLsbD 63 && a.getLsbD 62

/-- The scratch-tagged address of a byte of a panel's scratchpad (R78, R159). -/
def tileAddr (x : Panel) (t off : Nat) : Word := BitVec.ofNat 64 (2 ^ 63 + tileIndex x t * 2 ^ 18 + off)

/-- The scratch-tagged address of a byte of a core's scratch (R159). -/
def coreAddr (c off : Nat) : Word := BitVec.ofNat 64 (2 ^ 63 + 2 ^ 62 + c * 2 ^ 32 + off)

/-- A scratch-tagged address of a command or form with its panel (R159): tag 0b10 names the panel's scratch, tag 0b11
the scratch of a core that `coreOk` allows. None where the address raises E.PERM. -/
def taggedLoc (x : Option Panel) (coreOk : Nat → Bool) (a : Word) (size : Nat) : Option ScratchLoc :=
  let loc := a &&& 0x3FFFFFFF#64
  if bitsOf a 36 26 ≠ 0 ∨ bitsOf a 30 2 ≠ 0 then none
  else if a.getLsbD 62 then
    let c := bitsOf a 32 4
    if bitsOf a 19 11 = 0 ∧ bitsOf a 0 19 + size ≤ coreScratchSize ∧ coreOk c then some (.core c (bitsOf a 0 19)) else none
  else if bitsOf a 32 4 ≠ 0 then none
  else x.bind fun y => panelScratch y loc size

/-- A scratch-tagged address of a form issued by a party: tag 0b10 by a service core, or tag 0b11 of another core,
raises E.PERM (R159). -/
def partyTagged (s : State) (p : Party) (a : Word) (size : Nat) : Option ScratchLoc :=
  match p with
  | .core n => taggedLoc none (fun c => c == n / 2) a size
  | p => taggedLoc ((partyPanel p).bind s.panel?) (fun _ => false) a size

/-- The location of a scratch-tagged address of a command for its issuer (R159): while the issuer's panel stands where it stood, by the rules
of R159; once that panel is gone, any address that was the panel's (DESIGN CHOICE, log 132). -/
def issuerLoc (s : State) (p : Party) (uid : Nat) (coreOk : Nat → Bool) (a : Word) (size : Nat) : Option ScratchLoc :=
  if (partyPanel p).isSome ∧ partyUid s p ≠ uid ∧ isCoreTag a = false then
    if bitsOf a 30 32 = 0 then some (.gone (bitsOf a 0 18)) else none
  else taggedLoc ((partyPanel p).bind s.panel?) coreOk a size

/-- Lane i of a register (R3). -/
def lane (v : Lanes) (i : Nat) : W32 := v.extractLsb' (32 * i) 32

/-- The register with the lanes of a list, lane 0 first. -/
def lanesOfList : List W32 → Nat
  | [] => 0
  | x :: xs => x.toNat + 2 ^ 32 * lanesOfList xs

/-- The lane numbers. -/
def laneIds : List Nat := List.range 16

/-- The register whose lane i is `f i`. -/
def ofLanes (f : Nat → W32) : Lanes := BitVec.ofNat 512 (lanesOfList (laneIds.map f))

/-- The lanes of `new` where the mask has a one, of `old` elsewhere (R235). -/
def maskLanes (m : BitVec 16) (new old : Lanes) : Lanes :=
  if m = 0xFFFF#16 then new else ofLanes fun i => if m.getLsbD i then lane new i else lane old i

/-- k register x of a file; k0 reads 0xFFFF (R123). -/
def getK (ks : Vector (BitVec 16) 8) (x : BitVec 3) : BitVec 16 :=
  if x = 0#3 then 0xFFFF#16 else ks[x.toNat]'(x.isLt)

/-- k register x written; a write to k0 is discarded (R124). -/
def putK (ks : Vector (BitVec 16) 8) (x : BitVec 3) (v : BitVec 16) : Vector (BitVec 16) 8 :=
  if x = 0#3 then ks else ks.set x.toNat v x.isLt

/-- Register x of a v or z file. -/
def getV (vs : Vector Lanes 32) (x : Reg) : Lanes := vs[x.toNat]'(x.isLt)

/-- Register x of a v or z file written. -/
def putV (vs : Vector Lanes 32) (x : Reg) (v : Lanes) : Vector Lanes 32 := vs.set x.toNat v x.isLt

/-- A counter of a tile. -/
def Tile.counter (t : Tile) (i : Nat) : TkCounter := t.counters[i % 4]'(Nat.mod_lt _ (by decide))

/-- The byte offset of an LS word: 64 × (idx + counter × 2^sh) (R243). -/
def lsOffset (t : Tile) (idx : BitVec 12) (ctr sh : BitVec 3) : Nat :=
  64 * (idx.toNat + if ctr = 0#3 then 0 else (t.counter (ctr.toNat - 1)).value.toNat * 2 ^ sh.toNat)

end Sys2Proof.Machine
end

