-- ==== Sys2Proof/Machine/Alu.lean ====
section
/-! DEFINITION. Integer and address arithmetic (R161) and the immediate forms (R162). -/

namespace Sys2Proof.Machine

open Sys2Proof

/-! ## The values of R161 -/

/-- Bits 127:64 of the signed product. -/
def mulhS (a b : Word) : Word := BitVec.ofInt 64 (a.toInt * b.toInt / 2 ^ 64)

/-- Bits 127:64 of the unsigned product. -/
def mulhU (a b : Word) : Word := BitVec.ofNat 64 (a.toNat * b.toNat / 2 ^ 64)

/-- Signed quotient, truncated toward zero; all-ones for a zero divisor; −2^63 by −1 wraps to −2^63 (R161). -/
def divS (a b : Word) : Word := if b = 0#64 then BitVec.allOnes 64 else BitVec.ofInt 64 (Int.tdiv a.toInt b.toInt)

/-- Unsigned quotient; all-ones for a zero divisor (R161). -/
def divU (a b : Word) : Word := if b = 0#64 then BitVec.allOnes 64 else BitVec.ofNat 64 (a.toNat / b.toNat)

/-- Signed remainder of `divS`; the dividend for a zero divisor (R161). -/
def remS (a b : Word) : Word := if b = 0#64 then a else BitVec.ofInt 64 (Int.tmod a.toInt b.toInt)

/-- Unsigned remainder; the dividend for a zero divisor (R161). -/
def remU (a b : Word) : Word := if b = 0#64 then a else BitVec.ofNat 64 (a.toNat % b.toNat)

/-- The shift amount of a register: bits 5:0 (R161). -/
def shAmt (b : Word) : Nat := bitsOf b 0 6

/-- The number of set bits among bits n−1:0. -/
def popBits (a : Nat) : Nat → Nat
  | 0 => 0
  | n + 1 => popBits a n + (if bitAt a n then 1 else 0)

/-- The number of leading zeros of the low n bits. -/
def leadZeros (a : Nat) : Nat → Nat
  | 0 => 0
  | n + 1 => if bitAt a n then 0 else 1 + leadZeros a n

/-- The number of trailing zeros, of `n` bits from bit `i` up. -/
def trailZeros (a i : Nat) : Nat → Nat
  | 0 => 0
  | n + 1 => if bitAt a i then 0 else 1 + trailZeros a (i + 1) n

/-- The width field of bext and bins: g[b][13:8] + 1 (R161). -/
def fieldWidth (b : Word) : Nat := bitsOf b 8 6 + 1

/-- (a >> p) and (2^w − 1); bits above 63 read as 0 (R161). -/
def bextVal (a b : Word) : Word := BitVec.ofNat 64 (a.toNat / 2 ^ shAmt b % 2 ^ fieldWidth b)

/-- d with bits p to min(p + w, 64) − 1 replaced by the low bits of a (R161). -/
def binsVal (d a b : Word) : Word :=
  let p := shAmt b
  let mask : Word := BitVec.ofNat 64 ((2 ^ fieldWidth b - 1) * 2 ^ p)
  (d &&& ~~~mask) ||| ((a <<< p) &&& mask)

/-- The smaller and larger under sval and uval (R161). -/
def minS (a b : Word) : Word := if a.sle b then a else b
/-- The larger under sval. -/
def maxS (a b : Word) : Word := if a.sle b then b else a
/-- The smaller under uval. -/
def minU (a b : Word) : Word := if a.ule b then a else b
/-- The larger under uval. -/
def maxU (a b : Word) : Word := if a.ule b then b else a

/-- An instruction whose whole effect is g[d] := v. -/
def setting (i : Instr) (s : State) (d : Reg) (v : Word) : Host.Outcome State Fault Refusal :=
  issue i s fun s => .ok (s.setG d v)

/-! ## The alu group (R161) -/

/-- g[d] := g[a] + g[b] (R161). -/
def execAdd (d a b : Reg) (s : State) : Host.Outcome State Fault Refusal :=
  setting (.add d a b) s d (s.g a + s.g b)

/-- g[d] := g[a] − g[b] (R161). -/
def execSub (d a b : Reg) (s : State) : Host.Outcome State Fault Refusal :=
  setting (.sub d a b) s d (s.g a - s.g b)

/-- g[d] := bits 63:0 of the product (R161). -/
def execMul (d a b : Reg) (s : State) : Host.Outcome State Fault Refusal :=
  setting (.mul d a b) s d (s.g a * s.g b)

/-- g[d] := bits 127:64 of the signed product (R161). -/
def execMulh (d a b : Reg) (s : State) : Host.Outcome State Fault Refusal :=
  setting (.mulh d a b) s d (mulhS (s.g a) (s.g b))

/-- g[d] := bits 127:64 of the unsigned product (R161). -/
def execMulhu (d a b : Reg) (s : State) : Host.Outcome State Fault Refusal :=
  setting (.mulhu d a b) s d (mulhU (s.g a) (s.g b))

/-- g[d] := the signed quotient (R161). -/
def execDiv (d a b : Reg) (s : State) : Host.Outcome State Fault Refusal :=
  setting (.div d a b) s d (divS (s.g a) (s.g b))

/-- g[d] := the unsigned quotient (R161). -/
def execDivu (d a b : Reg) (s : State) : Host.Outcome State Fault Refusal :=
  setting (.divu d a b) s d (divU (s.g a) (s.g b))

/-- g[d] := the signed remainder (R161). -/
def execRem (d a b : Reg) (s : State) : Host.Outcome State Fault Refusal :=
  setting (.rem d a b) s d (remS (s.g a) (s.g b))

/-- g[d] := the unsigned remainder (R161). -/
def execRemu (d a b : Reg) (s : State) : Host.Outcome State Fault Refusal :=
  setting (.remu d a b) s d (remU (s.g a) (s.g b))

/-- g[d] := g[a] and g[b] (R161). -/
def execAnd (d a b : Reg) (s : State) : Host.Outcome State Fault Refusal :=
  setting (.and d a b) s d (s.g a &&& s.g b)

/-- g[d] := g[a] or g[b] (R161). -/
def execOr (d a b : Reg) (s : State) : Host.Outcome State Fault Refusal :=
  setting (.or d a b) s d (s.g a ||| s.g b)

/-- g[d] := g[a] xor g[b] (R161). -/
def execXor (d a b : Reg) (s : State) : Host.Outcome State Fault Refusal :=
  setting (.xor d a b) s d (s.g a ^^^ s.g b)

/-- g[d] := g[a] and not g[b] (R161). -/
def execAndn (d a b : Reg) (s : State) : Host.Outcome State Fault Refusal :=
  setting (.andn d a b) s d (s.g a &&& ~~~s.g b)

/-- g[d] := g[a] << g[b][5:0] (R161). -/
def execShl (d a b : Reg) (s : State) : Host.Outcome State Fault Refusal :=
  setting (.shl d a b) s d (s.g a <<< shAmt (s.g b))

/-- g[d] := g[a] >> g[b][5:0], filling with zeros (R161). -/
def execShr (d a b : Reg) (s : State) : Host.Outcome State Fault Refusal :=
  setting (.shr d a b) s d (s.g a >>> shAmt (s.g b))

/-- g[d] := g[a] >> g[b][5:0], filling with g[a][63] (R161). -/
def execSra (d a b : Reg) (s : State) : Host.Outcome State Fault Refusal :=
  setting (.sra d a b) s d ((s.g a).sshiftRight (shAmt (s.g b)))

/-- g[d] := g[a] rotated left by g[b][5:0] (R161). -/
def execRol (d a b : Reg) (s : State) : Host.Outcome State Fault Refusal :=
  setting (.rol d a b) s d ((s.g a).rotateLeft (shAmt (s.g b)))

/-- g[d] := g[a] rotated right by g[b][5:0] (R161). -/
def execRor (d a b : Reg) (s : State) : Host.Outcome State Fault Refusal :=
  setting (.ror d a b) s d ((s.g a).rotateRight (shAmt (s.g b)))

/-- g[d] := the number of leading zeros of g[a] (R161). -/
def execClz (d a : Reg) (s : State) : Host.Outcome State Fault Refusal :=
  setting (.clz d a) s d (BitVec.ofNat 64 (leadZeros (s.g a).toNat 64))

/-- g[d] := the number of trailing zeros of g[a] (R161). -/
def execCtz (d a : Reg) (s : State) : Host.Outcome State Fault Refusal :=
  setting (.ctz d a) s d (BitVec.ofNat 64 (trailZeros (s.g a).toNat 0 64))

/-- g[d] := the number of set bits of g[a] (R161). -/
def execPopc (d a : Reg) (s : State) : Host.Outcome State Fault Refusal :=
  setting (.popc d a) s d (BitVec.ofNat 64 (popBits (s.g a).toNat 64))

/-- g[d] := the smaller under sval (R161). -/
def execMin (d a b : Reg) (s : State) : Host.Outcome State Fault Refusal :=
  setting (.min d a b) s d (minS (s.g a) (s.g b))

/-- g[d] := the larger under sval (R161). -/
def execMax (d a b : Reg) (s : State) : Host.Outcome State Fault Refusal :=
  setting (.max d a b) s d (maxS (s.g a) (s.g b))

/-- g[d] := the smaller under uval (R161). -/
def execMinu (d a b : Reg) (s : State) : Host.Outcome State Fault Refusal :=
  setting (.minu d a b) s d (minU (s.g a) (s.g b))

/-- g[d] := the larger under uval (R161). -/
def execMaxu (d a b : Reg) (s : State) : Host.Outcome State Fault Refusal :=
  setting (.maxu d a b) s d (maxU (s.g a) (s.g b))

/-- g[d] := g[a] if g[c] ≠ 0, else g[b] (R161). -/
def execSel (d a b c : Reg) (s : State) : Host.Outcome State Fault Refusal :=
  setting (.sel d a b c) s d (if s.g c ≠ 0#64 then s.g a else s.g b)

/-- g[d] := the field of g[a] that g[b] names (R161). -/
def execBext (d a b : Reg) (s : State) : Host.Outcome State Fault Refusal :=
  setting (.bext d a b) s d (bextVal (s.g a) (s.g b))

/-- g[d] with the field that g[b] names replaced by the low bits of g[a] (R161). -/
def execBins (d a b : Reg) (s : State) : Host.Outcome State Fault Refusal :=
  setting (.bins d a b) s d (binsVal (s.g d) (s.g a) (s.g b))

/-- g[d] := 1 if cc(g[a], g[b]) holds, else 0 (R161). -/
def execCmp (cc : CC) (d a b : Reg) (s : State) : Host.Outcome State Fault Refusal :=
  setting (.cmp cc d a b) s d (boolWord (ccHolds cc (s.g a) (s.g b)))

/-- g[d] := g[a] + (g[b] << s) (R161). -/
def execLea (d a b : Reg) (sh : BitVec 3) (s : State) : Host.Outcome State Fault Refusal :=
  setting (.lea d a b sh) s d (s.g a + (s.g b <<< sh.toNat))

/-! ## The immediate forms (R162) -/

/-- g[d] := g[a] + sext(imm16) (R162). -/
def execAddi (d a : Reg) (imm : BitVec 16) (s : State) : Host.Outcome State Fault Refusal :=
  setting (.addi d a imm) s d (s.g a + sext64 imm)

/-- g[d] := bits 63:0 of g[a] × sext(imm16) (R162). -/
def execMuli (d a : Reg) (imm : BitVec 16) (s : State) : Host.Outcome State Fault Refusal :=
  setting (.muli d a imm) s d (s.g a * sext64 imm)

/-- g[d] := g[a] and zext(imm16) (R162). -/
def execAndi (d a : Reg) (imm : BitVec 16) (s : State) : Host.Outcome State Fault Refusal :=
  setting (.andi d a imm) s d (s.g a &&& zext64 imm)

/-- g[d] := g[a] or zext(imm16) (R162). -/
def execOri (d a : Reg) (imm : BitVec 16) (s : State) : Host.Outcome State Fault Refusal :=
  setting (.ori d a imm) s d (s.g a ||| zext64 imm)

/-- g[d] := g[a] xor zext(imm16) (R162). -/
def execXori (d a : Reg) (imm : BitVec 16) (s : State) : Host.Outcome State Fault Refusal :=
  setting (.xori d a imm) s d (s.g a ^^^ zext64 imm)

/-- g[d] := the smaller of g[a] and sext(imm16) under sval (R162). -/
def execMini (d a : Reg) (imm : BitVec 16) (s : State) : Host.Outcome State Fault Refusal :=
  setting (.mini d a imm) s d (minS (s.g a) (sext64 imm))

/-- g[d] := the larger of g[a] and sext(imm16) under sval (R162). -/
def execMaxi (d a : Reg) (imm : BitVec 16) (s : State) : Host.Outcome State Fault Refusal :=
  setting (.maxi d a imm) s d (maxS (s.g a) (sext64 imm))

/-- g[d] := the smaller of g[a] and zext(imm16) under uval (R162). -/
def execMinui (d a : Reg) (imm : BitVec 16) (s : State) : Host.Outcome State Fault Refusal :=
  setting (.minui d a imm) s d (minU (s.g a) (zext64 imm))

/-- g[d] := the larger of g[a] and zext(imm16) under uval (R162). -/
def execMaxui (d a : Reg) (imm : BitVec 16) (s : State) : Host.Outcome State Fault Refusal :=
  setting (.maxui d a imm) s d (maxU (s.g a) (zext64 imm))

/-- g[d] := g[a] << imm16[5:0] (R162). -/
def execShli (d a : Reg) (sh : BitVec 6) (s : State) : Host.Outcome State Fault Refusal :=
  setting (.shli d a sh) s d (s.g a <<< sh.toNat)

/-- g[d] := g[a] >> imm16[5:0], filling with zeros (R162). -/
def execShri (d a : Reg) (sh : BitVec 6) (s : State) : Host.Outcome State Fault Refusal :=
  setting (.shri d a sh) s d (s.g a >>> sh.toNat)

/-- g[d] := g[a] >> imm16[5:0], filling with g[a][63] (R162). -/
def execSrai (d a : Reg) (sh : BitVec 6) (s : State) : Host.Outcome State Fault Refusal :=
  setting (.srai d a sh) s d ((s.g a).sshiftRight sh.toNat)

/-- g[d] := g[a] rotated right by imm16[5:0] (R162). -/
def execRori (d a : Reg) (sh : BitVec 6) (s : State) : Host.Outcome State Fault Refusal :=
  setting (.rori d a sh) s d ((s.g a).rotateRight sh.toNat)

/-- g[d] := 1 if cc(g[a], sext(imm16[11:0])) holds, else 0 (R162). -/
def execCmpi (cc : CC) (d a : Reg) (imm : BitVec 12) (s : State) : Host.Outcome State Fault Refusal :=
  setting (.cmpi cc d a imm) s d (boolWord (ccHolds cc (s.g a) (sext64 imm)))

/-- g[d] := sext of the 49-bit immediate (R162). -/
def execMovi (d : Reg) (imm : BitVec 49) (s : State) : Host.Outcome State Fault Refusal :=
  setting (.movi d imm) s d (sext64 imm)

end Sys2Proof.Machine
end

