-- ==== Sys2Proof/Machine/Log.lean ====
section
/-! DEFINITION. Basting logs and the stitch (R97-R99, R259-R261): appending, reading through a log, publishing. -/

namespace Sys2Proof.Machine

open Sys2Proof

/-! ## Reading through a log (R100) -/

/-- The byte at a memory address as a run of bytes holds it. -/
def MemPart.byteAt (m : MemPart) (pa : Nat) : Option Byte :=
  if m.pa ≤ pa ∧ pa < m.pa + m.bytes.length then m.bytes[pa - m.pa]? else none

/-- The byte at a memory address as a log entry holds it: of its later runs first. -/
def LogEntry.memByte (e : LogEntry) (pa : Nat) : Option Byte :=
  match e with
  | .memory parts => parts.foldl (fun r m => match m.byteAt pa with | some b => some b | none => r) none
  | _ => none

/-- The byte at a scratch offset of a tile as a log entry holds it. -/
def LogEntry.scrByte (e : LogEntry) (tile off : Nat) : Option Byte :=
  match e with
  | .scratch t a bs _ => if t = tile ∧ a ≤ off ∧ off < a + bs.length then bs[off - a]? else none
  | _ => none

/-- The latest entry that holds a byte. -/
def latest (log : List LogEntry) (f : LogEntry → Option Byte) : Option Byte :=
  log.foldl (fun r e => match f e with | some b => some b | none => r) none

/-- Bytes read from memory, overlaid with a log, latest entry first (R100). -/
def overlayMem (log : List LogEntry) (pa : Nat) : List Byte → List Byte
  | [] => []
  | b :: bs => (latest log fun e => e.memByte pa).getD b :: overlayMem log (pa + 1) bs

/-- Published bytes of a scratchpad overlaid with a log (R100). -/
def overlayScr (log : List LogEntry) (tile off : Nat) : List Byte → List Byte
  | [] => []
  | b :: bs => (latest log fun e => e.scrByte tile off).getD b :: overlayScr log tile (off + 1) bs

/-- A strand's log in a tile. -/
def Tile.log (t : Tile) (i : Nat) : List LogEntry := t.logs[i % 4]'(Nat.mod_lt _ (by decide))

/-- The tile with an entry appended to a strand's log; a write of scratch takes a place of the 16-entry store-to-load table, the oldest
making room (R243; DESIGN CHOICE, log 114). -/
def Tile.addLog (t : Tile) (i : Nat) (e : LogEntry) : Tile :=
  { t with
    logs := t.logs.set (i % 4) (t.log i ++ [e]) (Nat.mod_lt _ (by decide))
    stores := match e with
      | .scratch _ off _ _ => ((i % 4, off / 64) :: t.stores.filter fun x => x != (i % 4, off / 64)).take 16
      | _ => t.stores }

/-- The strand's view of its tile's scratchpad: the bank's published bytes overlaid with its own log (R100, R243). -/
def Tile.view (t : Tile) (tid i off n : Nat) : List Byte := overlayScr (t.log i) tid off (readBytes t.scratch off n)

/-- A strand's log in the tile holds bytes of the row of an offset. -/
def Tile.logsRow (t : Tile) (i off : Nat) : Bool :=
  (t.log i).any fun e => match e with
    | .scratch _ a bs _ => decide (a / 64 ≤ off / 64) && decide (off / 64 * 64 < a + bs.length)
    | _ => false

/-- A read of the row of an offset finds a logged write of it through the store-to-load table (R243). -/
def Tile.forwards (t : Tile) (i off : Nat) : Bool := t.stores.contains (i % 4, off / 64)

/-- A read of the row of an offset is not resolved by the table: the log holds bytes of it and the table has no entry for it (R243). -/
def Tile.unresolved (t : Tile) (i off : Nat) : Bool := t.logsRow i off && !t.forwards i off

/-! ## Sizes (R260) -/

/-- The log bytes of an entry that covers n bytes from an offset: 8 per aligned 8-byte word it touches (R260). -/
def logSpan (off n : Nat) : Nat := if n = 0 then 0 else 8 * ((off + n - 1) / 8 - off / 8 + 1)

/-- The aligned 8-byte words that runs of bytes touch, 8 bytes each (R260). -/
def wordsTouched (parts : List MemPart) : Nat :=
  8 * (parts.flatMap fun m => if m.bytes = [] then [] else
    (List.range ((m.pa + m.bytes.length - 1) / 8 - m.pa / 8 + 1)).map (m.pa / 8 + ·)).dedup.length

/-- The log bytes of an entry (R260). -/
def LogEntry.size : LogEntry → Nat
  | .scratch _ off bs _ => logSpan off bs.length
  | .memory parts => wordsTouched parts
  | .undo off bs _ => logSpan off bs.length
  | .side _ _ _ => 0

/-- The log bytes of a log. -/
def logSize (l : List LogEntry) : Nat := (l.map LogEntry.size).sum

/-! ## Publishing (R99, R259) -/

/-- The words of 8 bytes that a write covers whole. -/
def coversWord (off n w : Nat) : Bool := decide (off ≤ 8 * w) && decide (8 * w + 8 ≤ off + n)

/-- Bytes reach the bank of a scratchpad; an entry of `stfill` sets its words full in the same step (R111). -/
def Tile.land (t : Tile) (off : Nat) (bs : List Byte) (full : Bool) : Tile :=
  { t with
    scratch := writeBytes t.scratch off bs
    bad := t.bad.filter fun w => !coversWord off bs.length w
    empties := if full then t.empties.filter fun w => !(decide (off / 8 ≤ w) && decide (w ≤ (off + bs.length - 1) / 8)) else t.empties }

/-- The cached bytes of a unit that a write covers take its bytes; absent bytes stay absent (R79, R99). -/
def refresh (lines : Cells) : Cells → Cells
  | [] => lines
  | (a, b) :: cs => refresh (if (FMap.get? lines a).isSome then FMap.set lines a b else lines) cs

/-- The dirty pool of a tile with bytes entered under a seal domain (R80, R99). -/
def enterPool (pool : Pool) (dom : Nat) : Cells → Pool
  | [] => pool
  | (a, b) :: cs => enterPool (FMap.set pool a (b, dom)) dom cs

/-- The unit of a panel and its task, for the writes that it publishes. -/
def publisher (s : State) (p : Nat) : BitVec 32 × Option Writer :=
  match s.panel? p with
  | some x => (taskId s x.entry, some (.panel x.uid))
  | none => (0, none)

/-- A memory entry of a tile's log moves out: into the pool for a WB line of a tile with L1, else to the home (R79, R99). -/
def publishTileMem (s : State) (p t pa : Nat) (bs : List Byte) (wt : Bool) (dom : Nat) : State :=
  match s.panel? p with
  | none => s
  | some x =>
    let tl := x.tile t
    let cells := cellsAt pa bs
    if wt || x.image.l1 == 0 || paKind s pa == .host then
      let s := s.setPanel p (x.setTile t { tl with lines := refresh tl.lines cells })
      pushHome s dom (taskId s x.entry) pa bs (some (.panel x.uid))
    else s.setPanel p (x.setTile t { tl with pool := enterPool tl.pool dom cells, lines := refresh tl.lines cells })

/-- A sideband byte of a published tagged beat of a panel is written in its line's sideband and marked dirty; a line that is not resident fills
whole first (R82; DEDUCED, log 59). -/
def publishSide (s : State) (p pa : Nat) (b : Byte) (dom : Nat) : State :=
  let line := lineOf pa
  let s := fillLine none dom (l2Meet s dom line) line
  let sb := FMap.getD s.sides line ⟨List.replicate 16 0, List.replicate 16 false, none, 0, false⟩
  let i := pa % 256 / 16
  let (task, w) := publisher s p
  { s with sides := FMap.set s.sides line { sb with bytes := sb.bytes.set i b, dirty := sb.dirty.set i true, writer := w, task := task } }

/-- An entry of a strand's log in a tile is published (R99). -/
def publishTileEntry (p t : Nat) (s : State) (e : LogEntry) : State :=
  match e with
  | .scratch _ off bs full => s.modPanel p fun x => x.setTile t ((x.tile t).land off bs full)
  | .memory parts => parts.foldl (fun s m => publishTileMem s p t m.pa m.bytes m.wt m.dom) s
  | .undo _ _ _ => s
  | .side pa b dom => publishSide s p pa b dom

/-- An entry of a sequencer's log is published: scratch bytes to their banks, memory bytes to their home queues (R99). -/
def publishSeqEntry (p : Nat) (s : State) (e : LogEntry) : State :=
  match e with
  | .scratch t off bs full => s.modPanel p fun x => x.setTile t ((x.tile t).land off bs full)
  | .memory parts => parts.foldl (fun s m => pushHome s m.dom (publisher s p).1 m.pa m.bytes (publisher s p).2) s
  | _ => s

/-- The lines that a log writes in memory. -/
def logLines (l : List LogEntry) : List Nat :=
  (l.flatMap fun e => match e with
    | .memory parts => parts.flatMap fun m => [lineOf m.pa, lineOf (m.pa + m.bytes.length - 1)]
    | _ => []).dedup

/-- A strand's logs are published, tile by tile in ascending order, then its sequencer's (R99; the order between logs: DESIGN CHOICE, log
113). -/
def publishStrand (s : State) (p i : Nat) : State :=
  match s.panel? p with
  | none => s
  | some x =>
    let lines := (x.tiles.flatMap fun c => logLines (c.2.log i)) ++ logLines (x.strand i).log
    let s := x.tiles.foldl (fun s c => (c.2.log i).foldl (publishTileEntry p c.1) s) s
    let s := ((x.strand i).log).foldl (publishSeqEntry p) s
    let s := s.modPanel p fun x =>
      let x := { x with tiles := mapVals (fun _ t => { t with
        logs := t.logs.set (i % 4) [] (Nat.mod_lt _ (by decide))
        stores := t.stores.filter fun e => e.1 != i % 4 }) x.tiles }
      x.setStrand i { x.strand i with log := [] }
    let t := s.thread (.seq p i)
    s.setThread (.seq p i) { t with touched := (t.touched ++ lines).dedup }

/-- The bytes that a publish moves into each bank: (tile, bank) and bytes. -/
def bankBytes (l : List LogEntry) : List ((Nat × Nat) × Nat) :=
  l.flatMap fun e => match e with
    | .scratch t off bs _ => [((t, off / 4096), logSpan off bs.length)]
    | _ => []

/-- The bytes that a publish moves from a tile, or from the AG tile, toward memory. -/
def pathBytes (l : List LogEntry) : Nat :=
  (l.map fun e => match e with | .memory parts => wordsTouched parts | _ => 0).sum

/-- The fabric cycles that a publish takes: 16 bytes into each bank and 256 along each path per cycle, at least 1 (R259).
(DEDUCED, log 50) -/
def publishCycles (x : Panel) : Nat :=
  let seqLog := strandIds.flatMap fun i => (x.strand i).log
  let tileLog (t : Tile) := strandIds.flatMap fun i => t.log i
  let banks := (x.tiles.flatMap fun c => bankBytes (tileLog c.2)) ++ bankBytes seqLog
  let keys := (banks.map (·.1)).dedup
  let perBank := keys.map fun k => (((banks.filter fun b => b.1 == k).map (·.2)).sum + 15) / 16
  let perPath := (pathBytes seqLog :: x.tiles.map fun c => pathBytes (tileLog c.2)).map fun n => (n + 255) / 256
  (perBank ++ perPath).foldl max 1

/-- The bytes of a log that a stitch publishes: an undo entry is not among them (R118, R259). -/
def publishedSize (l : List LogEntry) : Nat :=
  (l.map fun e => match e with | .undo _ _ _ => 0 | e => e.size).sum

/-- All the log bytes that a stitch of a panel publishes (R259). -/
def panelLogBytes (x : Panel) : Nat :=
  (strandIds.map fun i => publishedSize (x.strand i).log + (x.tiles.map fun c => publishedSize (c.2.log i)).sum).sum

/-- Every strand's logs are published in log order, their bytes are counted, and the panel is held for the cycles beyond
the first (R259). The strands' logs move out one after another in ascending order (R99 orders entries of one log only: DESIGN CHOICE,
log 113). -/
def publishLogs (s : State) (p : Nat) : State :=
  match s.panel? p with
  | none => s
  | some x =>
    let n := publishCycles x
    let s := s.setPanel p (x.count 8 (panelLogBytes x))
    let s := strandIds.foldl (fun s i => publishStrand s p i) s
    s.modPanel p fun x => { x with publishHold := x.publishHold + (n - 1) }

/-- The publish of a stitch, which ev07 counts (R259). -/
def publishPanel (s : State) (p : Nat) : State := publishLogs (s.modPanel p fun x => x.count 7 1) p

/-- A stitch: the logs are published and the commit shadow is taken (R259, R261). (DEDUCED, log 35) -/
def stitchPanel (s : State) (p : Nat) : State := takeShadow (publishPanel s p) p

/-- The stitch that a commit-after form implies before it; a service-core thread has no log (R109, R160, R253). -/
def stitchBefore (s : State) : State :=
  match s.focus with
  | .seq p _ => stitchPanel s p
  | .slice p _ => stitchPanel s p
  | _ => s

end Sys2Proof.Machine
end

