-- ==== Sys2Proof/Machine/Access.lean ====
section
/-! DEFINITION. Accesses of threads: translated loads and stores (R100, R101, R170), scratch accesses (R171), the lines
that a unit caches, acquire and release of lines (R105-R109). -/

namespace Sys2Proof.Machine

open Sys2Proof

/-! ## Translated accesses -/

/-- The access has a completion from the host port and it carries an error status (R340); a write to host memory is posted and has none.
(DEDUCED, log 116) -/
def accessFails (s : State) (acc : Access) (pa : Nat) : Bool := acc != .write && hostFails s pa

/-- Translation of a thread's access, then its alignment (R170), then the status of its completion from the host port (R340). -/
def accessTarget (s : State) (p : Party) (acc : Access) (va : Word) (n : Nat) : Except Trap (State × Target) :=
  match translate s (partyReq s p acc) va with
  | .error t => .error t
  | .ok (s, tg) =>
    if aligned va n = false then .error (mkTrap .align va)
    else if accessFails s acc tg.pa then .error (mkTrap .perm va)
    else .ok (s, tg)

/-- The thread's log, which its reads see first (R100). -/
def ownLog (s : State) (p : Party) : List LogEntry :=
  match p with
  | .seq x i => ((s.panel? x).map fun y => (y.strand i).log).getD []
  | _ => []

/-- The bytes of a range as cached. -/
def cachedBytes (lines : Cells) (pa n : Nat) : List Byte := (List.range n).map fun i => FMap.getD lines (pa + i) 0

/-- Every byte of a sector is cached. -/
def holdsSector (lines : Cells) (sec : Nat) : Bool := (List.range 32).all fun i => (FMap.get? lines (32 * sec + i)).isSome

/-- The sectors of a range that a cache lacks. -/
def lacks (lines : Cells) (pa n : Nat) : List Nat :=
  ((List.range ((pa + n + 31) / 32 - pa / 32)).map (pa / 32 + ·)).filter fun sec => !holdsSector lines sec

/-- The whole sectors, from the first to the last, that a cache lacks of a range: an address and a length, 0 where it lacks none. -/
def missing (lines : Cells) (pa n : Nat) : Nat × Nat :=
  match lacks lines pa n with
  | [] => (pa, 0)
  | a :: l => (32 * a, 32 * ((a :: l).getLastD a + 1 - a))

/-- A read at the home for a thread that is answered at once: what is queued ahead of it applies, the L2 holds its lines under its domain, and
poison is checked (R80, R99, R327; DESIGN CHOICE, log 115). -/
def homeRead (s : State) (dom pa n : Nat) : Except Trap (State × List Byte) :=
  let s' := l2Reads (flushSlice s (sliceOf pa)) dom pa n
  match badSector s' pa n with
  | some sec => .error (eccTrap (32 * sec))
  | none => .ok (s', homeBytes s' dom pa n)

/-- A read of the home copies as last applied, by a fill or an engine: no update that waits in a queue is in them (R99, R100). -/
def homeLast (s : State) (dom pa n : Nat) : Except Trap (List Byte) :=
  match badSector s pa n with
  | some sec => .error (eccTrap (32 * sec))
  | none => .ok (homeBytes s dom pa n)

/-- The L1 of a service core. -/
def l1Of (s : State) (c : Nat) : Cells := (s.core? c).l1

/-- What a party's read of `n` bytes asks of the home: a service core the sectors that its L1 lacks, but bytes of host memory as they are; any
other party the bytes (R100). -/
def asksHome (s : State) (p : Party) (pa n : Nat) : Nat × Nat :=
  match p with
  | .core c => if paKind s pa = .host then (pa, n) else missing (l1Of s (c / 2)) pa n
  | _ => (pa, n)

/-- The bytes of a party's read once the home has answered what it asked there: a service core's from its L1, which the answer enters; a
sequencer's overlaid with its own log; a slice engine's as they are (R100). -/
def takeAnswer (s : State) (p : Party) (pa n base : Nat) (bs : List Byte) : State × List Byte :=
  match p with
  | .core c =>
    if paKind s pa = .host then (s, bs)
    else
      let s := fillL1 s (c / 2) base bs
      (s, cachedBytes (l1Of s (c / 2)) pa n)
  | p => (s, overlayMem (ownLog s p) pa bs)

/-- A thread's read of `n` bytes at a translated address (R100): what it asks of the home is answered at once; bytes that its cache holds come
from there. -/
def readFor (s : State) (p : Party) (tg : Target) (n : Nat) : Except Trap (State × List Byte) :=
  let (base, len) := asksHome s p tg.pa n
  if len = 0 then .ok (takeAnswer s p tg.pa n base [])
  else
    match homeRead (l2Fill s (writerOf s p) tg.dom base len) tg.dom base len with
    | .error t => .error t
    | .ok (s, bs) => .ok (takeAnswer s p tg.pa n base bs)

/-- The log room of a sequencer thread (R260). -/
def seqLogMax : Nat := 1024

/-- An entry is appended to a sequencer thread's log, or E.LOGFULL where it would overflow (R260). -/
def appendSeq (s : State) (x i : Nat) (e : LogEntry) : Except Trap State :=
  let log := ((s.panel? x).map fun y => (y.strand i).log).getD []
  if seqLogMax < logSize log + e.size then .error (mkTrap .logFull (BitVec.ofNat 64 (logSize log + e.size)))
  else .ok (s.modPanel x fun y => y.setStrand i { y.strand i with log := (y.strand i).log ++ [e] })

/-- The lines a thread has written since its last fence (R108). -/
def touch (s : State) (p : Party) (pa : Nat) : State :=
  s.setThread p { s.thread p with touched := (lineOf pa :: (s.thread p).touched).dedup }

/-- A thread's write of bytes at a translated address: logged by a sequencer, published at issue by a service core
(R99, R109). -/
def writeFor (s : State) (p : Party) (tg : Target) (bs : List Byte) : Except Trap State :=
  match p with
  | .core c =>
    let core := s.core? (c / 2)
    let s := s.setCore (c / 2) { core with l1 := refresh core.l1 (cellsAt tg.pa bs) }
    .ok (touch (pushHome s tg.dom (partyTask s p) tg.pa bs (writerOf s p)) p tg.pa)
  | .seq x i => appendSeq s x i (.memory [⟨tg.pa, bs, tg.wt, tg.dom⟩])
  | _ => .ok s

/-! ## Scratch accesses (R171) -/

/-- The published bytes of a scratch location. -/
def scratchBytes (s : State) (p : Party) (l : ScratchLoc) (n : Nat) : List Byte :=
  match l with
  | .core c off => readBytes (s.core? c).scratch off n
  | .tile t off => match (partyPanel p).bind s.panel? with
    | some x => readBytes (x.tile t).scratch off n
    | none => []
  | .gone _ => (List.range n).map fun i => Config.freeByte (s.fresh + i)

/-- A read of scratch meets a word with an uncorrectable error: E.ECC with the word's scratch-tagged address (R314,
R326). -/
def scratchEcc (s : State) (p : Party) (l : ScratchLoc) (n : Nat) : Option Trap :=
  match l with
  | .core c off => (badIn (s.core? c).bad off n).map fun w => mkTrap .ecc (coreAddr c (8 * w))
  | .tile t off => match (partyPanel p).bind s.panel? with
    | some x => (badIn (x.tile t).bad off n).map fun w => mkTrap .ecc (tileAddr x t (8 * w))
    | none => none
  | .gone _ => none

/-- A body that reads scratch, or the trap of the read. -/
def Res.readOk (s : State) (l : ScratchLoc) (n : Nat) (r : Res) : Res :=
  match scratchEcc s s.focus l n with
  | some t => .trap t
  | none => r

/-- A thread's read of scratch: the bank's published bytes, overlaid with a sequencer's own log (R100, R171). -/
def readScratch (s : State) (p : Party) (l : ScratchLoc) (n : Nat) : List Byte :=
  match l with
  | .core _ _ => scratchBytes s p l n
  | .gone _ => scratchBytes s p l n
  | .tile t off => overlayScr (ownLog s p) t off (scratchBytes s p l n)

/-- A core's scratch written directly; `full` sets the words full. -/
def landCore (s : State) (c off : Nat) (bs : List Byte) (full : Bool) : State :=
  let core := s.core? c
  s.setCore c { core with
    scratch := writeBytes core.scratch off bs
    bad := core.bad.filter fun w => !coversWord off bs.length w
    empties := if full then core.empties.filter fun w => !(decide (off / 8 ≤ w) && decide (w ≤ (off + bs.length - 1) / 8))
               else core.empties }

/-- A thread's write of scratch: logged by a sequencer, direct on a service core (R171). -/
def writeScratch (s : State) (p : Party) (l : ScratchLoc) (bs : List Byte) (full : Bool) : Except Trap State :=
  match l, p with
  | .core c off, _ => .ok (landCore s c off bs full)
  | .gone _, _ => .ok s
  | .tile t off, .seq x i => appendSeq s x i (.scratch t off bs full)
  | .tile _ _, _ => .ok s

/-- The word of a scratch location is full (R76). -/
def isFull (s : State) (p : Party) (l : ScratchLoc) : Bool :=
  match l with
  | .core c off => !(s.core? c).empties.contains (off / 8)
  | .tile t off => match (partyPanel p).bind s.panel? with
    | some x => !(x.tile t).empties.contains (off / 8)
    | none => true
  | .gone _ => true

/-- The word of a scratch location is emptied (R76). -/
def emptyWord (s : State) (p : Party) (l : ScratchLoc) : State :=
  match l with
  | .core c off => s.setCore c { s.core? c with empties := (off / 8 :: (s.core? c).empties).dedup }
  | .tile t off => match partyPanel p with
    | some x => s.modPanel x fun y => y.setTile t { y.tile t with empties := (off / 8 :: (y.tile t).empties).dedup }
    | none => s
  | .gone _ => s

/-- A `.s` address checked: E.PERM outside its scratch, then E.ALIGN (R78). -/
def scratchAccess (s : State) (p : Party) (a : Word) (n : Nat) : Except Trap ScratchLoc :=
  match scratchLoc s p a n with
  | none => .error (mkTrap .perm a)
  | some l => if aligned a n then .ok l else .error (mkTrap .align a)

/-- A thread of the panel waits in `tkwait`, which clamps the panel (R224, R258). -/
def tkwaits (s : State) (p : Nat) : Bool :=
  strandIds.any fun i => match (s.thread (.seq p i)).wait with
    | some w => (match w.instr with | .tkwait _ _ => true | _ => false)
    | none => false

/-- The scratch location lies in a bank reserved in the present row. -/
def bankReserved (s : State) (p : Party) (l : ScratchLoc) (n : Nat) : Bool :=
  match l, partyPanel p with
  | .tile _ off, some x => ((s.panel? x).map fun x => x.reserves s.cycle off n).getD false
  | _, _ => false

/-! ## Regions and lines (R104-R109) -/

/-- The aligned 8-byte word of an object. -/
def objectWord (a : Word) : Word := a &&& 0xFFFFFFFFFFFFFFF8#64

/-- The physical ranges, in whole lines, of the regions bound to an object (R105, R106, R174). -/
def boundLines (s : State) (p : Party) (obj : Word) : List (Nat × Nat) :=
  ((s.thread p).bound.filter fun e => e.object == objectWord obj).flatMap fun e =>
    regionLines s (partyCtx s p) e.base.toNat e.length.toNat

/-- The line lies in one of the ranges. -/
def lineIn (rs : List (Nat × Nat)) (line : Nat) : Bool := inRanges rs (line * 256)

/-- Clean cached bytes of the party's panel, or of its core's L1, in lines that a test selects are dropped (R105, R109). -/
def dropCleanFor (s : State) (p : Party) (sel : Nat → Bool) : State :=
  match p with
  | .core c => s.setCore (c / 2) { s.core? (c / 2) with l1 := (s.core? (c / 2)).l1.filter fun x => !sel (lineOf x.1) }
  | p => match partyPanel p with | some x => dropClean s x sel | none => s

/-- Dirty bytes of the party's panel in lines that a test selects are drained; a core's L1 holds none (R79, R106). -/
def drainFor (s : State) (p : Party) (sel : Nat → Bool) : State :=
  match partyPanel p with
  | some x => drainPanel s x sel
  | none => s

/-- The step 2 of a release at `.panel` or wider (R106): dirty bytes of the ranges drain and every update to them is
applied at its home. -/
def releaseRanges (s : State) (p : Party) (rs : List (Nat × Nat)) : State :=
  flushRanges (drainFor s p (lineIn rs)) rs

/-- fence at a scope (R108): a stitch; beyond `.tile` every line dirty or written since the last fence is released, and
every clean cached byte of the panel or core is dropped. -/
def fenceFor (s : State) (p : Party) (sc : Scope) : State :=
  if sc = .tile then s
  else
    let s := drainFor s p fun _ => true
    let dirty := match (partyPanel p).bind s.panel? with
      | some x => x.tiles.flatMap fun c => (c.2.lines.map fun b => lineOf b.1).dedup
      | none => []
    let s := flushLines s ((s.thread p).touched ++ dirty)
    let s := s.setThread p { s.thread p with touched := [] }
    dropCleanFor s p fun _ => true

end Sys2Proof.Machine
end

