-- ==== Sys2Proof/Machine/Regs.lean ====
section
/-! DEFINITION. Control registers (R127, R205, R317), the context register page (R36, R324, R341), the HBM map (R85-R87),
the format range table (R83), pre-emption requests (R328, R330). -/

namespace Sys2Proof.Machine

open Sys2Proof

/-! ## Names (R127, R317, R37, R342) -/

/-- The control registers. -/
inductive CReg where
  | devid | party | tick | trapcause | trappc | trapval | xlva | xlinfo | fwhere | fpc | fact | tvec | tscratch
  | preempt | save | chalkbase | fsum | hwin | gtab | ptroot
  | loopField (slot field : Nat)
  | seed (n : Nat)
  | frt (which n : Nat)
  | hbmMode (j : Nat)
  | hbmMc (n : Nat)
  | hbmMp (n : Nat)
  deriving DecidableEq, Repr

/-- The register of a number; none where the number is not in the table (R127, R317, R37, R342). -/
def cregOf (n : BitVec 16) : Option CReg :=
  let k := n.toNat
  match k with
  | 0x0000 => some .devid
  | 0x0001 => some .party
  | 0x0010 => some .tick
  | 0x0020 => some .trapcause
  | 0x0021 => some .trappc
  | 0x0022 => some .trapval
  | 0x0023 => some .xlva
  | 0x0024 => some .xlinfo
  | 0x0025 => some .fwhere
  | 0x0026 => some .fpc
  | 0x0027 => some .fact
  | 0x0028 => some .tvec
  | 0x0029 => some .tscratch
  | 0x002A => some .preempt
  | 0x002B => some .save
  | 0x002C => some .chalkbase
  | 0x002D => some .fsum
  | 0x002E => some .hwin
  | 0x002F => some .gtab
  | 0x0030 => some .ptroot
  | k =>
    if 0x0100 ≤ k ∧ k < 0x0110 then some (.loopField ((k - 0x0100) / 4) ((k - 0x0100) % 4))
    else if 0x0200 ≤ k ∧ k < 0x0220 then some (.seed (k - 0x0200))
    else if 0x0300 ≤ k ∧ k < 0x0330 then some (.frt ((k - 0x0300) / 16) ((k - 0x0300) % 16))
    else if 0x0800 ≤ k ∧ k < 0x0880 then some (.hbmMode (k - 0x0800))
    else if 0x1000 ≤ k ∧ k < 0x1600 then some (.hbmMc (k - 0x1000))
    else if 0x2000 ≤ k ∧ k < 0x2600 then some (.hbmMp (k - 0x2000))
    else none

/-- The register is read and written at supervisor only (R127, R317). -/
def cregSupervisor : CReg → Bool
  | .trapcause => true | .trappc => true | .trapval => true | .xlva => true | .xlinfo => true | .fwhere => true
  | .fpc => true | .fact => true | .tvec => true | .tscratch => true | .preempt => true | .save => true
  | .chalkbase => true | .fsum => true | .hwin => true | .gtab => true | .ptroot => true
  | _ => false

/-- The privilege is at least supervisor. -/
def Priv.isSup : Priv → Bool
  | .user => false | _ => true

/-- The party may read the register (R127). -/
def mayRead (s : State) (p : Party) (r : CReg) : Bool := !cregSupervisor r || (partyPriv s p).isSup

/-- The map of a group may be written at a privilege in a context (R87). -/
def mayMap (s : State) (v : Priv) (c group : Nat) : Bool :=
  v == .machine || (v == .supervisor && (s.ctxt c).groups.contains group)

/-- The register may be written at a privilege in a context (R127, R83, R87); a write marked ignored raises no trap at any privilege.
(DEDUCED, log 32) -/
def mayWriteAs (s : State) (v : Priv) (c : Nat) (r : CReg) : Bool :=
  match r with
  | .xlva => true | .xlinfo => true | .fwhere => true | .fpc => true | .fsum => true
  | .seed _ => v.isSup
  | .frt _ _ => v == .machine
  | .hbmMode j => mayMap s v c j
  | .hbmMc n => mayMap s v c (n / 12)
  | .hbmMp n => mayMap s v c (n / 12)
  | r => !cregSupervisor r || v.isSup

/-- The party may write the register (R127). -/
def mayWrite (s : State) (p : Party) (r : CReg) : Bool := mayWriteAs s (partyPriv s p) (partyCtx s p) r

/-! ## Reading (R205) -/

/-- `c.devid` (R14). -/
def devidValue : Word := 0x50C0482042006001#64

/-- A field of a loop slot: start, end, count, left (R127). -/
def LoopSlot.field (h : LoopSlot) (f : Nat) : Word :=
  if f = 0 then h.start else if f = 1 then h.stop else if f = 2 then h.count else h.left

/-- An entry of the format range table. -/
def frtEntry (s : State) (n : Nat) : FrtEntry := FMap.getD s.frt n ⟨0, 0, 0⟩

/-- The value of a control register as a party reads it (R127, R205); a slice engine, which has no h slots and no number of its own, reads
zero in them and the number of its panel's sequencer threads (DESIGN CHOICE, log 117). -/
def cregRead (s : State) (p : Party) (r : CReg) : Word :=
  let x := s.ctxt (partyCtx s p)
  match r with
  | .devid => devidValue
  | .party => BitVec.ofNat 64 (issuerNo p + (partyPriv s p).code * 2 ^ 16)
  | .tick => s.tick
  | .trapcause => x.trapcause
  | .trappc => x.trappc
  | .trapval => x.trapval
  | .xlva => x.xlva
  | .xlinfo => x.xlinfo
  | .fwhere => x.fwhere
  | .fpc => x.fpc
  | .fact => 0#64
  | .tvec => x.tvec
  | .tscratch => (s.thread p).tscratch
  | .preempt => x.preempt
  | .save => x.save
  | .chalkbase => x.chalkbase
  | .fsum => x.fsum
  | .hwin => x.hwin
  | .gtab => x.gtab
  | .ptroot => x.ptroot
  | .loopField i f => ((s.thread p).slot i).field f
  | .seed n => x.seeds.getD n 0#64
  | .frt w n => let e := frtEntry s n; if w = 0 then e.base else if w = 1 then e.limit else e.scale
  | .hbmMode j => if s.hbmMode.contains j then 1#64 else 0#64
  | .hbmMc n => FMap.getD s.hbmMc n 0#64
  | .hbmMp n => FMap.getD s.hbmMp n 0#64

/-! ## The HBM map (R85-R87) -/

/-- Where a first-tier address goes when the map changes: the bytes stay at their locations (R87). -/
def remapPa (old new : HbmMap) (pa : Nat) : Nat :=
  if pa < 0x00C000000000 then let (st, a) := dramLoc old pa; paOfLoc new st a else pa

/-- Cells put into canonical order. -/
def sortCells (l : Cells) : Cells := writeCells [] l

/-- An update of the press that waits goes to the DRAM locations of its span, whatever the map does (R308). -/
def remapUpdate (old new : HbmMap) (u : Update) : Update :=
  if u.past then { u with cells := u.cells.map fun c => (remapPa old new c.1, c.2) } else u

/-- A request that waits in a home queue when the map changes. -/
def remapReq (old new : HbmMap) : HomeReq → HomeReq
  | .update u => .update (remapUpdate old new u)
  | .ask a => .ask a

/-- The map replaced: the bytes, their poison and their keys stay at their DRAM locations (R87), and so do the updates of the press that wait
(R308). -/
def setHbmMap (s : State) (new : HbmMap) : State :=
  let old := hbmOf s
  if old = new then s
  else { s with
    hbmMode := new.mode, hbmMc := new.mc, hbmMp := new.mp
    mem := sortCells (s.mem.map fun c => (remapPa old new c.1, c.2))
    poison := s.poison.map fun k => remapPa old new (k * 32) / 32
    seals := s.seals.map fun (k, v) => (remapPa old new (k * 32) / 32, v)
    homeQ := mapVals (fun _ q => q.map (remapReq old new)) s.homeQ }

/-- A write of `c.hbm.mode.j` (R87). -/
def writeHbmMode (s : State) (j : Nat) (v : Word) : State :=
  let rest := s.hbmMode.filter fun k => k != j
  setHbmMap s { hbmOf s with mode := if v.getLsbD 0 then (j :: rest).mergeSort (fun a b => decide (a ≤ b)) else rest }

/-- The mask bits of `c.hbm.mc.n` and `c.hbm.mp.n`: 51:14 (R87). -/
def hbmMaskBits : Word := 0x000FFFFFFFFFC000#64

/-- A map with a key set, or without it where the value is the identity 0. -/
def setOrErase (m : FMap Nat Word) (n : Nat) (v : Word) : FMap Nat Word :=
  if v = 0#64 then FMap.erase m n else FMap.set m n v

/-- A write of `c.hbm.mc.n` (R87). -/
def writeHbmMc (s : State) (n : Nat) (v : Word) : State :=
  setHbmMap s { hbmOf s with mc := setOrErase s.hbmMc n (v &&& hbmMaskBits) }

/-- A write of `c.hbm.mp.n` (R87). -/
def writeHbmMp (s : State) (n : Nat) (v : Word) : State :=
  setHbmMap s { hbmOf s with mp := setOrErase s.hbmMp n (v &&& hbmMaskBits) }

/-! ## The format range table (R83) -/

/-- A code range lies in the first and second tiers: both of its ends do, in one tier (R83). A range of the second tier that spans memory which a
port does not have is none outside the tiers (R83 and R88 leave it open: DESIGN CHOICE, log 137). -/
def codeRangeOk (s : State) (base limit : Nat) : Bool :=
  let k := paKind s (base * 65536)
  (k == .first || k == .second) && paKind s (limit * 65536) == k

/-- A write of a register of an entry (R83): reserved fields stay zero, and a base that breaks the rule stores
valid = 0. -/
def writeFrt (s : State) (n which : Nat) (v : Word) : State :=
  let e := frtEntry s n
  if which = 0 then
    let v := v &&& 0x81FFFFFFFFFF0000#64
    let cls := bitsOf v 52 5
    let base := bitsOf v 16 36
    let limit := bitsOf e.limit 16 36
    let ok := fmtScaled (BitVec.ofNat 5 cls) && decide (base ≤ limit) && codeRangeOk s base limit
    let v := if ok then v else v &&& 0x7FFFFFFFFFFFFFFF#64
    { s with frt := FMap.set s.frt n { e with base := v } }
  else if which = 1 then { s with frt := FMap.set s.frt n { e with limit := v &&& 0x000FFFFFFFFF0000#64 } }
  else { s with frt := FMap.set s.frt n { e with scale := v &&& 0x000FFFFFFFFFFFF0#64 } }

/-! ## Trap and page registers -/

/-- A write of `c.ptroot` (R90). -/
def writePtroot (s : State) (c : Nat) (v : Word) : State :=
  s.setCtxt c { s.ctxt c with ptroot := v &&& 0x000FFFFFFFFF0001#64 }

/-- A write of `c.tvec`: a thread not assigned to the context stores on = 0 (R318). -/
def writeTvec (s : State) (c : Nat) (v : Word) : State :=
  let x := s.ctxt c
  let v := v &&& 0x007FFFFFFFFFFFF9#64
  let v := if x.scmap.getLsbD (bitsOf v 3 5) then v else v &&& ~~~1#64
  s.setCtxt c { x with tvec := v }

/-- A write of `c.trapcause`: busy and the reserved fields are read-only (R315). -/
def writeTrapcause (s : State) (c : Nat) (v : Word) : State :=
  let x := s.ctxt c
  s.setCtxt c { x with trapcause := (x.trapcause &&& 0x8000000000000000#64) ||| (v &&& 0x7F0000FFFFFFFF1F#64) }

/-- A write of `c.fact`: ignored while busy = 0, values above 2 are written as 2 (R322). -/
def writeFact (s : State) (c : Nat) (v : Word) : State :=
  let x := s.ctxt c
  if x.trapcause.getLsbD 63 then
    s.setCtxt c { x with fact := some (if 2 ≤ v.toNat then 2#2 else BitVec.ofNat 2 v.toNat) }
  else s

/-! ## Pre-emption requests (R328, R330, R333) -/

/-- The bytes of a panel's record in a save slot (R331). -/
def panelRecordBytes (x : Panel) : Nat :=
  let readoutBanks := ((List.range 64).filter fun i => x.image.readout.getLsbD i).length
  256 + 4096 * x.image.strands + x.ntiles * (32768 + 4096 * readoutBanks)

/-- The bytes that a garment takes in a slot (R330, R331). -/
def garmentBytes (s : State) (entry : Nat) : Nat :=
  256 + ((taskPanels s entry).map fun p => ((s.panel? p).map panelRecordBytes).getD 0).sum

/-- The lowest free slot that holds the garment (R330). -/
def freeSlot (s : State) (c entry : Nat) : Option Nat :=
  let x := s.ctxt c
  if x.save.getLsbD 0 ∧ 1 ≤ bitsOf x.save 8 8 ∧ garmentBytes s entry ≤ bitsOf x.save 8 8 * 2 ^ 24 then
    (List.range 8).find? fun i => !(x.slots.map (·.1)).contains i
  else none

/-- The task of an identifier, where its table entry is still its own. -/
def findTask (s : State) (id : BitVec 32) : Option (Nat × TaskEntry) :=
  let e := id.toNat % 2 ^ 13
  match FMap.get? s.tasks e with
  | some t => if t.gen = id.toNat / 2 ^ 13 then some (e, t) else none
  | none => none

/-- A pre-emption of a running garment is accepted: it claims its slot, whose state becomes writing (R328, R330). -/
def acceptFreeze (s : State) (c entry slot : Nat) : State :=
  match FMap.get? s.tasks entry with
  | none => s
  | some t =>
    let x := s.ctxt c
    let s := s.setCtxt c { x with slots := x.slots ++ [(slot, entry)] }
    let s := { s with tasks := FMap.set s.tasks entry { t with wantFreeze := true, saveSlot := slot } }
    let hdr := toBytes 8 (taskId s entry).toNat ++ [1#8]
    match devWrite s c (slotAddr x slot) hdr with
    | some s => s
    | none => killTask s entry

/-- The outcome bits of `c.preempt` (R328). (DEDUCED, log 65) -/
def preemptOutcome (s : State) (c : Nat) (id : BitVec 32) (bit : Nat) : State :=
  s.setCtxt c { s.ctxt c with preempt := BitVec.ofNat 64 (2 ^ bit + id.toNat) }

/-- A fault of a thread offered from outside it: where no fault stands before it, it is due at the thread's next
instruction boundary (R321, R328). (DEDUCED, log 33) -/
def offerDue (s : State) (c n : Nat) (f : FaultRec) : State :=
  let x := s.ctxt c
  if x.tvec.getLsbD 0 ∧ x.trapcause.getLsbD 63 = false ∧ x.faultQ.isEmpty ∧ x.delivery.isNone then
    s.setCtxt c { x with delivery := some (f, n), dueSince := s.cycle }
  else offer s c f

/-- A request to pre-empt a task (R328, R333): absent where it does not run, deferred where it is non-pre-emptible or
under a fitting plan, E.PREEMPT for a service-core task, a freeze for a garment that a free slot holds, else noroom. -/
def requestPreempt (s : State) (c : Nat) (v : Word) : State :=
  let id : BitVec 32 := v.setWidth 32
  match findTask s id with
  | none => preemptOutcome s c id 60
  | some (e, t) =>
    if t.ctx ≠ c ∨ t.state ≠ .running then preemptOutcome s c id 60
    else if t.record.nonPreempt ∨ t.fit.isSome then
      preemptOutcome { s with tasks := FMap.set s.tasks e { t with deferred := true } } c id 62
    else
      match t.thread with
      | some n =>
        offerDue (preemptOutcome s c id 63) c n ⟨.preempt, 0, none, 0, id,
          fwhereOf 0 7 0 0 0 0 (issuerNo (.core n)), 0, some (.core n), .task e, none, false⟩
      | none =>
        match freeSlot s c e with
        | some i => acceptFreeze (countFor (preemptOutcome s c id 63) (.seq (t.panels.headD 0) 0) 79 1) c e i
        | none => preemptOutcome s c id 61

/-! ## Writing (R205) -/

/-- A write to a loop slot's field: it takes the value and sets its pending bit; left has none (R166). -/
def writeLoopField (s : State) (p : Party) (i f : Nat) (v : Word) : State :=
  let t := s.thread p
  let h := t.slot i
  s.setThread p (t.setSlot i
    (if f = 0 then { h with start := v, pstart := true }
     else if f = 1 then { h with stop := v, pstop := true }
     else if f = 2 then { h with count := v, pcount := true }
     else { h with left := v }))

/-- A write of a control register by a party that may write it (R127, R205); writes marked ignored change nothing. -/
def cregWrite (s : State) (p : Party) (r : CReg) (v : Word) : State :=
  let c := partyCtx s p
  let x := s.ctxt c
  match r with
  | .devid => s
  | .party => s
  | .tick => s
  | .trapcause => writeTrapcause s c v
  | .trappc => s.setCtxt c { x with trappc := v }
  | .trapval => s.setCtxt c { x with trapval := v }
  | .xlva => s
  | .xlinfo => s
  | .fwhere => s
  | .fpc => s
  | .fact => writeFact s c v
  | .tvec => writeTvec s c v
  | .tscratch => s.setThread p { s.thread p with tscratch := v }
  | .preempt => requestPreempt s c v
  | .save => s.setCtxt c { x with save := v &&& 0x007FFFFFFF00FF01#64 }
  | .chalkbase => s.setCtxt c { x with chalkbase := v &&& 0x007FFFFFFFFF0001#64 }
  | .fsum => s
  | .hwin => s.setCtxt c { x with hwin := v &&& 0x007FFFF000000001#64 }
  | .gtab => s.setCtxt c { x with gtab := v &&& 0x007FFFFFFFFFF001#64 }
  | .ptroot => writePtroot s c v
  | .loopField i f => writeLoopField s p i f v
  | .seed n => s.setCtxt c { x with seeds := x.seeds.set n v }
  | .frt w n => writeFrt s n w v
  | .hbmMode j => writeHbmMode s j v
  | .hbmMc n => writeHbmMc s n v
  | .hbmMp n => writeHbmMp s n v

/-- g[d] := the register numbered imm16; E.ILLEGAL for a number not in the table, E.PRIV below its privilege (R127,
R205). -/
def execCget (d : Reg) (n : BitVec 16) (s : State) : Host.Outcome State Fault Refusal :=
  issue (.cget d n) s fun s =>
    match cregOf n with
    | none => trapOf .illegal (wordVal (.cget d n))
    | some r =>
      if mayRead s s.focus r then .ok (s.setG d (cregRead s s.focus r)) else trapOf .priv (wordVal (.cget d n))

/-- The register numbered imm16 := g[a] (R127, R205). -/
def execCset (a : Reg) (n : BitVec 16) (s : State) : Host.Outcome State Fault Refusal :=
  issue (.cset a n) s fun s =>
    match cregOf n with
    | none => trapOf .illegal (wordVal (.cset a n))
    | some r =>
      if mayWrite s s.focus r then .ok (cregWrite s s.focus r (s.g a)) else trapOf .priv (wordVal (.cset a n))

/-! ## The context register page (R36, R324, R341) -/

/-- Dependence-table entries of a context in use (R22, R341). -/
def entriesUsed (s : State) (c : Nat) : Nat :=
  (s.tasks.filter fun (_, t) => t.ctx == c && (!t.state.isOver || t.fit.isSome)).length

/-- GREPLAY as read (R36). -/
def greplayWord (r : Greplay) : Word :=
  BitVec.ofNat 64 (r.busy.toNat * 2 ^ 31 + r.pend.toNat * 2 ^ 30 + r.ovr.toNat * 2 ^ 29 + r.fail.toNat * 2 ^ 28 +
    r.bad.toNat * 2 ^ 27 + r.graph.toNat)

/-- CSTAT as read: what firmware holds, the clock's lock and the entries in use (R341). -/
def cstatWord (s : State) (c : Nat) : Word :=
  ((s.ctxt c).cstat &&& 0xE03F3FFF00000000#64) ||| (if s.clock.lock then 0x1000000000000000#64 else 0#64) |||
    BitVec.ofNat 64 (entriesUsed s c % 2 ^ 14)

/-- A register of a context's page as read; offsets not listed read zero (R341). -/
def pageRead (s : State) (c off : Nat) : Word :=
  let x := s.ctxt c
  match off with
  | 0x00 => greplayWord x.greplay
  | 0x08 => x.fsum
  | 0x10 => cstatWord s c
  | 0x18 => x.slogn
  | 0x20 => x.sloga
  | 0x28 => zext64 x.cpol
  | 0x30 => zext64 x.scmap
  | _ => 0#64

/-- A function-level reset of the context is in progress: writes to its page are dropped (R343). -/
def inFlr (s : State) (c : Nat) : Bool := (s.ctxt c).cstat.getLsbD 62

/-- A write to GREPLAY (R36): W1C bits, then a start that begins, pends or is dropped. -/
def writeGreplay (s : State) (c : Nat) (v : Word) : State :=
  if inFlr s c then s
  else
    let x := s.ctxt c
    let r := x.greplay
    let r := { r with ovr := r.ovr && !v.getLsbD 29, fail := r.fail && !v.getLsbD 28, bad := r.bad && !v.getLsbD 27 }
    let g : BitVec 8 := v.setWidth 8
    let r :=
      if !v.getLsbD 15 then r
      else if !r.busy then { r with busy := true, graph := g, running := g, begun := false, policy := 0 }
      else if !r.pend then { r with pend := true, graph := g, pendGraph := g }
      else { r with ovr := true }
    s.setCtxt c { x with greplay := r }

/-- A host write to FSUM: the counters are written, killed is cleared by a one, last stays (R324). -/
def writeFsum (s : State) (c : Nat) (v : Word) : State :=
  if inFlr s c then s
  else
    let x := s.ctxt c
    let killed : Word := x.fsum &&& 0x80#64 &&& ~~~v
    s.setCtxt c { x with fsum := (v &&& 0xFFFFFFFFFFFFFF00#64) ||| killed ||| (x.fsum &&& 0x1F#64) }

/-- A write to SLOGN (R341). -/
def writeSlogn (s : State) (c : Nat) (v : Word) : State :=
  if inFlr s c then s else s.setCtxt c { s.ctxt c with slogn := v &&& 0xFFFFFFFF#64 }

/-- A write to CPOL (R341). -/
def writeCpol (s : State) (c : Nat) (v : Word) : State :=
  if inFlr s c then s else s.setCtxt c { s.ctxt c with cpol := v.setWidth 2 }

/-- A write to a context's page by the host or a supervisor; offsets not listed, and a supervisor's store to FSUM,
change nothing (R170, R324, R341). -/
def pageWrite (s : State) (c off : Nat) (v : Word) (host : Bool) : State :=
  match off with
  | 0x00 => writeGreplay s c v
  | 0x08 => if host then writeFsum s c v else s
  | 0x18 => writeSlogn s c v
  | 0x28 => writeCpol s c v
  | _ => s

/-! ## The writes as steps -/

/-- A write to `c.ptroot` of a context (R90). -/
def execPtrootWrite (c : Nat) (v : Word) (s : State) : Host.Outcome State Fault Refusal := .next (writePtroot s c v)

/-- A write of an entry of the format range table by firmware, at machine privilege, in all twelve controllers at once (R83). -/
def execFrtWrite (n : Nat) (which : BitVec 2) (v : Word) (s : State) : Host.Outcome State Fault Refusal :=
  .next (if n < 16 ∧ which.toNat < 3 then writeFrt s n which.toNat v else s)

/-- A write of a group mode or a region mask by firmware, at machine privilege, named by its register number (R87). -/
def execHbmMapWrite (reg : BitVec 16) (v : Word) (s : State) : Host.Outcome State Fault Refusal :=
  .next (match cregOf reg with
    | some (.hbmMode j) => writeHbmMode s j v
    | some (.hbmMc n) => writeHbmMc s n v
    | some (.hbmMp n) => writeHbmMp s n v
    | _ => s)

/-- A write to a field of a loop slot of a thread (R166). -/
def execLoopRegisterWrite (p : Party) (slot field : BitVec 2) (v : Word) (s : State) : Host.Outcome State Fault Refusal :=
  .next (writeLoopField s p slot.toNat field.toNat v)

/-- A write to `c.tvec` of a context (R318). -/
def execTvecWrite (c : Nat) (v : Word) (s : State) : Host.Outcome State Fault Refusal := .next (writeTvec s c v)

/-- A write of a control register with no row of its own, as a `cset` at supervisor privilege of a party's context, the context named; one that
R127 or R87 refuses changes nothing and reaches no task (R312). -/
def execRegisterWrite (p : Party) (c : Nat) (reg : BitVec 16) (v : Word) (s : State) : Host.Outcome State Fault Refusal :=
  .next (match cregOf reg with
    | some r => if partyCtx s p = c ∧ mayWriteAs s .supervisor c r then cregWrite s p r v else s
    | none => s)

/-- A write of the host to a context's page: a TDI in RUN takes it only where IDE protects it, which the write does not name and is free by draw
(R348; DESIGN CHOICE, log 138). -/
def hostWrite (s : State) (c : Nat) (f : State → State) : State :=
  if s.tdiRun.contains (c + 1) then
    let (s, d) := s.draw
    if Config.hostIde d then f s else s
  else f s

/-- A host write to FSUM (R324). -/
def execFsumWrite (c : Nat) (v : Word) (s : State) : Host.Outcome State Fault Refusal := .next (hostWrite s c fun s => writeFsum s c v)

/-- A host write to CPOL (R341). -/
def execCpolWrite (c : Nat) (v : Word) (s : State) : Host.Outcome State Fault Refusal := .next (hostWrite s c fun s => writeCpol s c v)

/-- A host write to SLOGN (R341). -/
def execSlognWrite (c : Nat) (v : Word) (s : State) : Host.Outcome State Fault Refusal := .next (hostWrite s c fun s => writeSlogn s c v)

/-- A host write to GREPLAY (R36). -/
def execGreplayWrite (c : Nat) (v : Word) (s : State) : Host.Outcome State Fault Refusal := .next (hostWrite s c fun s => writeGreplay s c v)

/-- A write to `c.preempt` (R328). -/
def execPreemptRequest (c : Nat) (v : Word) (s : State) : Host.Outcome State Fault Refusal := .next (requestPreempt s c v)

end Sys2Proof.Machine
end

