-- ==== Sys2Proof/Machine/Flow.lean ====
section
/-! DEFINITION. Branches, calls, hardware loops (R163-R169), `fin` and `nop`. -/

namespace Sys2Proof.Machine

open Sys2Proof

/-- A taken branch: ev89 counts it (R265). -/
def branchTo (s : State) (pc : Word) : Res := .jump (countFor s s.focus 89 1) pc

/-- PC := target (R163). -/
def execBr (off : BitVec 26) (s : State) : Host.Outcome State Fault Refusal :=
  issue (.br off) s fun s => branchTo s (relTarget s.cur.pc off)

/-- Register g1, the link (R125, R163). -/
def g1 : Reg := 1#5

/-- g1 := next; PC := target (R163). -/
def execJal (off : BitVec 26) (s : State) : Host.Outcome State Fault Refusal :=
  issue (.jal off) s fun s => branchTo (s.setG g1 (s.cur.pc + 4#64)) (relTarget s.cur.pc off)

/-- t := g[a] + sext(imm16), E.ALIGN unless a multiple of 4; g[d] := next; PC := t (R163). -/
def execJalr (d a : Reg) (imm : BitVec 16) (s : State) : Host.Outcome State Fault Refusal :=
  issue (.jalr d a imm) s fun s =>
    let t := s.g a + sext64 imm
    if aligned t 4 then branchTo (s.setG d (s.cur.pc + 4#64)) t else trapOf .align t

/-- A decision enters the control-path signature of the running thread (R203). -/
def State.sign (s : State) (b : Bool) : State := s.setCur (s.cur.sign b)

/-- PC := target if cc(g[a], g[b]) holds, else next (R163); the outcome enters the signature (R203). -/
def execBcc (cc : CC) (a b : Reg) (off : BitVec 12) (s : State) : Host.Outcome State Fault Refusal :=
  issue (.bcc cc a b off) s fun s =>
    if ccHolds cc (s.g a) (s.g b) then branchTo (s.sign true) (relTarget s.cur.pc off) else .ok (s.sign false)

/-- The slots entered after a slot: those before it in the entry order (R169). -/
def enteredAfter (order : List Nat) (i : Nat) : List Nat := order.takeWhile fun j => j != i

/-- The thread with the slots of a list inactive. -/
def Thread.deactivate (t : Thread) (is : List Nat) : Thread :=
  is.foldl (fun t i => t.setSlot i { t.slot i with active := false }) t

/-- Leaves an active slot when its condition holds (R169): left := 0, the slot and every slot entered after it become
inactive, PC := latched end + 4. -/
def execLexit (cc : CC) (a b : Reg) (slot : BitVec 2) (s : State) : Host.Outcome State Fault Refusal :=
  issue (.lexit cc a b slot) s fun s =>
    if ccHolds cc (s.g a) (s.g b) then
      let t := s.cur
      let i := slot.toNat
      let h := t.slot i
      if h.active then
        let t := (t.deactivate (enteredAfter t.order i)).setSlot i { h with left := 0#64, active := false }
        .jump ((s.setCur t).sign true) (h.lstop + 4#64)
      else trapOf .loopSpec (t.pc + BitVec.ofNat 64 i)
    else .ok (s.sign false)

/-- The body limits of a loop (R136, R167): both ends word-aligned, end not before start, at most 32,768 words. -/
def bodyOk (st en : Word) : Bool :=
  aligned st 4 && aligned en 4 && decide (st.toNat ≤ en.toNat) && decide ((en.toNat - st.toNat) / 4 < 32768)

/-- Entry of a loop form at the thread's pc (R167): `n` is the count of the form, `exits` whether it is a `loopw`. -/
def enterLoop (s : State) (i : Nat) (e : BitVec 15) (bound : BitVec 24) (n : Word) (exits : Bool) : Res :=
  let t := s.cur
  let h := t.slot i
  let st := if h.pstart then h.start else t.pc + 8#64
  let en := if h.pstop then h.stop else t.pc + 8#64 + 4#64 * zext64 e
  let n := if h.pcount && !exits then h.count else n
  if bound = 0#24 ∨ (exits = false ∧ bound.toNat < n.toNat) ∨ bodyOk st en = false then
    trapOf .loopSpec (t.pc + BitVec.ofNat 64 i)
  else
    let h' : LoopSlot := ⟨st, en, n, n, st, en, n, false, false, false, n != 0#64, exits⟩
    if n = 0#64 then .jump (s.setCur (t.setSlot i h')) (en + 4#64)
    else .jump (s.setCur { t.setSlot i h' with order := i :: t.order.filter fun j => j != i }) st

/-- Enters a counted loop (R167). -/
def execLoop (slot : BitVec 2) (a : Reg) (e : BitVec 15) (bound : BitVec 24) (s : State) :
    Host.Outcome State Fault Refusal :=
  issue (.loop slot a e bound) s fun s => enterLoop s slot.toNat e bound (s.g a) false

/-- Enters a loop that runs until `lexit` (R167): its count is its bound, and a pending count is ignored. -/
def execLoopw (slot : BitVec 2) (e : BitVec 15) (bound : BitVec 24) (s : State) : Host.Outcome State Fault Refusal :=
  issue (.loopw slot e bound) s fun s => enterLoop s slot.toNat e bound (zext64 bound) true

/-- PC := next (R163). -/
def execNop (s : State) : Host.Outcome State Fault Refusal := issue .nop s fun s => .ok s

/-- The failed load of a thread is raised at its next `arm`, `ldpat` or `fin`, its value the image address (R27, R254, R314). -/
def failedLoad (s : State) : Option Trap :=
  match s.focus with
  | .seq p i => ((s.panel? p).bind fun x => (x.strand i).failed).map (mkTrap .cfgLoad)
  | _ => none

/-- The panel without the load of a strand: neither in flight, loaded nor failed (R254). -/
def dropLoad (s : State) (p i : Nat) : State :=
  s.modPanel p fun x =>
    let mine := (x.load.map fun l => l.strand == i).getD false
    { x with load := if mine then none else x.load }.setStrand i { x.strand i with loadAddr := none, failed := none }

/-- `fin` on a sequencer thread (R164): the stitch, then the strand is finished and its rows execute nullified. -/
def finSeq (s : State) (p i : Nat) : State :=
  let s := publishPanel s p
  let s := s.modPanel p fun x => x.setStrand i { x.strand i with finished := true, sliceStop := true }
  let s := s.setCur { s.cur with status := .finished }
  takeShadow s p

/-- `fin` on a service-core thread ends its task (R164): the thread idles, and the task waits for its end step. -/
def finCore (s : State) : State := s.setCur { s.cur with status := .finished }

/-- Ends the thread (R164); a load of its panel that failed is raised first (R254). -/
def execFin (s : State) : Host.Outcome State Fault Refusal :=
  issue .fin s fun s =>
    match failedLoad s, s.focus with
    | some t, .seq p i => .set (raise (dropLoad s p i) t)
    | _, .seq p i => .set (finSeq s p i)
    | _, _ => .set (finCore s)

end Sys2Proof.Machine
end

