-- ==== Sys2Proof/Machine/Spool.lean ====
section
/-! DEFINITION. The spool of a bobbin unit: reset direction numbers (R186), draws (R187, R188), images (R185). -/

namespace Sys2Proof.Machine

open Sys2Proof

/-- The next integer m_k of R186 from the earlier ones, latest first; `as` holds a_1, a_2, … and the last term is that
of the polynomial's degree. -/
def sobolNext (s : Nat) (as : List Nat) (ms : List Nat) : Nat :=
  let tail := ms.getD (s - 1) 0
  let terms := (List.range (s - 1)).map fun i => 2 ^ (i + 1) * as.getD i 0 * ms.getD i 0
  terms.foldl (· ^^^ ·) ((2 ^ s * tail) ^^^ tail)

/-- `n` more integers of the recurrence, latest first. -/
def sobolGrow (s : Nat) (as : List Nat) : Nat → List Nat → List Nat
  | 0, ms => ms
  | n + 1, ms => sobolGrow s as n (sobolNext s as ms :: ms)

/-- The integers m_1 to m_32 of a dimension from 1 to 3 (R186). -/
def sobolMs (j : Nat) : List Nat :=
  if j = 1 then (sobolGrow 1 [] 31 [1]).reverse
  else if j = 2 then (sobolGrow 2 [1] 30 [3, 1]).reverse
  else (sobolGrow 3 [0, 1] 29 [1, 3, 1]).reverse

/-- The reset direction number v_j[b] (R186). -/
def resetDir (j b : Nat) : W32 :=
  if j = 0 then BitVec.ofNat 32 (2 ^ (31 - b))
  else if j ≤ 3 then BitVec.ofNat 32 ((sobolMs j).getD b 0 * 2 ^ (31 - b))
  else 0#32

/-- The direction number v_j[b] of a spool (R185). -/
def Spool.dir (sp : Spool) (j b : Nat) : W32 :=
  match sp.dirs with
  | none => resetDir j b
  | some l => l.getD (32 * j + b) 0#32

/-- bitrev: bit i becomes bit 31 − i (R188). -/
def bitrev32 (x : W32) : W32 := x.reverse

/-- A mixing step of R188: t xor (t × c). -/
def nestStep (t c : W32) : W32 := t ^^^ (t * c)

/-- nest(x, s) of R188. -/
def nest (x s : W32) : W32 :=
  let t := bitrev32 x + s
  let t := nestStep t 0x3A8E5C14#32
  let t := nestStep t 0x95D207B6#32
  let t := nestStep t 0x6F1BC9E2#32
  let t := nestStep t 0xC24A7D58#32
  bitrev32 t

/-- The exclusive or of the direction numbers of the set bits below `b` of an index (R187). -/
def drawX (sp : Spool) (j n : Nat) : Nat → W32
  | 0 => 0#32
  | b + 1 => if bitAt n b then drawX sp j n b ^^^ sp.dir j b else drawX sp j n b

/-- The raw draw y (R187). -/
def drawRaw (sp : Spool) (j : Nat) (n : W32) : W32 :=
  let x := drawX sp j n.toNat 32
  let s := sp.seeds.getD j 0#32
  if sp.mode = 0 then x ^^^ s else nest x s

/-- The FP32 bits of m × 2^−24 for m below 2^24, exact (R187). -/
def unitFloat (m : Nat) : W32 :=
  if m = 0 then 0#32
  else
    let e := Nat.log2 m
    BitVec.ofNat 32 ((e + 103) * 2 ^ 23 + m * 2 ^ (23 - e) % 2 ^ 23)

/-- A draw in dimension j at an index: raw, or in the float form (R187). -/
def drawVal (sp : Spool) (j : Nat) (n : W32) (float : Bool) : W32 :=
  let y := drawRaw sp j n
  if float then unitFloat (y.toNat / 256) else y

/-- The 4,352 bytes of a spool image (R185). -/
def spoolImage (sp : Spool) : List Byte :=
  ((List.range 1024).flatMap fun i => toBytes 4 (sp.dir (i / 32) (i % 32)).toNat) ++
    ((List.range 32).flatMap fun j => toBytes 4 (sp.seeds.getD j 0#32).toNat) ++
    toBytes 4 sp.mode ++ List.replicate 124 0#8

/-- The 32-bit words of bytes. -/
def words32 (n : Nat) (bs : List Byte) : List W32 :=
  (List.range n).map fun i => BitVec.ofNat 32 (ofBytes ((bs.drop (4 * i)).take 4))

/-- The spool of an image; none where the mode is above 1 or a zero byte is not zero (R185, R189). -/
def spoolOfImage (bs : List Byte) : Option Spool :=
  let mode := ofBytes ((bs.drop 0x1080).take 4)
  if mode ≤ 1 ∧ (bs.drop 0x1084).all (· == 0#8) then
    some ⟨some (words32 1024 bs), words32 32 (bs.drop 0x1000), mode⟩
  else none

/-- The spool that a strand or a service-core task starts with: reset numbers and mode, seeds from `c.seed.j` (R190). -/
def startSpool (x : Context) : Spool := ⟨none, (List.range 32).map fun j => (x.seeds.getD j 0#64).setWidth 32, 0⟩

end Sys2Proof.Machine
end

