-- ==== Sys2Proof/Machine/System.lean ====
section
/-! DEFINITION. The system group (R204-R207, R322, R335): `trap`, `eret`, `tlbinv` and its completion, `ctxsave` and
`ctxload`; the traps of words that cannot be issued (R139, R165). -/

namespace Sys2Proof.Machine

open Sys2Proof

/-- A request of a supervisor to machine firmware (R204, R323): E.PRIV with `c.trapval` := g[a] and `c.trappc` := PC, recorded for firmware;
the thread goes on after the word (DEDUCED, log 24). -/
def firmwareRequest (s : State) (v : Word) : State :=
  match s.focus with
  | .core n =>
    let c := s.cur.ctx
    let x := s.ctxt c
    countFor (s.setCtxt c { x with fwreq := x.fwreq ++ [(n, v)], trapval := v, trappc := s.cur.pc }) s.focus 95 1
  | _ => s

/-- Raises E.PRIV with g[a] (R204): a user thread traps to its supervisor, a supervisor thread reaches firmware. -/
def execTrap (a : Reg) (s : State) : Host.Outcome State Fault Refusal :=
  issue (.trap a) s fun s =>
    if partyPriv s s.focus = .supervisor then .ok (firmwareRequest s (s.g a)) else trapOf .priv (s.g a)

/-- Returns from the handler (R204, R322). -/
def execEret (s : State) : Host.Outcome State Fault Refusal :=
  issue .eret s fun s =>
    match s.focus with
    | .core n => .set (eretFrom s (partyCtx s s.focus) n)
    | _ => .ok s

/-- Starts the invalidation and waits for its completion, without a timeout (R96, R206). -/
def execTlbinv (a b : Reg) (s : State) : Host.Outcome State Fault Refusal :=
  issue (.tlbinv a b) s fun s => .wait s none true

/-- The TLB entry maps a byte of [base, base + len); a length of 0 means every entry (R206). -/
def tlbHit (c base len : Nat) (t : TlbEntry) : Bool :=
  t.ctx == c && (len == 0 || (decide (t.base < base + len) && decide (base < t.base + pageSize t.level)))

/-- A waiting thread's instruction completes: the thread runs on, and what follows a completed instruction takes place. -/
def completeWait (s : State) (p : Party) (i : Instr) : State :=
  let s := { s with focus := p }
  commitShadow i (retire i (s.setCur { s.cur with wait := none }))

/-- Every matching entry is invalid, and the waiting thread continues (R96). -/
def execTlbinvComplete (p : Party) (s : State) : Host.Outcome State Fault Refusal :=
  .next (match (s.thread p).wait with
    | some w =>
      match w.instr with
      | .tlbinv a b =>
        let t := s.thread p
        let s := { s with tlb := s.tlb.filter fun e => !tlbHit (partyCtx s p) (t.get a).toNat (t.get b).toNat e }
        completeWait s p w.instr
      | _ => s
    | none => s)

/-! ## Switching images (R207, R335) -/

/-- The 8-byte item of pending bits, active bits and entry order (R207). (DESIGN CHOICE, log 49) -/
def loopBits (t : Thread) : Nat :=
  let slots := [t.slot 0, t.slot 1, t.slot 2, t.slot 3]
  let pend := (slots.zipIdx.map fun (h, i) =>
    (h.pstart.toNat + 2 * h.pstop.toNat + 4 * h.pcount.toNat) * 2 ^ (4 * i)).sum
  let act := (slots.zipIdx.map fun (h, i) => h.active.toNat * 2 ^ (16 + i)).sum
  let ord := (t.order.zipIdx.map fun (j, i) => j % 4 * 2 ^ (24 + 2 * i)).sum
  pend + act + ord

/-- The bytes of words. -/
def bytesOfWords (ws : List Word) : List Byte := ws.flatMap fun w => toBytes 8 w.toNat

/-- The image of `ctxsave` (R207): `slot31` is what its g31 slot takes (R335). -/
def saveImage (t : Thread) (x : Context) (slot31 : Word) : List Byte :=
  let gs := (List.range 32).map fun i => if i = 31 then slot31 else t.get (BitVec.ofNat 5 i)
  let hs := [0, 1, 2, 3].flatMap fun i => let h := t.slot i; [h.start, h.stop, h.count, h.left]
  let ls := [0, 1, 2, 3].flatMap fun i => let h := t.slot i; [h.lstart, h.lstop, h.lcount]
  let bs := (List.range 16).flatMap fun i =>
    match t.bound[i]? with | some e => [e.base, e.length, e.object] | none => [0#64, 0#64, 0#64]
  bytesOfWords gs ++ bytesOfWords hs ++ toBytes 8 (loopBits t) ++
    ((List.range 8).flatMap fun i => toBytes 2 (getK t.k (BitVec.ofNat 3 i)).toNat) ++ List.replicate 8 0#8 ++
    bytesOfWords [x.trapcause, x.trappc, x.trapval, x.fwhere, x.fpc, x.xlva, x.xlinfo] ++ List.replicate 40 0#8 ++
    bytesOfWords bs ++ bytesOfWords ls ++ List.replicate 32 0#8 ++
    ((List.range 32).flatMap fun i => toBytes 64 (getV t.z (BitVec.ofNat 5 i)).toNat) ++
    spoolImage t.spool ++ List.replicate 768 0#8

/-- Bytes written by a thread from a virtual address upward, 256 at a time, each part translated: the state after them,
or the trap of the first part that fails; device registers are E.PERM (R170). -/
def storeParts (s : State) (p : Party) : Nat → Word → List Byte → Except Trap State
  | 0, _, _ => .ok s
  | _, _, [] => .ok s
  | n + 1, va, bs =>
    match translate s (partyReq s p .write) va with
    | .error t => .error t
    | .ok (s, tg) =>
      if paKind s tg.pa = .device then .error (mkTrap .perm va)
      else match writeFor s p tg (bs.take 256) with
      | .error t => .error t
      | .ok s => storeParts s p n (va + 256#64) (bs.drop 256)

/-- Bytes read at their homes for a thread from a virtual address upward, 256 at a time. -/
def loadParts (s : State) (p : Party) : Nat → Word → Except Trap (State × List Byte)
  | 0, _ => .ok (s, [])
  | n + 1, va =>
    match translate s (partyReq s p .read) va with
    | .error t => .error t
    | .ok (s, tg) =>
      if paKind s tg.pa = .device ∨ hostFails s tg.pa then .error (mkTrap .perm va)
      else match homeRead s tg.dom tg.pa 256 with
      | .error t => .error t
      | .ok (s, bs) =>
        match loadParts s p n (va + 256#64) with
        | .error t => .error t
        | .ok (s, rest) => .ok (s, bs ++ rest)

/-- The thread handles a trap of its context (R321, R335). -/
def inHandler (s : State) : Bool := (s.ctxt (partyCtx s s.focus)).trapcause.getLsbD 63

/-- Writes the thread's state at g[a] (R207); in a handler the g31 slot takes `c.tscratch` (R335). -/
def execCtxsave (a : Reg) (s : State) : Host.Outcome State Fault Refusal :=
  issue (.ctxsave a) s fun s =>
    if aligned (s.g a) 256 then
      let img := saveImage s.cur (s.ctxt (partyCtx s s.focus)) (if inHandler s then s.cur.tscratch else s.cur.get g31)
      .bindX (storeParts s s.focus 32 (s.g a) img) fun s => .ok s
    else trapOf .align (s.g a)

/-- The 64-bit word at an offset of an image. -/
def imgWord (img : List Byte) (off : Nat) : Word := wordOf ((img.drop off).take 8)

/-- The bytes of a range of an image are zero. -/
def imgZero (img : List Byte) (off n : Nat) : Bool := ((img.drop off).take n).all (· == 0#8)

/-- The bound-region table of an image, none where an entry breaks R104: the checks that `bind` makes of a service core's entry. -/
def imgBound (img : List Byte) : Option (List BoundEntry) :=
  let es := (List.range 16).map fun i =>
    (⟨imgWord img (0x200 + 24 * i), imgWord img (0x208 + 24 * i), imgWord img (0x210 + 24 * i)⟩ : BoundEntry)
  let live := es.filter fun e => e.length != 0#64
  if live.all fun e => decide (e.length.toNat ≤ 2 ^ 36) && decide (e.base.toNat + e.length.toNat ≤ 2 ^ 64) && aligned e.object 8 &&
      !isTagged e.object
  then some live else none

/-- A loop slot of an image; whether an active one is a `loopw` is free (DESIGN CHOICE, log 23). -/
def imgSlot (img : List Byte) (bits : Nat) (draw i : Nat) : LoopSlot where
  start := imgWord img (0x100 + 32 * i)
  stop := imgWord img (0x108 + 32 * i)
  count := imgWord img (0x110 + 32 * i)
  left := imgWord img (0x118 + 32 * i)
  lstart := imgWord img (0x380 + 24 * i)
  lstop := imgWord img (0x388 + 24 * i)
  lcount := imgWord img (0x390 + 24 * i)
  pstart := bitAt bits (4 * i)
  pstop := bitAt bits (4 * i + 1)
  pcount := bitAt bits (4 * i + 2)
  active := bitAt bits (16 + i)
  exits := bitAt bits (16 + i) && Config.loopForm (4 * draw + i)

/-- The thread that an image restores, none where it breaks R104, R185 or a zero area (R207); in a handler the g31 slot
goes to `c.tscratch` (R335). An entry order that is no permutation stands as it is, and an active slot that it omits ends no trip (R207 gives it
no meaning: DESIGN CHOICE, log 49). -/
def imgThread (t : Thread) (img : List Byte) (handler : Bool) (draw : Nat) : Option Thread :=
  match imgBound img, spoolOfImage ((img.drop 0xC00).take 4352) with
  | some bound, some sp =>
    if imgZero img 0x198 8 ∧ imgZero img 0x1D8 40 ∧ imgZero img 0x3E0 32 ∧ imgZero img 0x1D00 768 then
      let bits := ofBytes ((img.drop 0x180).take 8)
      let g := Vector.ofFn fun i : Fin 32 =>
        if i.val = 0 then 0#64 else if i.val = 31 ∧ handler then t.get g31 else imgWord img (8 * i.val)
      some { t with
        g := g
        loops := Vector.ofFn fun i : Fin 4 => imgSlot img bits draw i.val
        order := (List.range 4).map fun i => bits / 2 ^ (24 + 2 * i) % 4
        k := Vector.ofFn fun i : Fin 8 => if i.val = 0 then 0#16 else BitVec.ofNat 16 (ofBytes ((img.drop (0x188 + 2 * i.val)).take 2))
        z := Vector.ofFn fun i : Fin 32 => BitVec.ofNat 512 (ofBytes ((img.drop (0x400 + 64 * i.val)).take 64))
        bound := bound
        spool := sp
        tscratch := if handler then imgWord img 0xF8 else t.tscratch }
    else none
  | _, _ => none

/-- The trap registers that an image restores, cset-ignored ones included (R207); their reserved bits read zero (R5, R94, R315, R316). -/
def imgContext (x : Context) (img : List Byte) : Context :=
  { x with
    trapcause := imgWord img 0x1A0 &&& 0xFF0000FFFFFFFF1F#64, trappc := imgWord img 0x1A8, trapval := imgWord img 0x1B0
    fwhere := imgWord img 0x1B8 &&& 0x00000FFFFFFF9FFF#64, fpc := imgWord img 0x1C0
    xlva := imgWord img 0x1C8 &&& 0x007FFFFFFFFFFFFF#64, xlinfo := imgWord img 0x1D0 &&& 0x00000FFFFFFFFC00#64 }

/-- Reads the thread's state at g[a] (R207). -/
def execCtxload (a : Reg) (s : State) : Host.Outcome State Fault Refusal :=
  issue (.ctxload a) s fun s =>
    if aligned (s.g a) 256 then
      .bindX (loadParts s s.focus 32 (s.g a)) fun (s, img) =>
        let (s, d) := s.draw
        match imgThread s.cur img (inHandler s) d with
        | some t =>
          let c := partyCtx s s.focus
          .ok ((s.setCur { t with before := .running }).setCtxt c (imgContext (s.ctxt c) img))
        | none => trapOf .engine (wordVal (.ctxload a))
    else trapOf .align (s.g a)

/-! ## Words that cannot be issued -/

/-- A word refused by line 1 of R139 traps precisely with E.ILLEGAL; on a slice engine it posts a poisoned entry. -/
def execUnassignedOpcode (w : W32) (s : State) : Host.Outcome State Fault Refusal :=
  .next (raise (noteIssue s) (mkTrap .illegal (zext64 w)))

/-- The fetch of the word at the running thread's pc: translated with X, for a slice engine within its slice section
(R29, R165, R256). -/
def fetchTarget (s : State) (p : Party) (pc : Word) : Except Trap (State × Target) :=
  match translate s (partyReq s p .exec) pc with
  | .error t => .error t
  | .ok r => .ok r

/-- A fetch outside the slice section is a slice fault: E.PERM with the fetch address (R29, R256). -/
def sliceFetchBad (s : State) (p : Party) (pc : Word) : Bool :=
  match p with
  | .slice x _ => match s.panel? x with
    | some y => let off := pc.toNat - y.imageAddr.toNat
                !(decide (y.imageAddr.toNat ≤ pc.toNat) && decide (y.image.slice.1 ≤ off) &&
                  decide (off + 4 ≤ y.image.slice.1 + y.image.slice.2))
    | none => true
  | _ => false

/-- The word at an address through the party's instruction cache, which a miss fills from the home (R74, R165). -/
def fetchWordAt (s : State) (p : Party) (pc : Word) : Except Trap (State × W32) :=
  if sliceFetchBad s p pc then .error (mkTrap .perm pc)
  else match fetchTarget s p pc with
  | .error t => .error t
  | .ok (s, tg) =>
    match s.icache.find? fun w => w.owner == icOwner p && w.pa == tg.pa with
    | some w => .ok (s, w.word)
    | none =>
      if paKind s tg.pa = .device ∨ hostFails s tg.pa then .error (mkTrap .perm pc)
      else match homeRead s tg.dom tg.pa 4 with
      | .error t => .error t
      | .ok (s, bs) =>
        let w : W32 := BitVec.ofNat 32 (ofBytes bs)
        .ok ({ s with icache := ⟨icOwner p, tg.pa, w⟩ :: s.icache }, w)

/-- The trap of the fetch at an address, none where it succeeds (R165). -/
def fetchTrap (s : State) (p : Party) (pc : Word) : Option Trap :=
  match fetchWordAt s p pc with
  | .error t => some t
  | .ok _ => none

/-- The word at an address begins a long form that stands where it may (R128, R132). -/
def fetchesLong (s : State) (p : Party) (pc : Word) : Bool :=
  match fetchWordAt s p pc with
  | .ok (_, w) => isLongFirst w && pc.toNat % 8 == 0
  | .error _ => false

/-- A fetch whose translation fails raises its cause precisely, the pc that of the word that could not be fetched
(R165); a fetch that succeeds raises nothing. -/
def execFetchFault (s : State) : Host.Outcome State Fault Refusal :=
  .next (match fetchTrap s s.focus s.cur.pc with
    | some t => raise s t
    | none =>
      match if fetchesLong s s.focus s.cur.pc then fetchTrap s s.focus (s.cur.pc + 4#64) else none with
      | some t => raise s t
      | none => s)

end Sys2Proof.Machine
end

