-- ==== Sys2Proof/Machine/Copy.lean ====
section
/-! DEFINITION. Engine accesses and held faults (R110, R355, R356), copy templates, apertures and channels (R178-R182),
and the steps of a copy (R99, R112, R113). -/

namespace Sys2Proof.Machine

open Sys2Proof

/-! ## Engine accesses (R110, R355, R356) -/

/-- An engine's translation: no TLB, the privilege of the issuing party at issue, its source in `c.xlinfo` (R94, R356). -/
def engReq (ctx : Nat) (priv : Priv) (acc : Access) (src : Nat) : XReq := ⟨none, ctx, priv, acc, src, 0, 0, 0, 0⟩

/-- A translated engine access that is not to device registers. -/
def engTarget (s : State) (q : XReq) (va : Word) : Except Trap (State × Target) :=
  match translate s q va with
  | .error t => .error t
  | .ok (s, tg) => if paKind s tg.pa = .device then .error (mkTrap .perm va) else .ok (s, tg)

/-- Bytes read by an engine at their homes, page by page, as last applied there, the L2 filling what it lacks of them (R99, R110, R311); a poisoned
byte is E.ECC (R327), a completion of the host port with an error status E.PERM (R340). -/
def engRead (s : State) (q : XReq) : Nat → Word → Nat → Except Trap (State × List Byte)
  | 0, _, _ => .ok (s, [])
  | fuel + 1, va, n =>
    if n = 0 then .ok (s, [])
    else
      let k := min n (65536 - va.toNat % 65536)
      match engTarget s q va with
      | .error t => .error t
      | .ok (s, tg) =>
        let s := l2Fill s none tg.dom tg.pa k
        if hostFails s tg.pa then .error (mkTrap .perm va)
        else match badSector s tg.pa k with
        | some sec => .error (eccTrap (32 * sec))
        | none =>
          let bs := homeBytes s tg.dom tg.pa k
          match engRead s q fuel (va + BitVec.ofNat 64 k) (n - k) with
          | .error t => .error t
          | .ok (s, rest) => .ok (s, bs ++ rest)

/-- A read of `n` bytes. -/
def engReadN (s : State) (q : XReq) (va : Word) (n : Nat) : Except Trap (State × List Byte) :=
  engRead s q (n / 65536 + 2) va n

/-- Bytes written by an engine for a unit enter the home queues of their lines, page by page (R99). -/
def engWrite (s : State) (q : XReq) (task : BitVec 32) (w : Option Writer) : Nat → Word → List Byte → Except Trap State
  | 0, _, _ => .ok s
  | fuel + 1, va, bs =>
    if bs.isEmpty then .ok s
    else
      let k := 65536 - va.toNat % 65536
      match engTarget s q va with
      | .error t => .error t
      | .ok (s, tg) => engWrite (pushHome s tg.dom task tg.pa (bs.take k) w) q task w fuel (va + BitVec.ofNat 64 k) (bs.drop k)

/-- A write of bytes for a unit. -/
def engWriteN (s : State) (q : XReq) (task : BitVec 32) (w : Option Writer) (va : Word) (bs : List Byte) : Except Trap State :=
  engWrite s q task w (bs.length / 65536 + 2) va bs

/-- The unit that issued a command of an engine, while its panel stands where it stood (R197). -/
def cmdWriter (s : State) (p : Party) (uid : Nat) : Option Writer :=
  match p with
  | .core n => some (.core (n / 2))
  | _ => if (s.panels.any fun x => x.2.uid == uid) then some (.panel uid) else none

/-- Some update that waits in a home queue writes bytes of one of the ranges: a write of a command to them is not applied (R112). -/
def waitsIn (s : State) (rs : List (Nat × Nat)) : Bool := s.homeQ.any fun q => q.2.any (HomeReq.meets rs)

/-- Every home queue applies all it holds. -/
def flushAll (s : State) : State := (s.homeQ.map (·.1)).foldl flushSlice s

/-- The object of a command's fault: the issuing task, or the issuing party's context where it has none (R319; DEDUCED, log 22). -/
def cmdObj (ctx : Nat) (task : BitVec 32) : FObj := if task = 0 then .context ctx else .task (task.toNat % 2 ^ 13)

/-- A fault of an engine command offered to the supervisor (R319, R321, R355): nothing is offered when its task has
ended, and the fault is counted late. -/
def offerEngine (s : State) (ctx : Nat) (task : BitVec 32) (t : Trap) (source issuer : Nat) (e : Option EngineId) : State :=
  let f : FaultRec := ⟨t.cause, t.val, t.xl, source, task, fwhereOf 0 7 0 0 0 0 issuer, 0, none, cmdObj ctx task, e, false⟩
  let ended := task != 0 && match findTask s task with | some (_, x) => x.state.isOver | none => true
  if ended then
    let s := countFault s ctx 16 16 t.cause
    match e with | some e => unresolve s e | none => s
  else offer s ctx f

/-- The location in scratch of a copy's address, for its issuer and context: a template may name another core (R159, R178). -/
def copyScratch (s : State) (ctx : Nat) (p : Party) (uid : Nat) (a : Word) (n : Nat) : Option ScratchLoc :=
  issuerLoc s p uid (fun c => (s.ctxt ctx).scmap.getLsbD (2 * c) || (s.ctxt ctx).scmap.getLsbD (2 * c + 1)) a n

/-- The location in scratch of an address of a press or quilt command: a core of its own only (R159). -/
def cmdScratch (s : State) (p : Party) (uid : Nat) (a : Word) (n : Nat) : Option ScratchLoc :=
  issuerLoc s p uid (fun c => match p with | .core m => c == m / 2 | _ => false) a n

/-- The bytes of a scratch location for a command; those of a panel that is gone are fresh free values. -/
def cmdBytes (s : State) (p : Party) (l : ScratchLoc) (n : Nat) : State × List Byte :=
  match l with
  | .gone _ => ({ s with fresh := s.fresh + n }, scratchBytes s p l n)
  | l => (s, scratchBytes s p l n)

/-- An event of a command counted for its issuer while the issuer's panel stands where it stood. -/
def countCmd (s : State) (p : Party) (uid ev n : Nat) : State :=
  if (partyPanel p).isSome ∧ partyUid s p ≠ uid then s else countFor s p ev n

/-- Bytes written by an engine to scratch: they land in the bank and their words are set full (R76, R99). -/
def landScratch (s : State) (p : Party) (l : ScratchLoc) (bs : List Byte) : State :=
  match l with
  | .core c off => landCore s c off bs true
  | .tile t off => match partyPanel p with
    | some x => s.modPanel x fun y => y.setTile t ((y.tile t).land off bs true)
    | none => s
  | .gone _ => s

/-! ## Templates (R178, R179) -/

/-- The template of a record (R178), where its fields keep the rules of R178. -/
def templateOf (bs : List Byte) : Option Template :=
  let w (i : Nat) : Word := imgWord bs i
  let length := ofBytes ((bs.drop 0x10).take 4)
  let flags := ofBytes ((bs.drop 0x14).take 1)
  let peer := ofBytes ((bs.drop 0x15).take 1)
  if flags ≤ 1 ∧ imgZero bs 0x16 2 ∧ imgZero bs 0x38 8 ∧ 1 ≤ length ∧ length ≤ 2 ^ 30 ∧ peer ≤ 12 ∧
      ¬(peer ≠ 0 ∧ isTagged (w 8)) ∧ aligned (w 0x28) 8 then
    some ⟨w 0, w 8, length, flags == 1, peer, w 0x18, w 0x20, w 0x28, w 0x30⟩
  else none

/-- The address, if it has tag 0b11, names a core with a thread assigned to the context (R178). -/
def coreTagOk (s : State) (ctx : Nat) (a : Word) : Bool :=
  !isCoreTag a || (s.ctxt ctx).scmap.getLsbD (2 * bitsOf a 32 4) || (s.ctxt ctx).scmap.getLsbD (2 * bitsOf a 32 4 + 1)

/-- Loads a copy template (R179). -/
def execBttpl (a b : Reg) (s : State) : Host.Outcome State Fault Refusal :=
  issue (.bttpl a b) s fun s =>
    let bad := trapOf .engine (wordVal (.bttpl a b))
    let s := stitchBefore s
    let p := s.focus
    let c := partyCtx s p
    if 255 < (s.g a).toNat then bad
    else if !aligned (s.g b) 64 then trapOf .align (s.g b)
    else .bindX (engReadN s (engReq c (partyPriv s p) .read 5) (s.g b) 64) fun (s, bs) =>
      match templateOf bs with
      | none => bad
      | some t =>
        if !(coreTagOk s c t.src && coreTagOk s c t.dst && coreTagOk s c t.cwaddr) then bad
        else if t.peer ≠ 0 ∧ partyPriv s p = .user then trapOf .priv (wordVal (.bttpl a b))
        else .ok (s.setCtxt c { s.ctxt c with templates := FMap.set (s.ctxt c).templates (s.g a).toNat t })

/-! ## Apertures (R180, R181) -/

/-- A channel of a context. -/
def chanOf (s : State) (c n : Nat) : Channel := FMap.getD (s.ctxt c).chans n ⟨[], false⟩

/-- The state with a channel replaced. -/
def setChan (s : State) (c n : Nat) (ch : Channel) : State :=
  s.setCtxt c { s.ctxt c with chans := FMap.set (s.ctxt c).chans n ch }

/-- The ranges overlap, compared as addresses of one kind (R180). -/
def rangesOverlap (peer : Nat) (a b : Word) (n : Nat) : Bool :=
  peer == 0 && isTagged a == isTagged b && decide (a.toNat < b.toNat + n) && decide (b.toNat < a.toNat + n)

/-- The 512-byte chunks of a scratch range (R113). -/
def chunksOf (off n : Nat) : List Nat := (List.range ((off + n + 511) / 512 - off / 512)).map fun i => off / 512 + i

/-- The pin bits of chunks of a scratch location cleared or set (R113). -/
def setPins (s : State) (p : Party) (l : ScratchLoc) (n : Nat) (v : Bool) : State :=
  let upd (off : Nat) (pins : List Nat) : List Nat :=
    let cs := chunksOf off n
    if v then (pins ++ cs).dedup else pins.filter fun k => !cs.contains k
  match l with
  | .core c off => s.setCore c { s.core? c with pins := upd off (s.core? c).pins }
  | .tile t off => match partyPanel p with
    | some x => s.modPanel x fun y => y.setTile t { y.tile t with pins := upd off (y.tile t).pins }
    | none => s
  | .gone _ => s

/-- A store to channel n of the context's aperture starts a copy, or traps (R180). -/
def apertureStore (s : State) (p : Party) (word : Word) (va : Word) (n : Nat) (data : Word) : Except Trap State :=
  let c := partyCtx s p
  let bad : Except Trap State := .error (mkTrap .engine word)
  if bitsOf data 8 8 ≠ 0 then bad
  else match FMap.get? (s.ctxt c).templates (bitsOf data 0 8) with
  | none => bad
  | some t =>
    let ch := chanOf s c n
    if 16 ≤ ch.queue.length then bad
    else
      let i : Word := BitVec.ofNat 64 (bitsOf data 16 48)
      let src := t.src + i * t.sstride
      let dst := t.dst + i * t.dstride
      let uid := partyUid s p
      let locOk (a : Word) (len : Nat) : Bool := !isTagged a || (copyScratch s c p uid a len).isSome
      if !(locOk src t.length && (t.peer != 0 || locOk dst t.length)) then .error (mkTrap .perm va)
      else if t.cw ∧ !locOk t.cwaddr 8 then .error (mkTrap .perm va)
      else if rangesOverlap t.peer src dst t.length then bad
      else
        let cmd : Copy := ⟨src, dst, t.length, t.peer, t.cw, t.cwaddr, t.cwval + i, p, uid, partyPriv s p, partyTask s p,
          [], [], [], false, false, false, 0⟩
        let s := setChan s c n { ch with queue := ch.queue ++ [cmd] }
        let s := countFor s p 60 1
        .ok (if t.peer = 0 ∧ isTagged dst then
          match copyScratch s c p uid dst t.length with
          | some l => setPins s p l t.length false
          | none => s
        else s)

/-- The status of a channel, whose fault bit is then clear (R181). -/
def copyStatus (s : State) (c n : Nat) : State × Word :=
  let ch := chanOf s c n
  (setChan s c n { ch with fault := false }, BitVec.ofNat 64 (ch.fault.toNat * 256 + ch.queue.length))

/-- The context whose aperture a device address lies in, with the offset (R180). -/
def apertureOf (pa : Nat) : Option (Nat × Nat) :=
  if 0x0F0010000000 ≤ pa ∧ pa < 0x0F0010000000 + 64 * 65536 then
    some ((pa - 0x0F0010000000) / 65536, (pa - 0x0F0010000000) % 65536)
  else none

/-- The context whose register page a device address lies in, with the offset (R340). -/
def pageOf (pa : Nat) : Option (Nat × Nat) :=
  if 0x0F0000000000 ≤ pa ∧ pa < 0x0F0000000000 + 64 * 65536 then
    some ((pa - 0x0F0000000000) / 65536, (pa - 0x0F0000000000) % 65536)
  else none

/-! ## The steps of a copy (R99, R112, R113, R182) -/

/-- The number of parts of a copy: 512-byte chunks of its destination. -/
def copyParts (c : Copy) : Nat := (c.dst.toNat % 512 + c.length + 511) / 512

/-- The first byte and the length of a part of a copy, relative to its start. -/
def partRange (c : Copy) (k : Nat) : Nat × Nat :=
  let o := c.dst.toNat % 512
  let lo := k * 512 - o
  let hi := min c.length ((k + 1) * 512 - o)
  (lo, hi - lo)

/-- The head command of a channel replaced. -/
def setHead (s : State) (c n : Nat) (cmd : Copy) : State :=
  let ch := chanOf s c n
  setChan s c n { ch with queue := match ch.queue with | _ :: q => cmd :: q | [] => [] }

/-- A fault met by a copy: a translation fault holds the access and is offered; any other ends the copy (R182, R355). -/
def copyFault (s : State) (c n : Nat) (cmd : Copy) (t : Trap) : State :=
  match t.xl with
  | some _ => offerEngine (setHead s c n { cmd with heldFault := true }) c cmd.task t 5 (issuerNo cmd.party) (some (.copy c n))
  | none =>
    let s := setHead s c n { cmd with failed := true }
    if t.cause = .ecc then offerEngine s c cmd.task t 5 (issuerNo cmd.party) none else s

/-- A copy at the head of its channel may take a step. -/
def copyActive (cmd : Copy) : Bool := !cmd.heldFault && !cmd.failed

/-- The engine read of a part of a copy (R99). -/
def copyRead (s : State) (c n k : Nat) : State :=
  match (chanOf s c n).queue with
  | [] => s
  | cmd :: _ =>
    if !copyActive cmd || decide (copyParts cmd ≤ k) || cmd.readParts.any (fun r => r.1 == k) || cmd.wroteParts.contains k then s
    else
      let (lo, len) := partRange cmd k
      let a := cmd.src + BitVec.ofNat 64 lo
      if isTagged a then
        match copyScratch s c cmd.party cmd.uid a len with
        | some l => match scratchEcc s cmd.party l len with
          | some t => copyFault s c n cmd t
          | none =>
            let (s, bs) := cmdBytes s cmd.party l len
            setHead s c n { cmd with readParts := cmd.readParts ++ [(k, bs)] }
        | none => setHead s c n { cmd with failed := true }
      else
        match engReadN s (engReq c cmd.priv .read 5) a len with
        | .ok (s, bs) => setHead s c n { cmd with readParts := cmd.readParts ++ [(k, bs)] }
        | .error t => copyFault s c n cmd t

/-- The completion word of a copy, where it is a virtual address, translates with W before the first byte is written
(R182). -/
def checkCw (s : State) (c : Nat) (cmd : Copy) : Except Trap State :=
  if cmd.cw ∧ !cmd.cwChecked ∧ !isTagged cmd.cwaddr then
    match engTarget s (engReq c cmd.priv .write 5) cmd.cwaddr with
    | .ok (s, _) => .ok s
    | .error t => .error t
  else .ok s

/-- The link's key is replaced after 2^32 flits of either direction under it (R348). (DEDUCED, log 102) -/
def Link.rekey (k : Link) : Link := if 2 ^ 32 ≤ k.flits then { k with flits := 0, key := k.key + 1 } else k

/-- A flit goes out over a link, or comes in, under the key in force for it (R348). -/
def Link.carry (k : Link) (out : List Flit) : Link := { k.rekey with flits := k.rekey.flits + 1, out := k.rekey.out ++ out }

/-- A flit sent over a link that is up. -/
def sendFlit (s : State) (l : Nat) (f : Flit) : State :=
  match FMap.get? s.links l with
  | some k => if k.up then { s with links := FMap.set s.links l (k.carry [f]) } else s
  | none => s

/-- Flits sent over a link, first first. -/
def sendFlits (s : State) (l : Nat) (fs : List Flit) : State := fs.foldl (fun s f => sendFlit s l f) s

/-- The flits of a part of a copy: 64 payload bytes each, the last one what is left (R344; DESIGN CHOICE, log 106). -/
def payloadFlits (c n addr : Nat) (bs : List Byte) : List Flit :=
  (List.range ((bs.length + 63) / 64)).map fun i => .payload c n (addr + 64 * i) ((bs.drop (64 * i)).take 64)

/-- The link of a peer number is up (R178, R344). -/
def linkUp (s : State) (peer : Nat) : Bool := ((FMap.get? s.links (peer - 1)).map (·.up)).getD false

/-- The engine write of a part of a copy: its bytes enter the home queues of their lines, land in scratch with their
words full and their chunk's pin bit set, or go to the peer (R99, R113, R178); a write to a bank reserved in the present row waits (R118). -/
def copyWrite (s : State) (c n k : Nat) : State :=
  match (chanOf s c n).queue with
  | [] => s
  | cmd :: _ =>
    match cmd.readParts.find? fun r => r.1 == k with
    | none => s
    | some (_, bs) =>
      if !copyActive cmd then s
      else
        match checkCw s c cmd with
        | .error t => copyFault s c n cmd t
        | .ok s =>
          let cmd := { cmd with cwChecked := true }
          let done := { cmd with
            readParts := cmd.readParts.filter fun r => r.1 != k
            wroteParts := k :: cmd.wroteParts }
          let a := cmd.dst + BitVec.ofNat 64 (partRange cmd k).1
          if cmd.peer ≠ 0 then
            if linkUp s cmd.peer then
              let flits := payloadFlits c n a.toNat bs
              countCmd (sendFlits (setHead s c n { done with unanswered := done.unanswered + flits.length }) (cmd.peer - 1) flits)
                cmd.party cmd.uid 61 bs.length
            else setHead s c n { cmd with failed := true }
          else if isTagged a then
            match copyScratch s c cmd.party cmd.uid a bs.length with
            | some l =>
              if bankReserved s cmd.party l bs.length then s
              else
              let s := setPins (landScratch s cmd.party l bs) cmd.party l bs.length true
              countCmd (countCmd (setHead s c n done) cmd.party cmd.uid 61 bs.length) cmd.party cmd.uid 62 1
            | none => setHead s c n { cmd with failed := true }
          else
            let rs := regionRanges s c 2 a.toNat (a.toNat + bs.length)
            match engWriteN s (engReq c cmd.priv .write 5) cmd.task (cmdWriter s cmd.party cmd.uid) a bs with
            | .ok s => countCmd (setHead s c n { done with ranges := done.ranges ++ rs }) cmd.party cmd.uid 61 bs.length
            | .error t => copyFault s c n cmd t

/-- The channel goes on with its next command. -/
def popChan (s : State) (c n : Nat) (fault : Bool) : State :=
  let ch := chanOf s c n
  setChan s c n { queue := ch.queue.drop 1, fault := ch.fault || fault }

/-- The end of a copy: after its last byte is applied, and every flit that it sent is answered, its completion value is written (R99, R112,
R344); a stopped copy sets its channel's fault bit and offers E.ENGINE with the channel number to its task (R182). -/
def copyComplete (s : State) (c n : Nat) : State :=
  match (chanOf s c n).queue with
  | [] => s
  | cmd :: _ =>
    if cmd.failed then
      if cmd.unanswered ≠ 0 then s
      else offerEngine (popChan s c n true) c cmd.task (mkTrap .engine (BitVec.ofNat 64 n)) 5 (issuerNo cmd.party) none
    else if cmd.heldFault ∨ cmd.wroteParts.length < copyParts cmd ∨ cmd.unanswered ≠ 0 ∨ waitsIn s cmd.ranges then s
    else
      if !cmd.cw then popChan s c n false
      else
        let v := toBytes 8 cmd.value.toNat
        if isTagged cmd.cwaddr then
          match copyScratch s c cmd.party cmd.uid cmd.cwaddr 8 with
          | some l =>
            if bankReserved s cmd.party l 8 then s
            else countCmd (popChan (landScratch s cmd.party l v) c n false) cmd.party cmd.uid 63 1
          | none => popChan s c n false
        else
          match engWriteN s (engReq c cmd.priv .write 5) cmd.task (cmdWriter s cmd.party cmd.uid) cmd.cwaddr v with
          | .ok s => countCmd (popChan s c n false) cmd.party cmd.uid 63 1
          | .error t => copyFault s c n cmd t

end Sys2Proof.Machine
end

