-- ==== Sys2Proof/Machine/Loads.lean ====
section
/-! DEFINITION. Loads and stores (R170), scratch forms (R171), full-empty forms (R172), cache maintenance (R173), with the
accesses to device registers that R170, R180 and R181 give. -/

namespace Sys2Proof.Machine

open Sys2Proof

/-! ## Device registers (R170, R180, R181) -/

/-- A load from device registers: the context's own page at supervisor, a channel's status; E.PERM else below machine
privilege. -/
def deviceLoad (s : State) (p : Party) (va : Word) (pa n : Nat) : Except Trap (State × Word) ⊕ Fault :=
  let c := partyCtx s p
  let perm : Except Trap (State × Word) ⊕ Fault := .inl (.error (mkTrap .perm va))
  match pageOf pa, apertureOf pa with
  | some (x, off), _ =>
    if partyPriv s p = .user ∨ n ≠ 8 ∨ (x ≠ c ∧ partyPriv s p ≠ .machine) then perm else .inl (.ok (s, pageRead s x off))
  | none, some (x, off) =>
    if x = c ∧ n = 8 ∧ off < 512 then .inl (.ok (copyStatus s c (off / 8))) else perm
  | none, none => if partyPriv s p = .machine then .inr (.deviceRegister pa) else perm

/-- A store to device registers: the context's own page at supervisor, an aperture store; E.PERM else below machine
privilege. -/
def deviceStore (s : State) (p : Party) (word va : Word) (pa n : Nat) (v : Word) : Except Trap State ⊕ Fault :=
  let c := partyCtx s p
  let perm : Except Trap State ⊕ Fault := .inl (.error (mkTrap .perm va))
  match pageOf pa, apertureOf pa with
  | some (x, off), _ =>
    if partyPriv s p = .user ∨ n ≠ 8 ∨ (x ≠ c ∧ partyPriv s p ≠ .machine) then perm
    else .inl (.ok (pageWrite s x off v false))
  | none, some (x, off) =>
    if x = c ∧ n = 8 ∧ off < 512 then .inl (apertureStore s p word va (off / 8) v) else perm
  | none, none => if partyPriv s p = .machine then .inr (.deviceRegister pa) else perm

/-- The result of a device access. -/
def Res.bindDev {α : Type} (r : Except Trap α ⊕ Fault) (f : α → Res) : Res :=
  match r with
  | .inl (.ok a) => f a
  | .inl (.error t) => .trap t
  | .inr e => .stop e

/-! ## Loads and stores (R170) -/

/-- The value of n loaded bytes, sign- or zero-extended (R170). -/
def extend (bs : List Byte) (signed : Bool) : Word :=
  let n := 8 * bs.length
  let v := ofBytes bs
  if signed && bitAt v (n - 1) then BitVec.ofNat 64 (v + (2 ^ 64 - 2 ^ n)) else BitVec.ofNat 64 v

/-- A load of n bytes at A into g[d] (R170). -/
def loadInto (s : State) (d : Reg) (A : Word) (n : Nat) (signed : Bool) : Res :=
  .bindX (accessTarget s s.focus .read A n) fun (s, tg) =>
    if paKind s tg.pa = .device then
      .bindDev (deviceLoad s s.focus A tg.pa n) fun (s, v) =>
        .ok (s.setG d (extend (toBytes n v.toNat) signed))
    else .bindX (readFor s s.focus tg n) fun (s, bs) => .ok (s.setG d (extend bs signed))

/-- g[d] := sext of the loaded bytes (R170). -/
def execLd (sz : Size) (d a : Reg) (off : BitVec 14) (s : State) : Host.Outcome State Fault Refusal :=
  issue (.ld sz d a off) s fun s => loadInto s d (memAddr s a off sz.bytes) sz.bytes true

/-- g[d] := zext of the loaded bytes (R170). -/
def execLdZ (sz : Size) (d a : Reg) (off : BitVec 14) (s : State) : Host.Outcome State Fault Refusal :=
  issue (.ldZ sz d a off) s fun s => loadInto s d (memAddr s a off sz.bytes) sz.bytes false

/-- A store of the low n bytes of v at A (R170): an aperture store stitches first (R160, R180). -/
def storeAt (s : State) (word : Word) (A : Word) (n : Nat) (v : Word) : Res :=
  .bindX (accessTarget s s.focus .write A n) fun (s, tg) =>
    if paKind s tg.pa = .device then
      .bindDev (deviceStore (if (apertureOf tg.pa).isSome then stitchBefore s else s) s.focus word A tg.pa n v) fun s => .ok s
    else .bindX (writeFor s s.focus tg (toBytes n v.toNat)) fun s => .ok s

/-- The address translates into a copy-engine aperture: the store is an aperture store, a commit-after form (R160). -/
def landsInAperture (s : State) (A : Word) : Bool :=
  match translate s (partyReq s s.focus .write) A with
  | .ok (_, tg) => (apertureOf tg.pa).isSome
  | .error _ => false

/-- Stores the low bytes of g[d] (R170). -/
def execSt (sz : Size) (d a : Reg) (off : BitVec 14) (s : State) : Host.Outcome State Fault Refusal :=
  let i := Instr.st sz d a off
  let A := memAddr s a off sz.bytes
  match issueCheck i s with
  | some t => .next (raise (noteIssue s) t)
  | none =>
    let f := if landsInAperture s A then .apertureStore d a off else i
    if stitchWaits f s then .next s else finishRes f s (storeAt s (wordVal i) A sz.bytes (s.g d))

/-- A `st.d` to a channel of the context's aperture (R180); elsewhere it is no aperture store, and E.PERM. -/
def execApertureStore (d a : Reg) (off : BitVec 14) (s : State) : Host.Outcome State Fault Refusal :=
  let i := Instr.st .d d a off
  let A := memAddr s a off 8
  match issueCheck i s with
  | some t => .next (raise (noteIssue s) t)
  | none =>
    if stitchWaits (.apertureStore d a off) s then .next s
    else finishRes (.apertureStore d a off) s
      (if landsInAperture s A then storeAt s (wordVal i) A 8 (s.g d) else trapOf .perm A)

/-- A `ld.d` from a channel's aperture offset (R181); elsewhere it is no status load, and E.PERM. -/
def execCopyStatusLoad (d a : Reg) (off : BitVec 14) (s : State) : Host.Outcome State Fault Refusal :=
  let i := Instr.ld .d d a off
  let A := memAddr s a off 8
  match issueCheck i s with
  | some t => .next (raise (noteIssue s) t)
  | none =>
    finishRes i s
      (.bindX (accessTarget s s.focus .read A 8) fun (s, tg) =>
        if (apertureOf tg.pa).isSome then
          .bindDev (deviceLoad s s.focus A tg.pa 8) fun (s, v) => .ok (s.setG d v)
        else trapOf .perm A)

/-! ## Scratch forms (R171, R172) -/

/-- A scratch load of n bytes into g[d] (R171); it waits while the bank is reserved (R118). -/
def scratchLoad (s : State) (d : Reg) (A : Word) (n : Nat) (signed : Bool) : Res :=
  .bindX (scratchAccess s s.focus A n) fun l =>
    if bankReserved s s.focus l n then .hold s
    else .readOk s l n (.ok (s.setG d (extend (readScratch s s.focus l n) signed)))

/-- g[d] := sext of the scratch bytes (R171). -/
def execLdS (sz : Size) (d a : Reg) (off : BitVec 14) (s : State) : Host.Outcome State Fault Refusal :=
  issue (.ldS sz d a off) s fun s => scratchLoad s d (memAddr s a off sz.bytes) sz.bytes true

/-- g[d] := zext of the scratch bytes (R171). -/
def execLdSZ (sz : Size) (d a : Reg) (off : BitVec 14) (s : State) : Host.Outcome State Fault Refusal :=
  issue (.ldSZ sz d a off) s fun s => scratchLoad s d (memAddr s a off sz.bytes) sz.bytes false

/-- Stores the low bytes of g[d] to scratch; the full-empty bit stays (R76, R171). -/
def execStS (sz : Size) (d a : Reg) (off : BitVec 14) (s : State) : Host.Outcome State Fault Refusal :=
  issue (.stS sz d a off) s fun s =>
    let A := memAddr s a off sz.bytes
    .bindX (scratchAccess s s.focus A sz.bytes) fun l =>
      .bindX (writeScratch s s.focus l (toBytes sz.bytes (s.g d).toNat) false) fun s => .ok s

/-- Stores g[d] to a scratch word and sets it full, in one step at publish (R111, R172). -/
def execStfill (d a : Reg) (off : BitVec 14) (s : State) : Host.Outcome State Fault Refusal :=
  issue (.stfill d a off) s fun s =>
    .bindX (scratchAccess s s.focus (memAddr s a off 8) 8) fun l =>
      .bindX (writeScratch s s.focus l (toBytes 8 (s.g d).toNat) true) fun s => .ok s

/-- A wait: its result where it is satisfied at its first test, E.WAITBOUND with timeout 0 otherwise, else the thread
waits (R30). -/
def waitOr (s : State) (r : Option Res) (timeout : Word) : Res :=
  match r with
  | some r => r
  | none => if timeout = 0#64 then trapOf .waitBound timeout else .wait s (some timeout.toNat) false

/-- The test of `ldsync`: the word, where it is full; the `.e` form empties it in the same step (R111, R172). No test is made in a row that
reserves the bank (R118). -/
def ldsyncPoll (s : State) (d a : Reg) (off : BitVec 14) (e : Bool) : Option Res :=
  match scratchAccess s s.focus (memAddr s a off 8) 8 with
  | .error t => some (.trap t)
  | .ok l =>
    if bankReserved s s.focus l 8 then some (.hold s)
    else if isFull s s.focus l then
      let v := extend (readScratch s s.focus l 8) false
      let s' := if e then emptyWord s s.focus l else s
      some (.readOk s l 8 (.ok (s'.setG d v)))
    else none

/-- Waits until the word is full and reads it (R172). -/
def execLdsync (d a : Reg) (off : BitVec 14) (s : State) : Host.Outcome State Fault Refusal :=
  issue (.ldsync d a off) s fun s => waitOr s (ldsyncPoll s d a off false) (s.g d)

/-- Waits until the word is full, reads it and empties it (R172). -/
def execLdsyncE (d a : Reg) (off : BitVec 14) (s : State) : Host.Outcome State Fault Refusal :=
  issue (.ldsyncE d a off) s fun s =>
    let v := stitchBefore s
    match ldsyncPoll v d a off true with
    | some (.hold _) => .hold s
    | r => waitOr v r (s.g d)

/-! ## Cache maintenance (R173) -/

/-- May fill the line; never faults and changes no value (R95, R173): nothing happens. -/
def execPrefetch (a : Reg) (off : BitVec 14) (s : State) : Host.Outcome State Fault Refusal :=
  issue (.prefetch a off) s fun s => .ok s

/-- A cache form on the line that holds A, translated with R (R173): `drain` its dirty bytes, `drop` its clean bytes. -/
def cacheOp (s : State) (A : Word) (drain drop : Bool) : Res :=
  .bindX (translate s (partyReq s s.focus .read) A) fun (s, tg) =>
    let sel := fun l => l == lineOf tg.pa
    let s := if drain then drainFor s s.focus sel else s
    .ok (if drop then dropCleanFor s s.focus sel else s)

/-- Drains the line's dirty bytes, which stay as clean bytes (R173). -/
def execClean (a : Reg) (off : BitVec 14) (s : State) : Host.Outcome State Fault Refusal :=
  issue (.clean a off) s fun s => cacheOp s (cacheAddr s a off) true false

/-- Drains the line and drops it (R173). -/
def execFlush (a : Reg) (off : BitVec 14) (s : State) : Host.Outcome State Fault Refusal :=
  issue (.flush a off) s fun s => cacheOp s (cacheAddr s a off) true true

/-- Drops the clean bytes of the line; dirty bytes stay (R173). -/
def execInval (a : Reg) (off : BitVec 14) (s : State) : Host.Outcome State Fault Refusal :=
  issue (.inval a off) s fun s => cacheOp s (cacheAddr s a off) false true

/-- Empties the instruction cache of the issuing sequencer or core (R173). (DEDUCED, log 105) -/
def execInvalI (s : State) : Host.Outcome State Fault Refusal :=
  issue .invalI s fun s => .ok { s with icache := s.icache.filter fun w => w.owner != icOwner s.focus }

end Sys2Proof.Machine
end

