-- ==== Sys2Proof/Machine/Sync.lean ====
section
/-! DEFINITION. Synchronisation: bind, unbind, acquire, release, fence (R104-R109, R174); barriers and time (R119-R121,
R177); merges (R117); `waitw` and `pinwait` (R183, R184). -/

namespace Sys2Proof.Machine

open Sys2Proof

/-! ## Bind (R104, R174) -/

/-- An object is acceptable to the running party: a virtual address, or panel scratch of its own panel (R174). -/
def objectOk (s : State) (a : Word) (n : Nat) : Bool :=
  !isTagged a || (!isCoreTag a && (partyTagged s s.focus a n).isSome)

/-- Adds (g[a], g[b], g[c]) to the bound-region table, or traps with the table unchanged (R104, R174). (DEDUCED, log 41) -/
def execBind (a b c : Reg) (s : State) : Host.Outcome State Fault Refusal :=
  issue (.bind a b c) s fun s =>
    let base := s.g a
    let len := s.g b
    let obj := s.g c
    if len = 0#64 ∨ 2 ^ 36 < len.toNat ∨ 2 ^ 64 < base.toNat + len.toNat then trapOf .perm base
    else if !aligned obj 8 then trapOf .align obj
    else if !objectOk s obj 8 then trapOf .perm obj
    else if 16 ≤ s.cur.bound.length then trapOf .perm base
    else .ok (s.setCur { s.cur with bound := s.cur.bound ++ [⟨base, len, obj⟩] })

/-- Removes every entry naming g[c] (R104). -/
def execUnbind (c : Reg) (s : State) : Host.Outcome State Fault Refusal :=
  issue (.unbind c) s fun s => .ok (s.setCur { s.cur with bound := s.cur.bound.filter fun e => e.object != s.g c })

/-! ## Acquire and release (R105, R106, R109, R174) -/

/-- Where the accessed bytes of an object lie. -/
inductive ObjLoc where
  | scratch (l : ScratchLoc)
  | mem (tg : Target)
  deriving DecidableEq, Repr

/-- The object of an `acq` or `rel` checked in the order of R174: a scratch object at `.tile` or `.panel`, or a memory object, aligned and then
translated. -/
def objectAt (s : State) (sc : Scope) (acc : Access) (a : Word) (n : Nat) : Except Trap (State × ObjLoc) :=
  if isTagged a then
    if isCoreTag a ∨ sc = .dev ∨ sc = .sys then .error (mkTrap .perm a)
    else match partyTagged s s.focus a n with
    | none => .error (mkTrap .perm a)
    | some l => if aligned a n then .ok (s, .scratch l) else .error (mkTrap .align a)
  else if aligned a n = false then .error (mkTrap .align a)
  else match accessTarget s s.focus acc a n with
  | .error t => .error t
  | .ok (s, tg) => if paKind s tg.pa = .device then .error (mkTrap .perm a) else .ok (s, .mem tg)

/-- The object lies in a bank reserved in the present row: the form waits (R118). -/
def objBarred (s : State) (loc : ObjLoc) (n : Nat) : Bool :=
  match loc with
  | .scratch l => bankReserved s s.focus l n
  | .mem _ => false

/-- Step 1 of an acquire (R105): clean cached bytes of lines that overlap a region bound to the object are dropped. -/
def acquireDrop (s : State) (obj : Word) : State :=
  let rs := boundLines s s.focus obj
  if rs.isEmpty then s else dropCleanFor s s.focus (lineIn rs)

/-- Acquires the object word and sets g[a] := zext of its accessed bytes, read from the bank or through the home queue
(R105, R174). -/
def execAcq (sc : Scope) (sz : Size) (a b : Reg) (s : State) : Host.Outcome State Fault Refusal :=
  issue (.acq sc sz a b) s fun s =>
    let obj := s.g b
    .bindX (objectAt s sc .read obj sz.bytes) fun (s, loc) =>
      if objBarred s loc sz.bytes then .hold s else
      let s := countFor (acquireDrop s obj) s.focus 39 1
      match loc with
      | .scratch l => .readOk s l sz.bytes (.ok (s.setG a (extend (scratchBytes s s.focus l sz.bytes) false)))
      | .mem tg => .bindX (homeRead s tg.dom tg.pa sz.bytes) fun (s, bs) => .ok (s.setG a (extend bs false))

/-- Step 2 of a release (R106, R107): at `.tile` on a scratch object publishing is enough; else the lines of the bound
regions drain and their updates are applied at their homes. (DEDUCED, log 82) -/
def releaseData (s : State) (sc : Scope) (scratch : Bool) (obj : Word) : State :=
  if sc = .tile ∧ scratch then s else releaseRanges s s.focus (boundLines s s.focus obj)

/-- Releases the regions bound to the object word, then writes the low bytes of g[a] to it (R106, R174). -/
def execRel (sc : Scope) (sz : Size) (a b : Reg) (s : State) : Host.Outcome State Fault Refusal :=
  issue (.rel sc sz a b) s fun s =>
    let obj := s.g b
    let bs := toBytes sz.bytes (s.g a).toNat
    .bindX (objectAt s sc .write obj sz.bytes) fun (s, loc) =>
      if objBarred s loc sz.bytes then .hold s else
      let s := countFor (stitchBefore s) s.focus 40 1
      match loc with
      | .scratch (.tile t off) =>
        let s := releaseData s sc true obj
        .ok (match partyPanel s.focus with
          | some x => s.modPanel x fun y => y.setTile t ((y.tile t).land off bs false)
          | none => s)
      | .scratch (.core c off) => .ok (landCore (releaseData s sc true obj) c off bs false)
      | .scratch (.gone _) => .ok s
      | .mem tg =>
        let s := releaseData s sc false obj
        match s.focus with
        | .core _ => .bindX (writeFor s s.focus tg bs) fun s => .ok s
        | p => .ok (touch (pushHome s tg.dom (partyTask s p) tg.pa bs (writerOf s p)) p tg.pa)

/-- A stitch; beyond `.tile` a release of every dirty or written line and the drop of every clean one (R108). -/
def execFence (sc : Scope) (s : State) : Host.Outcome State Fault Refusal :=
  issue (.fence sc) s fun s =>
    let s := match s.focus with | .seq p _ => stitchPanel s p | _ => s
    .ok (countFor (fenceFor s s.focus sc) s.focus 42 1)

/-! ## Barrier words (R119) -/

/-- The fields of a barrier word: phase, expect, arrived (R119). -/
def barFields (w : Word) : Nat × Nat × Nat := (bitsOf w 32 32, bitsOf w 16 16, bitsOf w 0 16)

/-- The barrier word after an arrival (R119). -/
def barArrive (w : Word) : Word :=
  let (ph, ex, ar) := barFields w
  if ar + 1 = ex then BitVec.ofNat 64 ((ph + 1) % 2 ^ 32 * 2 ^ 32 + ex * 2 ^ 16)
  else BitVec.ofNat 64 (ph * 2 ^ 32 + ex * 2 ^ 16 + (ar + 1) % 2 ^ 16)

/-- The barrier word's target: not scratch-tagged, 8-aligned, translated with W (R177). -/
def barTarget (s : State) (b : Reg) : Except Trap (State × Target) :=
  let A := s.g b
  if isTagged A then .error (mkTrap .perm A)
  else if !aligned A 8 then .error (mkTrap .align A)
  else match translate s (partyReq s s.focus .amo) A with
  | .error t => .error t
  | .ok (s, tg) => if paKind s tg.pa = .device ∨ hostFails s tg.pa then .error (mkTrap .perm A) else .ok (s, tg)

/-- The end of a `bar` wait: once the phase has moved on, an acquire at the word and register := p + 1 (R119). -/
def barPoll (s : State) (a b : Reg) : Option Res :=
  match barTarget s b with
  | .error t => some (.trap t)
  | .ok (s, tg) =>
    match homeRead s tg.dom tg.pa 8 with
    | .error t => some (.trap t)
    | .ok (s, bs) =>
      if (barFields (wordOf bs)).1 = (s.g a).toNat then none
      else
        let s := countFor (acquireDrop s (s.g b)) s.focus 39 1
        some (.ok (s.setG a (BitVec.ofNat 64 (((s.g a).toNat + 1) % 2 ^ 32))))

/-- The wait after an arrival that has applied (R30, R160): its result where it is satisfied at its first test, else the thread waits; a
timeout of 0 is E.WAITBOUND, and the shadow records the thread as waiting. -/
def arrivedOr (i : Instr) (s : State) (r : Option Res) (timeout : Word) : Res :=
  match r with
  | some (.trap t) => .trapAt (s.setCur { s.cur with wait := some ⟨i, s.cycle, some timeout.toNat, true⟩ }) t
  | some r => r
  | none =>
    if timeout = 0#64 then
      .trapAt (commitShadow i (s.setCur { s.cur with wait := some ⟨i, s.cycle, some 0, true⟩ })) (mkTrap .waitBound 0)
    else .wait s (some timeout.toNat) true

/-- The state after the release that an arrival at a barrier word performs first (R119). -/
def barRelease (s : State) (b : Reg) : State := countFor (releaseData (stitchBefore s) .dev false (s.g b)) s.focus 40 1

/-- The state after an arrival applied at the word's home (R119). -/
def barApply (s : State) (tg : Target) (w : Word) : State :=
  countFor (writeHomeNow s tg.dom (partyTask s s.focus) tg.pa (toBytes 8 (barArrive w).toNat) (writerOf s s.focus))
    s.focus 43 1

/-- Arrives at a barrier word and waits for its phase to end (R119, R177); an overrun traps after the release, which stands. -/
def execBar (sc : Scope) (a b c : Reg) (s : State) : Host.Outcome State Fault Refusal :=
  issue (.bar sc a b c) s fun s =>
    .bindX (barTarget s b) fun (s, tg) =>
      let s := barRelease s b
      match homeRead s tg.dom tg.pa 8 with
      | .error t => .trapAt s t
      | .ok (s, bs) =>
        let w := wordOf bs
        if (barFields w).2.1 = 0 ∨ (s.g a).toNat ≠ (barFields w).1 then .trapAt s (mkTrap .barOver (s.g b))
        else
          let s := barApply s tg w
          arrivedOr (.bar sc a b c) s (barPoll s a b) (s.g c)

/-! ## Merges (R117) -/

/-- The order of a merge: (address, issuer, strand, sequence) (R117). -/
def dentryLe (x y : DEntry) : Bool :=
  x.addr < y.addr || (x.addr == y.addr && (x.issuer < y.issuer || (x.issuer == y.issuer &&
    (x.strand < y.strand || (x.strand == y.strand && decide (x.seq ≤ y.seq))))))

/-- The unit that issued a logged entry, while its panel stands (R116, R197). -/
def entryUnit (s : State) (e : DEntry) : Option Writer :=
  if 4096 ≤ e.issuer then some (.core ((e.issuer - 4096) / 2))
  else (s.panel? (e.issuer / 128 * 16 + e.issuer % 128 / 4)).bind fun x => if x.entry = e.entry then some (.panel x.uid) else none

/-- A logged entry applied at its home with the arithmetic of its kind (R117, R176). -/
def applyEntry (s : State) (e : DEntry) : State :=
  let n := if e.wide then 8 else 4
  let (s, bs) := readHome s e.dom e.addr n
  writeHomeNow s e.dom (taskId s e.entry) e.addr (toBytes n (amoResult e.kind n (ofBytes bs) (e.operand.toNat % 2 ^ (8 * n)) 0)) (entryUnit s e)

/-- The logged entries of a task, in the order of a merge (R117). -/
def entriesOf (s : State) (entry : Nat) : List DEntry := ((s.dlog.flatMap (·.2)).filter fun d => d.entry == entry).mergeSort dentryLe

/-- The entries of a task merged in order, which then leave the logs (R117). -/
def merge (s : State) (entry : Nat) : State :=
  let s := (entriesOf s entry).foldl applyEntry s
  { s with dlog := mapVals (fun _ l => l.filter fun d => d.entry != entry) s.dlog }

/-! ## Time (R121, R177) -/

/-- g[a] := tick (R177). -/
def execTickget (a : Reg) (s : State) : Host.Outcome State Fault Refusal :=
  issue (.tickget a) s fun s => .ok (s.setG a s.tick)

/-- The end of a `tickwait`: once the clock has reached t, the lateness (R121). -/
def tickPoll (s : State) (a b : Reg) : Option Res :=
  let t := s.g b
  if t.toNat ≤ s.tick.toNat then
    let late := s.tick - t
    some (.ok ((countFor s s.focus 45 late.toNat).setG a late))
  else none

/-- Waits until the tick clock reaches g[b]; more than 2^40 ticks ahead is E.WAITBOUND at issue (R121). -/
def execTickwait (a b : Reg) (s : State) : Host.Outcome State Fault Refusal :=
  issue (.tickwait a b) s fun s =>
    let t := s.g b
    if s.tick.toNat + 2 ^ 40 < t.toNat then trapOf .waitBound t
    else match tickPoll s a b with
    | some r => r
    | none => .wait s none false

/-! ## Waits on words and pins (R183, R184) -/

/-- The acquire at `.dev` that a satisfied `waitw` performs (R112). -/
def waitwAcquire (s : State) (A : Word) : State := countFor (acquireDrop s A) s.focus 39 1

/-- The test of `waitw`: the 8 bytes at g[b] equal g[a]; then an acquire at `.dev` on the word (R112, R183; DEDUCED, log 47). No test is made in
a row that reserves the bank (R118). -/
def waitwPoll (s : State) (a b : Reg) : Option Res :=
  let A := s.g b
  if !aligned A 8 then some (trapOf .align A)
  else if isTagged A then
    match partyTagged s s.focus A 8 with
    | none => some (trapOf .perm A)
    | some l =>
      if bankReserved s s.focus l 8 then some (.hold s)
      else match scratchEcc s s.focus l 8 with
      | some t => some (.trap t)
      | none => if wordOf (readScratch s s.focus l 8) = s.g a then some (.ok (waitwAcquire s A)) else none
  else match translate s (partyReq s s.focus .read) A with
  | .error t => some (.trap t)
  | .ok (s, tg) =>
    if paKind s tg.pa = .device ∨ hostFails s tg.pa then some (trapOf .perm A)
    else match homeRead s tg.dom tg.pa 8 with
    | .error t => some (.trap t)
    | .ok (s, bs) =>
      if wordOf (overlayMem (ownLog s s.focus) tg.pa bs) = s.g a then some (.ok (waitwAcquire s A)) else none

/-- Waits until the 8 bytes at g[b] equal g[a] (R183). -/
def execWaitw (a b c : Reg) (s : State) : Host.Outcome State Fault Refusal :=
  issue (.waitw a b c) s fun s => waitOr s (waitwPoll s a b) (s.g c)

/-- The pin map of a scratch location. -/
def pinsOf (s : State) (p : Party) (l : ScratchLoc) : List Nat :=
  match l with
  | .core c _ => (s.core? c).pins
  | .tile t _ => (((partyPanel p).bind s.panel?).map fun x => (x.tile t).pins).getD []
  | .gone _ => []

/-- The offset of a scratch location. -/
def ScratchLoc.off : ScratchLoc → Nat
  | .tile _ o => o
  | .core _ o => o
  | .gone o => o

/-- The chunks that a mask names from a base: bit j names the chunk at base + 512j (R184). -/
def maskChunks (mask : Word) : List Nat := (List.range 64).filter fun j => mask.getLsbD j

/-- The size of the scratchpad of a location (R74, R75). -/
def locSize (s : State) (p : Party) (l : ScratchLoc) : Nat :=
  match l with
  | .core _ _ => coreScratchSize
  | _ => (((partyPanel p).bind s.panel?).map scratchSize).getD 0

/-- The test of `pinwait`: every chunk that g[a] names has its pin bit set (R184). -/
def pinPoll (s : State) (a b : Reg) : Option Res :=
  let A := s.g b
  if !aligned A 512 then some (trapOf .align A)
  else if !isTagged A then some (trapOf .perm A)
  else
    let cs := maskChunks (s.g a)
    match partyTagged s s.focus A 0 with
    | none => some (trapOf .perm A)
    | some l =>
      if !cs.all (fun j => decide (l.off + 512 * j + 512 ≤ locSize s s.focus l)) then some (trapOf .perm A)
      else if cs.all fun j => (pinsOf s s.focus l).contains (l.off / 512 + j) then some (.ok s)
      else none

/-- Waits until every chunk that g[a] names from g[b] has its pin bit set (R184). -/
def execPinwait (a b c : Reg) (s : State) : Host.Outcome State Fault Refusal :=
  issue (.pinwait a b c) s fun s => waitOr s (pinPoll s a b) (s.g c)

end Sys2Proof.Machine
end

