-- ==== Sys2Proof/Machine/Bobbin.lean ====
section
/-! DEFINITION. The bobbin forms (R187-R190). -/

namespace Sys2Proof.Machine

open Sys2Proof

/-- The select register names a dimension in bits 4:0 and the float form in bit 8; other bits raise E.ENGINE (R189). -/
def selectOk (c : Word) : Bool := c &&& 0xFFFFFFFFFFFFFEE0#64 == 0#64

/-- g[a] := the draw at index g[b] that g[c] selects (R187, R189). -/
def execBdraw (a b c : Reg) (s : State) : Host.Outcome State Fault Refusal :=
  issue (.bdraw a b c) s fun s =>
    let sel := s.g c
    if !selectOk sel then trapOf .engine (wordVal (.bdraw a b c))
    else
      let v := drawVal s.cur.spool (bitsOf sel 0 5) ((s.g b).setWidth 32) (sel.getLsbD 8)
      .ok ((countFor s s.focus 64 1).setG a (zext64 v))

/-- The 64 bytes of 16 draws at indices n to n + 15 (R189). -/
def drawBytes (sp : Spool) (j : Nat) (n : W32) (float : Bool) : List Byte :=
  laneIds.flatMap fun i => toBytes 4 (drawVal sp j (n + BitVec.ofNat 32 i) float).toNat

/-! ## The queue of a bobbin unit (R97, R110) -/

/-- The commands of a party's bobbin unit accepted and not complete, oldest first. -/
def bobbinQ (s : State) (p : Party) : List BobbinCmd := FMap.getD s.bobbin p []

/-- The queue of a party's bobbin unit replaced. -/
def setBobbin (s : State) (p : Party) (q : List BobbinCmd) : State :=
  { s with bobbin := if q.isEmpty then FMap.erase s.bobbin p else FMap.set s.bobbin p q }

/-- A command accepted. -/
def acceptBobbin (s : State) (c : BobbinCmd) : State := setBobbin s s.focus (bobbinQ s s.focus ++ [c])

/-- An engine write of the oldest command: the bytes of one line enter their home queue, or its bytes land in scratch with their words full
(R99); with its last one the command is complete. -/
def bobbinStep (s : State) (p : Party) : State :=
  match bobbinQ s p with
  | [] => s
  | c :: q =>
    match c.parts, c.scratch with
    | m :: ms, _ =>
      let s := pushHome s m.dom c.task m.pa m.bytes (cmdWriter s p c.uid)
      setBobbin s p (if ms.isEmpty && c.scratch.isNone then q else { c with parts := ms } :: q)
    | [], some (t, off, bs) =>
      let l : ScratchLoc := if (partyPanel p).isSome ∧ partyUid s p ≠ c.uid then .gone off
        else match t with | some t => .tile t off | none => .core (coreOf p) off
      if bankReserved s p l bs.length then s else setBobbin (landScratch s p l bs) p q
    | [], none => setBobbin s p q

/-- Steps of a party's bobbin unit, at most `n`. -/
def runBobbin (p : Party) : Nat → State → State
  | 0, s => s
  | n + 1, s => if (bobbinQ s p).isEmpty then s else runBobbin p n (bobbinStep s p)

/-- The party's earlier commands complete before a command that reads (R110): their writes enter the queues and apply. One whose bank is reserved
in the present row stays, with those behind it (R118). -/
def finishBobbin (s : State) : State :=
  let q := bobbinQ s s.focus
  let rs := q.flatMap fun c => c.parts.map fun m => (m.pa, m.pa + m.bytes.length)
  flushRanges (runBobbin s.focus ((q.map fun c => c.parts.length + 1).sum) s) rs

/-- The bytes of a command translated line by line for its writes (R189, R356). (DEDUCED, log 48) -/
def bobbinParts (q : XReq) : Nat → State → Word → List Byte → Except Trap (State × List MemPart)
  | 0, s, _, _ => .ok (s, [])
  | n + 1, s, va, bs =>
    if bs.isEmpty then .ok (s, [])
    else match engTarget s q va with
    | .error t => .error t
    | .ok (s, tg) =>
      let k := 256 - va.toNat % 256
      match bobbinParts q n s (va + BitVec.ofNat 64 k) (bs.drop k) with
      | .error t => .error t
      | .ok (s, ms) => .ok (s, ⟨tg.pa, bs.take k, tg.wt, tg.dom⟩ :: ms)

/-- A command that writes bytes to memory or to scratch is accepted, its checks made at issue (R189). -/
def queueWrite (s : State) (a : Word) (bs : List Byte) (f : State → Res) : Res :=
  let p := s.focus
  let cmd (parts : List MemPart) (l : Option (Option Nat × Nat × List Byte)) : BobbinCmd := 
    ⟨partyUid s p, partyTask s p, partyCtx s p, parts, l⟩
  if isTagged a then
    match partyTagged s p a bs.length with
    | some (.tile t off) => f (acceptBobbin s (cmd [] (some (some t, off, bs))))
    | some (.core _ off) => f (acceptBobbin s (cmd [] (some (none, off, bs))))
    | _ => trapOf .perm a
  else
    .bindX (bobbinParts { partyReq s p .write with unit := none } (bs.length / 256 + 2) s a bs) fun (s, ms) =>
      f (acceptBobbin s (cmd ms none))

/-! ## The forms -/

/-- Writes the 16 draws at g[a] + 4i, by the queue of the bobbin unit (R110, R189). -/
def execBdrawv (a b c : Reg) (s : State) : Host.Outcome State Fault Refusal :=
  issue (.bdrawv a b c) s fun s =>
    let s := stitchBefore s
    let sel := s.g c
    if !selectOk sel then trapOf .engine (wordVal (.bdrawv a b c))
    else if !aligned (s.g a) 64 then trapOf .align (s.g a)
    else
      queueWrite s (s.g a) (drawBytes s.cur.spool (bitsOf sel 0 5) ((s.g b).setWidth 32) (sel.getLsbD 8))
        fun s => .ok (countFor s s.focus 65 1)

/-- s_j := g[a][31:0], with j := g[b][4:0] (R189). -/
def execBseed (a b : Reg) (s : State) : Host.Outcome State Fault Refusal :=
  issue (.bseed a b) s fun s =>
    let sp := s.cur.spool
    .ok (s.setCur { s.cur with spool := { sp with seeds := sp.seeds.set (bitsOf (s.g b) 0 5) ((s.g a).setWidth 32) } })

/-- The spool := the image at g[a], read at its homes behind the party's earlier commands, for which it waits (R110, R118, R189). -/
def execBspool (a : Reg) (s : State) : Host.Outcome State Fault Refusal :=
  issue (.bspool a) s fun s0 =>
    let s := finishBobbin (stitchBefore s0)
    if !(bobbinQ s s.focus).isEmpty then .hold s0
    else if !aligned (s.g a) 256 then trapOf .align (s.g a)
    else .bindX (engReadN s { partyReq s s.focus .read with unit := none } (s.g a) 4352) fun (s, bs) =>
      match spoolOfImage bs with
      | none => trapOf .engine (wordVal (.bspool a))
      | some sp => .ok ((countFor s s.focus 66 1).setCur { s.cur with spool := sp })

/-- The image at g[a] := the spool, by the queue of the bobbin unit (R110, R189). -/
def execBspsave (a : Reg) (s : State) : Host.Outcome State Fault Refusal :=
  issue (.bspsave a) s fun s =>
    let s := stitchBefore s
    if !aligned (s.g a) 256 then trapOf .align (s.g a)
    else if isTagged (s.g a) then
      .bindX (translate s { partyReq s s.focus .write with unit := none } (s.g a)) fun (s, _) => .ok s
    else queueWrite s (s.g a) (spoolImage s.cur.spool) fun s => .ok (countFor s s.focus 67 1)

/-- mode := g[a]; a value above 1 raises E.ENGINE (R189). -/
def execBmode (a : Reg) (s : State) : Host.Outcome State Fault Refusal :=
  issue (.bmode a) s fun s =>
    if 1 < (s.g a).toNat then trapOf .engine (wordVal (.bmode a))
    else .ok (s.setCur { s.cur with spool := { s.cur.spool with mode := (s.g a).toNat } })

end Sys2Proof.Machine
end

