-- ==== Sys2Proof/Machine/Atomic.lean ====
section
/-! DEFINITION. Atomics (R89, R114, R116, R175, R176) and the garment barrier (R117, R120, R177). -/

namespace Sys2Proof.Machine

open Sys2Proof

/-- A merge with its events: ev36 the merge, ev37 its entries, counted for a party (R198). -/
def mergeFor (s : State) (p : Party) (entry : Nat) : State :=
  let n := (entriesOf s entry).length
  countFor (countFor (merge s entry) p 36 1) p 37 n

/-- The kind runs on host memory (R89). -/
def hostKind (kind : Nat) : Bool := kind == 0 || kind == 6 || kind == 7

/-- The dependence-table entry of a party's task; 8,192 where it has none. -/
def partyEntry (s : State) (p : Party) : Nat :=
  match partyPanel p with
  | some x => ((s.panel? x).map (·.entry)).getD 8192
  | none => if (s.thread p).task = 0 then 8192 else (s.thread p).task.toNat % 8192

/-- Lines dirty in the party's panel drained, as a sequencer's `amo` does before it enters the queue (R114). -/
def amoDrain (s : State) (p : Party) (line : Nat) : State :=
  match partyPanel p with
  | some x => drainPanel s x (· == line)
  | none => s

/-- An `amo` on a D page: appended unread, or refused (R116). -/
def amoLog (s : State) (i : Instr) (kind : Nat) (wide : Bool) (a : Reg) (v A : Word) (tg : Target) : Res :=
  if a ≠ 0#5 ∨ kind = 7 then trapOf .detRet A
  else
    let p := s.focus
    let h := sliceOf tg.pa
    let log := FMap.getD s.dlog h []
    if 4096 ≤ log.length then .set (raise (countFor s p 38 1) (mkTrap .engine (wordVal i)))
    else
      let s := stitchBefore s
      let t := s.cur
      let e : DEntry := ⟨tg.pa, issuerNo p, partyStrand p, t.dseq, kind, wide, v, partyEntry s p, tg.dom⟩
      let s := { s with dlog := FMap.set s.dlog h (log ++ [e]) }
      .ok (countFor (s.setCur { s.cur with dseq := t.dseq + 1 }) p 35 1)

/-- An `amo` at its home in one step (R114, R176): the old value in g[a]. -/
def amoApply (s : State) (kind n : Nat) (a : Reg) (v : Word) (tg : Target) : Res :=
  let p := s.focus
  let exp := (s.g a).toNat % 2 ^ (8 * n)
  let s := amoDrain (stitchBefore s) p (lineOf tg.pa)
  .bindX (homeRead s tg.dom tg.pa n) fun (s, bs) =>
    let old := ofBytes bs
    let s := writeHomeNow s tg.dom (partyTask s p) tg.pa (toBytes n (amoResult kind n old (v.toNat % 2 ^ (8 * n)) exp)) (writerOf s p)
    let s := dropCleanFor s p (· == lineOf tg.pa)
    .ok ((countFor s p 34 1).setG a (BitVec.ofNat 64 old))

/-- The target of an `amo` of n bytes, by the checks of R175 in their order. -/
def amoTarget (s : State) (kind n : Nat) (A : Word) : Except Trap (State × Target) :=
  if isTagged A then .error (mkTrap .perm A)
  else if !aligned A n then .error (mkTrap .align A)
  else
    match translate s (partyReq s s.focus .amo) A with
    | .error t => .error t
    | .ok (s, tg) =>
      if paKind s tg.pa = .device ∨ hostFails s tg.pa then .error (mkTrap .perm A)
      else if paKind s tg.pa = .host ∧ hostKind kind = false then .error (mkTrap .perm A)
      else .ok (s, tg)

/-- `amo.kind.sz a, b, c` (R175): the checks in their order, then the update at the home or the log entry. -/
def amoBody (i : Instr) (kind : Nat) (wide : Bool) (a b c : Reg) (s : State) : Host.Outcome State Fault Refusal :=
  issue i s fun s =>
    let n := if wide then 8 else 4
    let A := s.g b
    let v := s.g c
    .bindX (amoTarget s kind n A) fun (s, tg) =>
      if tg.det then amoLog s i kind wide a v A tg else amoApply s kind n a v tg

/-- g[a] := old; old + v is written (R175, R176). -/
def execAmoAdd (wide : Bool) (a b c : Reg) (s : State) : Host.Outcome State Fault Refusal :=
  amoBody (.amoAdd wide a b c) 0 wide a b c s

/-- g[a] := old; old and v is written (R175, R176). -/
def execAmoAnd (wide : Bool) (a b c : Reg) (s : State) : Host.Outcome State Fault Refusal :=
  amoBody (.amoAnd wide a b c) 1 wide a b c s

/-- g[a] := old; old or v is written (R175, R176). -/
def execAmoOr (wide : Bool) (a b c : Reg) (s : State) : Host.Outcome State Fault Refusal :=
  amoBody (.amoOr wide a b c) 2 wide a b c s

/-- g[a] := old; old xor v is written (R175, R176). -/
def execAmoXor (wide : Bool) (a b c : Reg) (s : State) : Host.Outcome State Fault Refusal :=
  amoBody (.amoXor wide a b c) 3 wide a b c s

/-- g[a] := old; the smaller under sval is written (R175, R176). -/
def execAmoMin (wide : Bool) (a b c : Reg) (s : State) : Host.Outcome State Fault Refusal :=
  amoBody (.amoMin wide a b c) 4 wide a b c s

/-- g[a] := old; the larger under sval is written (R175, R176). -/
def execAmoMax (wide : Bool) (a b c : Reg) (s : State) : Host.Outcome State Fault Refusal :=
  amoBody (.amoMax wide a b c) 5 wide a b c s

/-- g[a] := old; v is written (R175, R176). -/
def execAmoSwap (wide : Bool) (a b c : Reg) (s : State) : Host.Outcome State Fault Refusal :=
  amoBody (.amoSwap wide a b c) 6 wide a b c s

/-- g[a] := old; v is written where old equals the low bytes of g[a] (R175, R176). -/
def execAmoCas (wide : Bool) (a b c : Reg) (s : State) : Host.Outcome State Fault Refusal :=
  amoBody (.amoCas wide a b c) 7 wide a b c s

/-- g[a] := old; the FP32 sum under round_ne is written (R175, R176). -/
def execAmoFadd (a b c : Reg) (s : State) : Host.Outcome State Fault Refusal :=
  amoBody (.amoFadd a b c) 8 false a b c s

/-! ## The garment barrier (R120, R177) -/

/-- Every strand that a panel has, by the panel's number in pattern order, which stays where the garment is placed again. -/
def panelStrands (s : State) (p : Nat) : List (Nat × Nat) :=
  match s.panel? p with
  | some x => (List.range x.image.strands).map fun i => (x.index, i)
  | none => []

/-- The number in pattern order of a panel. -/
def panelIndex (s : State) (p : Nat) : Nat := ((s.panel? p).map (·.index)).getD 0

/-- Every strand of a garment. -/
def garmentStrands (s : State) (entry : Nat) : List (Nat × Nat) := (taskPanels s entry).flatMap (panelStrands s)

/-- The strand's arrival is still held: its barrier phase has not completed. -/
def gbarHeld (s : State) (p : Party) : Bool :=
  match p with
  | .seq x i =>
    match FMap.get? s.tasks (partyEntry s p) with
    | some e => e.gbarArrived.contains (panelIndex s x, i)
    | none => true
  | _ => true

/-- The last strand arrives: the merge of `gbar.m`, then every arrival is released (R117, R120). -/
def gbarComplete (s : State) (entry : Nat) : State :=
  match FMap.get? s.tasks entry with
  | none => s
  | some e =>
    if (garmentStrands s entry).all fun x => e.gbarArrived.contains x then
      let s := if e.gbarMerge then mergeFor s s.focus entry else s
      match FMap.get? s.tasks entry with
      | some e => { s with tasks := FMap.set s.tasks entry { e with gbarArrived := [], gbarMerge := false } }
      | none => s
    else s

/-- An arrival (R120): it acts as `fence.dev`, its pair is held, and the last one completes the barrier. -/
def gbarArrive (s : State) (m : Bool) : State :=
  let p := s.focus
  let entry := partyEntry s p
  let s := match p with | .seq x _ => publishPanel s x | _ => s
  let s := countFor (fenceFor s p .dev) p 42 1
  match p, FMap.get? s.tasks entry with
  | .seq x i, some e =>
    gbarComplete { s with tasks := FMap.set s.tasks entry { e with
      gbarArrived := ((panelIndex s x, i) :: e.gbarArrived).dedup, gbarMerge := e.gbarMerge || m } } entry
  | _, _ => s

/-- The end of a `gbar` wait: every strand has arrived, and the strand performs the acquire step of R108 (R120). -/
def gbarPoll (s : State) : Option Res :=
  if gbarHeld s s.focus then none else some (.ok (dropCleanFor s s.focus fun _ => true))

/-- An arrival at the garment barrier and the wait for every other strand (R120, R177). -/
def gbarBody (i : Instr) (m : Bool) (c : Reg) (s : State) : Res :=
  match s.focus with
  | .seq _ _ =>
    let t := s.g c
    let s := gbarArrive s m
    arrivedOr i s (gbarPoll s) t
  | _ => trapOf .perm 0

/-- Waits until every strand of the garment has arrived (R120, R177). -/
def execGbar (c : Reg) (s : State) : Host.Outcome State Fault Refusal :=
  issue (.gbar c) s fun s => gbarBody (.gbar c) false c s

/-- Waits until every strand of the garment has arrived, its determinism-log entries merged (R117, R120, R177). -/
def execGbarM (c : Reg) (s : State) : Host.Outcome State Fault Refusal :=
  issue (.gbarM c) s fun s => gbarBody (.gbarM c) true c s

end Sys2Proof.Machine
end

