-- ==== Sys2Proof/Machine/Vx.lean ====
section
/-! DEFINITION. What the VX operations compute (R235-R242): on the v and k registers of a tile, and on the z and k
registers of a service-core thread (R211). -/

namespace Sys2Proof.Machine

open Sys2Proof

/-- The element type of a form (R235). -/
def VF.ty (f : VF) : Ty := (tyOf f.aux).getD .f32

/-- The low 32 bits of an integer. -/
def low32 (i : Int) : W32 := BitVec.ofInt 32 i

/-- max of lanes (R65, R66). -/
def laneMax (ty : Ty) (a b : W32) : W32 :=
  match ty with
  | .f32 => f32max a b
  | .s32 => if a.toInt < b.toInt then b else a
  | .u32 => if a.toNat < b.toNat then b else a

/-- min of lanes (R65, R66). -/
def laneMin (ty : Ty) (a b : W32) : W32 :=
  match ty with
  | .f32 => f32min a b
  | .s32 => if b.toInt < a.toInt then b else a
  | .u32 => if b.toNat < a.toNat then b else a

/-- a + b of lanes (R64, R66). -/
def laneAdd (ty : Ty) (rc : Nat) (a b : W32) : W32 := if ty = .f32 then f32add rc a b else a + b

/-- a - b of lanes (R64, R66). -/
def laneSub (ty : Ty) (rc : Nat) (a b : W32) : W32 := if ty = .f32 then f32sub rc a b else a - b

/-- a × b of lanes (R64, R66). -/
def laneMul (ty : Ty) (rc : Nat) (a b : W32) : W32 := if ty = .f32 then f32mul rc a b else a * b

/-- a × b + c of lanes (R64, R236). -/
def laneFma (ty : Ty) (rc : Nat) (a b c : W32) : W32 := if ty = .f32 then f32fma rc a b c else a * b + c

/-- a << b[7:0] (R66). -/
def laneShl (a b : W32) : W32 := a <<< (b.toNat % 256)

/-- a >> b[7:0]: logical on u32, copies of the sign bit on s32 (R66). -/
def laneShr (ty : Ty) (a b : W32) : W32 :=
  if ty = .s32 then a.sshiftRight (b.toNat % 256) else a >>> (b.toNat % 256)

/-- The comparison of `vcmp` (R65, R66, R238): cc 0 eq, 1 ne, 2 lt, 3 le, 4 gt, 5 ge. -/
def laneCmp (ty : Ty) (cc : Nat) (a b : W32) : Bool :=
  if ty == .f32 && (isNan32 a || isNan32 b) then cc == 1
  else
    let key (w : W32) : Int := match ty with
      | .f32 => cmpKey32 w
      | .s32 => w.toInt
      | .u32 => (w.toNat : Int)
    let x := key a
    let y := key b
    match cc with
    | 0 => decide (x = y)
    | 1 => decide (x ≠ y)
    | 2 => decide (x < y)
    | 3 => decide (x ≤ y)
    | 4 => decide (y < x)
    | _ => decide (y ≤ x)

/-- The operation of a scan or reduction (R239): 0 add, 1 max, 2 min, 3 and, 4 or, 5 xor. -/
def redOp (op : Nat) (ty : Ty) (a b : W32) : W32 :=
  match op with
  | 0 => laneAdd ty 0 a b
  | 1 => laneMax ty a b
  | 2 => laneMin ty a b
  | 3 => a &&& b
  | 4 => a ||| b
  | _ => a ^^^ b

/-- The identity of an operation (R72). -/
def redIdentity (op : Nat) (ty : Ty) : W32 :=
  match op, ty with
  | 0, .f32 => 0x80000000#32
  | 1, .f32 => 0xFF800000#32
  | 1, .s32 => 0x80000000#32
  | 2, .f32 => 0x7F800000#32
  | 2, .s32 => 0x7FFFFFFF#32
  | 2, .u32 => 0xFFFFFFFF#32
  | 3, _ => 0xFFFFFFFF#32
  | _, _ => 0#32

/-- The lanes of a vector, those outside a mask as the identity (R72). -/
def redLanes (op : Nat) (ty : Ty) (m : BitVec 16) (a : Lanes) : List W32 :=
  laneIds.map fun i => if m.getLsbD i then lane a i else redIdentity op ty

/-- The width and the part count of `vpack` and `vunpack` by wc (R242). -/
def packWidth (wc : Nat) : Nat :=
  match wc with
  | 0 => 4
  | 1 => 8
  | 2 => 16
  | _ => 6

/-- `vpack`: the fields of a part replaced, every other bit kept (R242). -/
def packInto (w p : Nat) (a old : Lanes) : Lanes :=
  let field := laneIds.foldl (fun n i => n + (lane a i).toNat % 2 ^ w * 2 ^ (16 * w * p + w * i)) 0
  let mask : Lanes := BitVec.ofNat 512 ((2 ^ (16 * w) - 1) * 2 ^ (16 * w * p))
  (old &&& ~~~mask) ||| BitVec.ofNat 512 field

/-- `vunpack`: lane i from the part's field i (R242). -/
def unpackFrom (w p : Nat) (a : Lanes) : Lanes :=
  ofLanes fun i => BitVec.ofNat 32 (a.extractLsb' (16 * w * p + w * i) w).toNat

/-- The number of set bits of a mask. -/
def maskCount (m : BitVec 16) : Nat := (laneIds.filter fun i => m.getLsbD i).length

/-- Bit `n` of a lane number. -/
def laneBit (i n : Nat) : Bool := i / 2 ^ n % 2 == 1

/-- One word of the sorting network (R240). -/
def minmaxLane (kk jj : Nat) (a : Lanes) (i : Nat) : W32 :=
  let lo := if laneBit i jj then i - 2 ^ jj else i
  let x := lane a lo
  let y := lane a (lo + 2 ^ jj)
  let big := laneMax .u32 x y
  let small := laneMin .u32 x y
  if laneBit lo kk == laneBit i jj then big else small

/-- `vcvt` on one lane (R241): c the source code, aux the destination code. -/
def cvtLane (f : VF) (x b : W32) : W32 :=
  let src := f.c.toNat
  let sb := b.toNat % 256
  let code := x.toNat % 2 ^ fmtBits src
  BitVec.ofNat 32 (convert f.aux.toNat f.rnd.toNat (f.k.getLsbD 0) sb (elemVal src sb code))

/-- The register file that a VX operation runs on: v of a tile or z of a thread, with its k registers. -/
structure VFile where
  v : Vector Lanes 32
  k : Vector (BitVec 16) 8
  deriving DecidableEq, Repr

/-- Lane-by-lane values written under the mask (R235). -/
def VFile.masked (r : VFile) (f : VF) (g : Nat → W32) : VFile :=
  { r with v := putV r.v f.d (maskLanes (getK r.k f.k) (ofLanes g) (getV r.v f.d)) }

/-- A value written to every lane. -/
def VFile.whole (r : VFile) (f : VF) (x : Lanes) : VFile := { r with v := putV r.v f.d x }

/-- Lane i of an operand. -/
def VFile.at (r : VFile) (x : Reg) (i : Nat) : W32 := lane (getV r.v x) i

/-- A two-operand form (R236). -/
def VFile.bin (r : VFile) (f : VF) (g : W32 → W32 → W32) : VFile :=
  r.masked f fun i => g (r.at f.a i) (r.at f.b i)

/-- A one-operand form (R236). -/
def VFile.un (r : VFile) (f : VF) (g : W32 → W32) : VFile := r.masked f fun i => g (r.at f.a i)

/-- The bits of a `vcmp` result (R238). -/
def cmpBits (r : VFile) (f : VF) : BitVec 16 :=
  let cc := f.aux.toNat / 4
  let m := getK r.k f.k
  BitVec.ofNat 16 (laneIds.foldl (fun n i =>
    n + if m.getLsbD i && laneCmp (VF.ty f) cc (r.at f.a i) (r.at f.b i) then 2 ^ i else 0) 0)

/-- The VX operation of an opcode of R141 on a register file (R236-R242); 0x18 is `vmov d, a`. -/
def vxCompute (op : Nat) (f : VF) (r : VFile) : VFile :=
  let ty := VF.ty f
  let rc := f.rnd.toNat
  match op with
  | 0x00 => r.bin f (laneAdd ty rc)
  | 0x01 => r.bin f (laneSub ty rc)
  | 0x02 => r.bin f (laneMul ty rc)
  | 0x03 => r.masked f fun i => laneFma ty rc (r.at f.a i) (r.at f.b i) (r.at f.c i)
  | 0x04 => r.bin f (laneMax ty)
  | 0x05 => r.bin f (laneMin ty)
  | 0x06 => r.un f vexp2Lane
  | 0x07 => r.un f vlog2Lane
  | 0x08 => r.un f vrcpLane
  | 0x09 => r.un f vrsqLane
  | 0x0A => r.whole f (ofLanes fun i => cvtLane f (r.at f.a i) (r.at f.b i))
  | 0x0B => { r with k := putK r.k (f.d.extractLsb' 0 3) (cmpBits r f) }
  | 0x0C => r.whole f (ofLanes fun i => if (getK r.k f.k).getLsbD i then r.at f.a i else r.at f.b i)
  | 0x0D => r.bin f (· &&& ·)
  | 0x0E => r.bin f (· ||| ·)
  | 0x0F => r.bin f (· ^^^ ·)
  | 0x10 => r.bin f laneShl
  | 0x11 => r.bin f (laneShr ty)
  | 0x12 => r.masked f fun i => r.at f.a ((r.at f.b i).toNat % 16)
  | 0x13 =>
    let op := f.aux.toNat / 4
    let l := vscanTree (redOp op ty) (redLanes op ty (getK r.k f.k) (getV r.v f.a))
    r.masked f fun i => l.getD i 0#32
  | 0x14 =>
    let op := f.aux.toNat / 4
    let x := vredTree (redOp op ty) (redLanes op ty (getK r.k f.k) (getV r.v f.a))
    r.whole f (ofLanes fun _ => x)
  | 0x15 => r.masked f fun _ => r.at f.a (f.aux.toNat % 16)
  | 0x16 => r.whole f (packInto (packWidth (f.aux.toNat % 4)) (f.aux.toNat / 4) (getV r.v f.a) (getV r.v f.d))
  | 0x17 => r.whole f (unpackFrom (packWidth (f.aux.toNat % 4)) (f.aux.toNat / 4) (getV r.v f.a))
  | 0x18 => r.un f id
  | 0x19 => r.masked f fun i => BitVec.ofNat 32 i
  | 0x1A => r.whole f (ofLanes fun _ => BitVec.ofNat 32 (maskCount (getK r.k f.k)))
  | 0x1B => r.whole f (ofLanes (minmaxLane (f.aux.toNat / 4) (f.aux.toNat % 4) (getV r.v f.a)))
  | _ => r

end Sys2Proof.Machine
end

