-- ==== Sys2Proof/Machine/Streams.lean ====
section
/-! DEFINITION. Fabric faults (R262, R320) and streams (R218-R223): beats in with their fetch, beats out into the log,
path streams, scale lanes (R82, R84). -/

namespace Sys2Proof.Machine

open Sys2Proof

/-! ## Fabric faults -/

/-- A fault of a phase word (R262): the tile, the element by its code of R316, the stream for a stream fault, the
cause with its values, whether it is the panel's own (a tack count overflow, R319), and for a poisoned entry the number
of entries its strand had taken before it (R251). -/
structure WFault where
  tile : Nat
  elem : Nat
  stream : Option Nat
  trap : Trap
  ofPanel : Bool
  takes : Option Nat
  deriving DecidableEq, Repr

/-- What a word does: the state after it, or its fault. -/
abbrev WRes := Except WFault State

/-- A fault of a word of a tile. -/
def wfault (t elem : Nat) (c : Cause) (v : Word) : WFault := ⟨t, elem, none, mkTrap c v, false, none⟩

/-- The strand that owns a row of the wheel (R15, R16). -/
def rowOwner (x : Panel) (row : Nat) : Option Nat := strandIds.find? fun i => bitAt (x.image.rows.getD i 0).toNat row

/-- The strand that owns the present row; words of an unowned row are given strand 0. -/
def rowStrand (x : Panel) : Nat := (rowOwner x x.row).getD 0

/-- The strand whose word a fault is of, where it has one: that of a gather whose read faults, else that of the row (R319). -/
def faultOwner (x : Panel) (f : WFault) : Option Nat :=
  match badGatherOf x f.tile f.elem f.trap.cause with
  | some g => some g.strand
  | none => rowOwner x x.row

/-- `c.xlinfo` of a fabric fault with its location filled in (R94). -/
def fabricXl (x : Panel) (f : WFault) : Option (Word × Word) :=
  f.trap.xl.map fun (va, info) =>
    (va, info ||| BitVec.ofNat 64 (tileIndex x f.tile % 4096 * 2 ^ 32 + x.row % 32 * 2 ^ 27 +
      f.stream.getD 0 % 16 * 2 ^ 23 + rowStrand x % 4 * 2 ^ 21))

/-- A fabric fault as it is offered: source 2 for a word, 3 for a stream (R315), its object the strand whose word it is of,
else the panel (R319). -/
def fabricRec (s : State) (p : Nat) (x : Panel) (f : WFault) : FaultRec where
  cause := f.trap.cause
  val := f.trap.val
  xl := fabricXl x f
  source := if f.stream.isSome then 3 else 2
  task := taskId s x.entry
  fwhere := fwhereOf (tileIndex x f.tile) f.elem x.row (f.stream.getD 0) ((faultOwner x f).getD 0) x.index (issuerNo (.tile p f.tile))
  fpc := 0
  party := some (.tile p f.tile)
  obj := match (if f.ofPanel then none else faultOwner x f) with
    | some i => .strand p i
    | none => .panel p
  engine := none
  poisoned := f.takes.isSome

/-- The consumption of a poisoned entry removes it (R29, R251). -/
def dropPoison (x : Panel) (f : WFault) : Panel :=
  match f.takes with
  | none => x
  | some n =>
    let i := rowStrand x
    let st := x.strand i
    x.setStrand i { st with queue := st.queue.eraseIdx (n - st.taken), taken := st.taken + 1 }

/-- The panel clamps for a fabric fault, which is offered (R224, R320, R321); `src`: its source where no word raised it (R315). -/
def fabricFaultFrom (s : State) (p : Nat) (f : WFault) (src : Option Nat) : State :=
  match s.panel? p with
  | none => s
  | some x =>
    let x := dropPoison x f
    let r := fabricRec s p x f
    let r := { r with source := src.getD r.source }
    let cause := if f.trap.xl.isSome then ClampCause.translation else .fabricFault
    let x := if f.trap.cause = .logFull then x.count 38 1 else x
    let s := s.setPanel p { x.count 95 1 with faulted := [r], holds := x.holds ++ [⟨cause, f.tile, .mx, s.cycle, 0⟩] }
    offer s x.ctx r

/-- The panel clamps for the fault of a word. -/
def fabricFault (s : State) (p : Nat) (f : WFault) : State := fabricFaultFrom s p f none

/-- The order in which faults of one row are recorded: tile, then element, then stream (R94, R320). -/
def WFault.before (f g : WFault) : Bool :=
  decide (f.tile < g.tile) || (f.tile == g.tile && (decide (f.elem < g.elem) ||
    (f.elem == g.elem && decide (f.stream.getD 0 ≤ g.stream.getD 0))))

/-- The fault recorded of several of one row. -/
def firstFault : List WFault → Option WFault
  | [] => none
  | f :: fs => match firstFault fs with
    | none => some f
    | some g => if f.before g then some f else some g

/-! ## Elements, beats and tiles of a stream (R219, R220) -/

/-- The distribution of a stream (R219). -/
def StreamSpec.dist (sp : StreamSpec) : Nat := sp.port.toNat / 64

/-- The target tile of a stream in block k of a panel (R219). -/
def streamTile (x : Panel) (sp : StreamSpec) (k : Nat) : Nat :=
  let code := sp.port.toNat / 8 % 8
  denseTile x (4 * (k % x.image.width) + code % 4) (2 * (k / x.image.width) + code / 4)

/-- The blocks that take part, by their order (by, bx) (R219); a path stream runs in the lead block. -/
def streamBlocks (x : Panel) (sp : StreamSpec) : List Nat :=
  if sp.dist = 1 ∨ sp.dist = 2 then List.range (x.image.width * x.image.height) else [0]

/-- The target tiles. -/
def streamTiles (x : Panel) (sp : StreamSpec) : List Nat := (streamBlocks x sp).map (streamTile x sp)

/-- The block that a tile lies in. -/
def blockOf (x : Panel) (t : Nat) : Nat :=
  let w := 4 * x.image.width
  t / w / 2 * x.image.width + t % w / 4

/-- The elements of a stream. -/
def StreamSpec.total (sp : StreamSpec) : Nat := sp.counts.foldl (· * ·) 1

/-- The elements that one target tile takes. -/
def tileElems (x : Panel) (sp : StreamSpec) : Nat :=
  if sp.dist = 2 then sp.total / (x.image.width * x.image.height) else sp.total

/-- The first element that a target tile takes. -/
def tileFirst (x : Panel) (sp : StreamSpec) (t : Nat) : Nat :=
  if sp.dist = 2 then blockOf x t * tileElems x sp else 0

/-- Elements to a beat (R220). -/
def StreamSpec.perBeat (sp : StreamSpec) : Nat := 64 / max 1 sp.esize

/-- The beats that one target tile takes. -/
def tileBeats (x : Panel) (sp : StreamSpec) : Nat := (tileElems x sp + sp.perBeat - 1) / sp.perBeat

/-- Σ i_d × stride_d for element k, dimension 0 innermost (R220). -/
def elemOffset : Nat → List Nat → List Int → Int
  | k, c :: cs, st :: ss => ((k % max 1 c : Nat) : Int) * st + elemOffset (k / max 1 c) cs ss
  | _, _, _ => 0

/-- The address of element k. -/
def elemAddr (sl : StreamSlot) (k : Nat) : Word := sl.base + BitVec.ofInt 64 (elemOffset k sl.spec.counts sl.spec.strides)

/-- The elements of beat n of a target tile. -/
def beatElems (x : Panel) (sp : StreamSpec) (t n : Nat) : List Nat :=
  let k0 := n * sp.perBeat
  (List.range (min sp.perBeat (tileElems x sp - k0))).map fun i => tileFirst x sp t + k0 + i

/-- A stream slot of a strand. -/
def Panel.slot? (x : Panel) (i q : Nat) : Option StreamSlot := FMap.get? (x.strand i).streams q

/-- The panel with a stream slot of a strand replaced. -/
def Panel.setSlot (x : Panel) (i q : Nat) (sl : StreamSlot) : Panel :=
  x.setStrand i { x.strand i with streams := FMap.set (x.strand i).streams q sl }

/-- A stream's queue in a tile. -/
def Tile.queue (t : Tile) (i q : Nat) : List Beat := FMap.getD t.queues (queueKey i q) []

/-- The tile with a stream's queue replaced. -/
def Tile.setQueue (t : Tile) (i q : Nat) (l : List Beat) : Tile := { t with queues := FMap.set t.queues (queueKey i q) l }

/-- Every beat of a stream is consumed or filled in every target tile. -/
def slotDone (x : Panel) (sl : StreamSlot) : Bool :=
  (streamTiles x sl.spec).all fun t => decide (tileBeats x sl.spec ≤ FMap.getD sl.moved t 0)

/-- One more beat consumed or filled in a tile; the stream ends with its last beat (R221). -/
def moveBeat (x : Panel) (i q t : Nat) (sl : StreamSlot) : Panel :=
  let sl := { sl with moved := FMap.set sl.moved t (FMap.getD sl.moved t 0 + 1) }
  x.setSlot i q (if slotDone x sl then { sl with state := .ended } else sl)

/-! ## Translation and reads of a tile (R79, R93, R100) -/

/-- How a stream access of a block translates: at the TLB of the AG tile of its block (R93, R94). -/
def streamReq (x : Panel) (k : Nat) (acc : Access) : XReq where
  unit := some (16 * (x.byy + k / x.image.width) + x.bx + k % x.image.width)
  ctx := x.ctx
  priv := .user
  acc := acc
  src := 0
  tile := 0
  row := 0
  stream := 0
  strand := 0

/-- The strand's byte of a memory address in a tile: its log, the pool, the cached line (R100). -/
def tileByte (t : Tile) (i pa : Nat) : Option Byte :=
  match latest (t.log i) fun e => e.memByte pa with
  | some b => some b
  | none => match FMap.get? t.pool pa with
    | some b => some b.1
    | none => FMap.get? t.lines pa

/-- A strand's fetch of sectors that its tile lacks: a WB line of a tile with L1 fills from the home copy, any other read goes through the home
queue (R100). -/
def tileFetch (s : State) (x : Panel) (tg : Target) (base len : Nat) : Except Trap (State × List Byte) :=
  let s := l2Fill s (some (.panel x.uid)) tg.dom base len
  if tg.wt ∨ x.image.l1 = 0 ∨ paKind s tg.pa = .host then homeRead s tg.dom base len
  else
    match homeLast s tg.dom base len with
    | .error e => .error e
    | .ok bs => .ok (s, bs)

/-- A strand's read of n bytes in a tile (R100): bytes that no cache holds come from the home, and the answered sectors
enter the tile's L1, where it has one and the line is no host line. -/
def tileRead (s : State) (p t i : Nat) (tg : Target) (n : Nat) : Except Trap (State × List Byte) :=
  match s.panel? p with
  | none => .ok (s, List.replicate n 0)
  | some x =>
    let tl := x.tile t
    let held := (List.range n).map fun j => tileByte tl i (tg.pa + j)
    if held.all Option.isSome then .ok (s, held.map fun b => b.getD 0)
    else
      let base := tg.pa / 32 * 32
      let len := (tg.pa + n + 31) / 32 * 32 - base
      match tileFetch s x tg base len with
      | .error e => .error e
      | .ok (s, bs) =>
        let home := (bs.drop (tg.pa - base)).take n
        let out := (held.zip home).map fun c => c.1.getD c.2
        if x.image.l1 = 0 ∨ paKind s tg.pa = .host then .ok (s, out)
        else
          let fresh := (cellsAt base bs).filter fun c => (FMap.get? tl.pool c.1).isNone
          .ok (s.modPanel p fun x => x.setTile t { x.tile t with lines := fillCells (x.tile t).lines fresh }, out)

/-! ## The sideband (R82-R84) -/

/-- The bits of a block of a block-scaled format, in bytes: 16 in the 4-bit class, 32 in the 8-bit class (R48, R84). -/
def blockBytes (fmt : Nat) : Nat := if fmtBits fmt = 4 then 16 else 32

/-- The format is tagged: a block-scaled code (R48, R220). -/
def isTaggedFmt (fmt : Nat) : Bool := isBlockScaled fmt

/-- The E.ECC of a block whose line took poisoned scale bytes into its sideband (R327). -/
def sideTrap (s : State) (pa : Nat) : Option Trap :=
  match FMap.get? s.sides (lineOf pa) with
  | some sb => if sb.bad then (frtFind s pa).map fun e => eccTrap (scaleAddr e (lineOf pa * 256)) else none
  | none => none

/-- The sideband byte of the block of a line that holds an address; a line with no sideband of its own holds zeros (R82). -/
def sideByte (s : State) (bb pa : Nat) : Nat :=
  match FMap.get? s.sides (lineOf pa) with
  | some sb => (sb.bytes.getD (pa % 256 / bb) 0).toNat
  | none => 0

/-- The scale lane of a beat read by a panel from physical element addresses, with their domains: block b of the beat takes the sideband byte of
the line block that holds its first element, a line that is not resident filling whole (R82, R220, R311). A block of which the beat holds no
element takes that of the last element's block (R220 gives it none: DESIGN CHOICE, log 139). -/
def scaleLane (s : State) (uid : Nat) (sp : StreamSpec) (pas : List (Nat × Nat)) : Except Trap (State × W32) :=
  if isTaggedFmt sp.fmt then
    let bb := blockBytes sp.fmt
    let firsts := (List.range (64 / bb)).map fun b => pas.getD (b * bb / max 1 sp.esize) (pas.getLastD (0, 0))
    let s := firsts.foldl (fun s c => fillLine (some (.panel uid)) c.2 s (lineOf c.1)) s
    match firsts.findSome? fun c => sideTrap s c.1 with
    | some e => .error e
    | none => .ok (s, BitVec.ofNat 32 (ofBytes (firsts.map fun c => BitVec.ofNat 8 (sideByte s bb c.1))))
  else .ok (s, 0)

/-! ## Beats in (R101, R220, R221, R223) -/

/-- A stream's access to device registers, or to a host page whose completions fail, raises E.PERM (R170, R340; DEDUCED, log 118). -/
def streamDenied (s : State) (acc : Access) (pa : Nat) : Bool := paKind s pa == .device || accessFails s acc pa

/-- An element of a stream translated. -/
def elemTarget (s : State) (x : Panel) (blk : Nat) (acc : Access) (sl : StreamSlot) (k : Nat) : Except Trap (State × Target) :=
  match translate s (streamReq x blk acc) (elemAddr sl k) with
  | .error e => .error e
  | .ok (s, tg) => if streamDenied s acc tg.pa then .error (mkTrap .perm (elemAddr sl k)) else .ok (s, tg)

/-- The elements of a beat read one by one: their bytes and physical addresses with their seal domains, or the trap of the first that faults. -/
def readElems (s : State) (p t i blk : Nat) (sl : StreamSlot) : List Nat → Except Trap (State × List Byte × List (Nat × Nat))
  | [] => .ok (s, [], [])
  | k :: ks =>
    match s.panel? p with
    | none => .ok (s, [], [])
    | some x =>
      match elemTarget s x blk .read sl k with
      | .error e => .error e
      | .ok (s, tg) =>
        match tileRead s p t i tg sl.spec.esize with
        | .error e => .error e
        | .ok (s, bs) =>
          match readElems s p t i blk sl ks with
          | .error e => .error e
          | .ok (s, bs', pas) => .ok (s, bs ++ bs', (tg.pa, tg.dom) :: pas)

/-- The bytes of a beat. -/
def beatOf (bs : List Byte) (scale : W32) : Beat := ⟨BitVec.ofNat 512 (ofBytes (bs.take 64)), scale, false⟩

/-- The next beat of a stream can be read for a target tile: it runs, is an in-stream of no path, has room and more
beats, and no fault is held for it. -/
def canFetch (x : Panel) (i q t : Nat) (sl : StreamSlot) : Bool :=
  sl.state == .running && !sl.spec.dirOut && sl.spec.dist != 3 && (streamTiles x sl.spec).contains t &&
    decide ((x.tile t |>.queue i q).length < 8) && decide (FMap.getD sl.fetched t 0 < tileBeats x sl.spec) &&
    (FMap.get? sl.fault t).isNone

/-- The AG tile of the tile's block can deliver a beat: it has delivered none in this fabric cycle (R223). -/
def agFree (x : Panel) (now t : Nat) : Bool := FMap.get? x.agLast (blockOf x t) != some now

/-- A panel's AG tile has delivered a beat in a block of a tile (R223). -/
def noteBeat (x : Panel) (now t : Nat) : Panel := { x with agLast := FMap.set x.agLast (blockOf x t) now }

/-- The elements of the next beat of a stream for a tile that are still to be read, and those read so far. -/
def partOf (sl : StreamSlot) (t : Nat) : Nat × List Byte × List (Nat × Nat) := FMap.getD sl.parts t (0, [], [])

/-- The elements of the next beat of a stream for a tile that are still to be read. -/
def elemsLeft (x : Panel) (sl : StreamSlot) (t : Nat) : List Nat :=
  (beatElems x sl.spec t (FMap.getD sl.fetched t 0)).drop (partOf sl t).1

/-- The first elements of a list that lie in one aligned 8-byte part of memory: they are read together (R101). -/
def onePart (sl : StreamSlot) : List Nat → List Nat
  | [] => []
  | k :: ks => k :: ks.takeWhile fun j => (elemAddr sl j).toNat / 8 == (elemAddr sl k).toNat / 8

/-- Elements of the next beat of a stream are read for a tile, or the fault of the beat is held for the row that consumes it (R95). -/
def readPart (s : State) (p t i q : Nat) (sl : StreamSlot) (blk : Nat) (ks : List Nat) : State :=
  match readElems s p t i blk sl ks with
  | .error e => s.modPanel p fun x => x.setSlot i q { sl with fault := FMap.set sl.fault t e }
  | .ok (s, bs, pas) =>
    let old := partOf sl t
    s.modPanel p fun x => x.setSlot i q
      { sl with parts := FMap.set sl.parts t (old.1 + ks.length, old.2.1 ++ bs, old.2.2 ++ pas) }

/-- The next 8-byte part of the next beat of a stream is read for a target tile (R101, R220). -/
def fetchPart (s : State) (p t i q : Nat) : State :=
  match s.panel? p with
  | none => s
  | some x =>
    match x.slot? i q with
    | none => s
    | some sl => if canFetch x i q t sl then readPart s p t i q sl (blockOf x t) (onePart sl (elemsLeft x sl t)) else s

/-- A beat whose elements are all read enters a target tile's queue with its scale lane, or its fault is held (R82, R220, R223). -/
def deliverBeat (s : State) (p t i q : Nat) : State :=
  match s.panel? p with
  | none => s
  | some x =>
    match x.slot? i q with
    | none => s
    | some sl =>
      if canFetch x i q t sl ∧ elemsLeft x sl t = [] then
        match scaleLane s x.uid sl.spec (partOf sl t).2.2 with
        | .error e => s.modPanel p fun x => x.setSlot i q { sl with fault := FMap.set sl.fault t e }
        | .ok (s, lane) =>
          s.modPanel p fun x =>
            let x := x.setTile t ((x.tile t).setQueue i q ((x.tile t).queue i q ++ [beatOf (partOf sl t).2.1 lane]))
            noteBeat (x.setSlot i q { sl with
                fetched := FMap.set sl.fetched t (FMap.getD sl.fetched t 0 + 1), parts := FMap.erase sl.parts t }) s.cycle t
      else s

/-- A beat arrives in a target tile's queue: what is left of it is read, and it is delivered, at most one in a fabric cycle by the AG tile
(R220, R223). -/
def fetchBeat (s : State) (p t i q : Nat) : State :=
  match s.panel? p with
  | none => s
  | some x =>
    match x.slot? i q with
    | none => s
    | some sl =>
      if canFetch x i q t sl ∧ agFree x s.cycle t then
        deliverBeat (if elemsLeft x sl t = [] then s else readPart s p t i q sl (blockOf x t) (elemsLeft x sl t)) p t i q
      else s

/-- The state of a route that names a source st (R221). -/
inductive Head where
  | beat (b : Beat)
  | late
  | fault (t : Trap)
  | against
  deriving DecidableEq, Repr

/-- What source st presents in a tile for a strand's stream (R221). A running stream is ended, so that a bubble comes in, in a tile that is no
target of it and in one that has consumed all its own beats (R221 does not name these: DESIGN CHOICE, log 140). -/
def streamHead (x : Panel) (i q t : Nat) : Head :=
  match x.slot? i q with
  | none => .beat Beat.bubbleBeat
  | some sl =>
    if sl.spec.dirOut then .against
    else
      match (x.tile t).queue i q with
      | b :: _ => .beat b
      | [] =>
        if sl.state = .running ∧ (streamTiles x sl.spec).contains t ∧ FMap.getD sl.moved t 0 < tileBeats x sl.spec then
          match FMap.get? sl.fault t with
          | some e => .fault e
          | none => .late
        else .beat Beat.bubbleBeat

/-- Source st pops its head (R221). -/
def popStream (x : Panel) (i q t : Nat) : Panel :=
  match x.slot? i q, (x.tile t).queue i q with
  | some sl, _ :: l => (moveBeat (x.setTile t ((x.tile t).setQueue i q l)) i q t sl).count 16 1
  | _, _ => x

/-! ## Beats out (R220, R221) -/

/-- The elements of a beat translated for writing: (physical address, policy, domain) each. -/
def writeTargets (s : State) (x : Panel) (blk : Nat) (sl : StreamSlot) : List Nat → Except Trap (State × List Target)
  | [] => .ok (s, [])
  | k :: ks =>
    match elemTarget s x blk .write sl k with
    | .error e => .error e
    | .ok (s, tg) =>
      match writeTargets s x blk sl ks with
      | .error e => .error e
      | .ok (s, tgs) => .ok (s, tg :: tgs)

/-- Runs of bytes for elements at their targets, joined where they continue one another. -/
def joinParts : List MemPart → List MemPart
  | a :: b :: l =>
    match joinParts (b :: l) with
    | c :: l' => if a.pa + a.bytes.length = c.pa ∧ a.wt = c.wt ∧ a.dom = c.dom
        then ⟨a.pa, a.bytes ++ c.bytes, a.wt, a.dom⟩ :: l' else a :: c :: l'
    | [] => [a]
  | l => l

/-- The sideband bytes of an outgoing tagged beat, by the targets of its blocks' first elements (R82). -/
def sideEntries (s : State) (sp : StreamSpec) (tgs : List Target) (scale : W32) : List LogEntry :=
  if isTaggedFmt sp.fmt then
    let bb := blockBytes sp.fmt
    (List.range (64 / bb)).filterMap fun b =>
      (tgs[b * bb / max 1 sp.esize]?).bind fun tg =>
        if (frtFind s tg.pa).isSome then
          some (.side (tg.pa / 256 * 256 + tg.pa % 256 / bb * 16) (scale.extractLsb' (8 * b) 8) tg.dom)
        else none
  else []

/-- The log of a strand in a tile has room for n more bytes (R260). -/
def logRoom (x : Panel) (t i n : Nat) : Option Trap :=
  let tot := logSize ((x.tile t).log i) + n
  if x.image.logmax.getD i 0 < tot then some (mkTrap .logFull (BitVec.ofNat 64 tot)) else none

/-- The number of an outgoing path stream's path among those of its image, in the order of the table (R33; DESIGN CHOICE, log 121). -/
def pathNumber (img : Image) (entry : Nat) : Nat :=
  ((img.specs.take entry).filter fun sp => sp.dirOut && sp.dist == 3).length

/-- A beat of a path stream is ready for its frame slot (R33, R219). -/
def sendPath (x : Panel) (i q : Nat) (sl : StreamSlot) (b : Beat) : Panel :=
  let st := x.strand i
  let n := FMap.getD st.pathSent q 0
  x.setStrand i { st with
    sending := st.sending ++ [⟨q, sl.path, sl.base.toNat % 8, n, b⟩], pathSent := FMap.set st.pathSent q (n + 1) }

/-- The receiving strand of a path stream: the peer's running incoming path stream of the same number that names the
sender (R219). -/
def pathPeer (s : State) (x : Panel) (q peer : Nat) : Option (Nat × Panel × Nat × StreamSlot) :=
  let ps := taskPanels s x.entry
  (ps[peer]?).bind fun pp => (s.panel? pp).bind fun y =>
    (strandIds.findSome? fun j => (y.slot? j q).bind fun r =>
      if r.state = .running ∧ r.spec.dirOut = false ∧ r.spec.dist = 3 ∧ r.base.toNat % 8 = x.index then some (j, r) else none).map
      fun c => (pp, y, c.1, c.2)

/-- What becomes of a path beat in its frame slot. -/
inductive PathEnd where
  | lost
  | again
  | waits
  | taken (s : State)
  deriving DecidableEq, Repr

/-- A beat of a path stream reaches its receiver (R219): lost where no stream pairs with it or beyond the receiver's elements, ignored where
it has arrived before, waiting while the queue of 8 is full or the AG tile has delivered its beat of the cycle (R223). (DESIGN CHOICE, log 51) -/
def receivePath (s : State) (x : Panel) (b : PathBeat) : PathEnd :=
  match pathPeer s x b.stream b.peer with
  | none => .lost
  | some (pp, y, j, r) =>
    let t := streamTile y r.spec 0
    if b.serial < FMap.getD (y.strand j).pathGot b.stream 0 then .again
    else if tileBeats y r.spec ≤ FMap.getD r.fetched t 0 then .lost
    else if 8 ≤ ((y.tile t).queue j b.stream).length ∨ agFree y s.cycle t = false then .waits
    else
      let y := noteBeat (y.setTile t ((y.tile t).setQueue j b.stream ((y.tile t).queue j b.stream ++ [b.beat]))) s.cycle t
      let y := y.setSlot j b.stream { r with fetched := FMap.set r.fetched t (FMap.getD r.fetched t 0 + 1), past := r.past ++ [b.beat] }
      .taken (s.setPanel pp (y.setStrand j { y.strand j with pathGot := FMap.set (y.strand j).pathGot b.stream (b.serial + 1) }))

/-- The strand of a panel with a beat that waits for a path's slot. -/
def pathSender (x : Panel) (path : Nat) : Option (Nat × PathBeat) :=
  strandIds.findSome? fun i => ((x.strand i).sending.find? fun b => b.path == path).map fun b => (i, b)

/-- A beat leaves its strand. -/
def sentBeat (s : State) (p i : Nat) (b : PathBeat) : State :=
  s.modPanel p fun x => x.setStrand i { x.strand i with sending := (x.strand i).sending.erase b }

/-- The transfer of a frame slot (R33): the oldest beat of its path moves; of the two slots of a half-rate panel's transfer the second
completes it. A discarded beat counts in ev19 at the panel that sent it (R219 names no panel: DESIGN CHOICE, log 51). -/
def moveFrame (s : State) (f : FrameSlot) : State :=
  match ((taskPanels s f.entry)[f.panel]?).bind fun p => (s.panel? p).map fun x => (p, x) with
  | none => s
  | some (p, x) =>
    match pathSender x f.path with
    | none => s
    | some (i, b) =>
      match receivePath s x b with
      | .lost => (sentBeat s p i b).modPanel p fun x => x.count 19 1
      | .again => sentBeat s p i b
      | .waits => s
      | .taken s => sentBeat s p i b

/-- The transfers of the present fabric cycle, each in its own slot of the frame of 256 cycles (R33). -/
def moveFrames (s : State) : State :=
  (s.frames.filter fun f => f.slot == s.cycle % 256 && !f.half).foldl moveFrame s

/-- A route that names output st fills the next beat position of its stream (R220, R221, R260); in a tile that is no target of the stream, or has
filled all its own beats, the stream is not running and the route raises E.ENGINE (DESIGN CHOICE, log 140). -/
def fillStream (s : State) (p t i q : Nat) (b : Beat) : WRes :=
  match s.panel? p with
  | none => .ok s
  | some x =>
    let bad : WRes := .error ⟨t, 3, some q, mkTrap .engine 0, false, none⟩
    match x.slot? i q with
    | none => bad
    | some sl =>
      if sl.spec.dirOut = false ∨ sl.state ≠ .running ∨ (streamTiles x sl.spec).contains t = false ∨
          tileBeats x sl.spec ≤ FMap.getD sl.moved t 0 then bad
      else if b.bubble then .ok s
      else if sl.spec.dist = 3 then
        .ok (s.setPanel p ((moveBeat (sendPath x i q sl b) i q t sl).count 17 1))
      else
        let ks := beatElems x sl.spec t (FMap.getD sl.moved t 0)
        match writeTargets s x (blockOf x t) sl ks with
        | .error e => .error ⟨t, 3, some q, e, false, none⟩
        | .ok (s, tgs) =>
          let es := sl.spec.esize
          let parts := joinParts (((List.range tgs.length).zip tgs).map fun c =>
            ⟨c.2.pa, toBytes es (b.data.extractLsb' (8 * es * c.1) (8 * es)).toNat, c.2.wt, c.2.dom⟩)
          let sides := sideEntries s sl.spec tgs b.scale
          match logRoom x t i (wordsTouched parts) with
          | some e => .error ⟨t, 3, none, e, false, none⟩
          | none =>
            .ok (s.modPanel p fun x =>
              let tl := sides.foldl (fun tl e => Tile.addLog tl i e) ((x.tile t).addLog i (.memory parts))
              (moveBeat (x.setTile t tl) i q t sl).count 17 1)

end Sys2Proof.Machine
end

