-- ==== Sys2Proof/Machine/Words.lean ====
section
/-! DEFINITION. What the phase words do on a tile: MX (R228-R234), VX (R235-R242), LS (R243-R247), XB (R215, R225-R227)
and TK (R248-R252). A word that its predicate nullifies changes nothing (R17, R140). -/

namespace Sys2Proof.Machine

open Sys2Proof

/-- A change of one tile of a panel. -/
def onTile (s : State) (p t : Nat) (f : Panel → Tile → Tile) : State :=
  s.modPanel p fun x => x.setTile t (f x (x.tile t))

/-- An event of a panel counted. -/
def countPanel (s : State) (p ev n : Nat) : State := s.modPanel p fun x => x.count ev n

/-- The elements with latches: MX 0, VX 1, LS 2. -/
def latchIn (t : Tile) (e : Fin 5) : Beat := t.inp[e]

/-- An element's output latch written in this live cycle (R214). -/
def Tile.produce (t : Tile) (e : Fin 5) (b : Beat) : Tile := { t with outNext := t.outNext.set e b }

/-! ## MX (R228-R234) -/

/-- A row of an accumulator. -/
def Tile.accRow (t : Tile) (a : BitVec 3) (r : BitVec 4) : Lanes := (t.acc[a.toNat]'(a.isLt))[r.toNat]'(r.isLt)

/-- A row of an accumulator replaced. -/
def Tile.setAccRow (t : Tile) (a : BitVec 3) (r : BitVec 4) (v : Lanes) : Tile :=
  { t with acc := t.acc.set a.toNat ((t.acc[a.toNat]'(a.isLt)).set r.toNat v r.isLt) a.isLt }

/-- Some interval into the accumulator has been issued and is not complete (R228). -/
def Tile.busy (t : Tile) (a : BitVec 3) : Bool := t.pipe.any fun v => v.acc == a

/-- The addition of a completing interval (R62, R63, R230); a bubble interval adds nothing. -/
def addInterval (t : Tile) (v : Interval) : Tile :=
  match v.out with
  | none => t
  | some out => t.setAccRow v.acc v.row (ofLanes fun i => f32add 0 (lane (t.accRow v.acc v.row) i) (out.getD i 0#32))

/-- An interval issued with a feed (R230): it completes at the end of the 16th pipeline step after its live cycle. -/
def issueInterval (x : Panel) (t : Nat) (tl : Tile) (a : BitVec 3) (r : BitVec 4) (feed : Beat) : Panel :=
  let out := if feed.bubble then none
    else some (mxRow tl.fa.toNat tl.fb.toNat feed.data feed.scale tl.weights tl.wscale)
  (x.setTile t { tl with pipe := tl.pipe ++ [⟨a, r, out, 17⟩] }).count (if feed.bubble then 11 else 10) 1

/-- `mx.nop`. -/
def runMxNop (s : State) (_p _t : Nat) : WRes := .ok s

/-- `mx.ld n`: the input beat becomes column n of the weight set; a bubble changes nothing (R231). -/
def runMxLd (n : BitVec 4) (s : State) (p t : Nat) : WRes :=
  .ok (countPanel (onTile s p t fun _ tl =>
    let b := latchIn tl 0
    if b.bubble then tl
    else { tl with weights := tl.weights.set n.toNat b.data n.isLt, wscale := tl.wscale.set n.toNat b.scale n.isLt }) p 13 1)

/-- `mx.mm`: an interval whose feed is the input latch (R230). -/
def runMxMm (a : BitVec 3) (r : BitVec 4) (s : State) (p t : Nat) : WRes :=
  .ok (s.modPanel p fun x => issueInterval x t (x.tile t) a r (latchIn (x.tile t) 0))

/-- `mx.mmg`: an interval whose feed is operand-latch entry j (R230). -/
def runMxMmg (a : BitVec 3) (r j : BitVec 4) (s : State) (p t : Nat) : WRes :=
  .ok (s.modPanel p fun x => issueInterval x t (x.tile t) a r ((x.tile t).oplatch[j.toNat]'(j.isLt)))

/-- `mx.acz`: every row of the accumulators of the mask is +0 (R234). -/
def runMxAcz (mask : BitVec 8) (s : State) (p t : Nat) : WRes :=
  .ok (onTile s p t fun _ tl => { tl with
    acc := Vector.ofFn fun i : Fin 8 => if mask.getLsbD i.val then Vector.replicate 16 0 else tl.acc[i] })

/-- The beat of an accumulator row, with busy in bit 0 of its scale lane (R233). -/
def accBeat (tl : Tile) (a : BitVec 3) (r : BitVec 4) : Beat := ⟨tl.accRow a r, if tl.busy a then 1#32 else 0#32, false⟩

/-- `mx.acrd`: the row becomes the output latch's beat (R233); the drain of w = 1 is a clamp before it. -/
def runMxAcrd (a : BitVec 3) (r : BitVec 4) (s : State) (p t : Nat) : WRes :=
  .ok (onTile s p t fun _ tl => tl.produce 0 (accBeat tl a r))

/-- `mx.scl`: data byte 4n + b becomes the scale of block b of column n (R231). -/
def runMxScl (s : State) (p t : Nat) : WRes :=
  .ok (countPanel (onTile s p t fun _ tl =>
    let b := latchIn tl 0
    if b.bubble then tl else { tl with wscale := Vector.ofFn fun i : Fin 16 => lane b.data i.val }) p 13 1)

/-- `mx.fmt`: the formats of later intervals (R231). -/
def runMxFmt (fa fb : BitVec 5) (s : State) (p t : Nat) : WRes := .ok (onTile s p t fun _ tl => { tl with fa := fa, fb := fb })

/-- A write of scratch bytes enters the strand's log in the tile, or E.LOGFULL (R99, R260). (DEDUCED, log 44) -/
def logScratch (s : State) (p t elem : Nat) (ws : List (Nat × List Byte)) : WRes :=
  match s.panel? p with
  | none => .ok s
  | some x =>
    let i := rowStrand x
    match logRoom x t i ((ws.map fun w => logSpan w.1 w.2.length).sum) with
    | some e => .error ⟨t, elem, none, e, false, none⟩
    | none => .ok (onTile s p t fun _ tl => ws.foldl (fun tl w => tl.addLog i (.scratch t w.1 w.2 false)) tl)

/-- The 64 bytes of a register or beat. -/
def lanesBytes (v : Lanes) : List Byte := toBytes 64 v.toNat

/-- The register of 64 bytes. -/
def bytesLanes (bs : List Byte) : Lanes := BitVec.ofNat 512 (ofBytes (bs.take 64))

/-- A word that reads a row of the scratchpad, or E.ECC with the scratch address of a word with an uncorrectable error
(R314, R326). -/
def rowRead (s : State) (p t elem off : Nat) (r : WRes) : WRes :=
  match s.panel? p with
  | none => r
  | some x => match badIn (x.tile t).bad off 64 with
    | some w => .error (wfault t elem .ecc (tileAddr x t (8 * w)))
    | none => r

/-- `mx.acsv`: the row enters the strand's log at offset 64i (R233). -/
def runMxAcsv (a : BitVec 3) (r : BitVec 4) (i : BitVec 12) (s : State) (p t : Nat) : WRes :=
  match s.panel? p with
  | none => .ok s
  | some x => logScratch s p t 0 [(64 * i.toNat, lanesBytes ((x.tile t).accRow a r))]

/-- A read of a row that the store-to-load table of the tile forwards is counted (R243). -/
def countForward (s : State) (p t off : Nat) : State :=
  s.modPanel p fun x => if (x.tile t).forwards (rowStrand x) off then x.count 9 1 else x

/-- `mx.acld`: the row is replaced with the 64 bytes at offset 64i as the strand reads them (R233). -/
def runMxAcld (a : BitVec 3) (r : BitVec 4) (i : BitVec 12) (s : State) (p t : Nat) : WRes :=
  rowRead s p t 0 (64 * i.toNat) (.ok (countForward (onTile s p t fun x tl =>
    tl.setAccRow a r (bytesLanes (tl.view t (rowStrand x) (64 * i.toNat) 64))) p t (64 * i.toNat)))

/-! ## VX (R235-R242) -/

/-- A VX operation on a tile's registers. -/
def runVx (op : Nat) (f : VF) (s : State) (p t : Nat) : WRes :=
  .ok (countPanel (onTile s p t fun _ tl =>
    let r := vxCompute op f ⟨tl.v, tl.k⟩
    { tl with v := r.v, k := r.k }) p 15 1)

/-- `vcmp`: the mask register, and with d[4] the tile's condition bit (R238). -/
def runVcmp (f : VF) (s : State) (p t : Nat) : WRes :=
  .ok (countPanel (onTile s p t fun _ tl =>
    let r := vxCompute 0x0B f ⟨tl.v, tl.k⟩
    let c := cmpBits ⟨tl.v, tl.k⟩ f != 0#16
    { tl with k := r.k, condNext := if f.d.getLsbD 4 then some c else tl.condNext }) p 15 1)

/-- `vmov d, in`: the input latch's data, masked; a bubble gives zeros (R237). -/
def runVmovIn (f : VF) (s : State) (p t : Nat) : WRes :=
  .ok (countPanel (onTile s p t fun _ tl =>
    let b := latchIn tl 1
    let x : Lanes := if b.bubble then 0 else b.data
    { tl with v := putV tl.v f.d (maskLanes (getK tl.k f.k) x (getV tl.v f.d)) }) p 15 1)

/-- `vmov out, a`: a beat with a zero scale lane and a clear bubble bit (R237). -/
def runVmovOut (f : VF) (s : State) (p t : Nat) : WRes :=
  .ok (countPanel (onTile s p t fun _ tl => tl.produce 1 ⟨getV tl.v f.a, 0, false⟩) p 15 1)

/-! ## LS (R243-R247) -/

/-- The value of an LS fault at an offset of a tile's scratchpad: its scratch-tagged address (R159, R314; DEDUCED, log 28). -/
def lsAddr (x : Panel) (t off : Nat) : Word := tileAddr x t off

/-- A 64-byte row of an LS word, or the fabric fault E.PERM (R243). -/
def lsRow (s : State) (p t : Nat) (idx : BitVec 12) (ctr sh : BitVec 3) (f : Panel → Nat → WRes) : WRes :=
  match s.panel? p with
  | none => .ok s
  | some x =>
    let off := lsOffset (x.tile t) idx ctr sh
    if scratchSize x ≤ off then .error (wfault t 2 .perm (lsAddr x t off)) else f x off

/-- `ls.rd`: the row goes to the output latch (R244). -/
def runLsRd (idx : BitVec 12) (ctr sh : BitVec 3) (s : State) (p t : Nat) : WRes :=
  lsRow s p t idx ctr sh fun x off =>
    rowRead s p t 2 off (.ok (countForward (onTile s p t fun _ tl =>
      tl.produce 2 ⟨bytesLanes (tl.view t (rowStrand x) off 64), 0, false⟩) p t off))

/-- `ls.wr`: the input beat is logged at the row; a bubble writes nothing (R244). -/
def runLsWr (idx : BitVec 12) (ctr sh : BitVec 3) (s : State) (p t : Nat) : WRes :=
  lsRow s p t idx ctr sh fun x off =>
    let b := latchIn (x.tile t) 2
    if b.bubble then .ok s else logScratch s p t 2 [(off, lanesBytes b.data)]

/-- The first lane of a gather or scatter that fails its checks (R245, R246). (DEDUCED, log 28) -/
def laneFault (size al base : Nat) (v : Lanes) : Option (Cause × Nat) :=
  laneIds.findSome? fun i =>
    let w := (lane v i).toNat
    let off := base + w % 2 ^ 18
    if off % al ≠ 0 then some (.align, off)
    else if w / 2 ^ 18 % 64 ≠ 0 ∨ size < off + al then some (.perm, off)
    else none

/-- `ls.g`: a gather of 16 rows into the operand latch begins (R245). -/
def runLsG (vi : Reg) (base : BitVec 12) (s : State) (p t : Nat) : WRes :=
  match s.panel? p with
  | none => .ok s
  | some x =>
    let v := getV (x.tile t).v vi
    let b := 64 * base.toNat
    match laneFault (scratchSize x) 64 b v with
    | some (c, off) => .error (wfault t 2 c (lsAddr x t off))
    | none =>
      let g : Gather := ⟨rowStrand x, laneIds.map fun i => b + (lane v i).toNat % 2 ^ 18,
        laneIds.map fun i => (lane v i).extractLsb' 24 8, 0, 0⟩
      .ok (countPanel (onTile s p t fun _ tl => { tl with gathers := tl.gathers ++ [g] }) p 14 1)

/-- Entry `done` of a gather is written: the row as the strand reads it (R245). -/
def gatherEntry (t : Nat) (tl : Tile) (g : Gather) : Tile :=
  let sc := (g.scales.getD g.done 0).toNat
  let b : Beat := ⟨bytesLanes (tl.view t g.strand g.row 64), BitVec.ofNat 32 (sc * 0x01010101), false⟩
  { tl with oplatch := tl.oplatch.set (g.done % 16) b (Nat.mod_lt _ (by decide)) }

/-- `ls.s`: 16 log entries of 4 bytes (R246). -/
def runLsS (vd vi : Reg) (base : BitVec 12) (s : State) (p t : Nat) : WRes :=
  match s.panel? p with
  | none => .ok s
  | some x =>
    let v := getV (x.tile t).v vi
    let d := getV (x.tile t).v vd
    let b := 64 * base.toNat
    match laneFault (scratchSize x) 4 b v with
    | some (c, off) => .error (wfault t 2 c (lsAddr x t off))
    | none => logScratch s p t 2 (laneIds.map fun i => (b + (lane v i).toNat % 2 ^ 18, toBytes 4 (lane d i).toNat))

/-- `ls.fe`: the word is emptied, directly at the bank (R244). -/
def runLsFe (idx : BitVec 12) (wd : BitVec 3) (s : State) (p t : Nat) : WRes :=
  .ok (onTile s p t fun _ tl => { tl with empties := ((64 * idx.toNat + 8 * wd.toNat) / 8 :: tl.empties).dedup })

/-- The operation of `ls.upd` on a word (R247). -/
def updOp (op : Nat) (a b : W32) : W32 :=
  match op with
  | 0 => f32add 0 a b
  | 1 => a + b
  | 2 => f32max a b
  | 3 => f32min a b
  | 4 => laneMax .s32 a b
  | 5 => laneMin .s32 a b
  | 6 => a ||| b
  | _ => a ^^^ b

/-- `ls.upd`: the row is read, combined with the input beat and written directly on the bank, its pre-image logged as
an undo entry (R118, R247). -/
def runLsUpd (idx : BitVec 12) (ctr sh op : BitVec 3) (s : State) (p t : Nat) : WRes :=
  lsRow s p t idx ctr sh fun x off =>
    let tl := x.tile t
    let b := latchIn tl 2
    if b.bubble then .ok s
    else
      let i := rowStrand x
      match logRoom x t i 64 with
      | some e => .error ⟨t, 2, none, e, false, none⟩
      | none =>
        let old := readBytes tl.scratch off 64
        let w := bytesLanes old
        let new := ofLanes fun j => updOp op.toNat (lane w j) (lane b.data j)
        rowRead s p t 2 off
          (.ok (onTile s p t fun _ tl => { (tl.addLog i (.undo off old x.live)) with scratch := writeBytes tl.scratch off (lanesBytes new) }))

/-! ## XB (R215, R225-R227) -/

/-- The beat presented at input 0 to 6: past its ease queue (R215, R226). -/
def presented (t : Tile) (k : Nat) : Beat :=
  let h : k % 7 < 7 := Nat.mod_lt _ (by decide)
  let q := t.ease[k % 7]'h
  if q.depth = 0 then
    if k < 4 then t.edge[k % 4]'(Nat.mod_lt _ (by decide)) else t.out[(k - 4) % 5]'(Nat.mod_lt _ (by decide))
  else q.queue.getD (q.depth - 1) Beat.bubbleBeat

/-- The tile beyond an edge: to the n, e, s or w (R215). -/
def neighbour (x : Panel) (t dir : Nat) : Option Nat :=
  let w := 4 * x.image.width
  match dir with
  | 0 => if w ≤ t then some (t - w) else none
  | 1 => if t % w + 1 < w then some (t + 1) else none
  | 2 => if t + w < x.ntiles then some (t + w) else none
  | _ => if t % w = 0 then none else some (t - 1)

/-- A beat delivered to an output other than st (R215). -/
def deliver (x : Panel) (t o : Nat) (b : Beat) : Panel :=
  if o < 4 then
    match neighbour x t o with
    | some u => x.setTile u { x.tile u with edgeNext := (x.tile u).edgeNext.set ((o + 2) % 4) b (Nat.mod_lt _ (by decide)) }
    | none => x
  else x.setTile t { x.tile t with inpNext := (x.tile t).inpNext.set ((o - 4) % 5) b (Nat.mod_lt _ (by decide)) }

/-- A fault of the crossbar on a stream. -/
def xbFault (t q : Nat) (e : Trap) : WFault := ⟨t, 3, some q, e, false, none⟩

/-- The beat that a source presents to the routes of a word, and the panel after a pop of source st (R221, R225, R227). -/
def source (s : State) (p t : Nat) (src q : Nat) : Except WFault (State × Beat) :=
  match s.panel? p with
  | none => .ok (s, Beat.bubbleBeat)
  | some x =>
    if src < 7 then .ok (s, presented (x.tile t) src)
    else if src = 8 then .ok (s, (x.tile t).hold)
    else
      let i := rowStrand x
      match streamHead x i q t with
      | .against => .error (xbFault t q (mkTrap .engine 0))
      | .fault e => .error (xbFault t q e)
      | .late => .ok (s, Beat.bubbleBeat)
      | .beat b => .ok (s.setPanel p (popStream x i q t), b)

/-- A beat delivered to every output of a group (R225). -/
def deliverAll (p t q : Nat) (b : Beat) (outs : BitVec 8) : List Nat → State → WRes
  | [], s => .ok s
  | o :: os, s =>
    if outs.getLsbD o then
      if o = 7 then
        match s.panel? p with
        | none => .ok s
        | some x =>
          match fillStream s p t (rowStrand x) q b with
          | .ok s => deliverAll p t q b outs os s
          | .error f => .error f
      else deliverAll p t q b outs os (s.modPanel p fun x => deliver x t o b)
    else deliverAll p t q b outs os s

/-- The outputs. -/
def outputs : List Nat := List.range 8

/-- `xb.route`: the two groups of connections (R225); st pops once for both. -/
def runXbRoute (srcA : BitVec 4) (outsA : BitVec 8) (srcB : BitVec 4) (outsB : BitVec 8) (q : BitVec 4)
    (s : State) (p t : Nat) : WRes :=
  let first : Except WFault (State × Beat) :=
    if srcA = 0xF#4 then .ok (s, Beat.bubbleBeat) else source s p t srcA.toNat q.toNat
  match first with
  | .error f => .error f
  | .ok (s, a) =>
    let second : Except WFault (State × Beat) :=
      if srcB = 0xF#4 then .ok (s, Beat.bubbleBeat)
      else if srcB = 7#4 ∧ srcA = 7#4 then .ok (s, a)
      else source s p t srcB.toNat q.toNat
    match second with
    | .error f => .error f
    | .ok (s, b) =>
      match deliverAll p t q.toNat a outsA outputs s with
      | .error f => .error f
      | .ok s => deliverAll p t q.toNat b outsB outputs s

/-- `xb.ease`: the depths to come (R226). -/
def runXbEase (n e sd w mx vx ls : BitVec 4) (s : State) (p t : Nat) : WRes :=
  let ds := [n, e, sd, w, mx, vx, ls]
  .ok (onTile s p t fun _ tl => { tl with
    ease := Vector.ofFn fun i : Fin 7 => { tl.ease[i] with next := (ds.getD i.val 0).toNat } })

/-- `xb.hold`: the beat presented at a source is kept (R227). -/
def runXbHold (src q : BitVec 4) (s : State) (p t : Nat) : WRes :=
  match source s p t src.toNat q.toNat with
  | .error f => .error f
  | .ok (s, b) => .ok (onTile s p t fun _ tl => { tl with hold := b })

/-- An input's ease queue at the end of a live cycle: the beat that arrived enters it, and a new depth applies once it is
empty (R215, R226; DEDUCED, log 27). -/
def easeStep (q : Ease) (arrived : Beat) : Ease :=
  let l := (arrived :: q.queue).take q.depth
  if l.all (·.bubble) then { q with depth := q.next, queue := [] } else { q with queue := l }

/-- The latches at the end of a live cycle (R214). -/
def latchStep (t : Tile) : Tile :=
  let arrived (k : Nat) : Beat := if k < 4 then t.edge[k % 4]'(Nat.mod_lt _ (by decide)) else t.out[(k - 4) % 5]'(Nat.mod_lt _ (by decide))
  { t with
    ease := Vector.ofFn fun i : Fin 7 => easeStep t.ease[i] (arrived i.val)
    inp := t.inpNext, inpNext := Vector.replicate 5 Beat.bubbleBeat
    out := t.outNext, outNext := Vector.replicate 5 Beat.bubbleBeat
    edge := t.edgeNext, edgeNext := Vector.replicate 4 Beat.bubbleBeat
    cond := t.condNext.getD t.cond, condNext := none }

/-! ## TK (R248-R252) -/

/-- A tack sent on the panel's network in a live cycle: due two live cycles later (R250). -/
def sendTack (x : Panel) (ch : Nat) : Panel := { x with tacks := x.tacks ++ [⟨ch % 16, x.live + 2, false⟩] }

/-- The trips of a counter are over at a value (R46): at or past the bound in the step's direction. -/
def tripsOver (v : Int) (bound : BitVec 24) (step : BitVec 16) : Bool :=
  if 0 < step.toInt then decide ((bound.toNat : Int) ≤ v) else decide (v ≤ (bound.toNat : Int))

/-- A counter replaced. -/
def Tile.setCounter (t : Tile) (i : Nat) (c : TkCounter) : Tile :=
  { t with counters := t.counters.set (i % 4) c (Nat.mod_lt _ (by decide)) }

/-- The pending count of a channel. -/
def Tile.pend (t : Tile) (ch : Nat) : Nat := t.pending[ch % 16]'(Nat.mod_lt _ (by decide))

/-- The pending count of a channel set. -/
def Tile.setPend (t : Tile) (ch n : Nat) : Tile := { t with pending := t.pending.set (ch % 16) n (Nat.mod_lt _ (by decide)) }

/-- The counters of a tile's chain. -/
def Tile.chain (t : Tile) : List Nat := List.range t.chainLen

/-- The tile takes a start tack in this row (R249). -/
def Tile.starts (t : Tile) : Bool := !t.running && decide (0 < t.pend t.startCh)

/-- A chain start (R249): counters latch and take their starts; a counter of zero trips sends the done tack (R46). -/
def chainStart (x : Panel) (t : Nat) : Panel :=
  let tl := x.tile t
  if tl.starts then
    let tl := tl.setPend tl.startCh (tl.pend tl.startCh - 1)
    let tl := tl.chain.foldl (fun tl i =>
      let c := tl.counter i
      tl.setCounter i { c with lstart := c.start, lbound := c.bound, lstep := c.step, value := c.start }) tl
    if tl.chain.any fun i => let c := tl.counter i; tripsOver c.lstart.toNat c.lbound c.lstep then
      sendTack (x.setTile t { tl with running := false }) tl.doneCh
    else x.setTile t { tl with running := true }
  else x

/-- The trips of a chain from counter m on: the tile, and whether the chain ended (R249). -/
def tickFrom : List Nat → Tile → Tile × Bool
  | [], tl => ({ tl with running := false }, true)
  | m :: ms, tl =>
    let c := tl.counter m
    let v : Int := c.value.toNat + c.lstep.toInt
    if tripsOver v c.lbound c.lstep then tickFrom ms (tl.setCounter m { c with value := c.lstart })
    else (tl.setCounter m { c with value := BitVec.ofInt 24 v }, false)

/-- `tk.cnt c, tick` (R249). -/
def runTkCntTick (s : State) (p t : Nat) : WRes :=
  .ok (s.modPanel p fun x =>
    let tl := x.tile t
    if tl.running then
      let (tl', ended) := tickFrom tl.chain tl
      let x := x.setTile t tl'
      if ended then sendTack x tl.doneCh else x
    else x)

/-- `tk.cnt`: a field of a counter or the link setting (R248). -/
def runTkCnt (c : BitVec 2) (field : BitVec 3) (value : BitVec 24) (s : State) (p t : Nat) : WRes :=
  .ok (onTile s p t fun _ tl =>
    let k := tl.counter c.toNat
    match field.toNat with
    | 0 => tl.setCounter c.toNat { k with start := value }
    | 1 => tl.setCounter c.toNat { k with bound := value }
    | 2 => tl.setCounter c.toNat { k with step := value.extractLsb' 0 16 }
    | 3 => { tl with chainLen := (value.extractLsb' 22 2).toNat + 1, startCh := (value.extractLsb' 18 4).toNat
                     doneCh := (value.extractLsb' 14 4).toNat }
    | _ => tl)

/-- `tk.nop`. -/
def runTkNop (s : State) (_p _t : Nat) : WRes := .ok s

/-- `tk.send` (R250). -/
def runTkSend (ch : BitVec 4) (s : State) (p _t : Nat) : WRes := .ok (s.modPanel p fun x => sendTack x ch.toNat)

/-- `tk.wait` takes a pending tack; the wait for one is a clamp before it (R250). -/
def runTkWait (ch : BitVec 4) (s : State) (p t : Nat) : WRes :=
  .ok (onTile s p t fun _ tl => tl.setPend ch.toNat (tl.pend ch.toNat - 1))

/-- `tk.sel` chooses the schedule of the next turn (R251); a poisoned entry raises its recorded cause; the choice enters
the control-path signature of the strand's thread (R203). -/
def runTkSel (src : BitVec 2) (s : State) (p t : Nat) : WRes :=
  match s.panel? p with
  | none => .ok s
  | some x =>
    let i := rowStrand x
    let choose (s : State) (b : Bool) : State :=
      (s.modPanel p fun x => { x with nextB := b }).setThread (.seq p i) ((s.thread (.seq p i)).sign b)
    match src.toNat with
    | 0 =>
      let st := x.strand i
      match st.queue with
      | .value v :: q => .ok (choose (s.setPanel p (x.setStrand i { st with queue := q, taken := st.taken + 1 })) (v.getLsbD 0))
      | .poisoned e :: _ => .error ⟨t, 4, none, e, false, some st.taken⟩
      | [] => .ok s
    | 1 => .ok (choose s (x.tile t).cond)
    | 2 => .ok (choose s false)
    | _ => .ok (choose s true)

/-- `tk.stitch`: the panel is stitched at the end of the live cycle (R252). -/
def runTkStitch (s : State) (p _t : Nat) : WRes := .ok (s.modPanel p fun x => { x with stitch := true })

/-! ## The clamp that a word begins (R224) -/

/-- The MX array is idle in live cycle n, the present one or the one before it: the 64 live cycles before n were quiet, and no ramp-up is under
way or ended within 64 (R232). -/
def idleAt (x : Panel) (tl : Tile) (n : Nat) : Bool :=
  decide (64 + (x.live - n) ≤ tl.quiet) && (tl.rampTo == 0 || decide (tl.rampTo + 64 ≤ n))

/-- The MX array is idle in the present live cycle (R232). -/
def mxIdle (x : Panel) (tl : Tile) : Bool := idleAt x tl x.live

/-- A route of source st waits for its beat. -/
def lateAt (x : Panel) (t : Nat) (src q : BitVec 4) : Bool :=
  src == 7#4 && streamHead x (rowStrand x) q.toNat t == .late

/-- The rows of its scratchpad that a word reads in its own live cycle (R233, R243). -/
def rowsRead (t : Tile) : Instr → List Nat
  | .mxAcld _ _ _ i => [64 * i.toNat]
  | .lsRd _ idx ctr sh => [lsOffset t idx ctr sh]
  | _ => []

/-- The store-to-load table of the tile cannot resolve a read of the word (R243; DESIGN CHOICE, log 114). -/
def searches (x : Panel) (t : Nat) (i : Instr) : Bool := (rowsRead (x.tile t) i).any ((x.tile t).unresolved (rowStrand x))

/-- A publish search that has ended: its row is still to execute. -/
def Hold.found (h : Hold) : Bool := h.cause == .search && h.left == 0

/-- A gather of the tile reads in this live cycle a row that the store-to-load table cannot resolve (R243, R245). -/
def gatherSearches (tl : Tile) : Bool := tl.gathers.any fun g => g.reading && tl.unresolved g.strand g.row

/-- The holds of the publish searches that gathers need, where their tile has not made one yet for this row (R243). -/
def gatherHolds (x : Panel) (now : Nat) : List Hold :=
  (List.range x.ntiles).filterMap fun t =>
    if gatherSearches (x.tile t) && !(x.holds.any fun h => h.found && h.tile == t) then some ⟨.search, t, .ls, now, 1⟩ else none

/-- The faults of gathers that read a row with an uncorrectable error in this live cycle (R326). -/
def gatherFaults (x : Panel) : List WFault :=
  (List.range x.ntiles).filterMap fun t => (x.tile t).badGather.map fun g => wfault t 2 .ecc (tileAddr x t (8 * g.2))

/-- The hold of a publish search, where the tile's element has not made it yet for this row (R243). -/
def searchHold (x : Panel) (t now : Nat) (i : Instr) : Option Hold :=
  if searches x t i && !(x.holds.any fun h => h.found && h.tile == t) then
    some ⟨.search, t, (match i with | .mxAcld _ _ _ _ => .mx | _ => .ls), now, 1⟩ else none

/-- The clamp that a word of a tile begins before it executes (R224): `sels` is the number of entries that earlier words
of the row take, `now` the cycle. -/
def clampOf (x : Panel) (t sels now : Nat) (i : Instr) : Option Hold :=
  let tl := x.tile t
  match i with
  | .mxMm _ _ _ => if mxIdle x tl then some ⟨.rampUp, t, .mx, now, 8⟩ else none
  | .mxMmg _ _ _ _ => if mxIdle x tl then some ⟨.rampUp, t, .mx, now, 8⟩ else none
  | .mxAcrd _ a _ w => if w && tl.busy a then some ⟨.drain, t, .mx, now, 0⟩ else none
  | .xbRoute _ sa _ sb _ q => if lateAt x t sa q || lateAt x t sb q then some ⟨.lateReply, t, .xb, now, 0⟩ else none
  | .xbHold _ src q => if lateAt x t src q then some ⟨.lateReply, t, .xb, now, 0⟩ else none
  | .tkWait _ ch n =>
    let taken := if tl.starts && tl.startCh == ch.toNat then 1 else 0
    if tl.pend ch.toNat ≤ taken then some ⟨.tackWait, t, .tk, now, 256 * n.toNat⟩ else none
  | .tkSel _ src n =>
    if src = 0#2 ∧ (x.strand (rowStrand x)).queue.length ≤ sels then some ⟨.condWait, t, .tk, now, 256 * n.toNat⟩ else none
  | i => searchHold x t now i

/-- A phase word run by a tile for its party: nullified by its predicate (R17, R140), or clamping the panel (R224), or
executed, or its fault. -/
def execWord (pr : Pred) (i : Instr) (run : State → Nat → Nat → WRes) (s : State) : Host.Outcome State Fault Refusal :=
  match s.focus with
  | .tile p t =>
    match s.panel? p with
    | none => .next s
    | some x =>
      if predHolds pr (x.tile t) then
        match clampOf x t 0 s.cycle i with
        | some h => .next (s.setPanel p { x with holds := x.holds ++ [h] })
        | none =>
          match run s p t with
          | .ok s' => .next s'
          | .error f => .next (fabricFault s p f)
      else .next s
  | _ => .next s

end Sys2Proof.Machine
end

