-- ==== Sys2Proof/Machine/Patterns.lean ====
section
/-! DEFINITION. Pattern images (R15, R144-R147), the phase tables as resources (R24, R26), the checks of `arm` (R143),
loading and arming a panel (R26, R27, R77, R254, R255). -/

namespace Sys2Proof.Machine

open Sys2Proof

/-! ## Reading an image -/

/-- An unsigned field of bytes, least significant first. -/
def field (bs : List Byte) (off n : Nat) : Nat := ofBytes ((bs.drop off).take n)

/-- Every byte of a field is zero. -/
def zeroField (bs : List Byte) (off n : Nat) : Bool := ((bs.drop off).take n).all (· == 0#8)

/-- `n` consecutive chunks of `k` bytes. -/
def chunks (k : Nat) : Nat → List Byte → List (List Byte)
  | 0, _ => []
  | n + 1, bs => bs.take k :: chunks k n (bs.drop k)

/-- The fields of a header that place the sections (R144, R145): the image with its sections still to read, the entries
per element, the directory. -/
structure Header where
  image : Image
  entries : Nat
  dirs : List (Nat × Nat)
  nres : Nat
  deriving DecidableEq, Repr

/-- The rules of R15 on the row masks: disjoint, below L. -/
def rowsOk (wheel : Nat) : List Nat → Nat → Bool
  | [], _ => true
  | r :: rs, seen => decide (r < 2 ^ wheel) && (r &&& seen) == 0 && rowsOk wheel rs (seen ||| r)

/-- The header of 256 bytes, where it keeps R15, R144 and R145; the entry and sentry offsets of strands that the pattern does not have are
not looked at (DESIGN CHOICE, log 122). -/
def parseHeader (h : List Byte) : Option Header :=
  let ids := List.range 4
  let width := field h 8 1
  let height := field h 9 1
  let wheel := field h 0xA 1
  let strands := field h 0xB 1
  let l1 := field h 0xC 1
  let sched := field h 0xD 1
  let cpol := field h 0xE 1
  let nres := field h 0xF 1
  let rows := ids.map fun i => field h (0x10 + 4 * i) 4
  let logmax := ids.map fun i => field h (0x28 + 2 * i) 2
  let entry := ids.map fun i => field h (0x80 + 4 * i) 4
  let sentry := ids.map fun i => field h (0x90 + 4 * i) 4
  let e := wheel * (1 + sched)
  let dirs := (List.range 8).map fun i => (field h (0x40 + 8 * i) 4, field h (0x44 + 8 * i) 4)
  let dir (i : Nat) : Nat × Nat := dirs.getD i (0, 0)
  let within (o : Nat) (d : Nat × Nat) : Bool := decide (d.1 ≤ o) && decide (o < d.1 + d.2) && decide (o % 4 = 0)
  if field h 0 4 = 0x3149504B ∧ field h 4 2 = 1 ∧ zeroField h 6 2 ∧ zeroField h 0x30 16 ∧ zeroField h 0xA0 96 ∧
      1 ≤ width ∧ width ≤ 16 ∧ 1 ≤ height ∧ height ≤ 32 ∧ sched ≤ 1 ∧ 1 ≤ wheel ∧ e ≤ 32 ∧ 1 ≤ strands ∧ strands ≤ 4 ∧
      l1 ≤ 8 ∧ cpol < 16 ∧ nres ≤ 64 ∧ rowsOk wheel rows 0 ∧
      (ids.all fun i => if i < strands then decide (64 ≤ logmax.getD i 0) && decide (logmax.getD i 0 % 64 = 0)
        else rows.getD i 0 == 0 && logmax.getD i 0 == 0) ∧
      logmax.sum ≤ 8192 ∧
      (dirs.all fun d => decide (d.1 % 8 = 0) && decide (d.1 + d.2 ≤ 2 ^ 32)) ∧
      (dir 0).2 = 8 * width * height * 5 * e * 8 ∧ (dir 3).2 % 32 = 0 ∧ (dir 6).2 = 4 * nres ∧ dir 7 = (0, 0) ∧
      (ids.all fun i => decide (strands ≤ i) ||
        (within (entry.getD i 0) (dir 1) && (sentry.getD i 0 == 0 || within (sentry.getD i 0) (dir 2)))) then
    some
      { image :=
          { width := width, height := height, wheel := wheel, strands := strands, l1 := l1, sched := sched == 1
            cpolStrand := BitVec.ofNat 2 cpol, cpolPanel := BitVec.ofNat 2 (cpol / 4)
            rows := rows.map (BitVec.ofNat 32), readout := BitVec.ofNat 64 (field h 0x20 8), logmax := logmax
            entry := entry, sentry := sentry, slice := dir 2, phases := [], specs := [], scratch := [], reserve := [] }
        entries := e, dirs := dirs, nres := nres }
  else none

/-- A stream-spec entry, where it keeps R146 and R219. -/
def parseSpec (b : List Byte) : Option StreamSpec :=
  let nd := field b 1 1
  let port := field b 3 1
  let fmt := field b 4 1
  let ds := List.range 4
  let count (d : Nat) : Nat := field b (8 + 2 * d) 2
  let stride (d : Nat) : Nat := field b (16 + 4 * d) 4
  if field b 0 1 ≤ 3 ∧ 1 ≤ nd ∧ nd ≤ 4 ∧ field b 2 1 ≤ 1 ∧ port % 8 = 0 ∧ (fmt ≤ 0x18 ∨ fmt = 0xFF) ∧ zeroField b 5 3 ∧
      (ds.all fun d => decide (d < nd) || (count d == 0 && stride d == 0)) then
    some ⟨2 ^ field b 0 1, nd, field b 2 1 == 1, BitVec.ofNat 8 port, fmt, (List.range nd).map fun d => count d + 1,
      (List.range nd).map fun d => (BitVec.ofNat 32 (stride d)).toInt⟩
  else none

/-- The records of a scratch image (R145, R147), their tiles as dense indices; a nonzero zero field is refused (DESIGN CHOICE, log 122). -/
def parseScratch (width height size : Nat) : Nat → List Byte → Option (List (Nat × Nat × List Byte))
  | 0, _ => some []
  | _, [] => some []
  | fuel + 1, b =>
    let t := field b 0 4
    let off := field b 4 4
    let n := field b 8 4
    let pad := (n + 15) / 16 * 16
    if b.length < 16 + pad ∨ field b 12 4 ≠ 0 ∨ 4 * width ≤ t % 64 ∨ 2 * height ≤ t / 64 ∨ size < off + n then none
    else (parseScratch width height size fuel (b.drop (16 + pad))).map fun l =>
      (t / 64 * (4 * width) + t % 64, off, (b.drop 16).take n) :: l

/-- The entries of a reserve table (R145); a field beyond its range and a nonzero zero field are refused (DESIGN CHOICE, log 122). -/
def parseReserve (b : List Byte) : Option (Nat × Nat × Nat) :=
  if field b 0 1 < 64 ∧ field b 1 1 < 4 ∧ field b 2 1 < 32 ∧ field b 3 1 = 0 then
    some (field b 0 1, field b 1 1, field b 2 1)
  else none

/-- How a read of an image ends: an access that faults, or E.CFGLOAD. -/
inductive LoadEnd where
  | held (t : Trap)
  | bad
  deriving DecidableEq, Repr

/-- A read of image bytes: an uncorrectable error fails the load, any other fault is held (R27, R147, R355). -/
def imageRead (s : State) (ctx : Nat) (priv : Priv) (va : Word) (n : Nat) : Except LoadEnd (State × List Byte) :=
  match engReadN s (engReq ctx priv .exec 7) va n with
  | .ok r => .ok r
  | .error t => .error (if t.cause = .ecc then .bad else .held t)

/-- The header of the image at an address. (DEDUCED, log 53) -/
def readHeader (s : State) (ctx : Nat) (priv : Priv) (va : Word) : Except LoadEnd (State × Header) :=
  match imageRead s ctx priv va 256 with
  | .error e => .error e
  | .ok (s, bs) => match parseHeader bs with
    | some h => .ok (s, h)
    | none => .error .bad

/-- A section of an image read. -/
def readSection (s : State) (ctx : Nat) (priv : Priv) (va : Word) (h : Header) (i : Nat) : Except LoadEnd (State × List Byte) :=
  let d := h.dirs.getD i (0, 0)
  imageRead s ctx priv (va + BitVec.ofNat 64 d.1) d.2

/-- Every member of a list that all have a value. -/
def allSome {α : Type} : List (Option α) → Option (List α)
  | [] => some []
  | none :: _ => none
  | some a :: l => (allSome l).map fun r => a :: r

/-- The tables of an image from its sections (R145-R147). -/
def fillImage (h : Header) (ph sp sc rs : List Byte) : Option Image :=
  let x := h.image
  let words := (chunks 8 (ph.length / 8) ph).map ofBytes
  let size := (64 - 4 * x.l1) * 4096
  if words.any fun w => decide (2 ^ 40 ≤ w) then none
  else
    (allSome ((chunks 32 (sp.length / 32) sp).map parseSpec)).bind fun specs =>
      (parseScratch x.width x.height size (sc.length / 16 + 1) sc).bind fun scr =>
        (allSome ((chunks 4 h.nres rs).map parseReserve)).map fun res =>
          { x with phases := words.map (BitVec.ofNat 40), specs := specs, scratch := scr, reserve := res }

/-- The image at an address, read at its homes as an engine read (R147). -/
def readImage (s : State) (ctx : Nat) (priv : Priv) (va : Word) : Except LoadEnd (State × Image) := do
  let (s, h) ← readHeader s ctx priv va
  let (s, ph) ← readSection s ctx priv va h 0
  let (s, sp) ← readSection s ctx priv va h 3
  let (s, sc) ← readSection s ctx priv va h 5
  let (s, rs) ← readSection s ctx priv va h 6
  match fillImage h ph sp sc rs with
  | some x => .ok (s, x)
  | none => .error .bad

/-- The entries that an image's tables take in every element of its tiles (R145). -/
def Image.entries (x : Image) : Nat := x.wheel * (if x.sched then 2 else 1)

/-! ## The checks of arm (R143) -/

/-- The kind of phase word that suits an element, MX 0 to TK 4. -/
def kindOf (elem : Nat) : Nat := elem + 1

/-- An LS offset of a word with no counter lies in the scratchpad (R243). -/
def lsInside (size : Nat) (idx : BitVec 12) (ctr : BitVec 3) : Bool := ctr != 0#3 || decide (64 * idx.toNat < size)

/-- The word suits its panel (R225, R229, R243, R251): outputs that stay in it, offsets in its scratchpad, `tk.sel` only
with two schedules. -/
def suits (x : Image) (t : Nat) (i : Instr) : Bool :=
  let size := (64 - 4 * x.l1) * 4096
  let w := 4 * x.width
  let edge (outs : BitVec 8) : Bool :=
    (outs.getLsbD 0 && decide (t < w)) || (outs.getLsbD 1 && decide (t % w + 1 = w)) ||
      (outs.getLsbD 2 && decide (w * (2 * x.height) ≤ t + w)) || (outs.getLsbD 3 && decide (t % w = 0))
  match i with
  | .xbRoute _ _ oa _ ob _ => !edge oa && !edge ob
  | .mxAcsv _ _ _ k => decide (64 * k.toNat < size)
  | .mxAcld _ _ _ k => decide (64 * k.toNat < size)
  | .lsRd _ idx ctr _ => lsInside size idx ctr
  | .lsWr _ idx ctr _ => lsInside size idx ctr
  | .lsUpd _ idx ctr _ _ => lsInside size idx ctr
  | .lsFe _ idx wd => decide (64 * idx.toNat + 8 * wd.toNat < size)
  | .tkSel _ _ _ => x.sched
  | _ => true

/-- The first phase word that `arm` refuses: its tile, element, entry, the cause and the word (R143). -/
structure ArmFault where
  tile : Nat
  elem : Nat
  entry : Nat
  cause : Cause
  word : BitVec 40
  deriving DecidableEq, Repr

/-- The check of one phase word (R143). -/
def checkWord (x : Image) (t e j : Nat) (w : BitVec 40) : Option ArmFault :=
  let kind := (w.extractLsb' 37 3).toNat
  if kind = 0 then (if w = 0#40 then none else some ⟨t, e, j, .cfgOp, w⟩)
  else if kind ≠ kindOf e then some ⟨t, e, j, .cfgKind, w⟩
  else
    match decodePhase w with
    | some i => if suits x t i then none else some ⟨t, e, j, .cfgOp, w⟩
    | none => some ⟨t, e, j, .cfgOp, w⟩

/-- The checks of `arm` in the order of R143: tile, element, entry. -/
def checkWords (x : Image) : Nat → List (BitVec 40) → Option ArmFault
  | _, [] => none
  | n, w :: ws =>
    match checkWord x (n / x.entries / 5) (n / x.entries % 5) (n % x.entries) w with
    | some f => some f
    | none => checkWords x (n + 1) ws

/-- The first word that `arm` refuses. -/
def armCheck (x : Image) : Option ArmFault := checkWords x 0 x.phases

/-- `c.fwhere` of a refused word (R143, R316). -/
def armWhere (x : Image) (index issuer strand : Nat) (f : ArmFault) : Word :=
  let w := 4 * x.width
  fwhereOf (64 * (f.tile / w) + f.tile % w) f.elem f.entry 0 strand index issuer

/-! ## Table entries (R24, R26) -/

/-- The logical blocks of a rectangle, by number 16·by + bx. -/
def rectBlocks (bx byy w h : Nat) : List Nat :=
  (List.range h).flatMap fun j => (List.range w).map fun i => 16 * (byy + j) + bx + i

/-- The blocks of a panel. -/
def Panel.blocks (x : Panel) : List Nat := rectBlocks x.bx x.byy x.image.width x.image.height

/-- What the tables of a block hold. -/
def tableOf (s : State) (b : Nat) : List TableUse := FMap.getD s.tables b []

/-- The entries of a block that no placed panel owns (R26). -/
def freeEntries (s : State) (b : Nat) : Nat := 32 - (((tableOf s b).filter fun u => u.owner.isSome).map (·.entries.length)).sum

/-- The lowest of a list of entry numbers. -/
def lowest : List Nat → Option Nat
  | [] => none
  | k :: ks => some (ks.foldl min k)

/-- The entry of a block that a load overwrites where every free one holds a resident pattern, with that pattern's load: of those freed
earliest the lowest-numbered (R26). -/
def oldestEntry (us : List TableUse) : Option (Nat × Nat) :=
  let free := us.filter fun u => u.owner.isNone
  (lowest (free.map (·.freedAt))).bind fun t =>
    let olds := free.filter fun u => u.freedAt == t
    (lowest (olds.flatMap (·.entries))).bind fun k => (olds.find? fun u => u.entries.contains k).map fun u => (k, u.loadId)

/-- An entry of a block is written by a load of a panel. -/
def writeEntry (s : State) (b loadId p k : Nat) : State :=
  let us := tableOf s b
  let us := if us.any fun u => u.loadId == loadId then
      us.map fun u => if u.loadId = loadId then { u with entries := u.entries ++ [k] } else u
    else us ++ [⟨loadId, [k], some p, 0⟩]
  { s with tables := FMap.set s.tables b us }

/-- One more entry of a block is taken by a load of a panel: the lowest one that holds no resident pattern, else one whose pattern was freed
earliest; that pattern, rewritten, is resident no more in any of its blocks (R26). -/
def takeOne (s : State) (b loadId p : Nat) : State :=
  match (List.range 32).find? fun k => !(tableOf s b).any fun u => u.entries.contains k with
  | some k => writeEntry s b loadId p k
  | none =>
    match oldestEntry (tableOf s b) with
    | some (k, id) => writeEntry (discardEntries s id) b loadId p k
    | none => s

/-- A load takes n entries in every block of a rectangle for a panel (R26). -/
def takeEntries (s : State) (blocks : List Nat) (loadId n p : Nat) : State :=
  blocks.foldl (fun s b => (List.range n).foldl (fun s _ => takeOne s b loadId p) s) s

/-- The entries of a panel's pattern become free and resident (R26). -/
def releaseEntries (s : State) (loadId : Nat) : State :=
  { s with tables := mapVals (fun _ us => us.map fun u =>
      if u.loadId = loadId then { u with owner := none, freedAt := s.cycle } else u) s.tables }

/-! ## Loads (R27, R147, R254, R355) -/

/-- The privilege of a load's accesses (R356): user for a strand's, the submitter's for a placement load. -/
def loadPriv (s : State) (x : Panel) : Priv :=
  if x.state = .loading then ((FMap.get? s.tasks x.entry).map (·.submitPriv)).getD .user else .user

/-- A fault of a load or of an access at placement, offered to the task with source 8 (R27, R315, R319). -/
def offerTask (s : State) (entry : Nat) (c : Cause) (v : Word) (xl : Option (Word × Word)) (fwhere : Word)
    (e : Option EngineId) : State :=
  match FMap.get? s.tasks entry with
  | none => s
  | some t => offer s t.ctx ⟨c, v, xl, 8, taskId s entry, fwhere, 0, none, .task entry, e, false⟩

/-- A panel of an undone placement leaves its blocks, and the entries that its load wrote are discarded (R27). -/
def undoPanel (s : State) (p : Nat) : State :=
  match s.panel? p with
  | none => s
  | some x => if x.wrote then discardEntries (freePanel s p) x.loadId else freePanel s p

/-- A placement undone (R27): the garment's panels are freed with their written entries discarded, its frame slots
returned, and the task held. -/
def undoPlacement (s : State) (entry : Nat) : State :=
  match FMap.get? s.tasks entry with
  | none => s
  | some t =>
    let s := t.panels.foldl undoPanel s
    { s with
      frames := s.frames.filter fun f => f.entry != entry
      tasks := FMap.set s.tasks entry { t with state := .held, panels := [], frames := [] } }

/-- A placement load that fails (R27). -/
def failPlacement (s : State) (p : Nat) (x : Panel) : State :=
  let s := undoPlacement s x.entry
  offerTask s x.entry .cfgLoad x.imageAddr none (fwhereOf 0 7 0 0 0 x.index (issuerNo (.seq p 0))) none

/-- A load fails (R27, R254): at placement the task faults; the failure of a strand's load waits for its next `arm`, `ldpat` or `fin`. -/
def failLoad (s : State) (p : Nat) : State :=
  match s.panel? p with
  | none => s
  | some x =>
    if x.state = .loading then failPlacement s p x
    else
      match x.load with
      | none => s
      | some l => s.setPanel p ({ x with load := none }.setStrand l.strand { x.strand l.strand with failed := some l.addr })

/-- A load whose image has been read takes its entries and is loaded (R26, R254). -/
def finishLoad (s : State) (p : Nat) (x : Panel) (l : Load) (img : Image) : State :=
  let s := takeEntries s (rectBlocks x.bx x.byy img.width img.height) l.loadId img.entries p
  let s := { s with loads := FMap.set s.loads l.loadId ⟨x.ctx, l.addr, x.bx, x.byy, img⟩ }
  s.modPanel p fun x => { x with load := some { l with state := .loaded, image := some img } }

/-- The image suits the panel that loads it: the shape, and for `ldpat` the l1 of the running pattern (R254). -/
def loadFits (x : Panel) (img : Image) : Bool :=
  img.width == x.image.width && img.height == x.image.height && (x.state == .loading || img.l1 == x.image.l1)

/-- A load of a panel goes to its end: its image is read, and the load is held, fails or is done. -/
def runLoad (s : State) (p : Nat) : State :=
  match s.panel? p with
  | none => s
  | some x =>
    match x.load with
    | none => s
    | some l =>
      match l.state with
      | .reading =>
        match readImage s x.ctx (loadPriv s x) l.addr with
        | .error (.held t) =>
          let s := s.setPanel p { x with load := some { l with state := .held } }
          offerTask s x.entry t.cause t.val t.xl (fwhereOf 0 7 0 0 0 x.index (issuerNo (.seq p 0))) (some (.load p))
        | .error .bad => failLoad s p
        | .ok (s, img) =>
          let room := (rectBlocks x.bx x.byy img.width img.height).all fun b => decide (img.entries ≤ freeEntries s b)
          if loadFits x img ∧ room then finishLoad s p x l img else failLoad s p
      | .failed => failLoad s p
      | _ => s

/-- The load of a panel is complete (R27, R254). -/
def execLoadComplete (p : Nat) (s : State) : Host.Outcome State Fault Refusal := .next (runLoad s p)

/-! ## Arming (R77, R126, R255) -/

/-- The bytes of an image's scratch records written to their banks. -/
def writeRecords (x : Panel) : Panel :=
  x.image.scratch.foldl (fun x (t, off, bs) => x.setTile t { x.tile t with scratch := writeBytes (x.tile t).scratch off bs }) x

/-- The sequencer thread of a strand at its start (R126, R190). -/
def strandThread (s : State) (x : Panel) (i : Nat) : Thread :=
  let rec_ := (FMap.get? s.tasks x.entry).map (·.record)
  { Thread.clear with
    pc := x.imageAddr + BitVec.ofNat 64 (x.image.entry.getD i 0)
    ctx := x.ctx, status := .running, task := taskId s x.entry
    spool := ⟨none, x.seeds, 0⟩
    g := (((Vector.replicate 32 0 |>.set 3 x.imageAddr).set 4 (BitVec.ofNat 64 i)).set 5 ((rec_.map (·.args)).getD 0)).set 31
      ((rec_.map (·.addr)).getD 0) }

/-- A strand that starts over in its panel: its path beats on their way stay on it (R219). -/
def newStrand (old : Strand) (has : Bool) : Strand :=
  { Strand.clear with finished := !has, sending := old.sending, pathSent := old.pathSent }

/-- Every strand of a panel's pattern starts at its own entry (R126), the issuing thread of an `arm` among them: where that is not strand 0's,
R255 gives it strand 0's entry and R126 its own, which it takes (DESIGN CHOICE, log 144). A strand the pattern does not have is finished. A
strand's determinism sequence goes on from where it stands within its task (R116). -/
def startStrands (s : State) (p : Nat) : State :=
  match s.panel? p with
  | none => s
  | some x =>
    let s := (s.unask fun q => partyPanel q == some p).setPanel p
      { x with strands := Vector.ofFn fun i : Fin 4 => newStrand (x.strand i.val) (decide (i.val < x.image.strands)) }
    strandIds.foldl (fun s i =>
      let s := s.setThread (.slice p i) { Thread.clear with ctx := x.ctx }
      let n := (s.thread (.seq p i)).dseq
      s.setThread (.seq p i) (if i < x.image.strands then { strandThread s x i with dseq := n }
        else { Thread.clear with ctx := x.ctx, status := .finished, dseq := n })) s

/-- Every tile of a panel right after a placement arm (R77, R228, R248): scratchpads zero and full, lines invalid. -/
def clearTiles (x : Panel) : Panel :=
  { x with tiles := (List.range x.ntiles).map fun t => (t, { Tile.clear with pins := (x.tile t).pins }) }

/-- The TK state of a tile reset by `arm` (R248, R255). -/
def resetTk (t : Tile) : Tile :=
  { t with
    counters := Vector.replicate 4 TkCounter.clear, chainLen := 1, startCh := 0, doneCh := 0, running := false
    cond := false, condNext := none, pending := Vector.replicate 16 0, queues := [], logs := Vector.replicate 4 [], stores := []
    ease := Vector.replicate 7 ⟨0, 0, []⟩ }

/-- The panel under its new pattern (R255): row 0 next, TK state, pending tacks, queues and slices reset, the scratch
records written; accumulators, weights, registers, banks and L1 carry over. (DEDUCED, log 60) (DEDUCED, log 71) -/
def switchPattern (x : Panel) (l : Load) (img : Image) : Panel :=
  writeRecords { x with
    image := img, imageAddr := l.addr, loadId := l.loadId, load := none, row := 0, schedB := false, nextB := false
    switching := 0, holds := [], rampHold := 0, stitch := false, tacks := [], agPending := Vector.replicate 16 0
    hint := [], skips := [], rowRun := none, armedAt := x.live, tiles := mapVals (fun _ t => resetTk t) x.tiles }

/-- `arm` on success: in one live cycle the wheel map switches and every strand of the new pattern starts (R255). -/
def armPanel (s : State) (p : Nat) (x : Panel) (l : Load) (img : Image) : State :=
  let s := releaseEntries s x.loadId
  takeShadow (startStrands (s.setPanel p (switchPattern x l img)) p) p

/-- A placed panel is armed (R26, R77, R143): a refused word undoes the placement, else the preparation begins.
(DEDUCED, log 58) -/
def execPlacementArm (p : Nat) (s : State) : Host.Outcome State Fault Refusal :=
  .next (match s.panel? p with
    | none => s
    | some x =>
      let ready : Bool := match x.load with | none => true | some l => l.state == .loaded
      if x.state = .loading ∧ ready = true then
        let img := ((x.load.bind (·.image))).getD x.image
        match armCheck img with
        | some f =>
          let s := undoPlacement s x.entry
          offerTask s x.entry f.cause (zext64 f.word) none (armWhere img x.index (issuerNo (.seq p 0)) 0 f) none
        | none =>
          let y := { x with
            image := img, loadId := (x.load.map (·.loadId)).getD x.loadId, load := none
            state := .preparing, prep := s.cycle + 256 }
          s.setPanel p (writeRecords (clearTiles y))
      else s)

/-- The saved panel of a frozen garment, by its place in pattern order. -/
def savedPanel (t : TaskEntry) (index : Nat) : Option (Panel × List Thread) :=
  t.frozen.bind fun f => (f.1[index]?).map fun y => (y, (f.2.1.drop (8 * index)).take 8)

/-- The banks that a readout mask names keep their saved bytes (R77, R331). -/
def readoutBytes (mask : Word) (cells : Cells) : Cells := cells.filter fun c => mask.getLsbD (c.1 / 4096)

/-- A resumed panel (R77, R262, R332): the saved banks, and the shadow with the strands' positions. -/
def resumePanel (s : State) (p : Nat) (x y : Panel) (ts : List Thread) : State :=
  let x := { x with
    tiles := mapVals (fun t tl => { tl with
      scratch := readoutBytes x.image.readout (y.tile t).scratch, pins := (y.tile t).pins }) x.tiles
    shadow := y.shadow, strands := y.strands, counters := y.counters, seeds := y.seeds }
  let s := s.setPanel p { x with state := if y.state = .killed then .killed else .live }
  let s := strandIds.foldl (fun s i => (s.setThread (.seq p i) (ts.getD (2 * i) Thread.clear)).setThread (.slice p i)
    (ts.getD (2 * i + 1) Thread.clear)) s
  retryPanel s p

/-- Once every panel of a garment is live the garment runs; the save slot of a resumed one is then free (R20, R332). -/
def garmentLive (s : State) (e : Nat) : State :=
  match FMap.get? s.tasks e with
  | some t =>
    if t.state = .loading ∧ t.panels.all fun p => ((s.panel? p).map fun x => x.state == .live || x.state == .killed).getD true then
      let s := { s with tasks := FMap.set s.tasks e { t with state := .running, frozen := none } }
      if t.frozen.isSome then freeSlots s t.ctx e else s
    else s
  | none => s

/-- The preparation of a panel is over and its wheel starts (R77): the strands start, or a resumed panel restarts from
its shadow. -/
def execPreparationComplete (p : Nat) (s : State) : Host.Outcome State Fault Refusal :=
  .next (match s.panel? p with
    | none => s
    | some x =>
      if x.state = .preparing ∧ x.prep ≤ s.cycle then
        garmentLive (match (FMap.get? s.tasks x.entry).bind fun t => savedPanel t x.index with
        | some (y, ts) => resumePanel s p x y ts
        | none => takeShadow (startStrands (s.setPanel p { x with state := .live }) p) p) x.entry
      else s)

end Sys2Proof.Machine
end

