-- ==== Sys2Proof/Machine/Phase.lean ====
section
/-! DEFINITION. The meanings of the phase words: each for the tile in focus, nullified, clamping or executed (R140-R142,
R224-R252), and the row's way to them. -/

namespace Sys2Proof.Machine

open Sys2Proof

/-! ## MX -/

/-- Nothing happens (R229). -/
def execMxNop (p : Pred) (s : State) :
    Host.Outcome State Fault Refusal :=
  execWord p (.mxNop p) runMxNop s

/-- A column of the weight set is loaded (R231). -/
def execMxLd (p : Pred) (n : BitVec 4) (s : State) :
    Host.Outcome State Fault Refusal :=
  execWord p (.mxLd p n) (runMxLd n) s

/-- An interval from the input latch is issued (R230). -/
def execMxMm (p : Pred) (acc : BitVec 3) (row : BitVec 4) (s : State) :
    Host.Outcome State Fault Refusal :=
  execWord p (.mxMm p acc row) (runMxMm acc row) s

/-- An interval from the operand latch is issued (R230). -/
def execMxMmg (p : Pred) (acc : BitVec 3) (row : BitVec 4) (j : BitVec 4) (s : State) :
    Host.Outcome State Fault Refusal :=
  execWord p (.mxMmg p acc row j) (runMxMmg acc row j) s

/-- Accumulators are zeroed (R234). -/
def execMxAcz (p : Pred) (mask : BitVec 8) (s : State) :
    Host.Outcome State Fault Refusal :=
  execWord p (.mxAcz p mask) (runMxAcz mask) s

/-- An accumulator row is read (R233). -/
def execMxAcrd (p : Pred) (acc : BitVec 3) (row : BitVec 4) (w : Bool) (s : State) :
    Host.Outcome State Fault Refusal :=
  execWord p (.mxAcrd p acc row w) (runMxAcrd acc row) s

/-- The weight scales are loaded (R231). -/
def execMxScl (p : Pred) (s : State) :
    Host.Outcome State Fault Refusal :=
  execWord p (.mxScl p) runMxScl s

/-- The element formats are set (R231). -/
def execMxFmt (p : Pred) (fa : BitVec 5) (fb : BitVec 5) (s : State) :
    Host.Outcome State Fault Refusal :=
  execWord p (.mxFmt p fa fb) (runMxFmt fa fb) s

/-- An accumulator row is saved to the log (R233). -/
def execMxAcsv (p : Pred) (acc : BitVec 3) (row : BitVec 4) (i : BitVec 12) (s : State) :
    Host.Outcome State Fault Refusal :=
  execWord p (.mxAcsv p acc row i) (runMxAcsv acc row i) s

/-- An accumulator row is loaded from scratch (R233). -/
def execMxAcld (p : Pred) (acc : BitVec 3) (row : BitVec 4) (i : BitVec 12) (s : State) :
    Host.Outcome State Fault Refusal :=
  execWord p (.mxAcld p acc row i) (runMxAcld acc row i) s

/-! ## VX -/

/-- `vadd` on the tile (R235-R242). -/
def execVadd (p : Pred) (f : VF) (s : State) :
    Host.Outcome State Fault Refusal :=
  execWord p (.vadd p f) (runVx 0x00 f) s

/-- `vsub` on the tile (R235-R242). -/
def execVsub (p : Pred) (f : VF) (s : State) :
    Host.Outcome State Fault Refusal :=
  execWord p (.vsub p f) (runVx 0x01 f) s

/-- `vmul` on the tile (R235-R242). -/
def execVmul (p : Pred) (f : VF) (s : State) :
    Host.Outcome State Fault Refusal :=
  execWord p (.vmul p f) (runVx 0x02 f) s

/-- `vfma` on the tile (R235-R242). -/
def execVfma (p : Pred) (f : VF) (s : State) :
    Host.Outcome State Fault Refusal :=
  execWord p (.vfma p f) (runVx 0x03 f) s

/-- `vmax` on the tile (R235-R242). -/
def execVmax (p : Pred) (f : VF) (s : State) :
    Host.Outcome State Fault Refusal :=
  execWord p (.vmax p f) (runVx 0x04 f) s

/-- `vmin` on the tile (R235-R242). -/
def execVmin (p : Pred) (f : VF) (s : State) :
    Host.Outcome State Fault Refusal :=
  execWord p (.vmin p f) (runVx 0x05 f) s

/-- `vexp2` on the tile (R235-R242). -/
def execVexp2 (p : Pred) (f : VF) (s : State) :
    Host.Outcome State Fault Refusal :=
  execWord p (.vexp2 p f) (runVx 0x06 f) s

/-- `vlog2` on the tile (R235-R242). -/
def execVlog2 (p : Pred) (f : VF) (s : State) :
    Host.Outcome State Fault Refusal :=
  execWord p (.vlog2 p f) (runVx 0x07 f) s

/-- `vrcp` on the tile (R235-R242). -/
def execVrcp (p : Pred) (f : VF) (s : State) :
    Host.Outcome State Fault Refusal :=
  execWord p (.vrcp p f) (runVx 0x08 f) s

/-- `vrsq` on the tile (R235-R242). -/
def execVrsq (p : Pred) (f : VF) (s : State) :
    Host.Outcome State Fault Refusal :=
  execWord p (.vrsq p f) (runVx 0x09 f) s

/-- `vcvt` on the tile (R235-R242). -/
def execVcvt (p : Pred) (f : VF) (s : State) :
    Host.Outcome State Fault Refusal :=
  execWord p (.vcvt p f) (runVx 0x0A f) s

/-- `vcmp` on the tile (R235-R242). -/
def execVcmp (p : Pred) (f : VF) (s : State) :
    Host.Outcome State Fault Refusal :=
  execWord p (.vcmp p f) (runVcmp f) s

/-- `vsel` on the tile (R235-R242). -/
def execVsel (p : Pred) (f : VF) (s : State) :
    Host.Outcome State Fault Refusal :=
  execWord p (.vsel p f) (runVx 0x0C f) s

/-- `vand` on the tile (R235-R242). -/
def execVand (p : Pred) (f : VF) (s : State) :
    Host.Outcome State Fault Refusal :=
  execWord p (.vand p f) (runVx 0x0D f) s

/-- `vor` on the tile (R235-R242). -/
def execVor (p : Pred) (f : VF) (s : State) :
    Host.Outcome State Fault Refusal :=
  execWord p (.vor p f) (runVx 0x0E f) s

/-- `vxor` on the tile (R235-R242). -/
def execVxor (p : Pred) (f : VF) (s : State) :
    Host.Outcome State Fault Refusal :=
  execWord p (.vxor p f) (runVx 0x0F f) s

/-- `vshl` on the tile (R235-R242). -/
def execVshl (p : Pred) (f : VF) (s : State) :
    Host.Outcome State Fault Refusal :=
  execWord p (.vshl p f) (runVx 0x10 f) s

/-- `vshr` on the tile (R235-R242). -/
def execVshr (p : Pred) (f : VF) (s : State) :
    Host.Outcome State Fault Refusal :=
  execWord p (.vshr p f) (runVx 0x11 f) s

/-- `vperm` on the tile (R235-R242). -/
def execVperm (p : Pred) (f : VF) (s : State) :
    Host.Outcome State Fault Refusal :=
  execWord p (.vperm p f) (runVx 0x12 f) s

/-- `vscan` on the tile (R235-R242). -/
def execVscan (p : Pred) (f : VF) (s : State) :
    Host.Outcome State Fault Refusal :=
  execWord p (.vscan p f) (runVx 0x13 f) s

/-- `vred` on the tile (R235-R242). -/
def execVred (p : Pred) (f : VF) (s : State) :
    Host.Outcome State Fault Refusal :=
  execWord p (.vred p f) (runVx 0x14 f) s

/-- `vbcast` on the tile (R235-R242). -/
def execVbcast (p : Pred) (f : VF) (s : State) :
    Host.Outcome State Fault Refusal :=
  execWord p (.vbcast p f) (runVx 0x15 f) s

/-- `vpack` on the tile (R235-R242). -/
def execVpack (p : Pred) (f : VF) (s : State) :
    Host.Outcome State Fault Refusal :=
  execWord p (.vpack p f) (runVx 0x16 f) s

/-- `vunpack` on the tile (R235-R242). -/
def execVunpack (p : Pred) (f : VF) (s : State) :
    Host.Outcome State Fault Refusal :=
  execWord p (.vunpack p f) (runVx 0x17 f) s

/-- `vmov` on the tile (R235-R242). -/
def execVmov (p : Pred) (f : VF) (s : State) :
    Host.Outcome State Fault Refusal :=
  execWord p (.vmov p f) (runVx 0x18 f) s

/-- `vmov d, in` (R237). -/
def execVmovIn (p : Pred) (f : VF) (s : State) :
    Host.Outcome State Fault Refusal :=
  execWord p (.vmovIn p f) (runVmovIn f) s

/-- `vmov out, a` (R237). -/
def execVmovOut (p : Pred) (f : VF) (s : State) :
    Host.Outcome State Fault Refusal :=
  execWord p (.vmovOut p f) (runVmovOut f) s

/-- `vidx` on the tile (R235-R242). -/
def execVidx (p : Pred) (f : VF) (s : State) :
    Host.Outcome State Fault Refusal :=
  execWord p (.vidx p f) (runVx 0x19 f) s

/-- `vcount` on the tile (R235-R242). -/
def execVcount (p : Pred) (f : VF) (s : State) :
    Host.Outcome State Fault Refusal :=
  execWord p (.vcount p f) (runVx 0x1A f) s

/-- `vminmax` on the tile (R235-R242). -/
def execVminmax (p : Pred) (f : VF) (s : State) :
    Host.Outcome State Fault Refusal :=
  execWord p (.vminmax p f) (runVx 0x1B f) s

/-! ## LS -/

/-- A scratchpad row is read (R244). -/
def execLsRd (p : Pred) (idx : BitVec 12) (ctr : BitVec 3) (sh : BitVec 3) (s : State) :
    Host.Outcome State Fault Refusal :=
  execWord p (.lsRd p idx ctr sh) (runLsRd idx ctr sh) s

/-- A scratchpad row is written (R244). -/
def execLsWr (p : Pred) (idx : BitVec 12) (ctr : BitVec 3) (sh : BitVec 3) (s : State) :
    Host.Outcome State Fault Refusal :=
  execWord p (.lsWr p idx ctr sh) (runLsWr idx ctr sh) s

/-- A gather begins (R245). -/
def execLsG (p : Pred) (vi : Reg) (base : BitVec 12) (s : State) :
    Host.Outcome State Fault Refusal :=
  execWord p (.lsG p vi base) (runLsG vi base) s

/-- A scatter (R246). -/
def execLsS (p : Pred) (vd : Reg) (vi : Reg) (base : BitVec 12) (s : State) :
    Host.Outcome State Fault Refusal :=
  execWord p (.lsS p vd vi base) (runLsS vd vi base) s

/-- A word is emptied (R244). -/
def execLsFe (p : Pred) (idx : BitVec 12) (wd : BitVec 3) (s : State) :
    Host.Outcome State Fault Refusal :=
  execWord p (.lsFe p idx wd) (runLsFe idx wd) s

/-- A row is updated in place (R247). -/
def execLsUpd (p : Pred) (idx : BitVec 12) (ctr : BitVec 3) (sh : BitVec 3) (op : BitVec 3) (s : State) :
    Host.Outcome State Fault Refusal :=
  execWord p (.lsUpd p idx ctr sh op) (runLsUpd idx ctr sh op) s

/-! ## XB -/

/-- Beats are routed (R225). -/
def execXbRoute (p : Pred) (srcA : BitVec 4) (outsA : BitVec 8) (srcB : BitVec 4) (outsB : BitVec 8) (stream : BitVec 4) (s : State) :
    Host.Outcome State Fault Refusal :=
  execWord p (.xbRoute p srcA outsA srcB outsB stream) (runXbRoute srcA outsA srcB outsB stream) s

/-- Ease depths are set (R226). -/
def execXbEase (p : Pred) (n : BitVec 4) (e : BitVec 4) (sd : BitVec 4) (w : BitVec 4) (mx : BitVec 4) (vx : BitVec 4) (ls : BitVec 4) (s : State) :
    Host.Outcome State Fault Refusal :=
  execWord p (.xbEase p n e sd w mx vx ls) (runXbEase n e sd w mx vx ls) s

/-- A beat is held (R227). -/
def execXbHold (p : Pred) (src : BitVec 4) (q : BitVec 4) (s : State) :
    Host.Outcome State Fault Refusal :=
  execWord p (.xbHold p src q) (runXbHold src q) s

/-! ## TK -/

/-- Nothing happens (R252). -/
def execTkNop (p : Pred) (s : State) :
    Host.Outcome State Fault Refusal :=
  execWord p (.tkNop p) runTkNop s

/-- A counter field or the link is set (R248). -/
def execTkCnt (p : Pred) (c : BitVec 2) (field : BitVec 3) (value : BitVec 24) (s : State) :
    Host.Outcome State Fault Refusal :=
  execWord p (.tkCnt p c field value) (runTkCnt c field value) s

/-- The chain ticks (R249). -/
def execTkCntTick (p : Pred) (s : State) :
    Host.Outcome State Fault Refusal :=
  execWord p (.tkCntTick p) runTkCntTick s

/-- A tack is sent (R250). -/
def execTkSend (p : Pred) (ch : BitVec 4) (s : State) :
    Host.Outcome State Fault Refusal :=
  execWord p (.tkSend p ch) (runTkSend ch) s

/-- A tack is taken (R250). -/
def execTkWait (p : Pred) (ch : BitVec 4) (n : BitVec 12) (s : State) :
    Host.Outcome State Fault Refusal :=
  execWord p (.tkWait p ch n) (runTkWait ch) s

/-- The next schedule is chosen (R251). -/
def execTkSel (p : Pred) (src : BitVec 2) (n : BitVec 12) (s : State) :
    Host.Outcome State Fault Refusal :=
  execWord p (.tkSel p src n) (runTkSel src) s

/-- The panel is stitched at the end of the live cycle (R252). -/
def execTkStitch (p : Pred) (s : State) :
    Host.Outcome State Fault Refusal :=
  execWord p (.tkStitch p) runTkStitch s

/-! ## The row -/

/-- The predicate of a phase word. -/
def wordPred : Instr → Option Pred
  | .mxNop p => some p
  | .mxLd p _ => some p
  | .mxMm p _ _ => some p
  | .mxMmg p _ _ _ => some p
  | .mxAcz p _ => some p
  | .mxAcrd p _ _ _ => some p
  | .mxScl p => some p
  | .mxFmt p _ _ => some p
  | .mxAcsv p _ _ _ => some p
  | .mxAcld p _ _ _ => some p
  | .vadd p _ => some p
  | .vsub p _ => some p
  | .vmul p _ => some p
  | .vfma p _ => some p
  | .vmax p _ => some p
  | .vmin p _ => some p
  | .vexp2 p _ => some p
  | .vlog2 p _ => some p
  | .vrcp p _ => some p
  | .vrsq p _ => some p
  | .vcvt p _ => some p
  | .vcmp p _ => some p
  | .vsel p _ => some p
  | .vand p _ => some p
  | .vor p _ => some p
  | .vxor p _ => some p
  | .vshl p _ => some p
  | .vshr p _ => some p
  | .vperm p _ => some p
  | .vscan p _ => some p
  | .vred p _ => some p
  | .vbcast p _ => some p
  | .vpack p _ => some p
  | .vunpack p _ => some p
  | .vmov p _ => some p
  | .vmovIn p _ => some p
  | .vmovOut p _ => some p
  | .vidx p _ => some p
  | .vcount p _ => some p
  | .vminmax p _ => some p
  | .lsRd p _ _ _ => some p
  | .lsWr p _ _ _ => some p
  | .lsG p _ _ => some p
  | .lsS p _ _ _ => some p
  | .lsFe p _ _ => some p
  | .lsUpd p _ _ _ _ => some p
  | .xbRoute p _ _ _ _ _ => some p
  | .xbEase p _ _ _ _ _ _ _ => some p
  | .xbHold p _ _ => some p
  | .tkNop p => some p
  | .tkCnt p _ _ _ => some p
  | .tkCntTick p => some p
  | .tkSend p _ => some p
  | .tkWait p _ _ => some p
  | .tkSel p _ _ => some p
  | .tkStitch p => some p
  | _ => none

/-- What a phase word does on a tile. -/
def wordRun : Instr → Option (State → Nat → Nat → WRes)
  | .mxNop _ => some runMxNop
  | .mxLd _ n => some (runMxLd n)
  | .mxMm _ acc row => some (runMxMm acc row)
  | .mxMmg _ acc row j => some (runMxMmg acc row j)
  | .mxAcz _ mask => some (runMxAcz mask)
  | .mxAcrd _ acc row _ => some (runMxAcrd acc row)
  | .mxScl _ => some runMxScl
  | .mxFmt _ fa fb => some (runMxFmt fa fb)
  | .mxAcsv _ acc row i => some (runMxAcsv acc row i)
  | .mxAcld _ acc row i => some (runMxAcld acc row i)
  | .vadd _ f => some (runVx 0x00 f)
  | .vsub _ f => some (runVx 0x01 f)
  | .vmul _ f => some (runVx 0x02 f)
  | .vfma _ f => some (runVx 0x03 f)
  | .vmax _ f => some (runVx 0x04 f)
  | .vmin _ f => some (runVx 0x05 f)
  | .vexp2 _ f => some (runVx 0x06 f)
  | .vlog2 _ f => some (runVx 0x07 f)
  | .vrcp _ f => some (runVx 0x08 f)
  | .vrsq _ f => some (runVx 0x09 f)
  | .vcvt _ f => some (runVx 0x0A f)
  | .vcmp _ f => some (runVcmp f)
  | .vsel _ f => some (runVx 0x0C f)
  | .vand _ f => some (runVx 0x0D f)
  | .vor _ f => some (runVx 0x0E f)
  | .vxor _ f => some (runVx 0x0F f)
  | .vshl _ f => some (runVx 0x10 f)
  | .vshr _ f => some (runVx 0x11 f)
  | .vperm _ f => some (runVx 0x12 f)
  | .vscan _ f => some (runVx 0x13 f)
  | .vred _ f => some (runVx 0x14 f)
  | .vbcast _ f => some (runVx 0x15 f)
  | .vpack _ f => some (runVx 0x16 f)
  | .vunpack _ f => some (runVx 0x17 f)
  | .vmov _ f => some (runVx 0x18 f)
  | .vmovIn _ f => some (runVmovIn f)
  | .vmovOut _ f => some (runVmovOut f)
  | .vidx _ f => some (runVx 0x19 f)
  | .vcount _ f => some (runVx 0x1A f)
  | .vminmax _ f => some (runVx 0x1B f)
  | .lsRd _ idx ctr sh => some (runLsRd idx ctr sh)
  | .lsWr _ idx ctr sh => some (runLsWr idx ctr sh)
  | .lsG _ vi base => some (runLsG vi base)
  | .lsS _ vd vi base => some (runLsS vd vi base)
  | .lsFe _ idx wd => some (runLsFe idx wd)
  | .lsUpd _ idx ctr sh op => some (runLsUpd idx ctr sh op)
  | .xbRoute _ srcA outsA srcB outsB stream => some (runXbRoute srcA outsA srcB outsB stream)
  | .xbEase _ n e sd w mx vx ls => some (runXbEase n e sd w mx vx ls)
  | .xbHold _ src q => some (runXbHold src q)
  | .tkNop _ => some runTkNop
  | .tkCnt _ c field value => some (runTkCnt c field value)
  | .tkCntTick _ => some runTkCntTick
  | .tkSend _ ch => some (runTkSend ch)
  | .tkWait _ ch _ => some (runTkWait ch)
  | .tkSel _ src _ => some (runTkSel src)
  | .tkStitch _ => some runTkStitch
  | _ => none

end Sys2Proof.Machine
end

