-- ==== Sys2Proof/Machine/CoreVec.lean ====
section
/-! DEFINITION. The service-core vector forms (R208-R211): `vld`, `vst`, `vgather`, `vscatter`, `vmovg`, `vmovz` and
`vop`. -/

namespace Sys2Proof.Machine

open Sys2Proof

/-- z[x] of the running thread. -/
def State.z (s : State) (x : Reg) : Lanes := getV s.cur.z x

/-- The state with z[x] of the running thread written. -/
def State.setZ (s : State) (x : Reg) (v : Lanes) : State := s.setCur { s.cur with z := putV s.cur.z x v }

/-- The own-scratch location of 64 bytes that a tagged address names, 64-aligned (R159, R208). -/
def vectorScratch (s : State) (A : Word) : Except Trap ScratchLoc :=
  match partyTagged s s.focus A 64 with
  | none => .error (mkTrap .perm A)
  | some l => if aligned A 64 then .ok l else .error (mkTrap .align A)

/-- z[d] := the 64 bytes at A (R208). -/
def execVld (d a : Reg) (off : BitVec 14) (s : State) : Host.Outcome State Fault Refusal :=
  issue (.vld d a off) s fun s =>
    let A := memAddr s a off 64
    if isTagged A then
      .bindX (vectorScratch s A) fun l => .readOk s l 64 (.ok (s.setZ d (bytesLanes (readScratch s s.focus l 64))))
    else
      .bindX (accessTarget s s.focus .read A 64) fun (s, tg) =>
        if paKind s tg.pa = .device then .bindDev (deviceLoad s s.focus A tg.pa 64) fun (s, _) => .ok s
        else .bindX (readFor s s.focus tg 64) fun (s, bs) => .ok (s.setZ d (bytesLanes bs))

/-- The 64 bytes at A := z[d] (R208). -/
def execVst (d a : Reg) (off : BitVec 14) (s : State) : Host.Outcome State Fault Refusal :=
  issue (.vst d a off) s fun s =>
    let A := memAddr s a off 64
    let bs := lanesBytes (s.z d)
    if isTagged A then
      .bindX (vectorScratch s A) fun l => .bindX (writeScratch s s.focus l bs false) fun s => .ok s
    else
      .bindX (accessTarget s s.focus .write A 64) fun (s, tg) =>
        if paKind s tg.pa = .device then
          .bindDev (deviceStore s s.focus (wordVal (.vst d a off)) A tg.pa 64 0#64) fun s => .ok s
        else .bindX (writeFor s s.focus tg bs) fun s => .ok s

/-- The lane addresses g[a] + 4 × uval(z[b] lane i) (R209). -/
def laneAddrs (s : State) (a b : Reg) : List Word := laneIds.map fun i => s.g a + 4#64 * zext64 (lane (s.z b) i)

/-- Every lane translated and checked before any is read or written (R209); a lane in device registers, or one
whose completion from the host port has an error status (R340), raises E.PERM. -/
def laneTargets (s : State) (acc : Access) : List Word → Except Trap (State × List Target)
  | [] => .ok (s, [])
  | A :: As =>
    match translate s (partyReq s s.focus acc) A with
    | .error t => .error t
    | .ok (s, tg) =>
      if paKind s tg.pa = .device ∨ accessFails s acc tg.pa then .error (mkTrap .perm A)
      else match laneTargets s acc As with
      | .error t => .error t
      | .ok (s, tgs) => .ok (s, tg :: tgs)

/-- The lanes read in order. -/
def readLanes (s : State) : List Target → Except Trap (State × List W32)
  | [] => .ok (s, [])
  | tg :: tgs =>
    match readFor s s.focus tg 4 with
    | .error t => .error t
    | .ok (s, bs) => match readLanes s tgs with
      | .error t => .error t
      | .ok (s, l) => .ok (s, BitVec.ofNat 32 (ofBytes bs) :: l)

/-- The lanes stored in ascending order. -/
def writeLanes (s : State) : List (Target × W32) → Except Trap State
  | [] => .ok s
  | (tg, v) :: l =>
    match writeFor s s.focus tg (toBytes 4 v.toNat) with
    | .error t => .error t
    | .ok s => writeLanes s l

/-- Lane i of z[d] := load(A_i, 4) (R209). -/
def execVgather (d a b : Reg) (s : State) : Host.Outcome State Fault Refusal :=
  issue (.vgather d a b) s fun s =>
    if !aligned (s.g a) 4 then trapOf .align (s.g a)
    else
      .bindX (laneTargets s .read (laneAddrs s a b)) fun (s, tgs) =>
        .bindX (readLanes s tgs) fun (s, l) => .ok (s.setZ d (ofLanes fun i => l.getD i 0#32))

/-- Lane i of z[d] is stored to A_i, in ascending lane order (R209). -/
def execVscatter (d a b : Reg) (s : State) : Host.Outcome State Fault Refusal :=
  issue (.vscatter d a b) s fun s =>
    if !aligned (s.g a) 4 then trapOf .align (s.g a)
    else
      .bindX (laneTargets s .write (laneAddrs s a b)) fun (s, tgs) =>
        .bindX (writeLanes s (tgs.zip (laneIds.map fun i => lane (s.z d) i))) fun s => .ok s

/-- g[d] := zext(lane g[b][3:0] of z[a]) (R210). -/
def execVmovg (d a b : Reg) (s : State) : Host.Outcome State Fault Refusal :=
  issue (.vmovg d a b) s fun s => .ok (s.setG d (zext64 (lane (s.z a) ((s.g b).toNat % 16))))

/-- Lane g[b][3:0] of z[d] := g[a][31:0] (R210). -/
def execVmovz (d a b : Reg) (s : State) : Host.Outcome State Fault Refusal :=
  issue (.vmovz d a b) s fun s =>
    let n := (s.g b).toNat % 16
    .ok (s.setZ d (ofLanes fun i => if i = n then (s.g a).setWidth 32 else lane (s.z d) i))

/-- The VX operation of its opcode on the thread's z and k registers (R211). -/
def execVop (op : BitVec 5) (w : BitVec 30) (s : State) : Host.Outcome State Fault Refusal :=
  issue (.vop op w) s fun s =>
    if vopFits op w then
      let r := vxCompute op.toNat (VF.ofBits w) ⟨s.cur.z, s.cur.k⟩
      .ok (s.setCur { s.cur with z := r.v, k := r.k })
    else trapOf .illegal (wordVal (.vop op w))

end Sys2Proof.Machine
end

