-- ==== Sys2Proof/Machine/Ask.lean ====
section
/-! DEFINITION. Reads and `amo`s that wait in a home queue (R97, R99, R100, R114): placing one, and the end of the form once it is answered. -/

namespace Sys2Proof.Machine

open Sys2Proof

/-! ## Placing a request -/

/-- The kind, width and registers of an `amo` form. -/
def amoParts : Instr → Option (Nat × Bool × Reg × Reg × Reg)
  | .amoAdd w a b c => some (0, w, a, b, c)
  | .amoAnd w a b c => some (1, w, a, b, c)
  | .amoOr w a b c => some (2, w, a, b, c)
  | .amoXor w a b c => some (3, w, a, b, c)
  | .amoMin w a b c => some (4, w, a, b, c)
  | .amoMax w a b c => some (5, w, a, b, c)
  | .amoSwap w a b c => some (6, w, a, b, c)
  | .amoCas w a b c => some (7, w, a, b, c)
  | .amoFadd a b c => some (8, false, a, b, c)
  | _ => none

/-- The address and the bytes that a load form reads from memory. -/
def loadParts? (s : State) : Instr → Option (Word × Nat)
  | .ld sz _ a off => some (memAddr s a off sz.bytes, sz.bytes)
  | .ldZ sz _ a off => some (memAddr s a off sz.bytes, sz.bytes)
  | .vld _ a off => if isTagged (memAddr s a off 64) then none else some (memAddr s a off 64, 64)
  | _ => none

/-- The bytes of a range that a party's own log or its core's L1 holds (R100). -/
def heldBytes (s : State) (p : Party) (pa n : Nat) : Cells :=
  (List.range n).filterMap fun j =>
    (match p with
      | .core c => FMap.get? (l1Of s (c / 2)) (pa + j)
      | p => latest (ownLog s p) fun e => e.memByte (pa + j)).map fun b => (pa + j, b)

/-- The running thread's form has a request in the home queue of its line, for which it waits. -/
def placeAsk (s : State) (i : Instr) (tg : Nat × Nat) (held : Cells) (base len dom : Nat) (amo : Option (Nat × Nat × Nat)) : State :=
  let id := s.nextId
  { pushReq s base (.ask ⟨id, s.focus, base, len, dom, partyTask s s.focus, amo⟩) with
    nextId := id + 1, asked := FMap.set s.asked s.focus ⟨id, i, tg, held, base, amo.isSome, none⟩ }

/-- A load places what its caches lack in the home queue; none where it needs nothing of the home or does not get that far. -/
def askLoad (i : Instr) (s : State) : Option State :=
  (loadParts? s i).bind fun (A, n) =>
    match accessTarget s s.focus .read A n with
    | .error _ => none
    | .ok (s, tg) =>
      let (base, len) := asksHome s s.focus tg.pa n
      if paKind s tg.pa = .device ∨ len = 0 then none
      else some (placeAsk (l2Fill s (writerOf s s.focus) tg.dom base len) i (tg.pa, n) (heldBytes s s.focus tg.pa n) base len tg.dom none)

/-- An `amo` places itself in the home queue, after the stitch and the drain that it implies (R114); none on a D page, and where it does not get
that far. -/
def askAmo (i : Instr) (s : State) : Option State :=
  (amoParts i).bind fun (kind, wide, a, b, c) =>
    let n := if wide then 8 else 4
    match amoTarget s kind n (s.g b) with
    | .error _ => none
    | .ok (s, tg) =>
      if tg.det then none
      else
        let m := 2 ^ (8 * n)
        let amo := (kind, (s.g c).toNat % m, (s.g a).toNat % m)
        some (placeAsk (amoDrain (stitchBefore s) s.focus (lineOf tg.pa)) i (tg.pa, n) [] tg.pa n tg.dom (some amo))

/-- The form issued with its access to a home left in the home queue, where it makes one: the thread waits for the answer (R99, R100). -/
def askIssue (i : Instr) (s : State) : Option State :=
  if (issueCheck i s).isSome ∨ stitchWaits i s = true then none
  else ((askLoad i s).orElse fun _ => askAmo i s).map noteIssue

/-! ## The answer -/

/-- The bytes that a form reads: those that its log or cache held when it was issued, the others as the home answered (R100). -/
def Asked.bytes (q : Asked) (reply : List Byte) : List Byte :=
  (List.range q.tg.2).map fun j => (FMap.get? q.held (q.tg.1 + j)).getD (reply.getD (q.tg.1 + j - q.base) 0)

/-- The effect of an answered form on the running thread: a load's register, or the old value with the line's clean copies dropped (R114, R170,
R175, R208). -/
def takeReply (s : State) (q : Asked) (bs : List Byte) : State :=
  match q.instr with
  | .ld _ d _ _ => s.setG d (extend bs true)
  | .ldZ _ d _ _ => s.setG d (extend bs false)
  | .vld d _ _ => s.setZ d (bytesLanes bs)
  | i => match amoParts i with
    | some (_, _, a, _, _) =>
      (countFor (dropCleanFor s s.focus (· == lineOf q.tg.1)) s.focus 34 1).setG a (BitVec.ofNat 64 (ofBytes bs))
    | none => s

/-- A thread that a debugger holds or whose panel is frozen takes no answer, but for one in a panel that stops for a freeze (R43, R267, R329). -/
def takesAnswer (s : State) (p : Party) : Bool :=
  !isStill s p || (((partyPanel p).bind s.panel?).map fun x => x.state == .stopping).getD false

/-- A thread whose request is answered goes on: its form completes, or E.ECC where a byte was poisoned (R99, R327). -/
def finishAsk (s : State) (p : Party) (q : Asked) : State :=
  match q.reply with
  | none => s
  | some (bs, bad) =>
    let f := s.focus
    let s := { s with focus := p, asked := FMap.erase s.asked p }
    let s := match bad with
      | some sec => raise s (eccTrap (32 * sec))
      | none => commitShadow q.instr (retire q.instr (takeReply s q (q.bytes bs)))
    { s with focus := f }

end Sys2Proof.Machine
end

