-- ==== Sys2Proof/Machine/Wheel.lean ====
section
/-! DEFINITION. The wheel (R17, R28, R31, R213, R224): the remap table, the clamp, the row, the end of a live cycle, and
the steps of the array, the tacks and the streams. -/

namespace Sys2Proof.Machine

open Sys2Proof

/-! ## The remap table (R31, R32) -/

/-- The die of a logical block (R4). -/
def dieOf (b : Nat) : Nat := 2 * (b / 16 / 16) + b % 16 / 8

/-- A block's place among its die's logical blocks, in ascending order (by, bx): the number of its own physical block. -/
def placeInDie (b : Nat) : Nat := 8 * (b / 16 % 16) + b % 8

/-- The physical blocks of a die that have failed, numbered 136·die + place; the spares are 128 to 135. -/
def failedOf (s : State) (die : Nat) : List Nat := (List.range 136).filter fun i => s.failedBlocks.contains (136 * die + i)

/-- The healthy spares of a die. -/
def healthySpares (s : State) (die : Nat) : List Nat :=
  ((List.range 8).map (· + 128)).filter fun i => !s.failedBlocks.contains (136 * die + i)

/-- The logical blocks of a die, by place, whose own physical block has failed (R32). -/
def displaced (s : State) (die : Nat) : List Nat := (failedOf s die).filter fun i => decide (i < 128)

/-- The healthy places of a die in descending order. -/
def healthyDown (s : State) (die : Nat) : List Nat :=
  ((List.range 128).filter fun i => !s.failedBlocks.contains (136 * die + i)).reverse

/-- The physical block of a place of a die (R32): its own, a spare, or a shared one. -/
def physicalOf (s : State) (die place : Nat) : Nat :=
  if s.failedBlocks.contains (136 * die + place) then
    let ds := displaced s die
    let k := ds.idxOf place
    let sp := healthySpares s die
    match sp[k]? with
    | some q => q
    | none => (healthyDown s die).getD (k - sp.length) place
  else place

/-- Two logical blocks of a die share the physical block (R31). -/
def isShared (s : State) (b : Nat) : Bool :=
  let d := dieOf b
  let q := physicalOf s d (placeInDie b)
  !s.failedBlocks.isEmpty && (List.range 128).any fun i => i != placeInDie b && physicalOf s d i == q

/-- The panel advances once every two fabric cycles (R31). -/
def halfRate (s : State) (x : Panel) : Bool := x.blocks.any (isShared s)

/-- The logical block has taken the physical block of another, with which it shares it (R32). -/
def isGuest (s : State) (b : Nat) : Bool := isShared s b && s.failedBlocks.contains (136 * dieOf b + placeInDie b)

/-- The panel has logical blocks that share a physical block as its hosts and others that do as guests: a row of it takes both cycles of a
pair, the guests' part in the second (R31). -/
def isMixed (s : State) (x : Panel) : Bool :=
  x.blocks.any (isGuest s) && x.blocks.any fun b => isShared s b && !isGuest s b

/-- The fabric cycle is the one of each pair in which the panel advances: at half rate an even one, and an odd one where all the blocks that
it shares are guests or where the row's first part has executed; a panel of full rate advances in each (R31 names no phase: DESIGN CHOICE, log
123). -/
def inPhase (s : State) (x : Panel) : Bool :=
  !halfRate s x ||
    (if x.half.isSome || (x.blocks.filter (isShared s)).all (isGuest s) then s.cycle % 2 == 1 else s.cycle % 2 == 0)

/-- The logical block of a tile, numbered 16 · by + bx. -/
def logicalBlock (x : Panel) (t : Nat) : Nat :=
  16 * (x.byy + blockOf x t / x.image.width) + x.bx + blockOf x t % x.image.width

/-- The tiles of a panel whose part of a row executes in the second cycle of a pair, where others execute in the first (R31). -/
def laterTiles (s : State) (x : Panel) : List Nat :=
  if isMixed s x then (List.range x.ntiles).filter fun t => isGuest s (logicalBlock x t) else []

/-! ## What has come due (R228, R232, R245, R250) -/

/-- The intervals that have taken their pipeline steps are added in issue order (R228, R230). -/
def completeIntervals (tl : Tile) : Tile :=
  { (tl.pipe.filter fun v => v.left == 0).foldl addInterval tl with pipe := tl.pipe.filter fun v => v.left != 0 }

/-- A gather whose next entry is due: entry i at the end of live cycle t + 1 + i (R245). -/
def gatherDue (g : Gather) : Bool := decide (g.done + 2 ≤ g.age)

/-- The entries due whose rows the store-to-load table forwards (R243, R245). -/
def gatherForwards (tl : Tile) : Nat :=
  ((tl.gathers.filter gatherDue).filter fun g => tl.forwards g.strand (g.offs.getD g.done 0)).length

/-- The entries due are written, and a gather with 16 entries is over (R245). -/
def writeGathers (t : Nat) (tl : Tile) : Tile :=
  let tl := (tl.gathers.filter gatherDue).foldl (gatherEntry t) tl
  let gs := tl.gathers.map fun g => if gatherDue g then { g with done := g.done + 1 } else g
  { tl with gathers := gs.filter fun g => decide (g.done < 16) }

/-- The ramp-down after a quiet stretch of 64 live cycles has fillers to run (R232). (DEDUCED, log 55) -/
def rampsDown (tl : Tile) : Bool := decide (64 ≤ tl.quiet) && decide (0 < tl.rampDown)

/-- The ramp-down fillers of a tile run without a hold (R232). -/
def runRampDown (x : Panel) (t : Nat) : Panel :=
  let tl := x.tile t
  if rampsDown tl then (x.setTile t { tl with rampDown := 0 }).count 12 tl.rampDown else x

/-- The `mxhint`s that are due, by the live cycle in which their ramp-ups start. -/
def hintsDue (x : Panel) : List Nat := x.hint.filter fun h => decide (h ≤ x.live)

/-- The ramp-up of a tile that is idle when an `mxhint` is due starts in the hint's live cycle (R232, R258). -/
def hintTile (h : Nat) (x : Panel) (t : Nat) : Panel :=
  let tl := x.tile t
  if idleAt x tl h then (x.setTile t { tl with rampTo := h + 8 }).count 12 8 else x

/-- The ramp-ups that `mxhint` set come due (R258). -/
def startHints (x : Panel) : Panel :=
  let y := (hintsDue x).foldl (fun x h => (List.range x.ntiles).foldl (hintTile h) x) x
  { y with hint := y.hint.filter fun h => decide (y.live < h) }

/-- A tack is due (R250; DEDUCED, log 26). -/
def tackDue (now live : Nat) (f : Flight) : Bool := if f.clamped then decide (f.due ≤ now) else decide (f.due ≤ live)

/-- Some pending count of a channel is 255, so that one more overflows: the tile it is found in. -/
def tackOverflow (x : Panel) (ch : Nat) : Option Nat :=
  match (List.range x.ntiles).find? fun t => decide (255 ≤ (x.tile t).pend ch) with
  | some t => some t
  | none => if 255 ≤ x.agPending[ch % 16]'(Nat.mod_lt _ (by decide)) then some 0 else none

/-- A due tack of a channel arrives: its counts rise, or the fault E.ENGINE of a count above 255 (R250, R319). A chalk trigger on the channel
fires with the arrival (R200 names the tack alone, not its sending: DESIGN CHOICE, log 143). -/
def arriveTack (s : State) (p : Nat) (ch : Nat) : State :=
  match s.panel? p with
  | none => s
  | some x =>
    match x.tacks.find? fun f => f.ch == ch && tackDue s.cycle x.live f with
    | none => s
    | some f =>
      match tackOverflow x ch with
      | some t =>
        let s := s.setPanel p { x with tacks := f :: x.tacks.erase f }
        fabricFault s p ⟨t, 4, none, mkTrap .engine 0, true, none⟩
      | none =>
        let x := { x with tacks := x.tacks.erase f, chalkHit := x.chalkHit || x.chalk == some (.onTack ch) }
        s.setPanel p (raiseTack x ch)

/-- The channels with a due tack, in the order of sending. -/
def dueChannels (s : State) (p : Nat) : List Nat :=
  match s.panel? p with
  | some x => (x.tacks.filter (tackDue s.cycle x.live)).map (·.ch)
  | none => []

/-- The panel is held by a fault. -/
def isFaulted (s : State) (p : Nat) : Bool := ((s.panel? p).map fun x => !x.faulted.isEmpty).getD true

/-- Every due tack of a list of channels arrives, until one overflows. -/
def arriveTacks (p : Nat) : List Nat → State → State
  | [], s => s
  | ch :: l, s => if isFaulted s p then s else arriveTacks p l (arriveTack s p ch)

/-- Everything that has come due in a panel before its next live cycle. -/
def settlePanelDue (s : State) (p : Nat) : State :=
  if ((s.panel? p).bind (·.half)).isSome then s
  else
    let s := s.modPanel p fun x =>
      let x := x.count 9 ((x.tiles.map fun c => gatherForwards c.2).sum)
      let x := { x with tiles := mapVals (fun t tl => writeGathers t (completeIntervals tl)) x.tiles }
      startHints ((List.range x.ntiles).foldl runRampDown x)
    let s := if ((s.panel? p).map (·.stitch)).getD false then stitchPanel (s.modPanel p fun x => { x with stitch := false }) p else s
    arriveTacks p (dueChannels s p) s

/-! ## The row (R17, R98, R224) -/

/-- A word of the present row: its tile, its element, the instruction. -/
structure RowWord where
  tile : Nat
  elem : Nat
  instr : Instr
  deriving DecidableEq, Repr

/-- The order of the elements of a tile within a row (R98): LS, MX, VX, XB, TK. -/
def elemOrder : List Nat := [2, 0, 1, 3, 4]

/-- The word of an element of a tile at the present row, where it is no word of zeros. -/
def wordAt (x : Panel) (t e : Nat) : Option Instr :=
  let j := x.row + (if x.schedB then x.image.wheel else 0)
  (x.image.phases[(t * 5 + e) * x.image.entries + j]?).bind decodePhase

/-- The words of the row that its predicates let execute, in their order (R17, R98, R140). -/
def rowWords (x : Panel) : List RowWord :=
  (List.range x.ntiles).flatMap fun t => elemOrder.filterMap fun e =>
    if x.skips.contains (t, e) then none
    else (wordAt x t e).bind fun i =>
      if ((wordPred i).map fun p => predHolds p (x.tile t)).getD false then some ⟨t, e, i⟩ else none

/-- The clamps that the words of the row begin (R224); an earlier `tk.sel` of the row takes an entry before a later. -/
def rowClamps (x : Panel) (now : Nat) : Nat → List RowWord → List Hold
  | _, [] => []
  | sels, w :: ws =>
    let more := match w.instr with | .tkSel _ src _ => if src = 0#2 then 1 else 0 | _ => 0
    match clampOf x w.tile sels now w.instr with
    | some h => h :: rowClamps x now (sels + more) ws
    | none => rowClamps x now (sels + more) ws

/-- A clamp goes on: it keeps the cycle it began in and the cycles it has left. -/
def keepHold (old : List Hold) (h : Hold) : Hold :=
  match old.find? fun o => o.cause == h.cause && o.tile == h.tile && o.elem == h.elem with
  | some o => { h with since := o.since, left := if h.cause = .rampUp then o.left else h.left }
  | none => h

/-- The timeout of a tack wait or condition wait of the row has expired (R250, R251). (DEDUCED, log 57) -/
def holdExpired (now : Nat) (h : Hold) : Bool :=
  (h.cause == .tackWait || h.cause == .condWait) && decide (h.left ≤ now - h.since)

/-- MX pipelines advance in a held cycle in which an advancing cause is under way (R224). -/
def advancesMx (hs : List Hold) : Bool := hs.any fun h => h.cause == .drain || h.cause == .rampUp

/-- A pipeline step of every tile. -/
def pipeStep (x : Panel) : Panel :=
  { x with tiles := mapVals (fun _ tl => { tl with pipe := tl.pipe.map fun v => { v with left := v.left - 1 } }) x.tiles }

/-- One ramp-up cycle of a tile passes; with the last one the ramp-up ends (R232). -/
def rampCycle (x : Panel) (h : Hold) : Panel :=
  if h.cause = .rampUp ∧ h.left ≤ 1 then x.setTile h.tile { x.tile h.tile with rampTo := max 1 x.live } else x

/-- The threads of a panel may issue in this fabric cycle, each one word; so too in one of a clamp by a tack or condition wait, where R263 bounds
no number (DESIGN CHOICE, log 141). -/
def Panel.grant (x : Panel) (now : Nat) : Panel := { x with tok := now + 1 }

/-- A hold after a held cycle. -/
def Hold.spent (h : Hold) : Hold := if h.cause = .rampUp then { h with left := h.left - 1 } else h

/-- The hold of a fault of the panel (R224). -/
def Hold.isFault (h : Hold) : Bool := h.cause == .translation || h.cause == .fabricFault

/-- A held cycle of the row's clamps and, where `tk`, of a `tkwait` (R224): every cause counted; the threads issue where a tack or condition
wait is among the causes, whatever the others (R263 does not say: DESIGN CHOICE, log 141); the holds of a fault and the searches made stay. -/
def holdCycle (now : Nat) (tk : Bool) (x : Panel) (hs : List Hold) : Panel :=
  let has (c : ClampCause) : Bool := hs.any fun h => h.cause == c
  let ramps := (hs.filter fun h => h.cause == .rampUp).length
  let x := x.count 1 1
  let x := if has .lateReply then x.count 2 1 else x
  let x := if tk || has .tackWait then x.count 4 1 else x
  let x := x.count 12 ramps
  let x := if advancesMx hs then pipeStep x else x
  let x := hs.foldl rampCycle x
  let x := if x.holds.any fun h => h.cause == .translation then x.count 3 1 else x
  let x := { x with holds := hs.map Hold.spent ++ x.holds.filter fun h => h.isFault || h.found }
  if tk || has .tackWait || has .condWait then x.grant now else x

/-- The words of a tile before its chain start and after it. -/
def isTk (w : RowWord) : Bool := w.elem == 4

/-- Words executed one after another: the state after them and the faults found. -/
def runWords (p : Nat) : List RowWord → State → List WFault → State × List WFault
  | [], s, fs => (s, fs)
  | w :: ws, s, fs =>
    match wordRun w.instr with
    | none => runWords p ws s fs
    | some run =>
      match run s p w.tile with
      | .ok s' => runWords p ws s' fs
      | .error f => runWords p ws s (fs ++ [f])

/-- A row executed tile by tile: its words, with the chain start of the tile before its TK word (R98, R249, R250). -/
def runTiles (p : Nat) (ws : List RowWord) : List Nat → State → List WFault → State × List WFault
  | [], s, fs => (s, fs)
  | t :: ts, s, fs =>
    let own := ws.filter fun w => w.tile == t
    let (s, fs) := runWords p (own.filter fun w => !isTk w) s fs
    let s := s.modPanel p fun x => chainStart x t
    let (s, fs) := runWords p (own.filter isTk) s fs
    runTiles p ws ts s fs

/-! ## The end of a live cycle (R17, R28, R213, R214) -/

/-- The word feeds the array (R230). -/
def isFeed : Instr → Bool
  | .mxMm _ _ _ => true | .mxMmg _ _ _ _ => true | _ => false

/-- The quiet count of a tile (R230, R232). -/
def quietStep (fed : Bool) (tl : Tile) : Tile :=
  if fed then { tl with quiet := 0, rampDown := 8 } else { tl with quiet := min 65 (tl.quiet + 1) }

/-- A gather grows older by a live cycle. -/
def ageGathers (tl : Tile) : Tile := { tl with gathers := tl.gathers.map fun g => { g with age := g.age + 1 } }

/-- A live cycle ends (R213, R214, R228): pipelines step, gathers and latches advance, the threads may issue, ev00. -/
def endLive (now : Nat) (x : Panel) (fed : List Nat) : Panel :=
  let x := pipeStep x
  let x := { x with tiles := mapVals (fun t tl => latchStep (ageGathers (quietStep (fed.contains t) tl))) x.tiles }
  ({ x with live := x.live + 1 }.grant now).count 0 1

/-- The row after a live cycle of a row (R17, R28): the next one, and at the end of a turn the schedule chosen. -/
def nextRow (x : Panel) : Panel :=
  let x := { x with holds := [], skips := [], rowRun := none, half := none }
  if x.row + 1 < x.image.wheel then { x with row := x.row + 1 }
  else if x.nextB ≠ x.schedB then ({ x with row := 0, schedB := x.nextB, switching := 2 }).count 6 1
  else { x with row := 0 }

/-! ## A cycle of the wheel -/

/-- The strand of a row runs: its thread is running and in no wait, and it is neither finished nor killed (R20). -/
def strandRuns (s : State) (p : Nat) (x : Panel) (i : Nat) : Bool :=
  let t := s.thread (.seq p i)
  t.status == .running && t.wait.isNone && !(x.strand i).finished && !(x.strand i).killed

/-- The row executes with its words, fixed when it is first broadcast. -/
def rowRuns (s : State) (p : Nat) (x : Panel) : Bool :=
  match rowOwner x x.row with
  | none => false
  | some i => match x.rowRun with
    | some b => b && !(x.strand i).killed
    | none => strandRuns s p x i

/-- The first fault of the row clamps the panel: no word of it has executed (R262, R320). (DEDUCED, log 56) -/
def rowFault (s : State) (p : Nat) (fs : List WFault) : State :=
  match firstFault fs with
  | some f => fabricFault s p f
  | none => s

/-- A cycle in which a row raises faults, held by them and by the row's other clamps, which overlap (R224). -/
def faultCycle (s : State) (p : Nat) (tk : Bool) (fs : List WFault) (hs : List Hold) : State :=
  (rowFault s p fs).modPanel p fun x => holdCycle s.cycle tk x hs

/-- The end of a row's part in a live cycle: with its last part the live cycle of the row ends (R17, R31). -/
def endPart (now : Nat) (x : Panel) (last run : Bool) (fed : List Nat) : Panel :=
  let fed := x.half.getD [] ++ fed
  let x := { x with rowAt := (now + 1, x.row) }
  if last then
    let x := if (rowOwner x x.row).isSome && !run then x.count 5 1 else x
    nextRow (endLive now x fed)
  else { x with half := some fed }

/-- The present row executed in a live cycle, where the panel shares physical blocks both as host and as guest in two parts (R31). No part of it
executes where a word of it faults. -/
def liveRow (s : State) (p : Nat) (x : Panel) (run : Bool) (ws : List RowWord) : State :=
  let later := laterTiles s x
  let tiles := if x.half.isSome then later else (List.range x.ntiles).filter fun t => !later.contains t
  let (s', fs) := runTiles p ws tiles s (if x.half.isSome then [] else gatherFaults x)
  let fs := if x.half.isSome then fs else (runTiles p ws later s' fs).2
  if fs.isEmpty then
    let fed := (ws.filter fun w => isFeed w.instr && tiles.contains w.tile).map (·.tile)
    s'.modPanel p fun x => endPart s.cycle x (x.half.isSome || later.isEmpty) run fed
  else faultCycle s p false fs []

/-- The predicate of an element's word lets it execute (R140): an empty entry has none to nullify it. -/
def notNullified (x : Panel) (t e : Nat) : Bool :=
  match wordAt x t e with
  | some i => ((wordPred i).map fun p => predHolds p (x.tile t)).getD true
  | none => true

/-- The one-shot breakpoint that a row meets: schedule A, its word not nullified by its predicate (R140, R337). -/
def tbreakAt (s : State) (p : Nat) (x : Panel) : Option (Nat × Nat × Nat × Nat) :=
  if x.schedB || x.half.isSome then none
  else s.tbreaks.find? fun b => b.1 == p && b.2.2.2 == x.row && notNullified x b.2.1 b.2.2.1

/-- The live cycle of a row, or the stop of a one-shot breakpoint before it (R337). -/
def liveOrStop (s : State) (p : Nat) (x : Panel) (run : Bool) (ws : List RowWord) : State :=
  match tbreakAt s p x with
  | some b => debugStop { s with tbreaks := s.tbreaks.filter fun c => c != b } (.tile p b.2.1)
  | none => liveRow s p x run ws

/-- The clamps of the present row, those under way going on (R224). -/
def rowHolds (s : State) (x : Panel) (ws : List RowWord) : List Hold :=
  (rowClamps x s.cycle 0 ws ++ gatherHolds x s.cycle).map (keepHold x.holds)

/-- The faults of waits of the row whose timeouts have expired (R250, R251). -/
def expiredFaults (now : Nat) (hs : List Hold) : List WFault :=
  (hs.filter (holdExpired now)).map fun h => ⟨h.tile, 4, none, mkTrap .waitBound (BitVec.ofNat 64 h.left), false, none⟩

/-- The faults that the words of a clamped row raise at once: those that do not wait for its clamps (R224). -/
def clampedFaults (s : State) (p : Nat) (x : Panel) (ws : List RowWord) : List WFault :=
  (runTiles p ws (List.range x.ntiles) s []).2

/-- The holds of the present row that have begun and have not ended (R224). -/
def begunHolds (s : State) (p : Nat) (x : Panel) : List Hold :=
  (rowHolds s x (if rowRuns s p x then rowWords x else [])).filter fun h =>
    x.holds.any fun o => o.cause == h.cause && o.tile == h.tile && o.elem == h.elem

/-- A held cycle of another cause: the heat, a publish, a `tkwait`, or a fault before the row (R224): the row's clamps that have begun go on and
end, and their timeouts expire. -/
def heldCycle (s : State) (p : Nat) : State :=
  match s.panel? p with
  | none => s
  | some x =>
    let tk := tkwaits s p
    let hs := begunHolds s p x
    let x := { x with publishHold := x.publishHold - 1 }
    let fs := if x.faulted.isEmpty then expiredFaults s.cycle hs else []
    if fs.isEmpty then s.setPanel p (holdCycle s.cycle tk x hs)
    else faultCycle (s.setPanel p x) p tk fs (hs.filter fun h => !holdExpired s.cycle h)

/-- One of the two nullified live cycles of a change of schedule (R28), which a gather's search holds and a gather's fault stops (R243, R326). -/
def switchCycle (s : State) (p : Nat) (x : Panel) (turn : Bool) : State :=
  let hs := (gatherHolds x s.cycle).map (keepHold x.holds)
  let fs := gatherFaults x
  if !hs.isEmpty then s.setPanel p (holdCycle s.cycle false x hs)
  else if turn = false then s
  else if fs.isEmpty then s.setPanel p (endLive s.cycle { x with switching := x.switching - 1, holds := [] } [])
  else faultCycle s p false fs []

/-- The row of the wheel in a panel: under a fault its other clamps go on; else its clamps, its faults, or a live cycle where it is the
panel's turn. -/
def rowCycle (s : State) (p : Nat) (x : Panel) (turn : Bool) : State :=
  let run := rowRuns s p x
  let ws := if run then rowWords x else []
  let hs := rowHolds s x ws
  let s := s.setPanel p { x with rowRun := some run }
  let x := { x with rowRun := some run }
  if !x.faulted.isEmpty then s.setPanel p (holdCycle s.cycle false x hs)
  else if x.half.isSome ∨ hs.isEmpty then (if turn then liveOrStop s p x run ws else s)
  else
    let fs := expiredFaults s.cycle hs ++ clampedFaults s p x ws
    let left := hs.filter fun h => !holdExpired s.cycle h
    if fs.isEmpty then s.setPanel p (holdCycle s.cycle false x hs) else faultCycle s p false fs left

/-- A block of the panel is above its temperature limit (R349). -/
def isHot (s : State) (x : Panel) : Bool := x.blocks.any s.hot.contains

/-- The panel is in a clamp that has begun. -/
def isClamped (s : State) (p : Nat) (x : Panel) : Bool :=
  !x.holds.isEmpty || !x.faulted.isEmpty || decide (0 < x.publishHold) || isHot s x || tkwaits s p

/-- One fabric cycle of a live panel (R17, R224): the heat, a publish, a `tkwait` or a fault holds it; else the wheel gives its two nullified
cycles or its row, where it is the panel's turn. -/
def panelCycle (s : State) (p : Nat) : State :=
  let s := settlePanelDue s p
  match s.panel? p with
  | none => s
  | some x =>
    let turn := inPhase s x
    if isHot s x ∨ 0 < x.publishHold ∨ tkwaits s p = true then heldCycle s p
    else if 0 < x.switching then (if x.faulted.isEmpty then switchCycle s p x turn else heldCycle s p)
    else rowCycle s p x turn

/-- The panel has not had its cycle, is live and is not held by a debugger; at half rate it advances once in two cycles, and a clamp goes on
in each (R31, R40, R224). -/
def canAdvance (s : State) (p : Nat) (x : Panel) : Bool :=
  x.state == .live && x.lastAdv != s.cycle + 1 && !isHeld s (.seq p 0) && (inPhase s x || isClamped s p x)

/-- A panel's fabric cycle, once (R17). -/
def advancePanel (s : State) (p : Nat) : State :=
  match s.panel? p with
  | some x => if canAdvance s p x then panelCycle (s.setPanel p { x with lastAdv := s.cycle + 1 }) p else s
  | none => s

/-- The wheel of a panel advances, or the panel is clamped (R17, R28, R224, R249). -/
def execWheelAdvance (p : Nat) (s : State) : Host.Outcome State Fault Refusal := .next (advancePanel s p)

/-! ## The steps on their own -/

/-- The intervals of a tile that have taken 16 pipeline steps add their rows (R228). -/
def execIntervalComplete (p t : Nat) (s : State) : Host.Outcome State Fault Refusal :=
  .next (onTile s p t fun _ tl => completeIntervals tl)

/-- The ramp-up of a held row has taken its 8 cycles, and nothing else holds the row (R232). -/
def rampOver (x : Panel) : Bool :=
  x.holds.any (fun h => h.cause == .rampUp) && x.holds.all fun h => (h.cause == .rampUp && h.left == 0) || h.found

/-- Eight ramp-up filler cycles end and the held row executes (R232). -/
def execRampUpDone (p : Nat) (s : State) : Host.Outcome State Fault Refusal :=
  .next (match s.panel? p with
    | some x => if rampOver x then advancePanel s p else s
    | none => s)

/-- The ramp-down fillers of a tile run after a quiet stretch (R232). -/
def execRampDown (p t : Nat) (s : State) : Host.Outcome State Fault Refusal := .next (s.modPanel p fun x => runRampDown x t)

/-- The delay of an `mxhint` has passed and a ramp-up starts where the array is idle (R232, R258). -/
def execMxhintRampStart (p : Nat) (s : State) : Host.Outcome State Fault Refusal := .next (s.modPanel p startHints)

/-- The last held cycle of a publish passes (R259). -/
def execPublishDone (p : Nat) (s : State) : Host.Outcome State Fault Refusal :=
  .next (match s.panel? p with
    | some x => if x.publishHold = 1 ∧ x.faulted.isEmpty ∧ canAdvance s p x then
        heldCycle (s.setPanel p { x with lastAdv := s.cycle + 1 }) p else s
    | none => s)

/-- A tack due on a channel raises its counts (R250). -/
def execTackArrive (p ch : Nat) (s : State) : Host.Outcome State Fault Refusal :=
  .next (if isFaulted s p then s else arriveTack s p ch)

/-- The publish searches of the present row end: the reads that the store-to-load table could not resolve have their values, which are the
same either way (R243). -/
def endSearches (x : Panel) : Panel :=
  { x with holds := x.holds.map fun h => if h.cause = .search then { h with left := 0 } else h }

/-- The publish search of a row's reads that the store-to-load table cannot resolve ends (R243; DESIGN CHOICE, log 114). -/
def execPublishSearchDone (p : Nat) (s : State) : Host.Outcome State Fault Refusal := .next (s.modPanel p endSearches)

/-- The entries due of a tile's gathers are written (R245). -/
def execGatherEntryWrite (p t : Nat) (s : State) : Host.Outcome State Fault Refusal :=
  .next (s.modPanel p fun x => (x.setTile t (writeGathers t (x.tile t))).count 9 (gatherForwards (x.tile t)))

/-- The next beat of a stream reaches a tile's queue; the stream is numbered 16 · strand + slot (R220, R223). -/
def execStreamBeatArrive (p t q : Nat) (s : State) : Host.Outcome State Fault Refusal :=
  .next (fetchBeat s p t (q / 16 % 4) (q % 16))

end Sys2Proof.Machine
end

