-- ==== Sys2Proof/Machine/Fabric.lean ====
section
/-! DEFINITION. The sequencer's fabric commands (R218, R222, R253-R258) and the ends of waits (R30). -/

namespace Sys2Proof.Machine

open Sys2Proof

/-- The body of a command on the issuing strand's panel: panel number, strand, panel; no effect for any other party,
which R138 turns away before. -/
def onStrand (s : State) (f : Nat → Nat → Panel → Res) : Res :=
  match s.focus with
  | .seq p i => match s.panel? p with
    | some x => f p i x
    | none => .ok s
  | _ => .ok s

/-- E.ENGINE with the word (R314). -/
def engineTrap (i : Instr) : Res := trapOf .engine (wordVal i)

/-! ## Loads (R254) -/

/-- A strand's image address of a load not yet armed is recorded (R254, R261). -/
def recordLoad (x : Panel) (i : Nat) (a : Option Word) : Panel := x.setStrand i { x.strand i with loadAddr := a }

/-- The panel's blocks lack the free entries that the image at an address needs (R254); an image whose header cannot be
read fails as a load. -/
def lacksRoom (s : State) (x : Panel) (va : Word) : Bool :=
  match readHeader s x.ctx .user va with
  | .ok (_, h) => x.blocks.any fun b => decide (freeEntries s b < h.entries)
  | .error _ => false

/-- `ldpat a` starts a load of the image at g[a] (R254). -/
def execLdpat (a : Reg) (s : State) : Host.Outcome State Fault Refusal :=
  issue (.ldpat a) s fun s => onStrand s fun p i x =>
    match failedLoad s with
    | some t => .set (raise (dropLoad s p i) t)
    | none =>
      if x.load.isSome ∨ lacksRoom s x (s.g a) = true then engineTrap (.ldpat a)
      else
        let va := s.g a
        let s := stitchBefore s
        let s := s.modPanel p fun x => recordLoad { x with load := some ⟨va, .reading, none, s.nextId, i, false⟩ } i (some va)
        .ok { s with nextId := s.nextId + 1 }

/-- A load of the panel that is in flight or loaded is cancelled and its entries freed; its recorded address goes (R254). -/
def cancelLoad (s : State) (p : Nat) (x : Panel) : State :=
  match x.load with
  | some l => discardEntries (dropLoad s p l.strand) l.loadId
  | none => s

/-- `disarm` (R254). -/
def execDisarm (s : State) : Host.Outcome State Fault Refusal :=
  issue .disarm s fun s => onStrand s fun p _ x => .ok (cancelLoad (stitchBefore s) p x)

/-! ## Arm (R143, R255) -/

/-- A trap of the running sequencer thread with its own `c.fwhere`. -/
def raiseAt (s : State) (t : Trap) (fwhere : Word) : State :=
  let p := s.focus
  let s := countFor (s.setThread p { s.thread p with status := .stopped, wait := none }) p 95 1
  offer s (partyCtx s p) { threadFault s p t false with fwhere := fwhere }

/-- Every other strand of the panel has finished (R255). (DEDUCED, log 54) -/
def othersFinished (x : Panel) (i : Nat) : Bool := strandIds.all fun j => j == i || (x.strand j).finished

/-- Some stream of the panel runs. -/
def anyRunning (x : Panel) : Bool := x.strands.toList.any fun st => st.streams.any fun c => c.2.state == .running

/-- The test of `arm` (R255): none while it waits. -/
def armPoll (s : State) (a : Reg) : Option Res :=
  match s.focus with
  | .seq p i =>
    match s.panel? p with
    | none => none
    | some x =>
      match (x.strand i).failed, x.load with
      | some va, _ => some (.set (raise (dropLoad s p i) (mkTrap .cfgLoad va)))
      | none, none => some (engineTrap (.arm a))
      | none, some l =>
        if l.strand ≠ i then some (engineTrap (.arm a))
        else if l.state ≠ .loaded ∨ othersFinished x i = false then none
        else
          let img := l.image.getD x.image
          match armCheck img with
          | some f =>
            let s := discardEntries (dropLoad s p i) l.loadId
            some (.set (raiseAt s (mkTrap f.cause (zext64 f.word)) (armWhere img x.index (issuerNo s.focus) i f)))
          | none =>
            if anyRunning x then some (engineTrap (.arm a)) else some (.set (armPanel s p x l img))
  | _ => none

/-- `arm a` (R255). -/
def execArm (a : Reg) (s : State) : Host.Outcome State Fault Refusal :=
  issue (.arm a) s fun s =>
    let s := stitchBefore s
    waitOr s (armPoll s a) (s.g a)

/-! ## Streams (R218, R222) -/

/-- `sspec` loads a stream slot (R218). (DEDUCED, log 52) -/
def execSspec (stream : BitVec 4) (ag : BitVec 2) (a : Reg) (entry : BitVec 11) (disp : BitVec 32) (s : State) :
    Host.Outcome State Fault Refusal :=
  let i := Instr.sspec stream ag a entry disp
  issue i s fun s => onStrand s fun p k x =>
    match x.image.specs[entry.toNat]? with
    | none => trapOf .illegal (wordVal i)
    | some sp =>
      let q := stream.toNat
      if ((x.slot? k q).map fun sl => sl.state == .running).getD false then engineTrap i
      else
        .ok (s.modPanel p fun x =>
          let x := { x with tiles := mapVals (fun _ t => t.setQueue k q []) x.tiles }
          x.setSlot k q ⟨sp, ag.toNat, s.g a + sext64 disp, .idle, [], [], [], [], pathNumber x.image entry.toNat, []⟩)

/-- The stream slots that a mask names, in order. -/
def maskSlots (m : Word) : List Nat := (List.range 16).filter fun q => m.getLsbD q

/-- The mask names stream slots only (R222). -/
def maskOk (m : Word) : Bool := decide (m.toNat < 65536)

/-- The generators that run a stream of the panel. -/
def busyGens (x : Panel) : List Nat :=
  x.strands.toList.flatMap fun st => (st.streams.filter fun c => c.2.state == .running).map fun c => c.2.ag

/-- Each named slot holds a spec, does not run, and uses a free generator (R222). -/
def slotsFree (x : Panel) (i : Nat) : List Nat → List Nat → Bool
  | [], _ => true
  | q :: qs, used =>
    match x.slot? i q with
    | none => false
    | some sl => sl.state != .running && !used.contains sl.ag && slotsFree x i qs (sl.ag :: used)

/-- Base and strides are multiples of the element size (R222). -/
def slotAligned (sl : StreamSlot) : Bool :=
  let n := max 1 sl.spec.esize
  sl.base.toNat % n == 0 && sl.spec.strides.all fun d => d % (n : Int) == 0

/-- A split stream's outermost count is a multiple of the block count, and a path stream names another panel of the
garment (R219, R222). -/
def slotShapeOk (s : State) (x : Panel) (sl : StreamSlot) : Bool :=
  if sl.spec.dist = 2 then sl.spec.counts.getLastD 1 % (x.image.width * x.image.height) == 0
  else if sl.spec.dist = 3 then
    decide (sl.base.toNat < 8) && sl.base.toNat != x.index && decide (sl.base.toNat < (taskPanels s x.entry).length)
  else true

/-- The slots of a list of slot numbers. -/
def namedSlots (x : Panel) (i : Nat) (qs : List Nat) : List StreamSlot := qs.filterMap (x.slot? i)

/-- The first failing check of `sgo` (R222). -/
def sgoCheck (s : State) (x : Panel) (i : Nat) (word : Word) (qs : List Nat) : Option Trap :=
  if !slotsFree x i qs (busyGens x) then some (mkTrap .engine word)
  else match (namedSlots x i qs).find? fun sl => !slotAligned sl with
    | some sl => some (mkTrap .align sl.base)
    | none => if (namedSlots x i qs).all (slotShapeOk s x) then none else some (mkTrap .engine word)

/-- A slot starts from its first element (R222). -/
def startSlot (i : Nat) (x : Panel) (q : Nat) : Panel :=
  match x.slot? i q with
  | none => x
  | some sl =>
    let x := { x with tiles := mapVals (fun _ t => t.setQueue i q []) x.tiles }
    let x := x.setStrand i { x.strand i with pathGot := FMap.erase (x.strand i).pathGot q }
    x.setSlot i q { sl with state := .running, fetched := [], moved := [], parts := [], fault := [], past := [] }

/-- `sgo a` starts every slot that the mask names (R222). -/
def execSgo (a : Reg) (s : State) : Host.Outcome State Fault Refusal :=
  issue (.sgo a) s fun s => onStrand s fun p i x =>
    if !maskOk (s.g a) then engineTrap (.sgo a)
    else
      let qs := maskSlots (s.g a)
      match sgoCheck s x i (wordVal (.sgo a)) qs with
      | some t => .trap t
      | none => .ok ((stitchBefore s).modPanel p fun x => qs.foldl (startSlot i) x)

/-- The beats of an in-stream that wait in its queues or, read whole, for a place there (R220, R222). -/
def waitingBeats (i : Nat) (x : Panel) (q : Nat) (sl : StreamSlot) : Nat :=
  (x.tiles.map fun c => (c.2.queue i q).length).sum +
    (sl.parts.filter fun c => (elemsLeft x sl c.1).isEmpty && decide (0 < c.2.1)).length

/-- A running slot ends; the beats of an in-stream that wait are discarded and counted in ev19 (R222). -/
def stopSlot (i : Nat) (x : Panel) (q : Nat) : Panel :=
  match x.slot? i q with
  | none => x
  | some sl =>
    if sl.state = .running then
      let n := waitingBeats i x q sl
      let x := if sl.spec.dirOut then x
        else { x with tiles := mapVals (fun _ t => t.setQueue i q []) x.tiles }.count 19 n
      x.setSlot i q { sl with state := .ended, parts := [], fault := [], past := [] }
    else x

/-- `sstop a` ends every running slot that the mask names (R222). -/
def execSstop (a : Reg) (s : State) : Host.Outcome State Fault Refusal :=
  issue (.sstop a) s fun s => onStrand s fun p i _ =>
    if !maskOk (s.g a) then engineTrap (.sstop a)
    else
      let qs := maskSlots (s.g a)
      .ok ((stitchBefore s).modPanel p fun x => qs.foldl (stopSlot i) x)

/-! ## The slice engine and the condition queue (R29, R256, R257) -/

/-- The address lies in the running image's slice section. -/
def inSlice (x : Panel) (pc : Word) : Bool :=
  let off := pc.toNat - x.imageAddr.toNat
  decide (x.imageAddr.toNat ≤ pc.toNat) && decide (x.image.slice.1 ≤ off) && decide (off < x.image.slice.1 + x.image.slice.2)

/-- `slice a, b` starts the strand's slice engine, or stops it for g[a] = 0 (R256). -/
def execSlice (a b : Reg) (s : State) : Host.Outcome State Fault Refusal :=
  issue (.slice a b) s fun s => onStrand s fun p i x =>
    let pc := s.g a
    if pc ≠ 0#64 ∧ inSlice x pc = false then engineTrap (.slice a b)
    else
      let args := if pc = 0#64 then none else some (pc, s.g b)
      let s := stitchBefore s
      let s := s.modPanel p fun x => x.setStrand i { x.strand i with
        queue := [], taken := 0, skip := 0, sliceArgs := args, sliceStop := args.isNone }
      let s := s.unask (· == .slice p i)
      .ok (s.setThread (.slice p i) (sliceStart x i args (s.thread (.slice p i))))

/-- A value posted to a strand's condition queue; while entries are to be discarded that were taken before the stitch that a restart replays,
it is one of them (R257, R262). -/
def postEntry (x : Panel) (i : Nat) (v : Word) : Panel :=
  let st := x.strand i
  if 0 < st.skip then x.setStrand i { st with skip := st.skip - 1 }
  else (x.setStrand i { st with queue := st.queue ++ [.value v] }).count 93 1

/-- A slice engine's post finds no room in the queue (R29, R257). -/
def queueFull (x : Panel) (i : Nat) : Bool := (x.strand i).skip == 0 && decide (queueDepth ≤ (x.strand i).queue.length)

/-- `cpost a` appends g[a] to the strand's condition queue after the stitch that it implies; a full queue stalls the engine (R29, R160, R253,
R257). -/
def execCpost (a : Reg) (s : State) : Host.Outcome State Fault Refusal :=
  issue (.cpost a) s fun s =>
    match s.focus with
    | .slice p i =>
      if (s.panel? p).any fun x => queueFull x i then .set s
      else .ok ((stitchBefore s).modPanel p fun x => postEntry x i (s.g a))
    | _ => .ok s

/-- The head entry of the strand's condition queue (R257): none while the queue is empty. A poisoned head is removed and
raises its recorded cause. -/
def condPoll (s : State) (a : Reg) : Option Res :=
  match s.focus with
  | .seq p i =>
    match s.panel? p with
    | none => none
    | some x =>
      let st := x.strand i
      match st.queue with
      | [] => none
      | .value v :: q =>
        some (.ok ((s.setPanel p (x.setStrand i { st with queue := q, taken := st.taken + 1 })).setG a v))
      | .poisoned t :: q => some (.set (raisePoison (s.setPanel p (x.setStrand i { st with queue := q, taken := st.taken + 1 })) t))
  | _ => none

/-- `cond a, b` removes the head entry into g[a], waiting for one (R257). -/
def execCond (a b : Reg) (s : State) : Host.Outcome State Fault Refusal :=
  issue (.cond a b) s fun s =>
    let s := stitchBefore s
    waitOr s (condPoll s a) (s.g b)

/-! ## Tacks, commit, mxhint (R258) -/

/-- The panel is in a held cycle of a tack or condition wait (R263). -/
def waitClamped (s : State) (p : Nat) (x : Panel) : Bool :=
  tkwaits s p || x.holds.any fun h => h.cause == .tackWait || h.cause == .condWait

/-- `tack a` sends one tack: raised two live cycles after the present one (R250, R258; DEDUCED, log 26). -/
def execTack (a : Reg) (s : State) : Host.Outcome State Fault Refusal :=
  issue (.tack a) s fun s => onStrand s fun p _ x =>
    let ch := (s.g a).toNat
    if 15 < ch then engineTrap (.tack a)
    else
      let f : Flight := if waitClamped s p x then ⟨ch, s.cycle + 2, true⟩ else ⟨ch, x.live + 1, false⟩
      .ok ((stitchBefore s).modPanel p fun x => { x with tacks := x.tacks ++ [f] })

/-- The test of `tkwait`: a pending tack in the lead AG tile is taken (R258). -/
def tkPoll (s : State) (a : Reg) : Option Res :=
  let ch := (s.g a).toNat
  match (partyPanel s.focus).bind s.panel? with
  | none => none
  | some x =>
      let h : ch % 16 < 16 := Nat.mod_lt _ (by decide)
      let n := x.agPending[ch % 16]'h
      if n = 0 then none
      else match partyPanel s.focus with
        | some p => some (.ok (s.modPanel p fun x => { x with agPending := x.agPending.set (ch % 16) (n - 1) h }))
        | none => none

/-- `tkwait a, b` takes one pending tack on channel g[a]; while none is pending the panel clamps (R224, R258). -/
def execTkwait (a b : Reg) (s : State) : Host.Outcome State Fault Refusal :=
  issue (.tkwait a b) s fun s =>
    if 15 < (s.g a).toNat then engineTrap (.tkwait a b)
    else
      let s := stitchBefore s
      waitOr s (tkPoll s a) (s.g b)

/-- `commit` stitches the panel (R258, R259). -/
def execCommit (s : State) : Host.Outcome State Fault Refusal :=
  issue .commit s fun s => .ok (stitchBefore s)

/-- `mxhint a` starts a ramp-up after max(0, g[a] − 8) live cycles, where the array will be idle then (R232, R258). -/
def execMxhint (a : Reg) (s : State) : Host.Outcome State Fault Refusal :=
  issue (.mxhint a) s fun s => onStrand s fun p _ _ =>
    if 65535 < (s.g a).toNat then engineTrap (.mxhint a)
    else
      let d := (s.g a).toNat - 8
      .ok ((stitchBefore s).modPanel p fun x => { x with hint := x.hint ++ [x.live - 1 + d] })

/-! ## The ends of waits (R30) -/

/-- The test of a wait: none while it is not satisfied. -/
def waitPoll (s : State) : Instr → Option Res
  | .ldsync d a off => ldsyncPoll s d a off false
  | .ldsyncE d a off => ldsyncPoll s d a off true
  | .bar _ a b _ => barPoll s a b
  | .gbar _ => gbarPoll s
  | .gbarM _ => gbarPoll s
  | .tickwait a b => tickPoll s a b
  | .waitw a b _ => waitwPoll s a b
  | .pinwait a b _ => pinPoll s a b
  | .cond a _ => condPoll s a
  | .tkwait a _ => tkPoll s a
  | .arm a => armPoll s a
  | _ => none

/-- The state of a wait's test with the wait in place where its arrival has applied (R160). -/
def keepArrival (s : State) (w : Wait) : State := if w.arrived then s.setCur { s.cur with wait := some w } else s

/-- The waiting instruction ends with a result: what follows a completed instruction takes place, or its trap. A form
whose arrival had applied was performed then (R160). -/
def endWait (s : State) (w : Wait) (r : Res) : Host.Outcome State Fault Refusal :=
  match r with
  | .ok s' => .next (if w.arrived then retire w.instr s' else commitShadow w.instr (retire w.instr s'))
  | .jump s' pc => .next (jumpTo s' pc)
  | .wait s' _ _ => .next s'
  | .set s' => .next s'
  | .trap t => .next (raise (keepArrival s w) t)
  | .trapAt s' t => .next (raise s' t)
  | .hold s' => .next s'
  | .stop f => .fault f

/-- The focus that the scheduler had is kept across a device step. -/
def keepFocus (f : Party) : Host.Outcome State Fault Refusal → Host.Outcome State Fault Refusal
  | .next s => .next { s with focus := f }
  | o => o

/-- A waiting form that stitches before it acts: a commit-after form not yet performed (R43, R160). -/
def Wait.stitches (w : Wait) : Bool := commitAfter w.instr && !w.arrived

/-- The state in which a waiting thread tests its wait: the thread in focus, its wait taken off, and before a form that stitches the panel stitched
again, for what it has logged since (R43, R160, R259). -/
def waitView (s : State) (p : Party) (w : Wait) : State :=
  let s := { s with focus := p }
  let s := s.setCur { s.cur with wait := none }
  if w.stitches then stitchBefore s else s

/-- The wait that a thread is in: it is neither held nor stopped at a fault, nor in a panel that has stopped for a freeze (R329), and a form
that stitches makes no test where its panel may not stitch (R31, R118). -/
def waitOf (s : State) (p : Party) : Option Wait :=
  if isStill s p ∨ (s.thread p).status ≠ .running then none
  else (s.thread p).wait.bind fun w => if w.stitches && stitchBarred s p then none else some w

/-- A wait is satisfied and the thread goes on (R20, R30); so does one whose request in a home queue is answered (R99). -/
def execWaitSatisfied (p : Party) (s : State) : Host.Outcome State Fault Refusal :=
  match waitOf s p with
  | none => .next (match FMap.get? s.asked p with
    | some q => if takesAnswer s p then finishAsk s p q else s
    | none => s)
  | some w =>
    let v := waitView s p w
    match waitPoll v w.instr with
    | some (.hold _) => .next s
    | some r => keepFocus s.focus (endWait v w r)
    | none => .next s

/-- The timeout of a wait has expired. -/
def waitExpired (s : State) (w : Wait) : Bool :=
  match w.timeout with
  | some n => decide (n ≤ s.cycle - w.since)
  | none => false

/-- A timeout expires before the wait is satisfied: E.WAITBOUND at the wait (R30). -/
def execWaitTimeout (p : Party) (s : State) : Host.Outcome State Fault Refusal :=
  match waitOf s p with
  | none => .next s
  | some w =>
    if waitExpired s w then
      let v := waitView s p w
      match waitPoll v w.instr with
      | some (.hold _) => .next s
      | some r => keepFocus s.focus (endWait v w r)
      | none => keepFocus s.focus (.next (raise (keepArrival v w) (mkTrap .waitBound (BitVec.ofNat 64 (w.timeout.getD 0)))))
    else .next s

end Sys2Proof.Machine
end

