-- ==== Sys2Proof/Machine/Tasks.lean ====
section
/-! DEFINITION. Tasks (R22, R191-R196): the dependence table, `tsub`, `tdep`, `gpset`, `gpget`; graphs and their replay
(R34-R39). -/

namespace Sys2Proof.Machine

open Sys2Proof

/-! ## The dependence table (R22, R191) -/

/-- An entry of the dependence table is free for a new task: never used, or its task over and no results kept (R191,
R202). -/
def entryFree (s : State) (e : Nat) : Bool :=
  match FMap.get? s.tasks e with
  | none => true
  | some t => t.state.isOver && t.fit.isNone

/-- The lowest-numbered free entry (R191). -/
def lowestFree (s : State) : Option Nat := (List.range 8192).find? (entryFree s)

/-- The entries of a context's quota (R22, R341). -/
def quotaOf (s : State) (c : Nat) : Nat := bitsOf (s.ctxt c).cstat 32 14

/-- The generation of an entry's next task (R191). -/
def nextGen (s : State) (e : Nat) : Nat :=
  let g := FMap.getD s.gens e 0
  if g = 2 ^ 19 - 1 then 1 else g + 1

/-- A task submitted: its entry takes it, waiting or open (R191, R194). -/
def addTask (s : State) (e c : Nat) (r : TaskRec) (priv : Priv) (replay : Bool) : State :=
  let g := nextGen s e
  { s with
    gens := FMap.set s.gens e g
    tasks := FMap.set s.tasks e
      { gen := g, ctx := c, record := r, state := if r.opened then .opened else .waiting, deps := [], ndeps := 0
        submitPriv := priv, inReplay := replay, age := 0, bypass := 0, admitted := false, panels := [], frames := []
        thread := none, retries := [], fit := none, frozen := none, deferred := false, wantFreeze := false, saveSlot := 0
        gbarArrived := [], gbarMerge := false } }

/-- The task of an identifier is not done: a dependence on it is not met at once (R191, R194). -/
def taskLive (s : State) (id : BitVec 32) : Bool := ((findTask s id).map fun x => !x.2.state.isOver).getD false

/-- A task changed. -/
def modTask (s : State) (e : Nat) (f : TaskEntry → TaskEntry) : State :=
  match FMap.get? s.tasks e with
  | some t => { s with tasks := FMap.set s.tasks e (f t) }
  | none => s

/-- A dependence counted, and kept where it is not met (R194, R195). -/
def addDep (s : State) (e : Nat) (d : Dep) (met : Bool) : State :=
  modTask s e fun t => { t with ndeps := t.ndeps + 1, deps := if met then t.deps else t.deps ++ [d] }

/-! ## Task records (R192) -/

/-- An identifier as a record may name one (R191). (DEDUCED, log 39) -/
def idOk (w : Word) : Bool := decide (w.toNat < 2 ^ 32) && decide (2 ^ 13 ≤ w.toNat)

/-- The record of 128 bytes at an address, where no field breaks R192. -/
def parseTask (addr : Word) (bs : List Byte) : Option TaskRec :=
  let b (i : Nat) : Nat := field bs i 1
  let flags := b 0xB
  let deps := (List.range 4).map fun k => imgWord bs (0x10 + 8 * k)
  let n := b 0xC
  if b 8 ≤ 8 ∧ b 9 ≤ 7 ∧ flags < 64 ∧ n ≤ 4 ∧ zeroField bs 0xE 2 ∧ zeroField bs 0x38 8 ∧
      ((List.range 4).all fun k => if k < n then idOk (deps.getD k 0) else deps.getD k 0 == 0#64) then
    some
      { addr := addr, args := imgWord bs 0, npanels := b 8, prio := b 9, bound := if b 0xA = 0 then 8 else b 0xA
        taskPolicy := BitVec.ofNat 2 flags, garmentPolicy := BitVec.ofNat 2 (flags / 4), nonPreempt := flags / 16 % 2 == 1
        opened := flags / 32 == 1, deps := (deps.take n).map fun w => w.setWidth 32, graph := b 0xD
        gpmask := imgWord bs 0x30, image := (List.range 8).map fun p => imgWord bs (0x40 + 8 * p) }
  else none

/-- The replay that a party's task belongs to goes on (R192). -/
def submitsInReplay (s : State) (p : Party) : Bool :=
  ((FMap.get? s.tasks (partyEntry s p)).map (·.inReplay)).getD false

/-- A submitted task with its identifier, or none where the quota or the table is exhausted (R22, R194). -/
def submit (s : State) (c : Nat) (r : TaskRec) (priv : Priv) (replay : Bool) : Option (State × Nat) :=
  if quotaOf s c ≤ entriesUsed s c then none
  else (lowestFree s).map fun e => (addTask s e c r priv replay, e)

/-- An engine read of the running party's own instruction (R110, R356). -/
def ownRead (s : State) (va : Word) (n : Nat) : Except Trap (State × List Byte) :=
  engReadN s (engReq (partyCtx s s.focus) (partyPriv s s.focus) .read (partyReq s s.focus .read).src) va n

/-- `tsub a, b` submits the record at g[b] (R194). -/
def execTsub (a b : Reg) (s : State) : Host.Outcome State Fault Refusal :=
  issue (.tsub a b) s fun s =>
    let va := s.g b
    if !aligned va 64 then trapOf .align va
    else
      let s := stitchBefore s
      .bindX (ownRead s va 128) fun (s, bs) =>
        match parseTask va bs with
        | none => engineTrap (.tsub a b)
        | some r =>
          match submit s (partyCtx s s.focus) r (partyPriv s s.focus) (submitsInReplay s s.focus) with
          | none => engineTrap (.tsub a b)
          | some (s, e) =>
            let s := r.deps.foldl (fun s id => addDep s e (.task id) (!taskLive s id)) s
            .ok (countFor (s.setG a (zext64 (taskId s e))) s.focus 76 1)

/-- The open task of an identifier in the running party's context (R195). -/
def openTask (s : State) (v : Word) : Option (Nat × TaskEntry) :=
  if v.toNat < 2 ^ 32 then
    (findTask s (v.setWidth 32)).bind fun (e, t) =>
      if t.state = .opened ∧ t.ctx = partyCtx s s.focus then some (e, t) else none
  else none

/-- The dependences of one task (R195). -/
def maxDeps : Nat := 8

/-- The word of a word dependence: its address and what it holds at its home, an engine access whose completion from the host port may fail (R195,
R340, R356). -/
def depWord (s : State) (q : XReq) (va : Word) : Except Trap (State × Nat × Nat) :=
  match engTarget s q va with
  | .error t => .error t
  | .ok (s, tg) =>
    if hostFails s tg.pa then .error (mkTrap .perm va)
    else if poisoned s tg.pa 8 then .error (eccTrap tg.pa)
    else
      let (s, bs) := readHome s tg.dom tg.pa 8
      .ok (s, tg.pa, ofBytes bs)

/-- `tdep a, b, c` (R195). -/
def execTdep (a b c : Reg) (s : State) : Host.Outcome State Fault Refusal :=
  issue (.tdep a b c) s fun s =>
    match openTask s (s.g a) with
    | none => engineTrap (.tdep a b c)
    | some (e, t) =>
      let s := stitchBefore s
      let va := s.g b
      if c ≠ 0#5 then
        if maxDeps ≤ t.ndeps then engineTrap (.tdep a b c)
        else if !aligned va 8 then trapOf .align va
        else .bindX (depWord s (engReq (partyCtx s s.focus) (partyPriv s s.focus) .read (partyReq s s.focus .read).src) va)
          fun (s, pa, old) => .ok (addDep s e (.word pa (s.g c)) (decide ((s.g c).toNat ≤ old)))
      else if va = 0#64 then .ok (modTask s e fun t => { t with state := .waiting })
      else if maxDeps ≤ t.ndeps then engineTrap (.tdep a b c)
      else
        let id : BitVec 32 := va.setWidth 32
        .ok (addDep s e (.task id) (decide (2 ^ 32 ≤ va.toNat) || !taskLive s id))

/-! ## Graph parameters (R35, R196) -/

/-- A graph parameter; never written it is 0 (R353). -/
def gpOf (s : State) (c graph n : Nat) : Word := FMap.getD (s.ctxt c).gps (graph, n) 0

/-- `gpset a, b, c` (R196). -/
def execGpset (a b c : Reg) (s : State) : Host.Outcome State Fault Refusal :=
  issue (.gpset a b c) s fun s =>
    let n := (s.g b).toNat
    let g := (s.g c).toNat
    if 63 < n ∨ 255 < g then engineTrap (.gpset a b c)
    else
      let s := stitchBefore s
      let k := partyCtx s s.focus
      .ok (s.setCtxt k { s.ctxt k with gps := FMap.set (s.ctxt k).gps (g, n) (s.g a) })

/-- `gpget a, b, c` (R196). -/
def execGpget (a b c : Reg) (s : State) : Host.Outcome State Fault Refusal :=
  issue (.gpget a b c) s fun s =>
    let n := (s.g b).toNat
    let g := (s.g c).toNat
    if 63 < n ∨ 255 < g then engineTrap (.gpget a b c)
    else .ok (s.setG a (gpOf s (partyCtx s s.focus) g n))

/-! ## Readiness (R22) -/

/-- The last dependence of a task is met: it moves to its priority queue, its age the present cycle (R22). -/
def execTaskReady (e : Nat) (s : State) : Host.Outcome State Fault Refusal :=
  .next (modTask s e fun t =>
    if t.state = .waiting ∧ t.deps.isEmpty then { t with state := .ready, age := s.cycle, bypass := 0 } else t)

/-! ## Replays (R36-R39) -/

/-- An entry of a graph record (R38). -/
structure GraphEntry where
  task : TaskRec
  preds : List Nat
  word : Option (Nat × Nat)
  value : Word
  deriving DecidableEq, Repr

/-- An engine read of a replay, at supervisor privilege (R39, R356). -/
def replayRead (s : State) (c : Nat) (va : Word) (n : Nat) : Option (State × List Byte) :=
  match engReadN s (engReq c .supervisor .read 7) va n with
  | .ok r => some r
  | .error _ => none

/-- Entry i of a graph record, with the task record it names read, where both keep R38 and R192. A word of a dependence that cannot be read, and
a poisoned byte of any record, refuse the start as the failures that R39 names do (R39 names neither: DESIGN CHOICE, log 145). -/
def graphEntry (s : State) (c g i : Nat) (b : List Byte) : Option (State × GraphEntry) :=
  let tv := imgWord b 0
  let w := imgWord b 0x10
  let preds := (List.range 4).map fun k => field b (8 + 2 * k) 2
  if aligned tv 64 ∧ aligned w 8 ∧ zeroField b 0x20 32 ∧ preds.all fun p => p == 0xFFFF || decide (p < i) then
    (replayRead s c tv 128).bind fun (s, bs) => (parseTask tv bs).bind fun r =>
      if r.deps.isEmpty ∧ r.graph = g ∧ r.opened = false then
        if w = 0#64 then some (s, ⟨r, preds.filter (· != 0xFFFF), none, 0⟩)
        else match depWord s (engReq c .supervisor .read 7) w with
          | .ok (s, pa, old) => some (s, ⟨r, preds.filter (· != 0xFFFF), some (pa, old), imgWord b 0x18⟩)
          | .error _ => none
      else none
  else none

/-- The entries of a graph record from number i on. -/
def graphEntries (c g : Nat) : Nat → Nat → State → List Byte → Option (State × List GraphEntry)
  | 0, _, s, _ => some (s, [])
  | n + 1, i, s, bs =>
    (graphEntry s c g i (bs.take 64)).bind fun (s, e) =>
      (graphEntries c g n (i + 1) s (bs.drop 64)).map fun (s, es) => (s, e :: es)

/-- The record of graph g read with its task records: policy and entries, none where the start is refused (R37-R39). -/
def readGraph (s : State) (c g : Nat) : Option (State × BitVec 2 × List GraphEntry) :=
  let gt := (s.ctxt c).gtab
  if gt.getLsbD 0 then
    (replayRead s c ((gt &&& 0x007FFFFFFFFFF000#64) + BitVec.ofNat 64 (16 * g)) 16).bind fun (s, e) =>
      let va := imgWord e 0
      if va ≠ 0#64 ∧ aligned va 64 ∧ zeroField e 8 8 then
        (replayRead s c va 64).bind fun (s, h) =>
          let n := field h 0 2
          if 1 ≤ n ∧ n ≤ 1024 ∧ field h 2 1 < 4 ∧ zeroField h 3 61 ∧ n ≤ quotaOf s c - entriesUsed s c then
            (replayRead s c (va + 64#64) (64 * n)).bind fun (s, body) =>
              (graphEntries c g n 0 s body).map fun (s, es) => (s, BitVec.ofNat 2 (field h 2 1), es)
          else none
      else none
  else none

/-- The task of one entry of a graph submitted at table entry `e`: its dependences on entries before, which stand at `es`, and on its word. -/
def submitEntry (s : State) (c : Nat) (es : List Nat) (g : GraphEntry) (e : Nat) : State :=
  let s := addTask s e c g.task .supervisor true
  let s := g.preds.foldl (fun s k => addDep s e (.task (taskId s (es.getD k 0))) false) s
  match g.word with
  | some (pa, old) => addDep s e (.word pa g.value) (decide (g.value.toNat ≤ old))
  | none => s

/-- The tasks of a replay submitted in order; `es` are the table entries of those before. -/
def submitGraph (c : Nat) : List GraphEntry → List Nat → State → State
  | [], _, s => s
  | g :: gs, es, s => ((lowestFree s).map fun e => submitGraph c gs (es ++ [e]) (submitEntry s c es g e)).getD s

/-- A replay ends, fail set where a task or the graph of it was killed, and a pending start begins (R36, R39). -/
def endReplay (s : State) (c : Nat) : State :=
  let x := s.ctxt c
  let r := { x.greplay with fail := x.greplay.fail || x.greplay.failing, failing := false }
  s.setCtxt c { x with greplay :=
    if r.pend then { r with busy := true, pend := false, running := r.pendGraph, begun := false, policy := 0 }
    else { r with busy := false, begun := false } }

/-- A replay that cannot begin, for its context is killed or being reset, ends with fail set (DESIGN CHOICE, log 135). -/
def dropReplay (s : State) (c : Nat) : State :=
  let x := s.ctxt c
  endReplay (s.setCtxt c { x with greplay := { x.greplay with pend := false, failing := true } }) c

/-- The dispatcher reads the graph of a start and submits all its tasks together, or refuses (R39). (DESIGN CHOICE, log 107) -/
def execReplayBegin (c : Nat) (s : State) : Host.Outcome State Fault Refusal :=
  .next (
    let r := (s.ctxt c).greplay
    if r.busy ∧ r.begun = false then
      if (s.ctxt c).killed ∨ inFlr s c = true then dropReplay s c
      else match readGraph s c r.running.toNat with
      | some (s', pol, es) =>
        submitGraph c es [] (s'.setCtxt c { s'.ctxt c with greplay := { r with begun := true, policy := pol } })
      | none => endReplay (s.setCtxt c { s.ctxt c with greplay := { r with bad := true } }) c
    else s)

/-- A task that belongs to the context's running replay is not over (R36). -/
def replayGoes (s : State) (c : Nat) : Bool :=
  s.tasks.any fun (_, t) => t.ctx == c && t.inReplay && !t.state.isOver

/-- Every task of a replay is done, killed or discarded: the replay ends (R36). -/
def execReplayEnd (c : Nat) (s : State) : Host.Outcome State Fault Refusal :=
  .next (
    let r := (s.ctxt c).greplay
    if r.busy ∧ r.begun ∧ replayGoes s c = false then endReplay s c else s)

end Sys2Proof.Machine
end

