-- ==== Sys2Proof/Machine/Marker.lean ====
section
/-! DEFINITION. The Marker (R23-R25): ranks, placement, admission (R26, R33, R77, R190-R193), pre-emption by rank, the
end of garments and tasks (R20, R117, R193). -/

namespace Sys2Proof.Machine

open Sys2Proof

/-! ## What a garment needs -/

/-- A panel to place: the address of its image, its shape, the outgoing paths of its image. -/
structure Shape where
  addr : Word
  width : Nat
  height : Nat
  paths : Nat
  deriving DecidableEq, Repr

/-- The outgoing path streams of a spec table (R33, R219). (DEDUCED, log 62) -/
def pathsOf (specs : List StreamSpec) : Nat := (specs.filter fun sp => sp.dist == 3 && sp.dirOut).length

/-- The spec table of the image at an address, none where it cannot be read. -/
def peekSpecs (s : State) (c : Nat) (priv : Priv) (va : Word) (h : Header) : List StreamSpec :=
  match readSection s c priv va h 3 with
  | .ok (_, bs) => (chunks 32 (bs.length / 32) bs).filterMap parseSpec
  | .error _ => []

/-- The shape that the image at an address gives; an image that cannot be read takes one block, and its placement load
fails (R27). (DESIGN CHOICE, log 61) -/
def shapeAt (s : State) (c : Nat) (priv : Priv) (va : Word) : Shape :=
  match readHeader s c priv va with
  | .ok (_, h) => ⟨va, h.image.width, h.image.height, pathsOf (peekSpecs s c priv va h)⟩
  | .error _ => ⟨va, 1, 1, 0⟩

/-- The shapes of a task's panels: of its frozen panels at a resume (R332), else of its images. -/
def shapesOf (s : State) (t : TaskEntry) : List Shape :=
  match t.frozen with
  | some (ps, _, _) => ps.map fun y => ⟨y.imageAddr, y.image.width, y.image.height, pathsOf y.image.specs⟩
  | none => (t.record.image.take t.record.npanels).map fun va => shapeAt s t.ctx t.submitPriv va

/-! ## Placement (R24) -/

/-- The blocks that placed panels cover, those of the garments in `gone` left out. -/
def occupied (s : State) (gone : List Nat) : List Nat :=
  s.panels.flatMap fun (_, x) => if gone.contains x.entry then [] else x.blocks

/-- A pattern resident at an origin (R24): the load that wrote it, unowned in every block. -/
def residentAt (s : State) (c : Nat) (sh : Shape) (bx byy : Nat) : Option (Nat × LoadInfo) :=
  s.loads.find? fun (id, l) =>
    l.ctx == c && l.addr == sh.addr && l.bx == bx && l.byy == byy && l.image.width == sh.width &&
      l.image.height == sh.height &&
      (rectBlocks bx byy sh.width sh.height).all fun b => (tableOf s b).any fun u => u.loadId == id && u.owner.isNone

/-- The origins (bx, by) at which a rectangle lies in the fabric on free blocks, in the order (by, then bx). -/
def originsFor (occ : List Nat) (sh : Shape) : List (Nat × Nat) :=
  (List.range (33 - sh.height)).flatMap fun byy => (List.range (17 - sh.width)).filterMap fun bx =>
    if (rectBlocks bx byy sh.width sh.height).any occ.contains then none else some (bx, byy)

/-- The frame slots that a placed garment's paths take: one for each, two from a half-rate panel (R33). -/
def slotsNeeded (s : State) : List (Shape × Nat × Nat) → Nat
  | [] => 0
  | (sh, bx, byy) :: ps =>
    sh.paths * (if (rectBlocks bx byy sh.width sh.height).any (isShared s) then 2 else 1) + slotsNeeded s ps

/-- The frame slots of others that are free. -/
def framesFree (s : State) (gone : List Nat) : Nat := 256 - (s.frames.filter fun f => !gone.contains f.entry).length

/-- The first placement, in the order of R24, in which at least `want` of the panels still to place are resident. -/
def placeFrom (s : State) (c room : Nat) : Nat → List Nat → List Shape → List (Shape × Nat × Nat) → Option (List (Nat × Nat))
  | want, _, [], acc => if want = 0 ∧ slotsNeeded s acc ≤ room then some (acc.map (·.2)) else none
  | want, occ, sh :: shs, acc =>
    if shs.length + 1 < want then none
    else
      (originsFor occ sh).findSome? fun (bx, byy) =>
        let r := if (residentAt s c sh bx byy).isSome then 1 else 0
        placeFrom s c room (want - r) (occ ++ rectBlocks bx byy sh.width sh.height) shs (acc ++ [(sh, bx, byy)])

/-- The placement with the most resident panels, the garments in `gone` taken as removed (R24, R25). -/
def placeGarment (s : State) (gone : List Nat) (t : TaskEntry) : Option (List (Nat × Nat)) :=
  let shs := shapesOf s t
  ((List.range (shs.length + 1)).reverse).findSome? fun want =>
    placeFrom s t.ctx (framesFree s gone) want (occupied s gone) shs []

/-- A service-core thread on which a trap is under handling. -/
def handles (s : State) (n : Nat) : Bool := s.contexts.any fun (_, x) => (x.handling.map (·.2)) == some n

/-- The thread that a service-core task takes: the lowest idle one of the context's set (R193). -/
def placeCore (s : State) (t : TaskEntry) : Option Nat :=
  let x := s.ctxt t.ctx
  (List.range 32).find? fun n =>
    x.scmap.getLsbD n && x.runtime != some n && (s.thread (.core n)).status == .idle && !handles s n

/-- Where a task goes: a thread, or the origins of its panels. -/
inductive Place where
  | thread (n : Nat)
  | panels (origins : List (Nat × Nat))
  deriving DecidableEq, Repr

/-- place(g) (R24, R193). -/
def place (s : State) (t : TaskEntry) : Option Place :=
  if t.record.npanels = 0 then (placeCore s t).map .thread else (placeGarment s [] t).map .panels

/-! ## Admission -/

/-- The parameters of gpmask written to the argument block and applied at their homes (R192, R356). -/
def writeParams (s : State) (e : Nat) (t : TaskEntry) : List Nat → Except Trap State
  | [] => .ok s
  | i :: is =>
    match engTarget s (engReq t.ctx t.submitPriv .write 7) (t.record.args + BitVec.ofNat 64 (8 * i)) with
    | .error x => .error x
    | .ok (s, tg) =>
      writeParams (writeHomeNow s tg.dom (taskId s e) tg.pa (toBytes 8 (gpOf s t.ctx t.record.graph i).toNat) none) e t is

/-- The parameters that a task's record names. -/
def paramsOf (t : TaskEntry) : List Nat := (List.range 64).filter fun i => t.record.gpmask.getLsbD i

/-- `c.fwhere` of a fault that no element raised (R316). -/
def noWhere : Word := fwhereOf 0 7 0 0 0 0 0

/-- An access at admission fails (R27, R355, R356): the task is held, and its fault is offered: a translation fault as a
held access, any other as a failed placement load. (DEDUCED, log 63) -/
def failAdmission (s : State) (e : Nat) (t : TaskEntry) (x : Trap) : State :=
  let s := modTask s e fun t => { t with state := .held }
  if x.xl.isSome then offerTask s e x.cause x.val x.xl noWhere (some (.admission e))
  else offerTask s e .cfgLoad (t.record.image.headD 0) none noWhere none

/-- The seeds that work admitted now takes (R190). -/
def admitSeeds (s : State) (c : Nat) : List W32 := (s.ctxt c).seeds.map fun w => w.setWidth 32

/-- A core's instruction cache and L1 invalidated when its previous task belonged to another context (R193). -/
def enterCore (s : State) (n c : Nat) : State :=
  let k := s.core? (n / 2)
  let other := match k.lastCtx with | some d => d != c | none => false
  let s := s.setCore (n / 2) { k with lastCtx := some c, l1 := if other then [] else k.l1 }
  if other then { s with icache := s.icache.filter fun w => w.owner != icOwner (.core n) } else s

/-- The thread of a service-core task at its admission (R190, R192, R193). -/
def taskThread (s : State) (e n : Nat) (t : TaskEntry) : Thread :=
  let r := t.record
  { Thread.clear with
    pc := r.image.headD 0, ctx := t.ctx, priv := .user, task := taskId s e, status := .running
    tscratch := (s.thread (.core n)).tscratch
    spool := ⟨none, admitSeeds s t.ctx, 0⟩
    g := ((Vector.replicate 32 0 |>.set 3 (r.image.headD 0)).set 5 r.args).set 31 r.addr }

/-- The counters of a panel of a task under a fitting plan (R202); of any other, clear (DESIGN CHOICE, log 6). -/
def panelCounters (t : TaskEntry) : Vector Counter 4 :=
  match t.fit with
  | some f => Vector.ofFn fun i : Fin 4 =>
    let sl := (f.slots.getD f.pass []).getD i.val (0, 0)
    ⟨some sl.1, sl.2, 0, false⟩
  | none => Vector.replicate 4 Counter.clear

/-- A panel placed at an origin: armed without a load where its pattern is resident, else loading (R26, R77). -/
def placePanel (s : State) (e index : Nat) (t : TaskEntry) (sh : Shape) (bx byy : Nat) : State :=
  let p := 16 * byy + bx
  let res := residentAt s t.ctx sh bx byy
  let blank : Image := ⟨sh.width, sh.height, 1, 1, 0, false, 2, 2, [], 0, [], [], [], (0, 0), [], [], [], []⟩
  let (img, id, load) : Image × Nat × Option Load := match res with
    | some (id, l) => (l.image, id, none)
    | none => (blank, s.nextId, some ⟨sh.addr, .reading, none, s.nextId, 0, false⟩)
  let x : Panel :=
    { ctx := t.ctx, entry := e, index := index, bx := bx, byy := byy, uid := s.nextId, imageAddr := sh.addr, image := img, loadId := id
      wrote := res.isNone, state := .loading, prep := 0, row := 0, schedB := false, nextB := false, switching := 0, live := 0, tok := 0
      lastAdv := 0, holds := [], rampHold := 0, publishHold := 0, stitch := false, strands := Vector.replicate 4 Strand.clear
      tiles := [], agPending := Vector.replicate 16 0, tacks := [], hint := [], load := load, shadow := none
      counters := panelCounters t, faulted := [], skips := [], rowRun := none, seeds := admitSeeds s t.ctx
      armedAt := 0, chalk := none, chalkHit := false, agLast := [], rowAt := (0, 0), half := none }
  { s.setPanel p x with
    nextId := s.nextId + 1
    tables := mapVals (fun _ us => us.map fun u => if u.loadId = id ∧ res.isSome then { u with owner := some p } else u) s.tables }

/-- The panels of a garment placed one after another. -/
def placePanels (e : Nat) (t : TaskEntry) : Nat → List (Shape × Nat × Nat) → State → State
  | _, [], s => s
  | i, (sh, bx, byy) :: ps, s => placePanels e t (i + 1) ps (placePanel s e i t sh bx byy)

/-- The slots that the paths of placed panels need, in pattern order: the panel's number, the path's, and whether it is the first of the two
of a half-rate panel's transfer (R33). -/
def slotWants (s : State) : Nat → List (Shape × Nat × Nat) → List (Nat × Nat × Bool)
  | _, [] => []
  | i, (sh, bx, byy) :: ps =>
    let half := (rectBlocks bx byy sh.width sh.height).any (isShared s)
    ((List.range sh.paths).flatMap fun k => if half then [(i, k, true), (i, k, false)] else [(i, k, false)]) ++ slotWants s (i + 1) ps

/-- A garment's paths take the lowest free slots of the frame, in pattern order (R33 names no slots: DESIGN CHOICE, log 121). -/
def takeFrames (s : State) (e : Nat) (ps : List (Shape × Nat × Nat)) : State :=
  let free := (List.range 256).filter fun k => !(s.frames.map (·.slot)).contains k
  let mine := (free.zip (slotWants s 0 ps)).map fun c => (⟨c.1, e, c.2.1, c.2.2.1, c.2.2.2⟩ : FrameSlot)
  modTask { s with frames := s.frames ++ mine } e fun t => { t with frames := mine.map (·.slot) }

/-- A garment admitted at its origins: its panels placed, its frame slots taken; at a resume its save slot goes to
restoring (R20, R33, R332). -/
def admitGarment (s : State) (e : Nat) (t : TaskEntry) (os : List (Nat × Nat)) : State :=
  let ps := (shapesOf s t).zip os
  let s := placePanels e t 0 ps s
  let s := takeFrames s e ps
  let s := modTask s e fun t => { t with state := .loading, admitted := true, panels := os.map fun o => 16 * o.2 + o.1 }
  match t.frozen with
  | some (_, _, slot) =>
    (match devWrite s t.ctx (slotAddr (s.ctxt t.ctx) slot + 8) [3#8] with
    | some s => reissueWithdrawn s t.ctx (taskId s e)
    | none => killTask s e)
  | none => s

/-- A service-core task admitted onto a thread (R193). -/
def admitCore (s : State) (e n : Nat) (t : TaskEntry) : State :=
  let s := enterCore s n t.ctx
  let s := s.setThread (.core n) (taskThread s e n t)
  modTask s e fun t => { t with state := .running, admitted := true, thread := some n }

/-- The party whose counters take the events of a task's admission: a thread of its first panel, or its service-core thread; none where it has
neither (DEDUCED, log 124). -/
def taskParty (s : State) (e : Nat) : Option Party :=
  (FMap.get? s.tasks e).bind fun t => match t.thread with
    | some n => some (.core n)
    | none => t.panels.head?.map fun p => .seq p 0

/-- Events of a task's admission counted, where it has been admitted. -/
def countTask (s : State) (e ev n : Nat) : State :=
  match taskParty s e with
  | some p => countFor s p ev n
  | none => s

/-- The determinism log of a task is merged, for its party (R117). -/
def mergeTask (s : State) (e : Nat) : State :=
  match taskParty s e with
  | some p => mergeFor s p e
  | none => s

/-- admit(g, p) (R23): a resumed garment keeps the parameters bound at its first admission (R35). -/
def admit_ (s : State) (e : Nat) (t : TaskEntry) (p : Place) : State :=
  match writeParams s e t (if t.frozen.isSome then [] else paramsOf t) with
  | .error x => failAdmission s e t x
  | .ok s =>
    let s := match p with
      | .thread n => admitCore s e n t
      | .panels os => admitGarment s e t os
    countTask s e 77 1

/-! ## Ranks and the step (R22, R23, R25) -/

/-- x ranks above y: by priority, then age, then entry (R22, R23). -/
def ranksAbove (x y : Nat × TaskEntry) : Bool :=
  decide (y.2.record.prio < x.2.record.prio) || (x.2.record.prio == y.2.record.prio &&
    (decide (x.2.age < y.2.age) || (x.2.age == y.2.age && decide (x.1 ≤ y.1))))

/-- The ready tasks in rank order. -/
def readyList (s : State) : List (Nat × TaskEntry) :=
  (s.tasks.filter fun c => c.2.state == .ready && !s.unplaced.contains (taskId s c.1)).mergeSort ranksAbove

/-- The garments that a pre-emption for t may remove, lowest rank first (R25, R333): those that run, and not one whose panels still load
(DESIGN CHOICE, log 125). -/
def victims (s : State) (t : TaskEntry) : List (Nat × TaskEntry) :=
  ((s.tasks.filter fun c => c.2.state == .running && c.2.record.npanels != 0 && !c.2.record.nonPreempt && c.2.fit.isNone &&
    decide (c.2.record.prio < t.record.prio)).mergeSort ranksAbove).reverse

/-- Pre-emption requested of garments in turn until t fits (R25); only of garments that a free save slot holds (R328). -/
def requestFrom (t : TaskEntry) : List (Nat × TaskEntry) → List Nat → State → State
  | [], _, s => s
  | (e, v) :: vs, gone, s =>
    if (placeGarment s gone t).isSome then s
    else if v.wantFreeze then requestFrom t vs (e :: gone) s
    else match freeSlot s v.ctx e with
      | some i => requestFrom t vs (e :: gone) (acceptFreeze (countTask s e 79 1) v.ctx e i)
      | none => requestFrom t vs gone s

/-- request_preemption_for(g) (R25). -/
def requestPreemptionFor (s : State) (t : TaskEntry) : State :=
  let vs := victims s t
  if t.record.npanels = 0 ∨ vs.isEmpty ∨ (placeGarment s (vs.map (·.1)) t).isNone then s else requestFrom t vs [] s

/-- The bypass counts of the tasks ranked above an admitted one rise, and the highest-ranked at its bound is blocked
(R23). -/
def bypassAll (s : State) (above : List (Nat × TaskEntry)) : State :=
  let s := above.foldl (fun s c => modTask s c.1 fun t => { t with bypass := t.bypass + 1 }) s
  let due := above.find? fun c => match FMap.get? s.tasks c.1 with
    | some t => t.state == .ready && decide (t.record.bound ≤ t.bypass)
    | none => false
  { s with blocked := due.map (·.1) }

/-- The task is admitted: its admission has not failed. -/
def isAdmitted (s : State) (e : Nat) : Bool := ((FMap.get? s.tasks e).map (·.admitted)).getD false

/-- The first ready task, in rank order, that has a place is admitted (R23); one whose admission fails has bypassed none. -/
def admitFirst (s : State) : List (Nat × TaskEntry) → List (Nat × TaskEntry) → State
  | _, [] => s
  | above, (e, t) :: rest =>
    match place s t with
    | some p =>
      let s := admit_ s e t p
      if isAdmitted s e then bypassAll (countTask s e 78 above.length) above else s
    | none => admitFirst s (above ++ [(e, t)]) rest

/-- The accesses at admission that were left unresolved fail as placement loads (R27, R355). -/
def failBarred (s : State) : State :=
  (s.tasks.filter fun c => c.2.state == .barred).foldl (fun s c =>
    offerTask (modTask s c.1 fun t => { t with state := .held }) c.1 .cfgLoad (c.2.record.image.headD 0) none noWhere none) s

/-- marker_step() (R23), in a fabric cycle whose number is a multiple of 32. -/
def markerStep (s : State) : State :=
  if s.cycle % 32 = 0 then
    let s := failBarred s
    match s.blocked.bind fun e => (FMap.get? s.tasks e).map fun t => (e, t) with
    | some (e, t) =>
      if t.state = .ready ∧ s.unplaced.contains (taskId s e) = false then
        match place s t with
        | some p => { admit_ s e t p with blocked := none }
        | none => requestPreemptionFor s t
      else admitFirst { s with blocked := none } [] (readyList s)
    | none => admitFirst s [] (readyList s)
  else s

/-- The Marker's step (R23). -/
def execMarkerStep (s : State) : Host.Outcome State Fault Refusal := .next (markerStep s)

/-! ## The ends of garments and tasks (R20, R117, R193) -/

/-- Every strand of a panel's pattern is finished or killed. -/
def panelOver (x : Panel) : Bool :=
  (List.range x.image.strands).all fun i => (x.strand i).finished || (x.strand i).killed

/-- The garment runs and every strand has finished or been killed (R20). -/
def garmentOver (s : State) (t : TaskEntry) : Bool :=
  t.state == .running && t.record.npanels != 0 && !t.panels.isEmpty &&
    t.panels.all fun p => ((s.panel? p).map fun x => panelOver x && (x.state == .live || x.state == .killed)).getD true

/-- The signatures of a garment's threads, by (issuer, strand) (R203). -/
def garmentSigs (s : State) (t : TaskEntry) : List (Nat × Nat × Word) :=
  t.panels.flatMap fun p => match s.panel? p with
    | some x => (List.range x.image.strands).map fun i => (issuerNo (.seq p i), i, (s.thread (.seq p i)).sig)
    | none => []

/-- Two parts of a signature in the order (issuer, strand). -/
def sigLe (a b : Nat × Nat × Word) : Bool := decide (a.1 < b.1) || (a.1 == b.1 && decide (a.2.1 ≤ b.2.1))

/-- The signature of a pass (R203). -/
def passSig (parts : List (Nat × Nat × Word)) : Word :=
  (parts.mergeSort sigLe).foldl (fun acc p => acc.rotateLeft 7 ^^^ p.2.2) 0

/-- The events whose counts caches, DRAM, links or the Marker decide (DESIGN CHOICE, log 17). -/
def openEvents : List Nat :=
  [18] ++ ((List.range 14).map (· + 20)) ++ [49, 50, 56, 57, 58, 59, 80, 81]

/-- The count of a counter and its flag as read: free for an open event (R12, R198, R199; DESIGN CHOICE, log 17). -/
def counterRead (s : State) (c : Counter) : State × BitVec 48 × Bool :=
  match c.event with
  | some ev =>
    if openEvents.contains ev then
      let (s, d) := s.draw
      let (s, d') := s.draw
      (s, Config.freeCount d, (Config.freeCount d').getLsbD 0)
    else (s, c.count, c.ovf)
  | none => (s, c.count, c.ovf)

/-- A count with its flag in bit 63 (R199). -/
def countWord (n : BitVec 48) (f : Bool) : Word := zext64 n ||| (if f then 0x8000000000000000#64 else 0#64)

/-- The sum of a slot's counters over panels, with a wrap or an overflow in bit 63 (R202). -/
def sumCounters : List Counter → State × Nat × Bool → State × Word
  | [], (s, n, f) => (s, countWord (BitVec.ofNat 48 n) (f || decide (2 ^ 48 ≤ n)))
  | c :: cs, (s, n, f) =>
    let (s, k, o) := counterRead s c
    sumCounters cs (s, n + k.toNat, f || o)

/-- The counts of a pass, slot by slot. -/
def passCounts (xs : List Panel) : List Nat → State → State × List Word
  | [], s => (s, [])
  | i :: is, s =>
    let (s, w) := sumCounters (xs.map fun x => x.counters[i % 4]'(Nat.mod_lt _ (by decide))) (s, 0, false)
    let (s, ws) := passCounts xs is s
    (s, w :: ws)

/-- The counts and signature parts of a pass are recorded before the panels go (R202, R203). -/
def recordPass (s : State) (e : Nat) (t : TaskEntry) (parts : List (Nat × Nat × Word)) : State :=
  match ((FMap.get? s.tasks e).bind (·.fit)) with
  | some f =>
    let (s, ws) := passCounts (t.panels.filterMap s.panel?) [0, 1, 2, 3] s
    modTask s e fun t => { t with fit := some { f with counts := f.counts ++ [ws], sigs := f.sigs ++ [passSig parts], sigParts := parts } }
  | none => s

/-- Every strand has finished or been killed: the task's determinism log is merged, the counts of a pass are recorded, the garment's panels
are freed and its frame slots return (R20, R33, R117, R202). -/
def execGarmentDone (e : Nat) (s : State) : Host.Outcome State Fault Refusal :=
  .next (match FMap.get? s.tasks e with
    | some t =>
      if garmentOver s t then
        let s := mergeTask s e
        let s := recordPass s e t (garmentSigs s t)
        let s := t.panels.foldl freePanel s
        modTask { s with frames := s.frames.filter fun f => f.entry != e } e fun t => { t with panels := [], frames := [] }
      else s
    | none => s)

/-- The run of a task is over: its panels are freed, or its thread has executed `fin`. -/
def runOver (s : State) (t : TaskEntry) : Bool :=
  t.state == .running && (match t.thread with
    | some n => (s.thread (.core n)).status == .finished
    | none => t.panels.isEmpty && t.record.npanels != 0)

/-- Another pass of a fitting run follows (R202). -/
def morePasses (t : TaskEntry) : Bool :=
  match t.fit with
  | some f => decide (f.pass + 1 < f.passes) && !f.overflow
  | none => false

/-- The signature of a service-core task's pass is recorded at its end (R203). -/
def recordCore (s : State) (e : Nat) (t : TaskEntry) : State :=
  match t.thread with
  | some n => recordPass s e t [(4096 + n, 0, (s.thread (.core n)).sig)]
  | none => s

/-- Dependences on a done task are met, and a deferred request lapses (R22, R333). -/
def settleDone (s : State) (e c : Nat) (id : BitVec 32) : State :=
  let s := { s with tasks := mapVals (fun _ t => { t with deps := t.deps.filter fun d => d != .task id }) s.tasks }
  let s := preemptEnds (freeSlots (lapseDeferred s c id) c e) c id (some 60)
  modTask s e fun t => { t with deferred := false, wantFreeze := false }

/-- A task whose run is over counts as done; a service-core thread idles (R193). -/
def finishTask (s : State) (e : Nat) (t : TaskEntry) : State :=
  let id := taskId s e
  let s := match t.thread with | some n => idleThread s n | none => s
  settleDone (modTask s e fun t => { t with state := .done, thread := none }) e t.ctx id

/-- A task ends (R117, R193): its determinism log is merged, where its garment's end has not merged it, then it counts as done. -/
def execTaskEnd (e : Nat) (s : State) : Host.Outcome State Fault Refusal :=
  .next (match FMap.get? s.tasks e with
    | some t =>
      if runOver s t ∧ morePasses t = false then
        finishTask (recordCore (mergeTask s e) e t) e t
      else s
    | none => s)

/-- Pages of a fitting run's write set restored from the buffer, under the seal domains that their sectors had (R42, R202; DESIGN CHOICE, log
134). -/
def restoreSet (s : State) : List ((Nat × Nat) × FMap Nat (Nat × Nat)) → State
  | [] => s
  | ((page, pa), tags) :: l => restoreSet (copyPage s pa (page * 65536) tags) l

/-- The lines that the L2 holds sectors, a sideband or dirty bytes of. -/
def l2Lines (s : State) : List Nat :=
  (s.l2.map (· / 8) ++ s.sides.map Prod.fst ++
    (s.l2Dirty.flatMap fun (r : DirtyRun) => (List.range ((r.hi + 7) / 8 - r.lo / 8)).map (r.lo / 8 + ·))).dedup

/-- The line lies in memory that a context is assigned. -/
def lineOfCtx (s : State) (c line : Nat) : Bool := assignedUnit s c (line * 256 / 2 ^ 29)

/-- The context's L1 and L2 lines cleaned, then invalidated (R202). -/
def cleanContext (s : State) (c : Nat) : State :=
  let ps := (s.panels.filter fun (_, x) => x.ctx == c).map (·.1)
  let s := ps.foldl (fun s p => dropClean (drainPanel s p fun _ => true) p fun _ => true) s
  let s := flushReqs s fun r => r.names.2.any (lineOfCtx s c)
  let s := ((l2Lines s).filter (lineOfCtx s c)).foldl evictL2 s
  let mine (k : Nat) : Bool := (s.ctxt c).scmap.getLsbD (2 * k) || (s.ctxt c).scmap.getLsbD (2 * k + 1)
  { s with cores := mapVals (fun k x => if mine k then { x with l1 := [] } else x) s.cores }

/-- The next pass of a fitting run: its write set is restored, and the task is to be admitted again (R202, R266). -/
def nextPass (s : State) (e : Nat) (t : TaskEntry) (f : Fitting) : State :=
  let s := restoreSet s ((f.captured.zip f.bufferPas).zip f.tags)
  let s := match t.thread with | some n => idleThread s n | none => s
  modTask s e fun t => { t with
    state := .ready, admitted := false, thread := none
    fit := t.fit.map fun f => { f with pass := f.pass + 1 } }

/-- A pass of a fitting run ends with more to come (R202, R266): its log is merged and the caches are cleaned; where that leaves the write set
within its pages the next pass follows, else the run stops. -/
def execFittingPassEnd (e : Nat) (s : State) : Host.Outcome State Fault Refusal :=
  .next (match FMap.get? s.tasks e with
    | some t =>
      if runOver s t ∧ morePasses t = true then
        let s := cleanContext (recordCore (mergeTask s e) e t) t.ctx
        match (FMap.get? s.tasks e).bind (·.fit) with
        | some f => if f.overflow then finishTask s e t else nextPass s e t f
        | none => s
      else s
    | none => s)

end Sys2Proof.Machine
end

