-- ==== Sys2Proof/Machine/Counters.lean ====
section
/-! DEFINITION. Counters (R197-R199), fitting runs as programs see them (R201-R203), chalk (R200, R336). -/

namespace Sys2Proof.Machine

open Sys2Proof

/-! ## Counters (R199) -/

/-- The counters that a party's forms act on: its panel's, or its core's (R197). -/
def countersOf (s : State) (p : Party) : Vector Counter 4 :=
  match partyPanel p with
  | some x => ((s.panel? x).map (·.counters)).getD (Vector.replicate 4 Counter.clear)
  | none => (s.core? (coreOf p)).counters

/-- The state with those counters replaced. -/
def setCounters (s : State) (p : Party) (v : Vector Counter 4) : State :=
  match partyPanel p with
  | some x => s.modPanel x fun y => { y with counters := v }
  | none => s.setCore (coreOf p) { s.core? (coreOf p) with counters := v }

/-- The party's task is under a fitting run (R199, R202). -/
def underFit (s : State) (p : Party) : Bool := ((FMap.get? s.tasks (partyEntry s p)).map (·.fit.isSome)).getD false

/-- The qualifier of a location event names a stack of 12-14, or a pseudo-channel of 64-126 (R199). (DEDUCED, log 72) -/
def badQualifier (ev : Nat) (q : Word) : Bool :=
  decide (47 ≤ ev) && decide (ev ≤ 55) &&
    ((decide (12 ≤ bitsOf q 0 4) && decide (bitsOf q 0 4 ≤ 14)) || (decide (64 ≤ bitsOf q 4 7) && decide (bitsOf q 4 7 ≤ 126)))

/-- `pmsel a, b, c` (R199). -/
def execPmsel (a b c : Reg) (s : State) : Host.Outcome State Fault Refusal :=
  issue (.pmsel a b c) s fun s =>
    let n := (s.g a).toNat
    let ev := (s.g b).toNat
    if 3 < n ∨ 95 < ev ∨ badQualifier ev (s.g c) = true ∨ underFit s s.focus = true then engineTrap (.pmsel a b c)
    else
      let q := bitsOf (s.g c) 0 11
      let s := stitchBefore s
      .ok (setCounters s s.focus ((countersOf s s.focus).set (n % 4) ⟨some ev, q, 0, false⟩ (Nat.mod_lt _ (by decide))))

/-- `pmrd a, b` (R199). -/
def execPmrd (a b : Reg) (s : State) : Host.Outcome State Fault Refusal :=
  issue (.pmrd a b) s fun s =>
    let n := (s.g b).toNat
    if 3 < n then engineTrap (.pmrd a b)
    else
      let (s, k, o) := counterRead s ((countersOf s s.focus)[n % 4]'(Nat.mod_lt _ (by decide)))
      .ok (s.setG a (countWord k o))

/-- `pmclr a` (R199). -/
def execPmclr (a : Reg) (s : State) : Host.Outcome State Fault Refusal :=
  issue (.pmclr a) s fun s =>
    if underFit s s.focus then engineTrap (.pmclr a)
    else
      let m := s.g a
      let s := stitchBefore s
      let old := countersOf s s.focus
      .ok (setCounters s s.focus (Vector.ofFn fun i : Fin 4 =>
        if m.getLsbD i.val then { old[i] with count := 0, ovf := false } else old[i]))

/-! ## Fitting (R201-R203) -/

/-- The plan of 256 bytes, where no field breaks R201; its buffer's pages are not yet translated. (DEDUCED, log 67) -/
def parsePlan (bs : List Byte) : Option Fitting :=
  let b (i : Nat) : Nat := field bs i 1
  let pages := field bs 0x10 2
  let slot (p k : Nat) : Nat × Nat := (b (0x20 + 16 * p + 4 * k), field bs (0x21 + 16 * p + 4 * k) 2)
  if 1 ≤ b 0 ∧ b 0 ≤ 8 ∧ zeroField bs 1 7 ∧ aligned (imgWord bs 8) 65536 ∧ 1 ≤ pages ∧ pages ≤ 1024 ∧
      zeroField bs 0x12 14 ∧ zeroField bs 0xA0 96 ∧ ((List.range 32).all fun i => b (0x23 + 4 * i) == 0) then
    some
      { passes := b 0, buffer := imgWord bs 8, pages := pages
        slots := (List.range 8).map fun p => [slot p 0, slot p 1, slot p 2, slot p 3]
        pass := 0, bufferPas := [], captured := [], tags := [], overflow := false, counts := [], sigs := [], sigParts := [] }
  else none

/-- The physical addresses of the buffer's pages, each translated for writing (R202, R356). -/
def bufferPages (q : XReq) (va : Word) : List Nat → State → Except Trap (State × List Nat)
  | [], s => .ok (s, [])
  | i :: is, s =>
    match engTarget s q (va + BitVec.ofNat 64 (65536 * i)) with
    | .error t => .error t
    | .ok (s, tg) =>
      match bufferPages q va is s with
      | .error t => .error t
      | .ok (s, l) => .ok (s, tg.pa :: l)

/-- `fitbeg a, b` attaches a plan to an open task (R202). -/
def execFitbeg (a b : Reg) (s : State) : Host.Outcome State Fault Refusal :=
  issue (.fitbeg a b) s fun s =>
    match openTask s (s.g a) with
    | none => engineTrap (.fitbeg a b)
    | some (e, t) =>
      if t.fit.isSome ∨ aligned (s.g b) 64 = false then engineTrap (.fitbeg a b)
      else .bindX (ownRead s (s.g b) 256) fun (s, bs) =>
        match parsePlan bs with
        | none => engineTrap (.fitbeg a b)
        | some f =>
          let q := engReq (partyCtx s s.focus) (partyPriv s s.focus) .write (partyReq s s.focus .write).src
          .bindX (bufferPages q f.buffer (List.range f.pages) s) fun (s, pas) =>
            .ok (modTask s e fun t => { t with fit := some { f with bufferPas := pas } })

/-- The task of an identifier in the running party's context, as the fitting forms name it. -/
def fitTask (s : State) (v : Word) : Option (Nat × TaskEntry) :=
  if v.toNat < 2 ^ 32 then
    (findTask s (v.setWidth 32)).bind fun (e, t) => if t.ctx = partyCtx s s.focus then some (e, t) else none
  else none

/-- The identifier names a task that is done and of which nothing is kept: its generation is past, or its context's kill has released its entry
(R191, R21). -/
def namesPast (s : State) (v : Word) : Bool := idOk v && (findTask s (v.setWidth 32)).isNone

/-- `fitend a` releases the results of a done task (R202), of one of a past generation none (R191). -/
def execFitend (a : Reg) (s : State) : Host.Outcome State Fault Refusal :=
  issue (.fitend a) s fun s =>
    match fitTask s (s.g a) with
    | none => if namesPast s (s.g a) then .ok s else engineTrap (.fitend a)
    | some (e, t) =>
      if t.state.isOver then .ok (modTask s e fun t => { t with fit := none }) else engineTrap (.fitend a)

/-- The first pass whose signature differs from that of pass 0 (R202, R203). -/
def firstMismatch (f : Fitting) : Option Nat :=
  (List.range f.sigs.length).find? fun i => f.sigs.getD i 0 != f.sigs.getD 0 0

/-- The status item of a fitting run (R202). -/
def fitStatus (t : TaskEntry) (f : Fitting) : Word :=
  let m := firstMismatch f
  BitVec.ofNat 64 (t.state.isOver.toNat + 2 * m.isSome.toNat + 4 * f.overflow.toNat + 2 ^ 8 * f.counts.length +
    2 ^ 16 * m.getD 0)

/-- A result item (R202); an item of a pass that has not run is zero. (DEDUCED, log 68) -/
def fitItem (t : TaskEntry) (f : Fitting) (n : Nat) : Option Word :=
  if n < 32 then some ((f.counts.getD (n / 4) []).getD (n % 4) 0)
  else if 0x100 ≤ n ∧ n < 0x108 then some (f.sigs.getD (n - 0x100) 0)
  else if n = 0x200 then some (fitStatus t f)
  else none

/-- `fitstat a, b, c` (R202). -/
def execFitstat (a b c : Reg) (s : State) : Host.Outcome State Fault Refusal :=
  issue (.fitstat a b c) s fun s =>
    match (fitTask s (s.g b)).bind fun (_, t) => t.fit.bind fun f => fitItem t f (s.g c).toNat with
    | some v => .ok (s.setG a v)
    | none => engineTrap (.fitstat a b c)

/-! ## Chalk (R200, R336) -/

/-- The chalk triggers of a context's panels set. (DEDUCED, log 70) -/
def setTriggers (s : State) (c : Nat) (t : Option ChalkArm) : State :=
  { s with panels := mapVals (fun _ x => if x.ctx = c then { x with chalk := t, chalkHit := false } else x) s.panels }

/-- A trigger fires: it is disarmed, and the snapshot is due four cycles later (R336). -/
def fireChalk (s : State) (c : Nat) : State :=
  let s := setTriggers s c none
  s.setCtxt c { s.ctxt c with chalkFired := (s.ctxt c).chalkFired ++ [s.cycle + 4] }

/-- `chalk a, b` (R200). -/
def execChalk (a b : Reg) (s : State) : Host.Outcome State Fault Refusal :=
  issue (.chalk a b) s fun s =>
    let c := partyCtx s s.focus
    let n := (s.g a).toNat
    if 4 < n then engineTrap (.chalk a b)
    else if 0 < n ∧ (partyPriv s s.focus).isSup = false then trapOf .priv (wordVal (.chalk a b))
    else
      let v := s.g b
      let s := stitchBefore s
      .ok (match n with
        | 0 => fireChalk s c
        | 1 => setTriggers s c (some (.onTick v))
        | 2 => setTriggers s c (some (.onOverflow (v.setWidth 4)))
        | 3 => setTriggers s c (some (.onTack (bitsOf v 0 4)))
        | _ => setTriggers s c none)

/-- The trigger of a panel has what it waits for. -/
def chalkMet (s : State) (x : Panel) : Bool :=
  match x.chalk with
  | none => false
  | some (.onTick t) => decide (t.toNat ≤ s.tick.toNat)
  | some (.onOverflow m) => (List.finRange 4).any fun i => m.getLsbD i.val && x.counters[i].ovf
  | some (.onTack _) => x.chalkHit

/-- An armed trigger fires (R336). -/
def execChalkFire (c : Nat) (s : State) : Host.Outcome State Fault Refusal :=
  .next (if s.panels.any fun q => q.2.ctx == c && q.2.state != .frozen && chalkMet s q.2 then fireChalk s c else s)

/-- The place of a clamp cause in the order of R224; a publish search is named as a publish (R243; DESIGN CHOICE, log 114). -/
def ClampCause.code : ClampCause → Nat
  | .lateReply => 0 | .translation => 1 | .tackWait => 2 | .condWait => 3 | .drain => 4 | .rampUp => 5 | .publish => 6
  | .fabricFault => 7 | .freeze => 8 | .search => 6

/-- The causes that hold a panel. -/
def clampCodes (s : State) (p : Nat) (x : Panel) : List Nat :=
  (x.holds.map fun h => h.cause.code) ++ (if tkwaits s p then [2] else []) ++ (if 0 < x.publishHold then [6] else []) ++
    (if x.faulted.isEmpty then [] else [7]) ++ (if x.state = .stopping then [8] else [])

/-- The state byte of a record (R336): of several causes the first in the order of R224; a block held only by its heat has
no code in that order, and those bits are free (DESIGN CHOICE, log 29). -/
def chalkState (s : State) (p : Nat) (x : Panel) : State × Nat :=
  match clampCodes s p x with
  | [] =>
    if isHot s x then
      let (s, d) := s.draw
      (s, x.schedB.toNat + 2 + 4 * ((Config.freeByte d).toNat % 8))
    else (s, x.schedB.toNat)
  | k :: ks => (s, x.schedB.toNat + 2 + 4 * (ks.foldl min k % 8))

/-- The values of `pmrd` of a panel's counters. -/
def pmcWords : List Counter → State → State × List Word
  | [], s => (s, [])
  | c :: cs, s =>
    let (s, n, o) := counterRead s c
    let (s, ws) := pmcWords cs s
    (s, countWord n o :: ws)

/-- Free bytes, by draw. -/
def freeBytes : Nat → State → State × List Byte
  | 0, s => (s, [])
  | n + 1, s =>
    let (s, d) := s.draw
    let (s, bs) := freeBytes n s
    (s, Config.freeByte d :: bs)

/-- The record of block i of a panel (R336): the strands run on the lead block's threads, the pcs of the others' are
free (DESIGN CHOICE, log 29). -/
def chalkRecord (s : State) (p : Nat) (x : Panel) (i : Nat) : State × List Byte :=
  let (s, st) := chalkState s p x
  let (s, pm) := if i = 0 then pmcWords x.counters.toList s else (s, List.replicate 4 0#64)
  let (s, pcs) := if i = 0 then (s, bytesOfWords (strandIds.map fun k => (s.thread (.seq p k)).pc)) else freeBytes 32 s
  (s, toBytes 8 s.tick.toNat ++ toBytes 4 (taskId s x.entry).toNat ++ toBytes 1 x.row ++ toBytes 1 st ++ toBytes 2 i ++
    toBytes 8 (x.live - x.armedAt) ++ bytesOfWords pm ++ pcs ++ List.replicate 40 0#8)

/-- The record of a block written; a write that faults counts in FSUM.late (R336). (DEDUCED, log 69) -/
def writeRecord (s : State) (c p : Nat) (x : Panel) (i b : Nat) : State :=
  let (s, bs) := chalkRecord s p x i
  let base := (s.ctxt c).chalkbase &&& 0x007FFFFFFFFF0000#64
  match engWriteN s (engReq c .supervisor .write 7) 0 (some (.panel x.uid)) (base + BitVec.ofNat 64 (128 * b)) bs with
  | .ok s => s
  | .error t => countFault s c 16 16 t.cause

/-- Every block of a panel writes its record. -/
def writePanelRecords (s : State) (c p : Nat) (x : Panel) : State :=
  (x.blocks.zipIdx).foldl (fun s (b, i) => writeRecord s c p x i b) s

/-- A snapshot is due. -/
def latchDue (s : State) (c : Nat) : Bool := (s.ctxt c).chalkFired.any fun t => decide (t ≤ s.cycle)

/-- The snapshot is latched and written, or discarded while `c.chalkbase` is off (R336). -/
def execChalkLatch (c : Nat) (s : State) : Host.Outcome State Fault Refusal :=
  .next (if latchDue s c then
    let s := s.setCtxt c { s.ctxt c with chalkFired := (s.ctxt c).chalkFired.drop 1 }
    if (s.ctxt c).chalkbase.getLsbD 0 then
      (s.panels.filter fun q => q.2.ctx == c && q.2.state != .frozen).foldl (fun s q => writePanelRecords s c q.1 q.2) s
    else s
  else s)

end Sys2Proof.Machine
end

