-- ==== Sys2Proof/Machine/Steps.lean ====
section
/-! DEFINITION. Steps of the reference machine on caches and home queues (R84, R99): drain, apply, fill, evict. -/

namespace Sys2Proof.Machine

open Sys2Proof

/-- The step drain (R99). -/
def execDrain (p t line : Nat) (s : State) : Host.Outcome State Fault Refusal := .next (drainLine s p t line)

/-- The step apply (R99). -/
def execApply (h : Nat) (s : State) : Host.Outcome State Fault Refusal := .next (applyHead s h)

/-- The domain that a context's fill reads a sector under: its own where the sector was written under it, else none. -/
def fillDom (s : State) (c sec : Nat) : Nat := if sealFits s (ctxDomain s c) sec then ctxDomain s c else 0

/-- The bytes of a sector as a fill takes them from the home; none of a sector that is poisoned. -/
def sectorCells (s : State) (c sec : Nat) : Cells :=
  if poisoned s (sec * 32) 32 then [] else cellsAt (sec * 32) (homeBytes s (fillDom s c sec) (sec * 32) 32)

/-- The bytes of a line that a fill takes. -/
def lineCells (s : State) (c line : Nat) : Cells := (List.range 8).flatMap fun i => sectorCells s c (8 * line + i)

/-- The L2 fills what it lacks of a line that a unit of a context asks for (R311). -/
def askLine (s : State) (w : Writer) (c line : Nat) : State :=
  ((List.range 8).map (8 * line + ·)).foldl (fun s sec => l2Sector (some w) (fillDom s c sec) s sec) s

/-- The step fill (R99): every byte of a line that is not dirty is set from the home copy as last applied, and the L2 fills what it lacks of it
for the unit that asks (R84, R311). The L2 fills nothing of its own accord, for it fetches no sector that no access asked for (R311; DEDUCED,
log 87). -/
def fillUnit (s : State) (u : CacheUnit) (line : Nat) : State :=
  if cacheable s line = false then s
  else match u with
  | .tile p t =>
    match s.panel? p with
    | some x =>
      if x.image.l1 = 0 then s
      else (askLine s (.panel x.uid) x.ctx line).modPanel p fun x =>
        let tl := x.tile t
        let fresh := (lineCells s x.ctx line).filter fun c => (FMap.get? tl.pool c.1).isNone
        x.setTile t { tl with lines := fillCells tl.lines fresh }
    | none => s
  | .core n =>
    match (s.core? n).lastCtx with
    | some c =>
      let cells := lineCells s c line
      let s := askLine s (.core n) c line
      s.setCore n { s.core? n with l1 := fillCells (s.core? n).l1 cells }
    | none => s
  | .l2 => s

/-- The step fill (R99). (DEDUCED, log 87) -/
def execFill (u : CacheUnit) (line : Nat) (s : State) : Host.Outcome State Fault Refusal := .next (fillUnit s u line)

/-- The step evict (R99): a line is drained if dirty, then dropped. -/
def evictUnit (s : State) (u : CacheUnit) (line : Nat) : State :=
  match u with
  | .tile p t =>
    (drainLine s p t line).modPanel p fun x =>
      x.setTile t { x.tile t with lines := (x.tile t).lines.filter fun c => lineOf c.1 != line }
  | .core n => s.setCore n { s.core? n with l1 := (s.core? n).l1.filter fun c => lineOf c.1 != line }
  | .l2 => evictL2 s line

/-- The step evict (R99). -/
def execEvict (u : CacheUnit) (line : Nat) (s : State) : Host.Outcome State Fault Refusal := .next (evictUnit s u line)

end Sys2Proof.Machine
end

