-- ==== Sys2Proof/Machine/Press.lean ====
section
/-! DEFINITION. The press (R295-R311): issue of its six forms, the preparation of a command, its path, the reads and
writes of its lines, its completion record. -/

namespace Sys2Proof.Machine

open Sys2Proof

/-! ## Issue (R296, R297) -/

/-- The bytes of a span (R295). -/
def spanBytes : Nat := 2 ^ 20

/-- The commands of a party accepted and not completed, but for one. -/
def pressOf (s : State) (p : Party) : List (Nat × PressCmd) := s.press.filter fun c => c.2.party == p

/-- The first failing check of R297. -/
def pressCheck (s : State) (word dst desc record : Word) : Option Trap :=
  let refused (a : Word) : Bool := isTagged a && (partyTagged s s.focus a 32).isNone
  if isTagged dst then some (mkTrap .perm dst)
  else if refused desc then some (mkTrap .perm desc)
  else if refused record then some (mkTrap .perm record)
  else if !aligned dst spanBytes then some (mkTrap .align dst)
  else if !aligned desc 32 then some (mkTrap .align desc)
  else if !aligned record 32 then some (mkTrap .align record)
  else if 16 ≤ (pressOf s s.focus).length then some (mkTrap .engine word)
  else none

/-- A press form issued (R296, R297). -/
def pressIssue (i : Instr) (op : Nat) (a b c : Reg) (s : State) : Res :=
  match pressCheck s (wordVal i) (s.g a) (s.g b) (s.g c) with
  | some t => .trap t
  | none =>
    let p := s.focus
    let cmd : PressCmd :=
      { op := op, ctx := partyCtx s p, party := p, uid := partyUid s p, data := [], dst := s.g a, desc := s.g b, record := s.g c
        priv := partyPriv s p, task := partyTask s p, plan := none, ready := [], wrote := [], heldFault := false
        heldRecord := false, failed := none }
    let s := stitchBefore s
    .ok { s with press := FMap.set s.press s.nextId cmd, nextId := s.nextId + 1 }

/-- `prcopy a, b, c` (R296). -/
def execPrcopy (a b c : Reg) (s : State) : Host.Outcome State Fault Refusal :=
  issue (.prcopy a b c) s (pressIssue (.prcopy a b c) 0 a b c)

/-- `prfill a, b, c` (R296). -/
def execPrfill (a b c : Reg) (s : State) : Host.Outcome State Fault Refusal :=
  issue (.prfill a b c) s (pressIssue (.prfill a b c) 1 a b c)

/-- `prand a, b, c` (R296). -/
def execPrand (a b c : Reg) (s : State) : Host.Outcome State Fault Refusal :=
  issue (.prand a b c) s (pressIssue (.prand a b c) 2 a b c)

/-- `pror a, b, c` (R296). -/
def execPror (a b c : Reg) (s : State) : Host.Outcome State Fault Refusal :=
  issue (.pror a b c) s (pressIssue (.pror a b c) 3 a b c)

/-- `prxor a, b, c` (R296). -/
def execPrxor (a b c : Reg) (s : State) : Host.Outcome State Fault Refusal :=
  issue (.prxor a b c) s (pressIssue (.prxor a b c) 4 a b c)

/-- `prnot a, b, c` (R296). -/
def execPrnot (a b c : Reg) (s : State) : Host.Outcome State Fault Refusal :=
  issue (.prnot a b c) s (pressIssue (.prnot a b c) 5 a b c)

/-! ## Paths (R295, R302) -/

/-- The 16 pages of span i. -/
def spanPages (pages : List (Nat × Nat)) (i : Nat) : List (Nat × Nat) := (pages.drop (16 * i)).take 16

/-- The pages of a span are the 16 parts of one aligned MiB in order (R295). -/
def physicallyWhole (ps : List (Nat × Nat)) : Bool :=
  let b := (ps.headD (0, 0)).1
  b % spanBytes == 0 && (ps.zipIdx).all fun (q, i) => q.1 == b + 65536 * i

/-- The stack of a span (R295). -/
def spanStack (m : HbmMap) (pa : Nat) : Nat := (stackAddr m pa).1

/-- The base of a span. -/
def spanBase (ps : List (Nat × Nat)) : Nat := (ps.headD (0, 0)).1

/-- path(form, x_1 … x_k) for the pages of each operand span (R302). -/
def pressPath (m : HbmMap) (fitting : Bool) (op : Nat) (spans : List (List (Nat × Nat))) : PressPath :=
  let bases := spans.map spanBase
  let x := bases.headD 0
  let region (b : Nat) : Nat := b / 2 ^ 29
  let mc (b : Nat) : Nat := (FMap.getD m.mc (region b) 0).toNat
  let mp (b : Nat) : Nat := (FMap.getD m.mp (region b) 0).toNat
  let k := mc x ||| mp x
  if fitting then .fallback
  else if spans.any fun ps => ps.any (fun q => decide (0x00C000000000 ≤ q.1) || q.2 != 0) || !physicallyWhole ps then .fallback
  else if bases.any fun b => spanStack m b != spanStack m x then .fallback
  else if bases.any fun b => mc b != mc x || mp b != mp x then .fallback
  else if bases.any fun b => ((b ^^^ x) / 2 ^ 14 * 2 ^ 14) &&& k != 0 then .fallback
  else if bases.all fun b => region b / 12 == region x / 12 then .subarray
  else if op = 0 then .bank
  else .fallback

/-! ## Preparation (R298, R300, R301) -/

/-- The operands of a form: how many sources it takes. -/
def pressSources (op : Nat) : Nat := if op = 1 then 0 else if op = 0 ∨ op = 5 then 1 else 2

/-- A command record (R298). -/
structure PressRec where
  sa : Word
  sb : Word
  count : Nat
  deriving DecidableEq, Repr

/-- A source may be named: 1 MiB-aligned and not scratch-tagged (R298, R301). -/
def sourceOk (a : Word) : Bool := aligned a spanBytes && !isTagged a

/-- The record of 32 bytes, where it keeps R298 for its form. -/
def parsePress (op : Nat) (bs : List Byte) : Option PressRec :=
  let sa := imgWord bs 0
  let sb := imgWord bs 8
  let n := field bs 0x10 2
  let saOk := if op = 1 then sa == 0#64 else sourceOk sa
  let sbOk := if op = 1 then true else if op = 0 ∨ op = 5 then sb == 0#64 else sourceOk sb
  if 1 ≤ n ∧ n ≤ 4096 ∧ zeroField bs 0x12 14 ∧ saOk ∧ sbOk then some ⟨sa, sb, n⟩ else none

/-- How a preparation ends early: a held translation fault, of the completion record or another; or a code. -/
inductive PressEnd where
  | held (t : Trap) (ofRecord : Bool)
  | code (n : Nat)
  deriving DecidableEq, Repr

/-- A trap of a command's access: held where it is a translation fault, else the end of the command. -/
def pressEnd (t : Trap) (ofRecord : Bool) : PressEnd :=
  if t.xl.isSome then .held t ofRecord else .code (if t.cause = .ecc then 0x54 else 0x53)

/-- How the press translates for a command. -/
def pressReq (c : PressCmd) (acc : Access) : XReq := engReq c.ctx c.priv acc 6

/-- The command record read at its homes, or in scratch, once. (DEDUCED, log 73) -/
def pressRecord (s : State) (c : PressCmd) : Except PressEnd (State × List Byte) :=
  if c.data ≠ [] then .ok (s, c.data)
  else if isTagged c.desc then
    match cmdScratch s c.party c.uid c.desc 32 with
    | some l => if (scratchEcc s c.party l 32).isSome then .error (.code 0x54) else .ok (cmdBytes s c.party l 32)
    | none => .error (.code 0x53)
  else match engReadN s (pressReq c .read) c.desc 32 with
    | .ok r => .ok r
    | .error t => .error (pressEnd t false)

/-- The completion record's address translated with W, where it is a virtual address. -/
def pressRecordPa (s : State) (c : PressCmd) : Except PressEnd (State × Option (Nat × Nat)) :=
  if c.record = 0#64 ∨ isTagged c.record = true then .ok (s, none)
  else match engTarget s (pressReq c .write) c.record with
    | .ok (s, tg) => .ok (s, some (tg.pa, tg.dom))
    | .error t => .error (pressEnd t true)

/-- Pages translated in order: each with its physical address, domain and PX; one in the space of device registers has none. -/
def pressPages (q : XReq) : Nat → Word → State → Except PressEnd (State × List (Nat × Nat × Bool))
  | 0, _, s => .ok (s, [])
  | n + 1, va, s =>
    match translate s q va with
    | .error t => .error (pressEnd t false)
    | .ok (s, tg) =>
      match pressPages q n (va + 65536#64) s with
      | .error e => .error e
      | .ok (s, l) => .ok (s, (tg.pa, tg.dom, tg.px && paKind s tg.pa != .device) :: l)

/-- The spans of an operand: the pages of each are translated, then a page without PX ends the command (R300). -/
def pressSpans (q : XReq) : Nat → Word → State → Except PressEnd (State × List (Nat × Nat))
  | 0, _, s => .ok (s, [])
  | n + 1, va, s =>
    match pressPages q 16 va s with
    | .error e => .error e
    | .ok (s, l) =>
      if l.any fun g => !g.2.2 then .error (.code 0x51)
      else match pressSpans q n (va + BitVec.ofNat 64 spanBytes) s with
        | .error e => .error e
        | .ok (s, ls) => .ok (s, l.map (fun g => (g.1, g.2.1)) ++ ls)

/-- The pages of every source. -/
def pressSrcPages (c : PressCmd) (n : Nat) : List Word → State → Except PressEnd (State × List (List (Nat × Nat)))
  | [], s => .ok (s, [])
  | va :: vas, s =>
    match pressSpans (pressReq c .read) n va s with
    | .error e => .error e
    | .ok (s, l) =>
      match pressSrcPages c n vas s with
      | .error e => .error e
      | .ok (s, ls) => .ok (s, l :: ls)

/-- Some destination page of a span lies in a source span other than the same one (R300, code 0x52). -/
def pressOverlaps (dst src : List (Nat × Nat)) : Bool :=
  (dst.zipIdx).any fun (d, i) => (src.zipIdx).any fun (q, j) => d.1 == q.1 && i / 16 != j / 16

/-- The task of a command runs under a fitting plan (R302). -/
def pressFits (s : State) (c : PressCmd) : Bool := ((findTask s c.task).map fun x => x.2.fit.isSome).getD false

/-- Everything before the first write of a command whose record is read (R300). The spans of the destination are translated and tested before
those of the first source, and these before the second's (R300 names no order of the operands: DESIGN CHOICE, log 146). -/
def pressPlan (s : State) (c : PressCmd) (bs : List Byte) : Except PressEnd (State × PressPlan) :=
  match parsePress c.op bs with
  | none => .error (.code 0x50)
  | some r =>
    match pressRecordPa s c with
    | .error e => .error e
    | .ok (s, rpa) =>
      match pressSpans (pressReq c .write) r.count c.dst s with
      | .error e => .error e
      | .ok (s, dst) =>
        match pressSrcPages c r.count ([r.sa, r.sb].take (pressSources c.op)) s with
        | .error e => .error e
        | .ok (s, srcs) =>
          if srcs.any (pressOverlaps dst) then .error (.code 0x52)
          else
            let m := hbmOf s
            let path (i : Nat) : PressPath := pressPath m (pressFits s c) c.op ((dst :: srcs).map fun l => spanPages l i)
            .ok (s, ⟨r.count, dst, srcs, r.sb, rpa, m, (List.range r.count).map path⟩)

/-- A command replaced. -/
def setPress (s : State) (n : Nat) (c : PressCmd) : State := { s with press := FMap.set s.press n c }

/-! ## Commands of one party (R307) -/

/-- The lines of a span. -/
def spanLines : Nat := 4096

/-- A line is one of a plan's destination whose write has not been applied yet; the plan's addresses are those of the map that it read (R307,
R308). (DEDUCED, log 75) -/
def pendsLine (s : State) (c : PressCmd) (pl : PressPlan) (line : Nat) : Bool :=
  let waits := waitsIn s [(line * 256, line * 256 + 256)]
  let line := remapPa (hbmOf s) pl.map (line * 256) / 256
  (pl.dst.zipIdx).any fun (d, j) =>
    decide (d.1 / 256 ≤ line) && decide (line < d.1 / 256 + 256) && (waits || !c.wrote.contains (256 * j + (line - d.1 / 256)))

/-- The line is that of the completion record of a command that has no plan. -/
def recordsLine (s : State) (c : PressCmd) (line : Nat) : Bool :=
  c.record != 0#64 && !isTagged c.record && ((peek s c.ctx c.record.toNat).map fun r => r.1 / 256 == line).getD true

/-- An earlier command of the same party may still write a line: it has no plan yet, or the line is one of its own. -/
def blocksLine (s : State) (line : Nat) (c : PressCmd) : Bool :=
  match c.plan with
  | none => c.failed.isNone || recordsLine s c line
  | some pl => pendsLine s c pl line || ((pl.record.map fun r => r.1 / 256 == line).getD false)

/-- The earlier commands of the party of a command that are not completed. -/
def earlier (s : State) (n : Nat) (c : PressCmd) : List PressCmd :=
  ((pressOf s c.party).filter fun q => decide (q.1 < n)).map (·.2)

/-- A line may be read by a command (R307). -/
def mayReadLine (s : State) (n : Nat) (c : PressCmd) (line : Nat) : Bool := !(earlier s n c).any (blocksLine s line)

/-- The command record may be read: no earlier command writes it (R307). -/
def mayReadRecord (s : State) (n : Nat) (c : PressCmd) : Bool :=
  if isTagged c.desc then !(earlier s n c).any fun e => e.record == c.desc
  else match peek s c.ctx c.desc.toNat with
    | some (pa, _) => mayReadLine s n c (pa / 256)
    | none => (earlier s n c).isEmpty

/-! ## The steps of a command (R300, R304, R308, R310) -/

/-- The end of a preparation: a code, or a held fault that is offered. -/
def pressStop (s : State) (n : Nat) (c : PressCmd) : PressEnd → State
  | .code k => setPress s n { c with failed := some k, heldRecord := false }
  | .held t r =>
    offerEngine (setPress s n { c with heldFault := true, heldRecord := r }) c.ctx c.task t 6 (issuerNo c.party) (some (.press n))

/-- The preparation of a command: its record, then its plan, or what ends it. -/
def pressPrepare (s : State) (n : Nat) (c : PressCmd) : State :=
  if mayReadRecord s n c then
    match pressRecord s c with
    | .error e => pressStop s n c e
    | .ok (s, bs) =>
      let c := { c with data := bs }
      match pressPlan s c bs with
      | .ok (s, pl) => setPress s n { c with plan := some pl, heldRecord := false }
      | .error e => pressStop s n c e
  else s

/-- The physical address and domain of line k of an operand, at the location that the map read first gives (R308). -/
def operandLine (s : State) (pl : PressPlan) (pages : List (Nat × Nat)) (k : Nat) : Nat × Nat :=
  let q := pages.getD (k / 256) (0, 0)
  (remapPa pl.map (hbmOf s) (q.1 + k % 256 * 256), q.2)

/-- The path of the span of line k. -/
def linePath (pl : PressPlan) (k : Nat) : PressPath := pl.paths.getD (k / spanLines) .fallback

/-- A bitwise operation on the bytes of two lines (R296). -/
def pressByte (op : Nat) (x y : Byte) : Byte :=
  if op = 2 then x &&& y else if op = 3 then x ||| y else if op = 4 then x ^^^ y else if op = 5 then ~~~x else x

/-- The result of a line from its source lines (R296). -/
def pressResult (op : Nat) (pattern : Word) (srcs : List (List Byte)) : List Byte :=
  if op = 1 then (List.range 32).flatMap fun _ => toBytes 8 pattern.toNat
  else
    let x := srcs.getD 0 []
    let y := srcs.getD 1 []
    (List.range 256).map fun i => pressByte op (x.getD i 0) (y.getD i 0)

/-- The poisoned sectors of a line, by number in the line. -/
def badSectors (s : State) (pa : Nat) : List Nat := (List.range 8).filter fun i => poisoned s (pa + 32 * i) 32

/-- The bytes of a line with those of some sectors free: what an uncorrectable error makes of them (R310; DESIGN CHOICE, log 126). -/
def spoil (s : State) (bad : List Nat) (bs : List Byte) : State × List Byte :=
  ({ s with fresh := s.fresh + 256 },
    (bs.zipIdx).map fun (b, i) => if bad.contains (i / 32) then Config.freeByte (s.fresh + i) else b)

/-- The physical blocks of 16 KiB that hold span i of an operand, each whole at its place under the present map (R86, R308). -/
def spanBlocks (s : State) (pl : PressPlan) (pages : List (Nat × Nat)) (i : Nat) : List Nat :=
  (List.range 64).map fun j => (operandLine s pl pages (spanLines * i + 64 * j)).1 / 16384

/-- The command has read or written a line of span i. -/
def actedOn (c : PressCmd) (i : Nat) : Bool :=
  (c.wrote.any fun k => k / spanLines == i) || c.ready.any fun r => r.1 / max 1 (pressSources c.op) / spanLines == i

/-- What the hardware does before it acts on span i of a command (R305): dirty sidebands of the destination's lines are written back, dirty L2
lines of the source spans cleaned, the destination's lines invalidated in the L2. -/
def readySpan (s : State) (pl : PressPlan) (i : Nat) : State :=
  let dst := spanBlocks s pl pl.dst i
  let inside (line : Nat) : Bool := dst.contains (line / 64)
  let s := ((s.sides.map Prod.fst).filter inside).foldl evictSide s
  let s := ((pl.srcs.flatMap fun l => spanBlocks s pl l i) ++ dst).foldl (fun s b => cleanRange s (512 * b) (512 * b + 512)) s
  { s with l2 := s.l2.filter fun sec => !inside (sec / 8), l2Dom := s.l2Dom.filter fun c => !inside c.1 }

/-- The span is made ready where the command has not acted on it yet. -/
def actSpan (s : State) (c : PressCmd) (pl : PressPlan) (i : Nat) : State := if actedOn c i then s else readySpan s pl i

/-- The engine read of one source line (R304): read m is of source m mod k of line m div k, for k sources; an uncorrectable line fails the
command on the fallback path, goes with the data of a native copy, and its bytes go unchecked into the other native forms (R301, R310). -/
def pressReadLine (s : State) (n : Nat) (c : PressCmd) (pl : PressPlan) (m : Nat) : State :=
  let k := m / max 1 (pressSources c.op)
  match pl.srcs[m % max 1 (pressSources c.op)]? with
  | none => s
  | some src =>
    let l := operandLine s pl src k
    if spanLines * pl.count ≤ k ∨ c.wrote.contains k = true ∨ (c.ready.any fun r => r.1 == m) = true ∨
        mayReadLine s n c (l.1 / 256) = false then s
    else
      let s := actSpan s c pl (k / spanLines)
      let bs := homeBytes s l.2 l.1 256
      let bad := badSectors s l.1
      if bad = [] then setPress s n { c with ready := c.ready ++ [(m, bs, [])] }
      else if linePath pl k = .fallback then setPress s n { c with failed := some 0x54 }
      else if c.op = 0 then setPress s n { c with ready := c.ready ++ [(m, bs, bad)] }
      else
        let (s, bs) := spoil s bad bs
        setPress s n { c with ready := c.ready ++ [(m, bs, [])] }

/-- The engine read of a press command: its preparation, then its source lines. (DEDUCED, log 76) -/
def pressRead (s : State) (n m : Nat) : State :=
  match FMap.get? s.press n with
  | none => s
  | some c =>
    if c.heldFault ∨ c.failed.isSome then s
    else match c.plan with
      | none => pressPrepare s n c
      | some pl => pressReadLine s n c pl m

/-- Every line of span i of a command is written; a line is written once. -/
def spanDone (c : PressCmd) (i : Nat) : Bool := (c.wrote.filter fun k => k / spanLines == i).length == spanLines

/-- The stack that a press event of a destination span counts at: 15 for the second tier (R198). -/
def pressStack (m : HbmMap) (pa : Nat) : Nat := if pa < 0x00C000000000 then spanStack m pa else 15

/-- A press event counted by the counters whose qualifier names its stack or any stack, and any pseudo-channel (R198). -/
def Counter.addPress (c : Counter) (ev st : Nat) : Counter :=
  if c.qual / 16 % 128 = 127 ∧ (c.qual % 16 = 15 ∨ c.qual % 16 = st) then c.add ev 1 else c

/-- A press event counted for the issuer of a command, while its panel stands where it stood (R198). (DEDUCED, log 74) -/
def countPress (s : State) (q : PressCmd) (ev st : Nat) : State :=
  if partyUid s q.party = q.uid then setCounters s q.party ((countersOf s q.party).map fun c => c.addPress ev st) else s

/-- The event of a path. -/
def PressPath.event : PressPath → Nat
  | .subarray => 52 | .bank => 53 | .fallback => 54

/-- A line's result written at its home as one update past the L2, which then holds no copy of it; sectors that carry an error are poisoned
there (R304, R310, R311). -/
def putLine (s : State) (c : PressCmd) (at_ : Nat × Nat) (bs : List Byte) (bad : List Nat) : State :=
  let s := l2Drop (evictSide s (at_.1 / 256)) (at_.1 / 256)
  let u : Update := ⟨cellsAt at_.1 bs, at_.2, c.task, true, wholeSectors at_.1 256, none⟩
  if bad.isEmpty then pushUpdate s at_.1 u
  else
    let s := applyUpdate (flushSlice s (sliceOf at_.1)) u
    { s with poison := (s.poison ++ bad.map fun i => at_.1 / 32 + i).dedup }

/-- The sources of line k that are read, by their numbers; none where one is not. -/
def lineReads (c : PressCmd) (k : Nat) : Option (List (Nat × List Byte × List Nat)) :=
  let w := pressSources c.op
  let rs := (List.range w).filterMap fun j => c.ready.find? fun r => r.1 == w * k + j
  if rs.length = w then some rs else none

/-- The result of line k as the press makes it: wrong bits that nothing reports where a soft error meets its activation window (R310, R351). -/
def lineResult (s : State) (c : PressCmd) (pl : PressPlan) (rs : List (Nat × List Byte × List Nat)) (soft : Bool) : State × List Byte :=
  let bs := pressResult c.op pl.pattern (rs.map (·.2.1))
  if soft then spoil s (List.range 8) bs else (s, bs)

/-- The engine write of line k of a command (R304): one update of the 256 bytes; a span whose lines are all written is
counted (R198, R300). A soft error (`soft`) meets only the native forms that compute a row's check bits, `prcopy` not among them (R310). -/
def pressWriteAs (s : State) (n k : Nat) (soft : Bool) : State :=
  match FMap.get? s.press n with
  | none => s
  | some c =>
    match c.plan, lineReads c k with
    | some pl, some rs =>
      if c.heldFault ∨ c.failed.isSome ∨ c.wrote.contains k = true ∨ spanLines * pl.count ≤ k ∨
          (soft = true ∧ (linePath pl k = .fallback ∨ c.op = 0)) then s
      else
        let i := k / spanLines
        let s := actSpan s c pl i
        let (s, bs) := lineResult s c pl rs soft
        let s := putLine s c (operandLine s pl pl.dst k) bs (rs.flatMap (·.2.2))
        let c := { c with ready := c.ready.filter fun r => r.1 / max 1 (pressSources c.op) != k, wrote := k :: c.wrote }
        let s := setPress s n c
        if spanDone c i then
          countPress s c (linePath pl k).event (pressStack pl.map (pl.dst.getD (16 * i) (0, 0)).1)
        else s
    | _, _ => s

/-- The engine write of line k of a command. -/
def pressWrite (s : State) (n k : Nat) : State := pressWriteAs s n k false

/-! ## Completion (R299, R301) -/

/-- The destination spans completed. -/
def spansDone (c : PressCmd) (pl : PressPlan) : List Nat := (List.range pl.count).filter (spanDone c)

/-- The spans completed by a path. -/
def spansBy (c : PressCmd) (q : PressPath) : Nat :=
  match c.plan with
  | some pl => ((spansDone c pl).filter fun i => pl.paths.getD i .fallback == q).length
  | none => 0

/-- The status word of a command that ends with a code (R299). -/
def pressStatus (c : PressCmd) (code : Nat) : Word :=
  BitVec.ofNat 64 (2 ^ 63 + code * 2 ^ 56 + ((c.plan.map fun pl => (spansDone c pl).length).getD 0))

/-- The bytes of the three counts. -/
def pressCounts (c : PressCmd) : List Byte :=
  toBytes 8 (spansBy c .subarray) ++ toBytes 8 (spansBy c .bank) ++ toBytes 8 (spansBy c .fallback)

/-- How a completion record is written: the state after it, the fault that holds it, or no write in this cycle. -/
inductive RecordEnd where
  | done (s : State)
  | held (t : Trap)
  | waits
  deriving DecidableEq, Repr

/-- The address of the completion record in memory: the plan's, or for a command that fails before it has one that of its
translation now. -/
def recordTarget (s : State) (c : PressCmd) : Except Trap (State × Nat × Nat) :=
  match c.plan.bind (·.record) with
  | some r => .ok (s, r)
  | none => match engTarget s (pressReq c .write) c.record with
    | .ok (s, tg) => .ok (s, tg.pa, tg.dom)
    | .error t => .error t

/-- The completion record written: the counts, then the status word, applied at their homes (R299, R307); in a reserved bank of the present row it
waits (R118). A translation fault that its address meets only now is held (R355); an address that cannot be written takes nothing (R301). -/
def writePressRecord (s : State) (c : PressCmd) (code : Nat) : RecordEnd :=
  let st := toBytes 8 (pressStatus c code).toNat
  if c.record = 0#64 ∨ c.heldRecord = true then .done s
  else if isTagged c.record then
    match cmdScratch s c.party c.uid (c.record + 8#64) 24, cmdScratch s c.party c.uid c.record 8 with
    | some l, some l' =>
      if bankReserved s c.party l' 32 then .waits
      else .done (landScratch (landScratch s c.party l (pressCounts c)) c.party l' st)
    | _, _ => .done s
  else match recordTarget s c with
    | .ok (s, pa, dom) =>
      let w := cmdWriter s c.party c.uid
      .done (writeHomeNow (writeHomeNow s dom c.task (pa + 8) (pressCounts c) w) dom c.task pa st w)
    | .error t => if t.xl.isSome then .held t else .done s

/-- The cause that a failing command offers to its task, with the code as its value (R301). -/
def offerPress (s : State) (c : PressCmd) (code : Nat) : State :=
  if code = 0 then s
  else offerEngine s c.ctx c.task (mkTrap (if code = 0x54 then .ecc else .press) (BitVec.ofNat 64 code)) 6 (issuerNo c.party) none

/-- A command whose record is written is over: its count in ev55 at the stack of its first destination span, its cause. -/
def closePress (s : State) (n : Nat) (c : PressCmd) (code : Nat) : State :=
  let s := match c.plan with
    | some pl => countPress s c 55 (pressStack pl.map (spanBase pl.dst))
    | none => s
  offerPress { s with press := FMap.erase s.press n } c code

/-- A command ends with a code (R299, R301); a fault of its record's address is held and offered, and the command ends once it is resolved
or left unresolved (R355). -/
def endPress (s : State) (n : Nat) (c : PressCmd) (code : Nat) : State :=
  match writePressRecord s c code with
  | .done s => closePress s n c code
  | .held t => pressStop s n { c with failed := some code } (.held t true)
  | .waits => s

/-- Some line that a command has written is not yet applied at its home (R299, R301). -/
def writesWait (s : State) (c : PressCmd) : Bool :=
  match c.plan with
  | some pl => waitsIn s ((List.range pl.count).flatMap fun i => (spanBlocks s pl pl.dst i).map fun b => (16384 * b, 16384 * b + 16384))
  | none => false

/-- Every line of a command is written. -/
def pressDone (c : PressCmd) : Bool :=
  match c.plan with
  | some pl => decide (c.wrote.length = spanLines * pl.count)
  | none => false

/-- A press command completes, after the party's earlier ones (R299, R301, R307). -/
def pressComplete (s : State) (n : Nat) : State :=
  match FMap.get? s.press n with
  | none => s
  | some c =>
    if c.heldFault ∨ earlier s n c ≠ [] ∨ writesWait s c then s
    else match c.failed with
      | some code => endPress s n c code
      | none => if pressDone c then endPress s n c 0 else s

/-- Press command n completes (R299). -/
def execPressCommandComplete (n : Nat) (s : State) : Host.Outcome State Fault Refusal := .next (pressComplete s n)

end Sys2Proof.Machine
end

