-- ==== Sys2Proof/Machine/QuiltNum.lean ====
section
/-! DEFINITION. The summary arithmetic of the quilt engines (R273-R276) and the bytes of their nodes (R271, R272). -/

namespace Sys2Proof.Machine

open Sys2Proof

/-! ## Division and square root, rounded once (R273) -/

/-- The quotient of magnitudes to more bits than FP32 holds, its last bit set where it is not exact. -/
def divMag (m n : Nat) : Nat := 2 * (m * 2 ^ 100 / n) + (if m * 2 ^ 100 % n = 0 then 0 else 1)

/-- A quotient ready to be rounded once. -/
def Num.div : Num → Num → Num
  | .nan, _ => .nan
  | _, .nan => .nan
  | .inf _, .inf _ => .nan
  | .inf s, .fin t _ _ => .inf (s != t)
  | .fin s _ _, .inf t => .fin (s != t) 0 0
  | .fin s m e, .fin t n f =>
    if n = 0 then (if m = 0 then .nan else .inf (s != t)) else .fin (s != t) (divMag m n) (e - f - 101)

/-- The square root of n by bits: the largest r with r² ≤ n and its bits below `k` free. -/
def isqrtBits : Nat → Nat → Nat → Nat
  | 0, _, r => r
  | k + 1, n, r => isqrtBits k n (if (r + 2 ^ k) * (r + 2 ^ k) ≤ n then r + 2 ^ k else r)

/-- floor(√n). -/
def isqrt (n : Nat) : Nat := isqrtBits (Nat.log2 n / 2 + 1) n 0

/-- A square root ready to be rounded once. -/
def Num.sqrt : Num → Num
  | .nan => .nan
  | .inf s => if s then .nan else .inf false
  | .fin s m e =>
    if m = 0 then .fin s 0 0
    else if s then .nan
    else
      let sh := if (e - 60) % 2 = 0 then 60 else 61
      let n := m * 2 ^ sh
      let r := isqrt n
      .fin false (2 * r + if r * r = n then 0 else 1) ((e - (sh : Nat)) / 2 - 1)

/-- a / b of FP32 lanes under round_ne. -/
def f32div (a b : W32) : W32 := toF32 0 ((f32 a).div (f32 b))

/-- A number as an FP32 lane. -/
def f32nat (n : Nat) : W32 := toF32 0 (Num.ofInt (n : Int))

/-- An FP32 lane that is no finite number. -/
def notFinite (w : W32) : Bool := match f32 w with | .fin _ _ _ => false | _ => true

/-- A BF16 value taken exactly into FP32 (R60). -/
def bf16Up (x : Nat) : W32 := BitVec.ofNat 32 (x * 65536)

/-- An FP32 value rounded to BF16 under round_ne (R60). -/
def toBf16 (w : W32) : Nat := fmtBF16.encode 0 false (f32 w)

/-! ## The helpers of R273 -/

/-- One step of nrm_up. -/
def nrmStep (t : W32) (p : W32 × W32) : W32 :=
  let e := toF32 1 ((f32 p.1).add false (f32 p.2).neg).abs
  f32add 1 t (f32mul 1 e e)

/-- nrm_up(x, y) (R273). -/
def nrmUp (x y : List W32) : W32 := toF32 1 (Num.sqrt (f32 ((x.zip y).foldl nrmStep 0#32)))

/-- cen of one component (R273). -/
def cen1 : List W32 → W32
  | [] => 0#32
  | x :: xs => f32div (xs.foldl (f32add 0) x) (f32nat (xs.length + 1))

/-- cen of vectors of d components (R273). -/
def cen (d : Nat) (xs : List (List W32)) : List W32 := (List.range d).map fun i => cen1 (xs.map fun x => x.getD i 0#32)

/-- dot(q, c) (R273): 16 partials, then the tree of R72. -/
def dot (d : Nat) (q c : List W32) : W32 :=
  let lane (l : Nat) : W32 :=
    (List.range (d / 16)).foldl (fun p g => f32fma 0 (q.getD (16 * g + l) 0#32) (c.getD (16 * g + l) 0#32) p) 0#32
  vredTree (f32add 0) ((List.range 16).map lane)

/-- A value below or at 448 after the scaling by 2^-σ (R276). -/
def fits448 (x : Num) (σ : Int) : Bool :=
  match x with
  | .fin _ m e => let (p, q) := pow2 (e - σ); decide (m * p ≤ 448 * q)
  | _ => false

/-- A value above 448 after the scaling (R277). -/
def above448 (x : Num) (σ : Int) : Bool :=
  match x with
  | .fin _ m e => let (p, q) := pow2 (e - σ); decide (448 * q < m * p)
  | .inf _ => true
  | .nan => false

/-- x_i - a_i exactly. -/
def diffs (a x : List W32) : List Num := (x.zip a).map fun p => (f32 p.1).add false (f32 p.2).neg

/-- scale(a, X) (R276): the smallest σ at which every residual fits, else 127. -/
def scaleOf (a : List W32) (xs : List (List W32)) : Int :=
  let rs := xs.flatMap (diffs a)
  let σs := (List.range 256).map fun i => ((i : Nat) : Int) - 128
  (σs.find? fun σ => rs.all fun r => fits448 r σ).getD 127

/-- The E4M3 codes of a key at (a, s) (R276). -/
def encodeKey (a : List W32) (s : Int) (x : List W32) : List Nat := (diffs a x).map fun r => fmtE4M3.encode 0 true (r.scale (-s))

/-- The reconstructed key of a row of codes at (a, s) (R273). -/
def reconstruct (a : List W32) (s : Int) (codes : List Nat) : List W32 :=
  (a.zip codes).map fun p => toF32 0 ((f32 p.1).add false ((fmtE4M3.decode p.2).scale s))

/-! ## Nodes (R271, R272, R274, R275) -/

/-- A node: its header fields, its centroid and mean value; children of a patch; anchor, codes, values and positions of
the tokens of a swatch. -/
structure QNode where
  kind : Nat
  ev : Bool
  ref : Nat
  s : Int
  first : Nat
  last : Nat
  w : W32
  rho : W32
  c : List W32
  m : List Nat
  kids : List Nat
  a : List W32
  codes : List (List Nat)
  vals : List (List Nat)
  pos : List Nat
  deriving DecidableEq, Repr

/-- A token: key, value, position. -/
structure QToken where
  k : List W32
  v : List Nat
  p : Nat
  deriving DecidableEq, Repr

/-- The node is a patch. -/
def QNode.isPatch (n : QNode) : Bool := n.kind == 1

/-- The tokens of a swatch. -/
def QNode.count (n : QNode) : Nat := if n.isPatch then n.kids.length else n.pos.length

/-- The reconstructed keys of a swatch (R273). -/
def QNode.keys (n : QNode) : List (List W32) := n.codes.map (reconstruct n.a n.s)

/-- The tokens of a swatch with their reconstructed keys. -/
def QNode.tokens (n : QNode) : List QToken := (n.keys.zip (n.vals.zip n.pos)).map fun t => ⟨t.1, t.2.1, t.2.2⟩

/-- The largest of a list of FP32 values. -/
def largest : List W32 → W32
  | [] => 0#32
  | x :: xs => xs.foldl f32max x

/-- The summary of a swatch (R274). -/
def sumSwatch (d : Nat) (n : QNode) : QNode :=
  let ks := n.keys
  let c := cen d ks
  { n with
    w := f32nat n.pos.length, c := c, rho := largest (ks.map fun k => nrmUp k c)
    m := (cen d (n.vals.map fun v => v.map bf16Up)).map toBf16
    first := n.pos.headD 0, last := n.pos.getLastD 0 }

/-- A weighted mean of a component (R275). -/
def wMean (W : W32) (xs : List (W32 × W32)) : W32 := f32div (xs.foldl (fun t x => f32fma 0 x.1 x.2 t) 0#32) W

/-- The summary of a patch from its children, in order (R275). -/
def sumPatch (d : Nat) (n : QNode) (ks : List QNode) : QNode :=
  match ks with
  | [] => n
  | k :: rest =>
    let W := rest.foldl (fun t x => f32add 0 t x.w) k.w
    let c := (List.range d).map fun i => wMean W (ks.map fun x => (x.w, x.c.getD i 0#32))
    let m := (List.range d).map fun i => toBf16 (wMean W (ks.map fun x => (x.w, bf16Up (x.m.getD i 0))))
    { n with
      w := W, c := c, m := m, rho := largest (ks.map fun x => f32add 1 x.rho (nrmUp x.c c))
      first := k.first, last := (ks.getLastD k).last }

/-- new_leaf(T) in the header of a node (R276). -/
def newLeaf (d : Nat) (n : QNode) (ts : List QToken) : QNode :=
  let ks := ts.map (·.k)
  let a := cen d ks
  let s := scaleOf a ks
  sumSwatch d { n with
    kind := 2, ev := false, s := s, kids := [], a := a, codes := ks.map (encodeKey a s), vals := ts.map (·.v)
    pos := ts.map (·.p) }

/-- A node with refcount 1 and nothing in it. -/
def QNode.blank (kind : Nat) : QNode := ⟨kind, false, 1, 0, 0, 0, 0, 0, [], [], [], [], [], [], []⟩

/-- A token appended to a swatch with room (R277). -/
def appendToken (d : Nat) (n : QNode) (t : QToken) : QNode :=
  let n :=
    if (diffs n.a t.k).any fun r => above448 r n.s then
      let ks := n.keys
      let s := scaleOf n.a (ks ++ [t.k])
      { n with s := s, codes := ks.map (encodeKey n.a s) }
    else n
  sumSwatch d { n with codes := n.codes ++ [encodeKey n.a n.s t.k], vals := n.vals ++ [t.v], pos := n.pos ++ [t.p] }

/-! ## Bytes of nodes (R271, R272) -/

/-- The signed byte of a scale exponent. -/
def sbyte (i : Int) : Nat := (i % 256).toNat

/-- The integer of a signed byte. -/
def ofSbyte (n : Nat) : Int := if n < 128 then (n : Int) else (n : Int) - 256

/-- Bytes of a list of numbers, n bytes each. -/
def pack (n : Nat) (xs : List Nat) : List Byte := xs.flatMap (toBytes n)

/-- A list of bytes filled with zeros to a length. -/
def padTo (n : Nat) (bs : List Byte) : List Byte := bs ++ List.replicate (n - bs.length) 0#8

/-- The flags of a node: E, and S for a refcount above 1 (R271, R279). -/
def nodeFlags (ev : Bool) (ref : Nat) : Nat := ev.toNat + if 1 < ref then 2 else 0

/-- The header of a node (R271). -/
def nodeHeader (n : QNode) : List Byte :=
  [BitVec.ofNat 8 n.kind, BitVec.ofNat 8 (nodeFlags n.ev n.ref)] ++ toBytes 2 n.ref ++
    [BitVec.ofNat 8 n.count, BitVec.ofNat 8 (sbyte n.s), 0#8, 0#8] ++ toBytes 8 n.first ++ toBytes 8 n.last ++
    toBytes 4 n.w.toNat ++ toBytes 4 n.rho.toNat ++ List.replicate 32 0#8

/-- The bytes of a node in a slot of `size` bytes (R271, R272): entries past count and bytes past the body are zero. -/
def nodeBytes (d L size : Nat) (n : QNode) : List Byte :=
  let c := pack 4 (n.c.map (·.toNat))
  let m := pack 2 n.m
  padTo size (nodeHeader n ++
    if n.isPatch then padTo (4 * d) c ++ padTo (2 * d) m ++ pack 8 n.kids
    else padTo (4 * d) (pack 4 (n.a.map (·.toNat))) ++ padTo (4 * d) c ++ padTo (2 * d) m ++
      padTo (L * d) (n.codes.flatMap (pack 1)) ++ padTo (2 * L * d) (n.vals.flatMap (pack 2)) ++ pack 8 n.pos)

/-- `k` numbers of n bytes each from an offset. -/
def unpack (bs : List Byte) (off n k : Nat) : List Nat := (List.range k).map fun i => field bs (off + n * i) n

/-- The node of a slot's bytes, where its header keeps R271 for leaf capacity L and fanout F. -/
def nodeOf (d L F : Nat) (bs : List Byte) : Option QNode :=
  let kind := field bs 0 1
  let fl := field bs 1 1
  let ref := field bs 2 2
  let cnt := field bs 4 1
  let s := field bs 5 1
  let hdr : QNode := { QNode.blank kind with
    ev := fl % 2 == 1, ref := ref, s := ofSbyte s, first := field bs 8 8, last := field bs 0x10 8
    w := BitVec.ofNat 32 (field bs 0x18 4), rho := BitVec.ofNat 32 (field bs 0x1C 4) }
  let w32 (off : Nat) : List W32 := (unpack bs off 4 d).map (BitVec.ofNat 32)
  if fl < 4 ∧ ref ≠ 0 ∧ zeroField bs 6 2 ∧ zeroField bs 0x20 32 then
    if kind = 1 then
      if cnt ≤ F ∧ s = 0 ∧ (fl % 2 = 1 → cnt = 0) then
        some { hdr with c := w32 0x40, m := unpack bs (0x40 + 4 * d) 2 d, kids := unpack bs (0x40 + 6 * d) 8 cnt }
      else none
    else if kind = 2 then
      if 1 ≤ cnt ∧ cnt ≤ L ∧ fl % 2 = 0 then
        let o := 0x40 + 10 * d
        some { hdr with
          a := w32 0x40, c := w32 (0x40 + 4 * d), m := unpack bs (0x40 + 8 * d) 2 d
          codes := (List.range cnt).map fun j => unpack bs (o + j * d) 1 d
          vals := (List.range cnt).map fun j => unpack bs (o + L * d + 2 * j * d) 2 d
          pos := unpack bs (o + 3 * L * d) 8 cnt }
      else none
    else none
  else none

end Sys2Proof.Machine
end

