-- ==== Sys2Proof/Machine/QuiltRun.lean ====
section
/-! DEFINITION. How a quilt engine acts on memory for a command: translated accesses, descriptors and pools (R269, R270),
nodes and their refcounts (R279, R283), paths, splits (R278), summaries (R275), mark areas (R284). -/

namespace Sys2Proof.Machine

open Sys2Proof

/-! ## The run of a command -/

/-- The fields of a descriptor (R270). -/
structure QDesc where
  va : Nat
  dq : Nat
  L : Nat
  F : Nat
  height : Nat
  tau : W32
  xlimit : Nat
  flags : Nat
  root : Nat
  sync : Nat
  pool : Nat
  mark : Nat
  tokens : Nat
  evicted : Nat
  descents : Nat
  exact : Nat
  summaries : Nat
  forced : Nat
  splits : Nat
  deriving DecidableEq, Repr

/-- A pool header's place and fields (R269), and the slots that other commands hold reserved in it (R291). -/
structure QPool where
  va : Nat
  pa : Nat
  slog : Nat
  base : Nat
  slots : Nat
  bitmap : Nat
  held : Nat
  deriving DecidableEq, Repr

/-- The run of a command: the state it acts on (in the read phase a copy of the machine's, `base`), the command, the answers of its node steps
so far that are still to be taken, whether it is the read phase, its descriptor and pool. -/
structure QRun where
  s : State
  base : State
  c : QuiltCmd
  todo : List (List Byte)
  dry : Bool
  d : QDesc
  p : QPool
  deriving DecidableEq, Repr

/-- How a run ends early: a failure code, a held translation fault (of the completion word or not), a poisoned read, a node step taken with
its answer, a step that its memory does not let it take now. -/
inductive QErr where
  | code (n : Nat)
  | held (t : Trap) (ofWord : Bool)
  | ecc (t : Trap)
  | taken (answer : List Byte)
  | waits
  deriving DecidableEq, Repr

/-- An action of a run. -/
abbrev QM (α : Type) := ExceptT QErr (StateM QRun) α

/-- A run that fails with a code. -/
def qFail {α : Type} (n : Nat) : QM α := throw (.code n)

/-- A run that fails with a code unless a test holds. -/
def qCheck (b : Bool) (n : Nat) : QM Unit := if b then pure () else qFail n

/-- The command changed. -/
def qCmd (f : QuiltCmd → QuiltCmd) : QM Unit := modify fun r => { r with c := f r.c }

/-- The descriptor changed. -/
def qDesc (f : QDesc → QDesc) : QM Unit := modify fun r => { r with d := f r.d }

/-- An event counted n times at completion (R198). -/
def qEvent (ev n : Nat) : QM Unit := qCmd fun c => { c with evs := c.evs ++ [(ev, n)] }

/-- One node step (R268): a read with its checks, then its writes, in one indivisible action that ends this step of the command with the
answer of the read. A run that goes on after it takes that answer again, and in the read phase makes the writes again on its copy. -/
def qAct (read : QM (List Byte)) (write : List Byte → QM Unit) : QM (List Byte) := do
  match (← get).todo with
  | bs :: rest =>
    modify fun r => { r with todo := rest }
    if (← get).dry then write bs
    pure bs
  | [] =>
    let bs ← read
    write bs
    throw (.taken bs)

/-- A node step that only reads. -/
def qLook (read : QM (List Byte)) : QM (List Byte) := qAct read fun _ => pure ()

/-- A node step that only writes. -/
def qDo (write : QM Unit) : QM Unit := do let _ ← qAct (pure []) fun _ => write

/-! ## Translated accesses (R291, R356) -/

/-- The trap of an access as a run's end. (DEDUCED, log 84) -/
def qErrOf (t : Trap) : QErr := if t.xl.isSome then .held t false else if t.cause = .ecc then .ecc t else .code 0x49

/-- The page of a virtual address as translated before, or translated now and kept; the machine itself takes what a translation of the read
phase marks (R92). (DEDUCED, log 80) -/
def qPage (va : Nat) (write : Bool) : QM (Nat × Nat) := do
  let r ← get
  match r.c.pages.find? fun e => e.1 == va / 65536 && (e.2.2.2 || !write) with
  | some e => pure (e.2.1, e.2.2.1)
  | none =>
    let q := engReq r.c.ctx r.c.priv (if write then .write else .read) 4
    match engTarget r.s q (BitVec.ofNat 64 va), engTarget r.base q (BitVec.ofNat 64 va) with
    | .ok (s, tg), .ok (b, _) =>
      let base := tg.pa - va % 65536
      set { r with s := s, base := b, c := { r.c with pages := (va / 65536, base, tg.dom, write) :: r.c.pages } }
      pure (base, tg.dom)
    | .error t, _ => throw (qErrOf t)
    | _, .error t => throw (qErrOf t)

/-- Bytes read at their homes as last applied there, page by page; `fuel` bounds the pages. -/
def qReadFrom : Nat → Nat → Nat → QM (List Byte)
  | 0, _, _ => pure []
  | fuel + 1, va, n => do
    if n = 0 then pure []
    else
      let k := min n (65536 - va % 65536)
      let (base, dom) ← qPage va false
      let r ← get
      let pa := base + va % 65536
      if hostFails r.s pa then qFail 0x49
      match homeLast r.s dom pa k with
      | .error t => throw (.ecc t)
      | .ok bs => return bs ++ (← qReadFrom fuel (va + k) (n - k))

/-- Bytes read at their homes. (DEDUCED, log 78) -/
def qRead (va n : Nat) : QM (List Byte) := qReadFrom (n / 65536 + 2) va n

/-- An action on the machine as it stands, outside the read phase's copy. -/
def qOnBase {α : Type} (m : QM α) : QM α := do
  let s := (← get).s
  modify fun r => { r with s := r.base }
  let x ← m
  modify fun r => { r with s := s }
  pure x

/-- Bytes written at their homes at once, as a node step or an engine write does. -/
def qWriteFrom : Nat → Nat → List Byte → QM Unit
  | 0, _, _ => pure ()
  | fuel + 1, va, bs => do
    if bs.isEmpty then pure ()
    else
      let k := 65536 - va % 65536
      let (base, dom) ← qPage va true
      modify fun r => { r with s := writeHomeNow r.s dom r.c.task (base + va % 65536) (bs.take k) (cmdWriter r.s r.c.party r.c.uid) }
      qWriteFrom fuel (va + k) (bs.drop k)

/-- Bytes written at their homes. -/
def qWrite (va : Nat) (bs : List Byte) : QM Unit := qWriteFrom (bs.length / 65536 + 2) va bs

/-- A number of n bytes read. -/
def qNum (va n : Nat) : QM Nat := do return ofBytes (← qRead va n)

/-- The scratch location of a tagged address of a command, or its failure (R159, R287, R291). -/
def qScratch (a : Word) (n : Nat) : QM ScratchLoc := do
  let r ← get
  match cmdScratch r.s r.c.party r.c.uid a n with
  | some l => pure l
  | none => qFail 0x49

/-- Bytes read at an address, virtual or scratch-tagged. -/
def qReadAny (a : Word) (n : Nat) : QM (List Byte) := do
  if isTagged a then
    let l ← qScratch a n
    let r ← get
    match scratchEcc r.s r.c.party l n with
    | some t => throw (.ecc t)
    | none =>
      let (s, bs) := cmdBytes r.s r.c.party l n
      set { r with s := s, base := { r.base with fresh := s.fresh } }
      pure bs
  else qRead a.toNat n

/-- Bytes written at an address, virtual or scratch-tagged; scratch words turn full, and a reserved bank of the present row is not written
(R118). -/
def qWriteAny (a : Word) (bs : List Byte) : QM Unit := do
  if isTagged a then
    let l ← qScratch a bs.length
    let r ← get
    if !r.dry && bankReserved r.s r.c.party l bs.length then throw .waits
    modify fun r => { r with s := landScratch r.s r.c.party l bs }
  else qWrite a.toNat bs

/-! ## Descriptors and pools (R269, R270) -/

/-- The descriptor of 256 bytes. -/
def descOf (va : Nat) (bs : List Byte) : QDesc where
  va := va
  dq := field bs 0 1
  L := field bs 1 1
  F := field bs 2 1
  height := field bs 3 1
  tau := BitVec.ofNat 32 (field bs 4 4)
  xlimit := field bs 8 2
  flags := field bs 0xA 1
  root := field bs 0x10 8
  sync := field bs 0x18 8
  pool := field bs 0x20 8
  mark := field bs 0x28 8
  tokens := field bs 0x30 8
  evicted := field bs 0x38 8
  descents := field bs 0x40 8
  exact := field bs 0x48 8
  summaries := field bs 0x50 8
  forced := field bs 0x58 8
  splits := field bs 0x60 8

/-- τ is finite and not below +0 (R270). -/
def tauOk (w : W32) : Bool := match f32 w with | .fin s m _ => !s || m == 0 | _ => false

/-- The head dimension. -/
def QDesc.dim (d : QDesc) : Nat := 16 * d.dq

/-- A mark is active. -/
def QDesc.marked (d : QDesc) : Bool := d.flags % 2 == 1

/-- The descriptor's fields keep R270. -/
def descOk (d : QDesc) (bs : List Byte) : Bool :=
  decide (1 ≤ d.dq) && decide (d.dq ≤ 16) && [4, 8, 16, 32, 64].contains d.L && decide (2 ≤ d.F) && decide (d.F ≤ 16) &&
    decide (d.height ≤ 16) && tauOk d.tau && decide (1 ≤ d.xlimit) && decide (d.xlimit ≤ 8192) && decide (d.flags < 2) &&
    zeroField bs 0xB 5 && zeroField bs 0x68 152 && d.sync % 8 == 0 && d.pool % 256 == 0 && d.mark % 65536 == 0

/-- The size that R272 asks of a slot. -/
def slotNeed (d : QDesc) : Nat := 64 + 10 * d.dim + 3 * d.L * d.dim + 8 * d.L

/-- The pool header's fields keep R269, and its slots hold the descriptor's nodes (R272). -/
def poolOk (d : QDesc) (p : QPool) (bs : List Byte) : Bool :=
  decide (8 ≤ p.slog) && decide (p.slog ≤ 16) && zeroField bs 1 7 && p.base % 65536 == 0 && decide (1 ≤ p.slots) &&
    decide (p.slots ≤ 2 ^ 24) && p.bitmap % 64 == 0 && zeroField bs 0x20 224 && decide (slotNeed d ≤ 2 ^ p.slog)

/-- The slots that other commands hold reserved in a pool (R291). (DEDUCED, log 79) -/
def heldSlots (s : State) (pool : Nat) : Nat := ((s.quilts.filter fun c => c.2.pool == pool).map (·.2.reserved)).sum

/-- The sync object of a tree acquired at `.dev`: its word is read through its home queue (R105, R291). -/
def qAcquire (va : Nat) : QM Unit := do
  let _ ← qLook do
    let (base, dom) ← qPage va false
    let pa := base + va % 65536
    modify fun r => { r with s := flushRanges r.s [(pa, pa + 8)], base := flushRanges r.base [(pa, pa + 8)] }
    match homeLast (← get).s dom pa 8 with
    | .error t => throw (.ecc t)
    | .ok _ => pure []

/-- The descriptor of the command and its pool opened: code 0x40 where they are malformed; its sync object acquired. -/
def qOpen (va : Nat) : QM Unit := do
  let bs ← qLook (qRead va 256)
  let d := descOf va bs
  qCheck (descOk d bs) 0x40
  qAcquire d.sync
  let ph ← qLook (qRead d.pool 256)
  let (base, _) ← qPage d.pool false
  let pa := base + d.pool % 65536
  let p : QPool := ⟨d.pool, pa, field ph 0 1, field ph 8 8, field ph 0x10 4, field ph 0x18 8, heldSlots (← get).base pa⟩
  qCheck (poolOk d p ph) 0x40
  modify fun r => { r with d := d, p := p, c := { r.c with pool := pa } }

/-- The engine fields of a descriptor written back (R270). -/
def qFlush (d : QDesc) : QM Unit := do
  qWrite (d.va + 3) [BitVec.ofNat 8 d.height]
  qWrite (d.va + 0xA) [BitVec.ofNat 8 d.flags]
  qWrite (d.va + 0x10) (toBytes 8 d.root)
  qWrite (d.va + 0x30) (pack 8 [d.tokens, d.evicted, d.descents, d.exact, d.summaries, d.forced, d.splits])

/-- The engine fields of the command's descriptor written back. -/
def qFlushDesc : QM Unit := do qDo (qFlush (← get).d)

/-! ## Slots (R269, R284) -/

/-- The bytes of a slot. -/
def QPool.size (p : QPool) : Nat := 2 ^ p.slog

/-- The slot number of an address that is the first byte of a slot. -/
def QPool.slotOf (p : QPool) (va : Nat) : Option Nat :=
  if p.base ≤ va ∧ (va - p.base) % p.size = 0 ∧ (va - p.base) / p.size < p.slots then some ((va - p.base) / p.size) else none

/-- The pages that hold the slots, the slot bitmap and the header of a pool. -/
def QPool.pages (p : QPool) : List Nat :=
  let span (a n : Nat) : List Nat := (List.range ((a + n - 1) / 65536 + 1 - a / 65536)).map (a / 65536 + ·)
  span p.base (p.slots * p.size) ++ span p.bitmap ((p.slots + 7) / 8) ++ span p.va 256

/-- The address of a slot. -/
def QPool.slotVa (p : QPool) (i : Nat) : Nat := p.base + i * p.size

/-- Bit i of the slot bitmap. -/
def qBit (i : Nat) : QM Bool := do
  let b ← qNum ((← get).p.bitmap + i / 8) 1
  pure (bitAt b (i % 8))

/-- Bit i of the slot bitmap set or cleared. -/
def qSetBit (i : Nat) (v : Bool) : QM Unit := do
  let a := (← get).p.bitmap + i / 8
  let b ← qNum a 1
  let m := 2 ^ (i % 8)
  qWrite a [BitVec.ofNat 8 (if v then b ||| m else b - (b &&& m))]

/-- The free count of the pool header changed (R269). -/
def qFreeCount (f : Nat → Nat) : QM Unit := do
  let a := (← get).p.va + 0x14
  let n ← qNum a 4
  qWrite a (toBytes 4 (f n))

/-- Page 1 + j of a mark area, for the spine node at depth j (R284). -/
def spinePage (mark j : Nat) : Nat := mark + (1 + j) * 65536

/-- The save page paired with spine page j (R284). -/
def savePage (mark j : Nat) : Nat := mark + (17 + j) * 65536

/-- The address is a spine page of the command's descriptor (R284). (DEDUCED, log 81) -/
def isSpine (mark va : Nat) : Bool := mark != 0 && (List.range 16).any fun j => spinePage mark j == va

/-- A pointer may name the address: an in-use slot of the pool, or a spine page (R291). -/
def qPointerOk (va : Nat) : QM Bool := do
  let r ← get
  match r.p.slotOf va with
  | some i => qBit i
  | none => pure (isSpine r.d.mark va)

/-- The bits of a byte, lowest first, that are clear. -/
def clearBits (b : Nat) : List Nat := (List.range 8).filter fun i => !bitAt b i

/-- The clear bits of a slot bitmap below a slot count, in ascending order. -/
def freeSlotsOf (bm : List Byte) (slots : Nat) : List Nat :=
  (bm.zipIdx.flatMap fun (b, i) => (clearBits b.toNat).map (8 * i + ·)).filter fun k => decide (k < slots)

/-- While a mark is active, an allocation appends its slot to the mark list (R285). -/
def qNoteAlloc (i : Nat) : QM Unit := do
  let r ← get
  if r.d.marked then
    let n ← qNum (r.d.mark + 0x1C) 4
    qWrite (r.d.mark + 0x100 + 4 * n) (toBytes 4 i)
    qWrite (r.d.mark + 0x1C) (toBytes 4 (n + 1))

/-- The free slots of the pool, in ascending order. -/
def qFreeSlots : QM (List Nat) := do
  let p := (← get).p
  return freeSlotsOf (← qRead p.bitmap ((p.slots + 7) / 8)) p.slots

/-- The lowest-numbered free slot (R269). In the read phase the slots that are free and that neither other commands nor this one hold reserved
must not run out (code 0x42); a command past it uses its own reservation (R291). -/
def qLowest : QM (List Byte) := do
  if (← get).dry then
    let free ← qOnBase qFreeSlots
    let r ← get
    qCheck (decide (r.p.held + r.c.reserved < free.length)) 0x42
  match ← qFreeSlots with
  | i :: _ => pure (toBytes 8 i)
  | [] => qFail 0x42

/-- A node allocated and written with its bitmap bit, in one node step (R268, R269). -/
def qNew (n : QNode) : QM Nat := do
  let bs ← qAct qLowest fun bs => do
    let i := ofBytes bs
    let r ← get
    qNoteAlloc i
    qSetBit i true
    qFreeCount (· - 1)
    qCmd fun c => { c with reserved := if r.dry then c.reserved + 1 else c.reserved - 1 }
    qWrite (r.p.slotVa i) (nodeBytes r.d.dim r.d.L r.p.size n)
  return (← get).p.slotVa (ofBytes bs)

/-- A slot returned to the pool; a spine page is never returned (R283). -/
def qReturn (va : Nat) : QM Unit := do
  match (← get).p.slotOf va with
  | some i =>
    if ← qBit i then
      qSetBit i false
      qFreeCount (· + 1)
  | none => pure ()

/-! ## Nodes (R271, R279, R283) -/

/-- The node of a slot's bytes, or code 0x41. -/
def qParse (bs : List Byte) : QM QNode := do
  let d := (← get).d
  match nodeOf d.dim d.L d.F bs with
  | none => qFail 0x41
  | some n => pure n

/-- The bytes of the node at an address, its pointers checked (R291 code 0x41). (DEDUCED, log 85) -/
def qNodeBytes (va : Nat) : QM (List Byte) := do
  qCheck (← qPointerOk va) 0x41
  let bs ← qRead va (← get).p.size
  let n ← qParse bs
  for k in n.kids do
    qCheck (← qPointerOk k) 0x41
  pure bs

/-- The node at an address, read in one node step. -/
def qNode (va : Nat) : QM QNode := do qParse (← qLook (qNodeBytes va))

/-- A node written to its slot. -/
def qStore (va : Nat) (n : QNode) : QM Unit := do
  let r ← get
  qWrite va (nodeBytes r.d.dim r.d.L r.p.size n)

/-- A node written to its slot in one node step. -/
def qPut (va : Nat) (n : QNode) : QM Unit := qDo (qStore va n)

/-- A node read and changed in one node step. -/
def qChange (va : Nat) (f : QNode → QM Unit) : QM QNode := do qParse (← qAct (qNodeBytes va) fun bs => do f (← qParse bs))

/-- The refcount and the S flag of a node written (R279). -/
def qSetRef (va : Nat) (n : QNode) (ref : Nat) : QM Unit := qWrite (va + 1) (BitVec.ofNat 8 (nodeFlags n.ev ref) :: toBytes 2 ref)

/-- The increments that commands hold reserved on a node, by its physical address (R291). -/
def heldIncs (s : State) (pa : Nat) : Nat := ((s.quilts.flatMap (·.2.incs)).filter fun i => i == pa).length

/-- The node's place in physical memory. -/
def qPlace (va : Nat) : QM Nat := do return (← qPage va true).1 + va % 65536

/-- A refcount raised by one in one node step; in the read phase the increment is reserved, with code 0x4B where the count with all that is
reserved would pass 65,535 (R279, R291). -/
def qInc (va : Nat) : QM Unit := do
  let check : QM (List Byte) := do
    let bs ← qNodeBytes va
    let pa ← qPlace va
    let r ← get
    if r.dry then
      let ref := ofBytes (← qOnBase (qRead (va + 2) 2))
      qCheck (decide (ref + heldIncs r.base pa + (r.c.incs.filter (· == pa)).length < 65535)) 0x4B
    pure bs
  let _ ← qAct check fun bs => do
    let n ← qParse bs
    let pa ← qPlace va
    let r ← get
    qCmd fun c => { c with incs := if r.dry then c.incs ++ [pa] else c.incs.erase pa }
    qSetRef va n (n.ref + 1)

/-- A refcount lowered by one; at 0 the slot is freed in the same node step and a patch lowers its children's, in order (R283). The fuel covers
a tree of 16 levels. -/
def qDec : Nat → Nat → QM Unit
  | 0, _ => pure ()
  | fuel + 1, va => do
    let n ← qChange va fun n => do
      qSetRef va n (n.ref - 1)
      if n.ref ≤ 1 then qReturn va
    if n.ref ≤ 1 then
      for k in n.kids do
        qDec fuel k

/-- The levels that a tree may have, and one more. -/
def qLevels : Nat := 18

/-- The parent's pointer to a node, or the descriptor's root, changed. -/
def qRepoint (parent : Option Nat) (old new : Nat) : QM Unit := do
  match parent with
  | some p =>
    let _ ← qChange p fun n => qStore p { n with kids := n.kids.map fun k => if k = old then new else k }
  | none =>
    qDesc fun d => { d with root := new }
    qFlushDesc

/-- One node of a path made private (R279): copied where it is shared, its children raised, its parent repointed, the old
node lowered. -/
def qPrivate (parent : Option Nat) (va : Nat) : QM Nat := do
  let n ← qNode va
  if n.ref ≤ 1 then pure va
  else
    let new ← qNew { n with ref := 1 }
    for k in n.kids do
      qInc k
    qRepoint parent va new
    qDec qLevels va
    pure new

/-- The rest of a path made private after its private part (R279). -/
def qPrivates : List Nat → List Nat → QM (List Nat)
  | made, [] => pure made
  | made, va :: rest => do
    let new ← qPrivate made.getLast? va
    qPrivates (made ++ [new]) rest

/-! ## Paths (R277, R281) -/

/-- The nodes from a node to the rightmost bottom node. -/
def qRight : Nat → Nat → QM (List Nat)
  | 0, _ => qFail 0x41
  | fuel + 1, va => do
    let n ← qNode va
    match n.kids.getLast? with
    | some k => return va :: (← qRight fuel k)
    | none => pure [va]

/-- The first child whose range holds a position. -/
def qChild (pos : Nat) : List Nat → QM (Option Nat)
  | [] => pure none
  | k :: ks => do
    let n ← qNode k
    if n.first ≤ pos ∧ pos ≤ n.last then pure (some k) else qChild pos ks

/-- The nodes from a node to a target by the children whose range holds a position (R281); code 0x45 where it is not
reached. -/
def qFind (target pos : Nat) : Nat → Nat → QM (List Nat)
  | 0, _ => qFail 0x45
  | fuel + 1, va => do
    let n ← qNode va
    if va = target then pure [va]
    else
      match ← qChild pos n.kids with
      | some k => return va :: (← qFind target pos fuel k)
      | none => qFail 0x45

/-- The path to the node that a command names in g[b] (R281). -/
def qNamed : QM (List Nat) := do
  let r ← get
  let va := r.c.b.toNat
  if r.d.root = 0 then qFail 0x45
  else
    let pos := ofBytes (← qLook (qRead (va + 8) 8))
    qFind va pos qLevels r.d.root

/-! ## Summaries and splits (R275, R278) -/

/-- The nodes at a list of addresses, read one after another. -/
def qNodesOf : List Nat → QM (List QNode)
  | [] => pure []
  | va :: rest => do
    let n ← qNode va
    return n :: (← qNodesOf rest)

/-- A patch with its summary from its children as they stand. -/
def qSummed (n : QNode) : QM QNode := do
  let ks ← qNodesOf n.kids
  let d := (← get).d
  pure (if n.ev then n else sumPatch d.dim n ks)

/-- A split counted (R278). -/
def qSplitDone : QM Unit := do
  qDesc fun d => { d with splits := d.splits + 1 }
  qEvent 75 1

/-- The children of a patch with a new one right of an old one. -/
def insertAfter (old new : Nat) : List Nat → List Nat
  | [] => [new]
  | k :: ks => if k = old then k :: new :: ks else k :: insertAfter old new ks

/-- A changed node, already written, with a new right sibling or none, taken up the path of its parents, nearest first:
siblings inserted, patches above F split, summaries recomputed, a new root where the root must take a sibling. -/
def qUp : List Nat → Nat → Option Nat → QM Unit
  | [], _, none => pure ()
  | [], va, some new => do
    let r ← get
    qCheck (decide (r.d.height < 16)) 0x43
    let top ← qNew (← qSummed { QNode.blank 1 with kids := [va, new] })
    qDesc fun d => { d with root := top, height := d.height + 1 }
  | p :: ps, va, new => do
    let n ← qNode p
    let kids := match new with | some w => insertAfter va w n.kids | none => n.kids
    let r ← get
    if r.d.F < kids.length then
      let h := (r.d.F + 1) / 2
      qPut p (← qSummed { n with kids := kids.take h })
      let right ← qNew (← qSummed { QNode.blank 1 with kids := kids.drop h })
      qSplitDone
      qUp ps p (some right)
    else
      qPut p (← qSummed { n with kids := kids })
      qUp ps p none

/-- The last node of a path and its parents, nearest first. -/
def pathEnds (path : List Nat) : Nat × List Nat := (path.getLastD 0, path.dropLast.reverse)

/-- A list of tokens divided at n (R278): the first stay in the slot, the rest go to a new right sibling. -/
def qDivide (va : Nat) (node : QNode) (parents : List Nat) (ts : List QToken) (n : Nat) : QM Unit := do
  let r ← get
  qPut va (newLeaf r.d.dim node (ts.take n))
  let new ← qNew (newLeaf r.d.dim (QNode.blank 2) (ts.drop n))
  qSplitDone
  qUp parents va (some new)

/-! ## Mark areas (R284-R286) -/

/-- The level-3 leaf of a page: the entry and its address, where V, W and R are set (R284). -/
def qLeaf (va : Nat) : QM (Word × Nat) := do
  let r ← get
  match walk r.s r.c.ctx va with
  | (s, .leaf e level a) =>
    set { r with s := s, base := (walk r.base r.c.ctx va).1 }
    qCheck (level == 3 && e.getLsbD 0 && e.getLsbD 2 && e.getLsbD 3) 0x4A
    pure (e, a)
  | (_, .bad _ _) => qFail 0x4A
  | (_, .ecc sec) => throw (.ecc (eccTrap (32 * sec)))

/-- The entry bits that a pair of pages may differ in: ppn, A, M (R284). -/
def pairMask : Word := 0x000FFFFFFFFF0300#64

/-- The addresses of the leaves of the pairs of spine and save pages, each pair checked in a step (R284). -/
def qPairs (mark : Nat) : List Nat → QM (List (Nat × Nat))
  | [] => pure []
  | j :: js => do
    let bs ← qLook do
      let x ← qLeaf (spinePage mark j)
      let y ← qLeaf (savePage mark j)
      qCheck ((x.1 ^^^ y.1) &&& ~~~pairMask == 0#64) 0x4A
      pure (pack 8 [x.2, y.2])
    return (field bs 0 8, field bs 8 8) :: (← qPairs mark js)

/-- The page numbers of a mark area's pairs. -/
def spineIds : List Nat := List.range 16

/-- The ppn field of an entry (R91). -/
def ppnMask : Word := 0x000FFFFFFFFF0000#64

/-- An entry with the ppn of another. -/
def ppnFrom (x y : Word) : Word := (x &&& ~~~ppnMask) ||| (y &&& ppnMask)

/-- The ppn fields of the leaves at a pair of addresses swapped, each write applied at its home (R286). -/
def qSwap (a b : Nat) : QM Unit := do
  modify fun r =>
    let x := BitVec.ofNat 64 (ofBytes (homeBytes r.s 0 a 8))
    let y := BitVec.ofNat 64 (ofBytes (homeBytes r.s 0 b 8))
    let w := cmdWriter r.s r.c.party r.c.uid
    { r with s := writeHomeNow (writeHomeNow r.s 0 0 a (toBytes 8 (ppnFrom x y).toNat) w) 0 0 b (toBytes 8 (ppnFrom y x).toNat) w }

/-- Every TLB entry of the context for a page invalidated (R286). -/
def qInvalidate (va : Nat) : QM Unit := do
  modify fun r => { r with
    s := { r.s with tlb := r.s.tlb.filter fun e => !tlbHit r.c.ctx va 65536 e }
    c := { r.c with pages := r.c.pages.filter fun e => e.1 != va / 65536 } }

/-- A node moved to another slot with its refcount and its children's (R285). -/
def qMove (parent : Option Nat) (va : Nat) : QM Unit := do
  let new ← qNew (← qNode va)
  qRepoint parent va new
  qDo (qReturn va)

end Sys2Proof.Machine
end

