-- ==== Sys2Proof/Machine/Quilt.lean ====
section
/-! DEFINITION. The quilt commands (R277-R293): their issue, the read phase and the node steps of each, their completion. -/

namespace Sys2Proof.Machine

open Sys2Proof

/-! ## Issue (R290) -/

/-- The commands of a party accepted and not completed. -/
def quiltsOf (s : State) (p : Party) : List (Nat × QuiltCmd) := s.quilts.filter fun c => c.2.party == p

/-- How g[b] of a form is checked: its alignment, whether it must be a virtual address, its bytes. -/
structure QArg where
  align : Nat
  mem : Bool
  bytes : Nat
  deriving DecidableEq, Repr

/-- The g[b] of each form (R290). -/
def quiltArg (op : Nat) : Option QArg :=
  if op = 1 ∨ op = 2 ∨ op = 9 then some ⟨64, false, 64⟩
  else if op = 3 ∨ op = 4 ∨ op = 6 then some ⟨64, true, 64⟩
  else if op = 5 then some ⟨256, true, 256⟩
  else none

/-- The first failing check of R290. -/
def quiltCheck (s : State) (word : Word) (op : Nat) (a b c : Word) : Option Trap :=
  let refused (x : Word) (n : Nat) : Bool := isTagged x && (partyTagged s s.focus x n).isNone
  let badB : Bool := match quiltArg op with | some q => if q.mem then isTagged b else refused b q.bytes | none => false
  let offB : Bool := match quiltArg op with | some q => !aligned b q.align | none => false
  if isTagged a then some (mkTrap .perm a)
  else if badB then some (mkTrap .perm b)
  else if refused c 8 then some (mkTrap .perm c)
  else if !aligned a 256 then some (mkTrap .align a)
  else if offB then some (mkTrap .align b)
  else if !aligned c 8 then some (mkTrap .align c)
  else if 16 ≤ (quiltsOf s s.focus).length then some (mkTrap .engine word)
  else none

/-- A quilt form issued (R290, R291). -/
def quiltIssue (i : Instr) (op : Nat) (a b c : Word) (s : State) : Res :=
  match quiltCheck s (wordVal i) op a b c with
  | some t => .trap t
  | none =>
    let p := s.focus
    let cmd : QuiltCmd :=
      { op := op, ctx := partyCtx s p, party := p, uid := partyUid s p, a := a, b := b, record := c, priv := partyPriv s p
        task := partyTask s p, stage := 0, data := [], pages := [], script := [], reserved := 0, pool := 0, incs := [], cw := none
        word := 0, code := 0, evs := [], heldFault := false, heldRecord := false, failed := none }
    let s := stitchBefore s
    .ok { s with quilts := FMap.set s.quilts s.nextId cmd, nextId := s.nextId + 1 }

/-- `qinit a, c` (R290). -/
def execQinit (a c : Reg) (s : State) : Host.Outcome State Fault Refusal :=
  issue (.qinit a c) s fun s => quiltIssue (.qinit a c) 0 (s.g a) 0 (s.g c) s

/-- `qapp a, b, c` (R277). -/
def execQapp (a b c : Reg) (s : State) : Host.Outcome State Fault Refusal :=
  issue (.qapp a b c) s fun s => quiltIssue (.qapp a b c) 1 (s.g a) (s.g b) (s.g c) s

/-- `qdesc a, b, c` (R287). -/
def execQdesc (a b c : Reg) (s : State) : Host.Outcome State Fault Refusal :=
  issue (.qdesc a b c) s fun s => quiltIssue (.qdesc a b c) 2 (s.g a) (s.g b) (s.g c) s

/-- `qsplit a, b, c` (R281). -/
def execQsplit (a b c : Reg) (s : State) : Host.Outcome State Fault Refusal :=
  issue (.qsplit a b c) s fun s => quiltIssue (.qsplit a b c) 3 (s.g a) (s.g b) (s.g c) s

/-- `qmerge a, b, c` (R281). -/
def execQmerge (a b c : Reg) (s : State) : Host.Outcome State Fault Refusal :=
  issue (.qmerge a b c) s fun s => quiltIssue (.qmerge a b c) 4 (s.g a) (s.g b) (s.g c) s

/-- `qfork a, b, c` (R280). -/
def execQfork (a b c : Reg) (s : State) : Host.Outcome State Fault Refusal :=
  issue (.qfork a b c) s fun s => quiltIssue (.qfork a b c) 5 (s.g a) (s.g b) (s.g c) s

/-- `qevict a, b, c` (R282). -/
def execQevict (a b c : Reg) (s : State) : Host.Outcome State Fault Refusal :=
  issue (.qevict a b c) s fun s => quiltIssue (.qevict a b c) 6 (s.g a) (s.g b) (s.g c) s

/-- `qmark a, c` (R285). -/
def execQmark (a c : Reg) (s : State) : Host.Outcome State Fault Refusal :=
  issue (.qmark a c) s fun s => quiltIssue (.qmark a c) 7 (s.g a) 0 (s.g c) s

/-- `qtrim a, c` (R286). -/
def execQtrim (a c : Reg) (s : State) : Host.Outcome State Fault Refusal :=
  issue (.qtrim a c) s fun s => quiltIssue (.qtrim a c) 8 (s.g a) 0 (s.g c) s

/-- `qstat a, b, c` (R289). -/
def execQstat (a b c : Reg) (s : State) : Host.Outcome State Fault Refusal :=
  issue (.qstat a b c) s fun s => quiltIssue (.qstat a b c) 9 (s.g a) (s.g b) (s.g c) s

/-- `qfree a, c` (R283). -/
def execQfree (a c : Reg) (s : State) : Host.Outcome State Fault Refusal :=
  issue (.qfree a c) s fun s => quiltIssue (.qfree a c) 10 (s.g a) 0 (s.g c) s

/-! ## Records (R277, R287, R291) -/

/-- The record of a command: read in the read phase, and kept for its writes (R291). -/
def qRecord (read : QM (List Byte)) : QM (List Byte) := do
  let r ← get
  if r.dry then
    let bs ← read
    qCmd fun c => { c with data := bs }
    pure bs
  else pure r.c.data

/-- FP32 values of bytes. -/
def lanesAt (bs : List Byte) (off n : Nat) : List W32 := (unpack bs off 4 n).map (BitVec.ofNat 32)

/-- The token of a token record, at the next position (R277). -/
def qToken : QM QToken := do
  let r ← get
  let d := r.d.dim
  let bs ← qRecord (qLook (qReadAny r.c.b (6 * d)))
  let k := lanesAt bs 0 d
  qCheck (!(k.any notFinite)) 0x44
  pure ⟨k, unpack bs (4 * d) 2 d, r.d.tokens⟩

/-! ## The path of a command (R277, R281, R282) -/

/-- The tree has no active mark, or the command fails (R285). -/
def qUnmarked : QM Unit := do qCheck (!(← get).d.marked) 0x47

/-- A named swatch that is not evicted (R281). -/
def qSwatch (va : Nat) : QM QNode := do
  let n ← qNode va
  qCheck (!n.ev) 0x46
  qCheck (!n.isPatch) 0x45
  pure n

/-- The next sibling of a node under its parent (R281). -/
def qSibling (parents : List Nat) (va : Nat) : QM Nat := do
  match parents with
  | [] => qFail 0x45
  | p :: _ =>
    let n ← qNode p
    match n.kids.drop (n.kids.findIdx (· == va) + 1) with
    | w :: _ => pure w
    | [] => qFail 0x45

/-- The checks of `qmerge` on the swatch at the end of a path: its sibling (R281). -/
def qMergeCheck (path : List Nat) : QM Nat := do
  let (va, parents) := pathEnds path
  let n ← qSwatch va
  let w ← qSibling parents va
  let m ← qNode w
  let r ← get
  qCheck (!m.ev && !m.isPatch && decide (n.count + m.count ≤ r.d.L)) 0x45
  pure w

/-- The allocations that a sibling at the end of a path makes in the parents of a node, nearest first: patches split, a new root (R278). -/
def climbAllocs (F : Nat) : List QNode → Nat
  | [] => 1
  | p :: ps => if F < p.kids.length + 1 then 1 + climbAllocs F ps else 0

/-- The allocations that appending a token to the path of a tree makes: private copies, a new swatch or a split, splits of patches, a new root
(R277-R279). -/
def appendAllocs (d : QDesc) (path : List QNode) : Nat :=
  (path.dropWhile fun n => decide (n.ref ≤ 1)).length +
    match path.reverse with
    | [] => 1
    | n :: ps => if n.ev ∨ n.count = d.L then 1 + climbAllocs d.F ps else 0

/-- While a mark is active the allocations of an append must fit the mark list, or it fails before any other check of its effect (R277, R284). -/
def qMarkRoom (path : List Nat) : QM Unit := do
  let r ← get
  if r.d.marked then
    let ns ← qNodesOf path
    let n := ofBytes (← qLook (qRead (r.d.mark + 0x1C) 4))
    qCheck (!r.dry || decide (n + appendAllocs r.d ns ≤ 16320)) 0x47

/-- The path that a command makes private, with the checks that come before it; [] where it makes none private. -/
def qPath (op : Nat) : QM (List Nat) := do
  let r ← get
  if op = 1 then
    let _ ← qToken
    let path ← if r.d.root = 0 then pure [] else qRight qLevels r.d.root
    qMarkRoom path
    pure path
  else if op = 3 then
    qUnmarked
    let path ← qNamed
    let n ← qSwatch (path.getLastD 0)
    qCheck (decide (2 ≤ n.count)) 0x45
    pure path
  else if op = 4 then
    qUnmarked
    let path ← qNamed
    let _ ← qMergeCheck path
    pure path
  else if op = 6 then
    qUnmarked
    let path ← qNamed
    let n ← qNode (path.getLastD 0)
    pure (if n.ev then [] else path)
  else pure []

/-! ## Initialisation, appending, splitting, merging (R277, R278, R281, R291) -/

/-- `qinit` zeroes the engine fields (R291). -/
def qInit : QM Unit := do
  let r ← get
  qDo <| qFlush { r.d with
    height := 0, flags := 0, root := 0, tokens := 0, evicted := 0, descents := 0, exact := 0, summaries := 0, forced := 0
    splits := 0 }

/-- The effect of `qapp` after its path is private (R277). -/
def qAppend (made : List Nat) : QM Unit := do
  let t ← qToken
  let r ← get
  let d := r.d.dim
  if r.d.root = 0 then
    let va ← qNew (newLeaf d (QNode.blank 2) [t])
    qDesc fun x => { x with root := va, height := 1 }
  else
    let (va, parents) := pathEnds made
    let n ← qNode va
    if n.ev then
      let new ← qNew (newLeaf d (QNode.blank 2) [t])
      qUp parents va (some new)
    else
      qCheck (!n.isPatch) 0x41
      if n.count = r.d.L then qDivide va n parents (n.tokens ++ [t]) (r.d.L / 2)
      else
        qPut va (appendToken d n t)
        qUp parents va none
  qDesc fun x => { x with tokens := x.tokens + 1 }
  qFlushDesc
  qEvent 68 1

/-- The effect of `qsplit` after its path is private (R281). (DEDUCED, log 83) -/
def qSplit (made : List Nat) : QM Unit := do
  let (va, parents) := pathEnds made
  let n ← qSwatch va
  qDivide va n parents n.tokens (n.count / 2)
  qFlushDesc

/-- The effect of `qmerge` after its path is private (R281): the right node's reference is lowered. -/
def qMerge (made : List Nat) : QM Unit := do
  let w ← qMergeCheck made
  let (va, parents) := pathEnds made
  let n ← qNode va
  let m ← qNode w
  let r ← get
  qPut va (newLeaf r.d.dim n (n.tokens ++ m.tokens))
  match parents with
  | p :: _ =>
    let _ ← qChange p fun x => qStore p { x with kids := x.kids.filter fun k => k != w }
  | [] => pure ()
  qDec qLevels w
  qUp parents va none
  qFlushDesc

/-! ## Forks and eviction (R280, R282) -/

/-- The effect of `qfork` (R280). -/
def qFork : QM Unit := do
  qUnmarked
  let r ← get
  let b := r.c.b.toNat
  let bs ← qLook (qRead b 256)
  let t := descOf b bs
  qCheck (t.sync % 8 == 0 && t.mark % 65536 == 0 && zeroField bs 0xB 5 && zeroField bs 0x68 152) 0x40
  qCheck (t.root == 0) 0x4C
  qAcquire t.sync
  if r.d.root ≠ 0 then qInc r.d.root
  let d := r.d
  qDo do
    qWrite b (pack 1 [d.dq, d.L, d.F, d.height] ++ toBytes 4 d.tau.toNat ++ toBytes 2 d.xlimit ++ [0#8])
    qWrite (b + 0x10) (toBytes 8 d.root)
    qWrite (b + 0x20) (toBytes 8 d.pool)
    qWrite (b + 0x30) (pack 8 [d.tokens, d.evicted, 0, 0, 0, 0, 0])
  qCmd fun c => { c with code := if d.evicted ≠ 0 then 1 else 0 }

/-- The tokens of the swatches of a subtree that are not evicted. -/
def qTokensIn : Nat → Nat → QM Nat
  | 0, _ => pure 0
  | fuel + 1, va => do
    let n ← qNode va
    if n.isPatch then
      let mut t := 0
      for k in n.kids do
        t := t + (← qTokensIn fuel k)
      pure t
    else pure n.count

/-- The effect of `qevict` after its path is private; nothing where the node is evicted already (R282). -/
def qEvict (made : List Nat) : QM Unit := do
  if made.isEmpty then pure ()
  else
    let (va, parents) := pathEnds made
    let n ← qNode va
    let t ← qTokensIn qLevels va
    qPut va { n with kind := 1, ev := true, s := 0, kids := [], a := [], codes := [], vals := [], pos := [] }
    for k in n.kids do
      qDec qLevels k
    qUp parents va none
    qDesc fun x => { x with evicted := x.evicted + t }
    qFlushDesc

/-- The effect of `qfree` (R283). -/
def qFree : QM Unit := do
  let r ← get
  if r.d.root ≠ 0 then qDec qLevels r.d.root
  qDo <| qFlush { r.d with root := 0, height := 0, tokens := 0, evicted := 0, flags := 0 }

/-! ## Mark and trim (R284-R286) -/

/-- Nodes in spine pages that are off the right spine move to new slots, children before their parents (R285).
(DEDUCED, log 86) -/
def qEvacuate (spine : List Nat) : Nat → Option Nat → Nat → QM Unit
  | 0, _, _ => pure ()
  | fuel + 1, parent, va => do
    let n ← qNode va
    for k in n.kids do
      qEvacuate spine fuel (some va) k
    let r ← get
    if isSpine r.d.mark va ∧ !spine.contains va then qMove parent va

/-- A private right spine written into its spine pages, each pointing at the next; its slots are freed. -/
def qIntoPages (path : List Nat) : QM Unit := do
  let ns ← qNodesOf path
  let r ← get
  let mark := r.d.mark
  for va in path do
    qDo (qReturn va)
  for (n, j) in ns.zipIdx do
    let kids := if j + 1 < ns.length then n.kids.dropLast ++ [spinePage mark (j + 1)] else n.kids
    qPut (spinePage mark j) { n with kids := kids }
  qDesc fun d => { d with root := spinePage mark 0 }

/-- The effect of `qmark` (R285). -/
def qMark : QM Unit := do
  let r ← get
  qCheck (r.d.mark != 0 && r.d.root != 0) 0x47
  let _ ← qPairs r.d.mark spineIds
  qDesc fun d => { d with flags := 0 }
  let spine ← qRight qLevels r.d.root
  qEvacuate spine qLevels none r.d.root
  let path ← qPrivates [] (← qRight qLevels (← get).d.root)
  qIntoPages path
  let d := (← get).d
  for j in List.range d.height do
    qDo do qWrite (savePage d.mark j) (← qRead (spinePage d.mark j) 65536)
  qDo <| qWrite d.mark (pack 8 [d.root, d.tokens, d.evicted] ++ [BitVec.ofNat 8 d.height, 0#8, 0#8, 0#8] ++ toBytes 4 0)
  qDesc fun d => { d with flags := 1 }
  qFlushDesc

/-- The slots of the mark list returned, from the last to the first (R286). -/
def qUnalloc : List Nat → QM Unit
  | [] => pure ()
  | i :: is => do
    let r ← get
    qDo (qReturn (r.p.slotVa i))
    qUnalloc is

/-- The effect of `qtrim` (R286). -/
def qTrim : QM Unit := do
  let r ← get
  qCheck r.d.marked 0x47
  let m := r.d.mark
  let pairs ← qPairs m spineIds
  let bs ← qLook (qRead m 32)
  let h := field bs 0x18 1
  let n := min (field bs 0x1C 4) 16320
  let list ← qLook (qRead (m + 0x100) (4 * n))
  for (x, y) in pairs.take h do
    qDo (qSwap x y)
  for j in spineIds.take h do
    qDo do
      qInvalidate (spinePage m j)
      qInvalidate (savePage m j)
  qUnalloc (unpack list 0 4 n).reverse
  qDesc fun d => { d with
    root := field bs 0 8, height := h, tokens := field bs 8 8, evicted := field bs 0x10 8, flags := 0 }
  qFlushDesc

/-! ## Descent (R287, R288) -/

/-- A node of a descent with its σ and u. -/
structure QScored where
  va : Nat
  n : QNode
  sig : W32
  u : W32
  deriving DecidableEq, Repr

/-- A request record (R287). -/
structure QRequest where
  q : Word
  kout : Word
  vout : Word
  pout : Word
  sout : Word
  kcap : Nat
  scap : Nat
  deriving DecidableEq, Repr

/-- The request of 64 bytes. -/
def requestOf (bs : List Byte) : QRequest :=
  ⟨imgWord bs 0, imgWord bs 8, imgWord bs 0x10, imgWord bs 0x18, imgWord bs 0x20, field bs 0x28 4, field bs 0x2C 4⟩

/-- The request's addresses and capacities keep R287. -/
def requestOk (q : QRequest) (bs : List Byte) : Bool :=
  aligned q.kout 64 && aligned q.vout 64 && aligned q.pout 8 && aligned q.sout 16 && decide (q.kcap ≤ 8192) &&
    decide (q.scap ≤ 8192) && zeroField bs 0x30 16

/-- A scratch-tagged output address that R159 refuses fails the command (R287). -/
def qTagged (a : Word) (n : Nat) : QM Unit := do if isTagged a then let _ ← qScratch a n

/-- The request and the query of a descent (R287). -/
def qRequest : QM (QRequest × List W32) := do
  let r ← get
  let d := r.d.dim
  let read : QM (List Byte) := do
    let bs ← qLook (qReadAny r.c.b 64)
    let q := requestOf bs
    qCheck (requestOk q bs) 0x48
    return bs ++ (← qLook (qReadAny q.q (4 * d)))
  let bs ← qRecord read
  let q := requestOf bs
  qTagged q.kout 64
  qTagged q.vout 64
  qTagged q.pout 8
  qTagged q.sout 16
  pure (q, lanesAt bs 64 d)

/-- The state of a descent: S, the exact tokens (X is their number), fe, fb, M, and the nodes scored and descended. -/
structure QWalk where
  sums : List QScored
  rows : List QToken
  fe : Nat
  fb : Nat
  m : W32
  scored : Nat
  down : Nat
  deriving DecidableEq, Repr

/-- x ≤ y of FP32 values (R288). -/
def f32le (x y : W32) : Bool := !isNan32 x && !isNan32 y && decide (cmpKey32 x ≤ cmpKey32 y)

/-- The nodes of a frontier scored (R288). -/
def qScore (q : List W32) (nq : W32) (d : Nat) : List Nat → QM (List QScored)
  | [] => pure []
  | va :: rest => do
    let n ← qNode va
    let sig := dot d q n.c
    let u := f32add 0 sig (f32mul 1 nq n.rho)
    return ⟨va, n, sig, u⟩ :: (← qScore q nq d rest)

/-- An entry inserted by ascending first position. -/
def insertFirst (e : QScored) : List QScored → List QScored
  | [] => [e]
  | x :: xs => if e.n.first < x.n.first then e :: x :: xs else x :: insertFirst e xs

/-- Z of R288. -/
def qMass (m : W32) (es : List QScored) : W32 :=
  (es.foldl (fun l e => insertFirst e l) []).foldl
    (fun z e => f32add 0 z (f32mul 0 e.n.w (vexp2Lane (f32sub 0 e.sig m)))) 0#32

/-- Δ of R288. -/
def qMissing (m : W32) (e : QScored) : W32 :=
  f32mul 0 e.n.w (f32sub 0 (vexp2Lane (f32sub 0 e.u m)) (vexp2Lane (f32sub 0 e.sig m)))

/-- The bytes of a value row (R287). -/
def valueRow (d : Nat) : Nat := 64 * ((2 * d + 63) / 64)

/-- The nodes of a frontier taken in order: summaries, children of patches for the next frontier, rows (R288). -/
def qTake (q : QRequest) (t : W32) : List QScored → QWalk → List Nat → QM (QWalk × List Nat)
  | [], w, nx => pure (w, nx)
  | e :: es, w, nx => do
    let r ← get
    let sum := { w with sums := w.sums ++ [e] }
    if f32le (qMissing w.m e) t then qTake q t es sum nx
    else if e.n.ev then qTake q t es { sum with fe := w.fe + 1 } nx
    else if e.n.isPatch then qTake q t es { w with down := w.down + 1 } (nx ++ e.n.kids)
    else if min r.d.xlimit q.kcap < w.rows.length + e.n.count then qTake q t es { sum with fb := w.fb + 1 } nx
    else qTake q t es { w with rows := w.rows ++ e.n.tokens, down := w.down + 1 } nx

/-- The levels of a descent (R288). -/
def qLevel (q : QRequest) (query : List W32) (nq : W32) : Nat → List Nat → QWalk → QM QWalk
  | 0, _, w => pure w
  | fuel + 1, fr, w => do
    if fr.isEmpty then pure w
    else
      let r ← get
      let d := r.d.dim
      let es ← qScore query nq d fr
      let m := es.foldl (fun m e => f32max m e.u) w.m
      let t := f32mul 0 r.d.tau (qMass m (w.sums ++ es))
      let (w, nx) ← qTake q t es { w with m := m, scored := w.scored + es.length } []
      qLevel q query nq fuel nx w

/-- The offset of m in a node (R272). -/
def mOffset (d : Nat) (n : QNode) : Nat := if n.isPatch then 0x40 + 4 * d else 0x40 + 8 * d

/-- The exact tokens written as rows from row x on, after every read of the command (R287, R288, R291). -/
def qRows (q : QRequest) (d : Nat) : List QToken → Nat → QM Unit
  | [], _ => pure ()
  | t :: ts, x => do
    qDo (qWriteAny (q.kout + BitVec.ofNat 64 (4 * d * x)) (pack 4 (t.k.map (·.toNat))))
    qDo (qWriteAny (q.vout + BitVec.ofNat 64 (valueRow d * x)) (padTo (valueRow d) (pack 2 t.v)))
    qDo (qWriteAny (q.pout + BitVec.ofNat 64 (8 * x)) (toBytes 8 t.p))
    qRows q d ts (x + 1)

/-- The summary entries written (R287). -/
def qSummaries (q : QRequest) (d : Nat) : List QScored → Nat → QM Unit
  | [], _ => pure ()
  | e :: es, i => do
    qDo <| qWriteAny (q.sout + BitVec.ofNat 64 (16 * i))
      (toBytes 4 e.sig.toNat ++ toBytes 4 (vlog2Lane e.n.w).toNat ++ toBytes 8 (e.va + mOffset d e.n))
    qSummaries q d es (i + 1)

/-- The result fields of a descent's completion word (R291). -/
def descentWord (w : QWalk) : Nat :=
  w.rows.length * 2 ^ 42 + w.sums.length * 2 ^ 28 + min w.fe 16383 * 2 ^ 14 + min w.fb 16383

/-- The effect of `qdesc` (R288). -/
def qDescend : QM Unit := do
  let (q, query) ← qRequest
  qCheck (!(query.any notFinite)) 0x44
  let r ← get
  let d := r.d.dim
  let nq := nrmUp query (List.replicate d 0#32)
  let w ← qLevel q query nq qLevels (if r.d.root = 0 then [] else [r.d.root]) ⟨[], [], 0, 0, inf32 true, 0, 0⟩
  let ns := w.sums.length
  qCheck (decide (ns ≤ q.scap)) 0x48
  qRows q d w.rows 0
  qSummaries q d w.sums 0
  qDesc fun x => { x with
    descents := x.descents + 1, exact := x.exact + w.rows.length, summaries := x.summaries + ns
    forced := x.forced + (w.fe + w.fb) }
  qFlushDesc
  qCmd fun c => { c with
    word := descentWord w
    evs := c.evs ++ [(69, 1), (70, w.scored), (71, w.down), (72, w.rows.length), (73, ns), (74, w.fe + w.fb)] }

/-! ## Statistics (R289) -/

/-- The counts of a tree: swatches, patches, evicted summaries, nodes with refcount above 1. -/
structure QCounts where
  swatches : Nat
  patches : Nat
  evicted : Nat
  shared : Nat
  deriving DecidableEq, Repr

/-- The counts of the nodes from a list of nodes on. -/
def qCount : Nat → List Nat → QCounts → QM QCounts
  | 0, _, c => pure c
  | _, [], c => pure c
  | fuel + 1, vas, c => do
    let ns ← qNodesOf vas
    let add (p : QNode → Bool) : Nat := (ns.filter p).length
    qCount fuel (ns.flatMap (·.kids))
      ⟨c.swatches + add fun n => !n.isPatch, c.patches + add QNode.isPatch, c.evicted + add QNode.ev,
        c.shared + add fun n => decide (1 < n.ref)⟩

/-- The effect of `qstat` (R289). -/
def qStat : QM Unit := do
  let r ← get
  let c ← qCount qLevels (if r.d.root = 0 then [] else [r.d.root]) ⟨0, 0, 0, 0⟩
  let free := ofBytes (← qLook (qRead (r.p.va + 0x14) 4))
  qDo <| qWriteAny r.c.b (pack 8 [r.d.tokens, r.d.evicted, c.swatches, c.patches, c.evicted, c.shared, r.d.height, free])

/-! ## The steps of a command (R291) -/

/-- The effect of a command after its path is private. -/
def qFinish (op : Nat) (made : List Nat) : QM Unit :=
  match op with
  | 0 => qInit
  | 1 => qAppend made
  | 2 => qDescend
  | 3 => qSplit made
  | 4 => qMerge made
  | 5 => qFork
  | 6 => qEvict made
  | 7 => qMark
  | 8 => qTrim
  | 9 => qStat
  | _ => qFree

/-- A command from its start: its descriptor opened, its path made private from the top, its effect. -/
def qProgram : QM Unit := do
  let c := (← get).c
  qOpen c.a.toNat
  qFinish c.op (← qPrivates [] (← qPath c.op))

/-- A form lowers refcounts or allocates: which slots that takes up or frees its node steps decide as the pool then stands. -/
def movesSlots (op : Nat) : Bool := [1, 3, 4, 6, 7, 10].contains op

/-- The pages of a pool translated with W in the read phase of a command whose writes reach it: a later step takes the slot that is then the
lowest free one, or frees a node that another command's step lowered meanwhile, and it must not fail (R291). (DEDUCED, log 80) -/
def qReserve : QM Unit := do
  let r ← get
  let vpns := r.p.pages
  if movesSlots r.c.op && (r.c.pages.any fun e => e.2.2.2 && vpns.contains e.1) then
    for vpn in vpns do
      let _ ← qPage (vpn * 65536) true

/-- The read phase: the whole command on a copy of the state. (DEDUCED, log 77) -/
def qDry : QM Unit := do
  qProgram
  qReserve

/-- The next step of a run of a command: how it ends, and the run as it then stands. -/
def qRun (s : State) (n : Nat) (c : QuiltCmd) (dry : Bool) (m : QM Unit) : Except QErr Unit × QRun :=
  let c := if dry then { c with reserved := 0, incs := [] } else c
  m.run.run ⟨s, { s with quilts := FMap.erase s.quilts n }, c, c.script, dry, descOf 0 [], ⟨0, 0, 0, 0, 0, 0, 0⟩⟩

/-- A command replaced. -/
def setQuilt (s : State) (n : Nat) (c : QuiltCmd) : State := { s with quilts := FMap.set s.quilts n c }

/-- The end of a run that did not go through (R291, R355). -/
def quiltEnd (s : State) (n : Nat) (c : QuiltCmd) : QErr → State
  | .code k => setQuilt s n { c with failed := some k }
  | .held t w => offerEngine (setQuilt s n { c with heldFault := true, heldRecord := w }) c.ctx c.task t 4 (issuerNo c.party)
      (some (.quilt n))
  | .ecc t => offerEngine (setQuilt s n { c with failed := some 0x49 }) c.ctx c.task t 4 (issuerNo c.party) none
  | .taken bs => setQuilt s n { c with script := c.script ++ [bs] }
  | .waits => setQuilt s n c

/-- The completion word's address translated with W in the read phase (R291). -/
def quiltWord (s : State) (c : QuiltCmd) : Except QErr (State × QuiltCmd) :=
  if c.record = 0#64 ∨ isTagged c.record = true then .ok (s, c)
  else match engTarget s (engReq c.ctx c.priv .write 4) c.record with
    | .ok (s, tg) => .ok (s, { c with cw := some (tg.pa, tg.dom), heldRecord := false })
    | .error t => if t.xl.isSome then .error (.held t true) else .error (.code 0x49)

/-- What a command keeps of a run that goes on: its pages, its record, its reservations (R291). -/
def QuiltCmd.keep (c k : QuiltCmd) : QuiltCmd :=
  { c with pages := k.pages, data := k.data, reserved := k.reserved, pool := k.pool, incs := k.incs }

/-- A step of the read phase of a command: the next read, its pages and reservations, or how it ends. -/
def quiltReadPhase (s : State) (n : Nat) (c : QuiltCmd) : State :=
  match if c.script = [] then quiltWord s c else .ok (s, c) with
  | .error (.code k) => setQuilt s n { c with failed := some k, heldRecord := true }
  | .error e => quiltEnd s n c e
  | .ok (s, c) =>
    let (e, r) := qRun s n c true qDry
    match e with
    | .error e => quiltEnd r.base n (c.keep r.c) e
    | .ok _ => setQuilt r.base n { c.keep r.c with stage := 1, script := [] }

/-- Two commands name one descriptor: its physical address is the same. -/
def sameDesc (s : State) (c d : QuiltCmd) : Bool :=
  match peek s c.ctx c.a.toNat, peek s d.ctx d.a.toNat with
  | some x, some y => x.1 == y.1
  | _, _ => c.ctx == d.ctx && c.a == d.a

/-- A command may begin: no other command on its descriptor has begun and not completed, and no earlier one of its party
waits there (R291). -/
def mayBegin (s : State) (n : Nat) (c : QuiltCmd) : Bool :=
  s.quilts.all fun (k, d) =>
    k == n || !sameDesc s c d ||
      !(decide (1 ≤ d.stage) || d.script != [] || d.heldFault || d.failed.isSome || (d.party == c.party && decide (k < n)))

/-- A node step of a command (R268, R291). -/
def quiltStep (s : State) (n : Nat) : State :=
  match FMap.get? s.quilts n with
  | none => s
  | some c =>
    if c.heldFault ∨ c.failed.isSome ∨ 2 ≤ c.stage then s
    else if c.stage = 0 then (if mayBegin s n c then quiltReadPhase s n c else s)
    else
      let (e, r) := qRun s n c false qProgram
      match e with
      | .error (.taken bs) => quiltEnd r.s n (c.keep r.c) (.taken bs)
      | .error e => quiltEnd s n c e
      | .ok _ => setQuilt s n { r.c with stage := 2, script := [] }

/-- A node step of command n (R268, R291). -/
def execNodeStep (n : Nat) (s : State) : Host.Outcome State Fault Refusal := .next (quiltStep s n)

/-! ## Completion (R291) -/

/-- The completion word written: every other write of the command has applied (R268, R291). -/
def writeQuiltWord (s : State) (c : QuiltCmd) (code fields : Nat) : State :=
  let bs := toBytes 8 (2 ^ 63 + code * 2 ^ 56 + fields)
  if c.record = 0#64 ∨ c.heldRecord = true then s
  else if isTagged c.record then
    match cmdScratch s c.party c.uid c.record 8 with
    | some l => landScratch s c.party l bs
    | none => s
  else match c.cw with
    | some (pa, dom) => pushHome s dom c.task pa bs (cmdWriter s c.party c.uid)
    | none => s

/-- A failing command offers E.QUILT with its code to its task (R291). -/
def offerQuilt (s : State) (c : QuiltCmd) (code : Nat) : State :=
  offerEngine s c.ctx c.task (mkTrap .quilt (BitVec.ofNat 64 code)) 4 (issuerNo c.party) none

/-- The completion word would go to a bank that the present row reserves: it waits (R118). -/
def wordWaits (s : State) (c : QuiltCmd) : Bool :=
  c.record != 0#64 && !c.heldRecord && isTagged c.record &&
    match cmdScratch s c.party c.uid c.record 8 with
    | some l => bankReserved s c.party l 8
    | none => false

/-- The events of a command counted (R198). -/
def quiltEvents (s : State) (c : QuiltCmd) : State := c.evs.foldl (fun s e => countCmd s c.party c.uid e.1 e.2) s

/-- A quilt command completes (R291). -/
def quiltComplete (s : State) (n : Nat) : State :=
  match FMap.get? s.quilts n with
  | none => s
  | some c =>
    if c.heldFault ∨ wordWaits s c = true then s
    else
      let done (s : State) : State := { s with quilts := FMap.erase s.quilts n }
      match c.failed with
      | some k => offerQuilt (done (writeQuiltWord s c k 0)) c k
      | none =>
        if c.stage = 2 then quiltEvents (done (writeQuiltWord s c c.code c.word)) c
        else s

/-- Command n completes (R291). -/
def execQuiltCommandComplete (n : Nat) (s : State) : Host.Outcome State Fault Refusal := .next (quiltComplete s n)

end Sys2Proof.Machine
end

