-- ==== Sys2Proof/Machine/Freeze.lean ====
section
/-! DEFINITION. A freeze of a garment and its readout into a save slot (R262, R329-R331, R334, R338). -/

namespace Sys2Proof.Machine

open Sys2Proof

/-! ## What a freeze waits for (R182, R293, R309, R334) -/

/-- The address names a scratchpad of a panel. -/
def tileTagged (a : Word) : Bool := isTagged a && !isCoreTag a

/-- The party is a thread of one of the panels. -/
def partyIn (ps : List Nat) (p : Party) : Bool := match partyPanel p with | some x => ps.contains x | none => false

/-- A copy that writes into a scratchpad of the panels, or reads one. -/
def copyInto (ps : List Nat) (c : Copy) : Bool :=
  partyIn ps c.party && (tileTagged c.src || (c.peer == 0 && tileTagged c.dst) || (c.cw && tileTagged c.cwaddr))

/-- A quilt command that writes into a scratchpad of the panels, or reads its record there; the outputs of `qdesc` are in its request. -/
def quiltInto (ps : List Nat) (c : QuiltCmd) : Bool :=
  partyIn ps c.party && (tileTagged c.record || c.op == 2 || ((c.op == 1 || c.op == 9) && tileTagged c.b))

/-- A press command that writes into a scratchpad of the panels, or has its descriptor there. -/
def pressInto (ps : List Nat) (c : PressCmd) : Bool := partyIn ps c.party && (tileTagged c.record || tileTagged c.desc)

/-- A bobbin command that writes into a scratchpad of the panels. -/
def bobbinInto (s : State) (ps : List Nat) : Bool :=
  s.bobbin.any fun (p, q) => partyIn ps p && q.any fun c => c.scratch.isSome

/-- Engine commands that write into the panels' scratchpads, or read them, are still to complete. (DEDUCED, log 90) -/
def landing (s : State) (ps : List Nat) : Bool :=
  (s.contexts.any fun x => x.2.chans.any fun ch => ch.2.queue.any (copyInto ps)) ||
    (s.quilts.any fun c => quiltInto ps c.2) || (s.press.any fun c => pressInto ps c.2) || bobbinInto s ps

/-- A fault of a task is under handling (R334). -/
def handled (s : State) (c : Nat) (id : BitVec 32) : Bool :=
  match (s.ctxt c).handling with
  | some (f, _) => (s.ctxt c).trapcause.getLsbD 63 && f.task == id
  | none => false

/-! ## The freeze (R329, steps 1 to 4; R334) -/

/-- A fault of a garment whose cause may remain: not the failure of an engine command that has ended (R291, R301, R182), which nothing raises
again. -/
def replayed (id : BitVec 32) (f : FaultRec) : Bool :=
  f.task == id && !(f.engine.isNone && f.party.isNone && [4, 5, 6].contains f.source)

/-- The faults of a garment that its stop withdraws (R334): an access of an engine that the freeze waits for keeps its fault until that engine is
done. (DEDUCED, log 91) -/
def stopsFault (id : BitVec 32) (f : FaultRec) : Bool := replayed id f && f.engine.isNone

/-- The faults of a context that a test selects, queued or due, are withdrawn, and the next one is offered (R334); an access of an engine that
one of them holds stays held until the garment resumes. (DEDUCED, log 91) -/
def withdrawFaults (s : State) (c : Nat) (sel : FaultRec → Bool) : State :=
  let x := s.ctxt c
  let mine : Bool := (x.delivery.map fun d => sel d.1).getD false
  let s := s.setCtxt c { x with
    faultQ := x.faultQ.filter fun f => !sel f.1
    delivery := if mine then none else x.delivery }
  if mine then offerNext s c else s

/-- A running panel stops at a live-cycle boundary, its faults withdrawn: it issues and advances no more (R262, R329, step 1; R334). -/
def stopPanel (s : State) (p : Nat) : State :=
  s.modPanel p fun x => if x.state = .live ∧ x.half.isNone then { x with state := .stopping, faulted := [] } else x

/-- Every panel of a garment has stopped for its freeze, or is killed. -/
def allStopped (s : State) (ps : List Nat) : Bool :=
  ps.all fun p => ((s.panel? p).map fun x => x.state == .stopping || x.state == .killed).getD true

/-- A thread of the panels waits for the answer of a home: its `amo` has not reached its point (R43, R329, step 1). -/
def asking (s : State) (ps : List Nat) : Bool := s.asked.any fun c => partyIn ps c.1

/-- A panel frozen at its live-cycle boundary: logs dropped after their undo entries are restored, dirty bytes drained,
lines invalidated (R118, R262, R329). -/
def freezePanel (s : State) (p : Nat) : State :=
  let s := s.modPanel p Panel.dropAll
  let s := dropClean (drainPanel s p fun _ => true) p fun _ => true
  s.modPanel p fun x => { x with state := if x.state = .killed then .killed else .frozen, holds := [], faulted := [] }

/-- The panel offsets of a slot: after the header, each record follows the one before (R330, R331). -/
def panelOffsets (s : State) : List Nat → Nat → List Nat
  | [], _ => []
  | p :: ps, off => off :: panelOffsets s ps (off + ((s.panel? p).map panelRecordBytes).getD 0)

/-- The header of a slot with a state (R330). -/
def slotHeader (s : State) (e : Nat) (t : TaskEntry) (state : Nat) : List Byte :=
  toBytes 8 (taskId s e).toNat ++ toBytes 1 state ++ toBytes 1 t.panels.length ++ List.replicate 6 0#8 ++
    toBytes 8 s.tick.toNat ++ List.replicate 8 0#8 ++ padTo 64 (pack 8 (panelOffsets s t.panels 256)) ++ List.replicate 160 0#8

/-- The panels of a garment freeze, and the slot's header is written (R329, steps 3 and 4). A held panel freezes in place, and the garment is
then not placed until Henid goes on (R338). -/
def freezePanels (s : State) (e : Nat) (t : TaskEntry) : State :=
  let id := taskId s e
  let held := t.panels.any fun p => isHeld s (.seq p 0)
  let s := t.panels.foldl freezePanel (withdrawFaults s t.ctx (replayed id))
  let s := if held then { s with unplaced := s.unplaced ++ [id] } else s
  (devWrite s t.ctx (slotAddr (s.ctxt t.ctx) t.saveSlot) (slotHeader s e t 1)).getD (killTask s e)

/-- Steps 1 to 4 of a freeze: while nothing of the garment is under handling its panels stop, each at a live-cycle boundary; they freeze once
every access they wait for and every engine command into their scratchpads is complete. -/
def freezeGarment (s : State) (e : Nat) (t : TaskEntry) : State :=
  if !t.wantFreeze || t.state != .running || handled s t.ctx (taskId s e) then s
  else if t.panels.any fun p => ((s.panel? p).map fun x => x.state == .frozen).getD false then s
  else if allStopped s t.panels = false then t.panels.foldl stopPanel (withdrawFaults s t.ctx (stopsFault (taskId s e)))
  else if landing s t.panels || asking s t.panels then s
  else freezePanels s e t

/-- A freeze takes effect (R329). -/
def execFreeze (e : Nat) (s : State) : Host.Outcome State Fault Refusal :=
  .next (match FMap.get? s.tasks e with
    | some t => freezeGarment s e t
    | none => s)

/-! ## The readout (R329, steps 5 and 6; R331) -/

/-- The 256 bytes of a panel header, its row and schedule those of the shadow (R331). -/
def panelHeader (x : Panel) : List Byte :=
  let row := (x.shadow.map (·.row)).getD x.row
  let b := (x.shadow.map (·.schedB)).getD x.schedB
  padTo 256 (toBytes 8 x.imageAddr.toNat ++ pack 1 [x.image.width, x.image.height, x.image.strands, b.toNat, row, 0, 0, 0] ++
    toBytes 8 x.image.readout.toNat)

/-- The readout banks of a tile, in ascending order (R331). -/
def readoutBankBytes (mask : Word) (t : Tile) : List Byte :=
  ((List.range 64).filter fun b => mask.getLsbD b).flatMap fun b => readBytes t.scratch (4096 * b) 4096

/-- The bytes of a panel record; what its strand and tile records hold only the device reads, so they are free (R331).
(DESIGN CHOICE, log 40) -/
def panelRecord (s : State) (x : Panel) : State × List Byte :=
  let (s, bs) := freeBytes (4096 * x.image.strands + 32768 * x.ntiles) s
  (s, panelHeader x ++ bs ++ (List.range x.ntiles).flatMap fun t => readoutBankBytes x.image.readout (x.tile t))

/-- The records of the panels written to a slot; none where a write faults. -/
def writeSlot (c : Nat) : List (Nat × Nat) → State → Option State
  | [], s => some s
  | (p, va) :: ps, s =>
    match s.panel? p with
    | none => writeSlot c ps s
    | some x =>
      let (s, bs) := panelRecord s x
      match engWriteN s (engReq c .supervisor .write 7) 0 none (BitVec.ofNat 64 va) bs with
      | .ok s => writeSlot c ps s
      | .error _ => none

/-- The sequencer thread and the slice thread of every strand of a panel. -/
def panelThreads (s : State) (p : Nat) : List Thread :=
  strandIds.flatMap fun i => [s.thread (.seq p i), s.thread (.slice p i)]

/-- The panels of a garment freed and the garment queued with its rank and age, its shadows kept (R20, R26, R33, R329). -/
def requeueFrozen (s : State) (e : Nat) (t : TaskEntry) : State :=
  let saved := (t.panels.filterMap s.panel?, t.panels.flatMap (panelThreads s), t.saveSlot)
  let s := t.panels.foldl freePanel s
  let s := { s with
    frames := s.frames.filter fun f => f.entry != e
    debugHolds := s.debugHolds.filter fun h => !partyIn t.panels h.1 }
  preemptEnds (modTask s e fun t => { t with
    state := .ready, admitted := false, panels := [], frames := [], wantFreeze := false, frozen := some saved })
    t.ctx (taskId s e) none

/-- Every panel of a garment is frozen, or killed. -/
def allFrozen (s : State) (t : TaskEntry) : Bool :=
  (t.panels.any fun p => ((s.panel? p).map fun x => x.state == .frozen).getD false) && t.panels.all fun p =>
    ((s.panel? p).map fun x => x.state == .frozen || x.state == .killed).getD false

/-- A readout bank of a garment's panels holds a word with an uncorrectable error (R326). -/
def badReadout (s : State) (t : TaskEntry) : Bool :=
  (t.panels.filterMap s.panel?).any fun x => (List.range x.ntiles).any fun k =>
    (x.tile k).bad.any fun w => x.image.readout.getLsbD (w / 512)

/-- The writes of a save slot perform at their homes. -/
def slotWritten (s : State) (c slot bytes : Nat) : State :=
  flushRanges s (regionRanges s c (bytes / 65536 + 2) slot (slot + bytes))

/-- The readout of a frozen garment completes (R329); a translation fault of the slot or an uncorrectable error kills it (R326, R330). -/
def readout (s : State) (e : Nat) (t : TaskEntry) : State :=
  if !t.wantFreeze || t.state != .running || !allFrozen s t then s
  else if badReadout s t then killTask s e
  else
    let slot := slotAddr (s.ctxt t.ctx) t.saveSlot
    let places := t.panels.zip ((panelOffsets s t.panels 256).map (slot + ·))
    match (writeSlot t.ctx places s).bind fun u => devWrite (slotWritten u t.ctx slot (garmentBytes s e)) t.ctx (slot + 8) [2#8] with
    | some s => requeueFrozen s e t
    | none => killTask s e

/-- A readout completes (R329). -/
def execReadoutComplete (e : Nat) (s : State) : Host.Outcome State Fault Refusal :=
  .next (match FMap.get? s.tasks e with
    | some t => readout s e t
    | none => s)

end Sys2Proof.Machine
end

