-- ==== Sys2Proof/Machine/Device.lean ====
section
/-! DEFINITION. Engine steps by engine (R99), page walks (R92), trap entry (R321), check-bit errors (R326, R351), refresh
(R198), heat and self-refresh (R349), the clock (R99, R345), Henid's continue (R267). -/

namespace Sys2Proof.Machine

open Sys2Proof

/-! ## Engines (R99, R112) -/

/-- An engine reads (R99): part k of a copy, source line k of a press command, a node step, the image of a load, an aligned part of a stream's
beat (R101). The accesses of an admission are made by the Marker's step. -/
def execEngineRead (e : EngineId) (k : Nat) (s : State) : Host.Outcome State Fault Refusal :=
  .next (match e with
    | .copy c n => copyRead s c n k
    | .press n => pressRead s n k
    | .quilt n => quiltStep s n
    | .load p => runLoad s p
    | .admission _ => s
    | .bobbin _ => s
    | .stream p t q => fetchPart s p t (q / 16 % 4) (q % 16))

/-- An engine writes (R99): part k of a copy, line k of a press command, a node step, the oldest command of a bobbin unit. -/
def execEngineWrite (e : EngineId) (k : Nat) (s : State) : Host.Outcome State Fault Refusal :=
  .next (match e with
    | .copy c n => copyWrite s c n k
    | .press n => pressWrite s n k
    | .quilt n => quiltStep s n
    | .load p => runLoad s p
    | .admission _ => s
    | .bobbin p => bobbinStep s p
    | .stream _ _ _ => s)

/-- A command writes its completion value (R112, R182, R291, R299). -/
def execCompletionWordWrite (e : EngineId) (s : State) : Host.Outcome State Fault Refusal :=
  .next (match e with
    | .copy c n => copyComplete s c n
    | .press n => pressComplete s n
    | .quilt n => quiltComplete s n
    | .load _ => s
    | .admission _ => s
    | .bobbin _ => s
    | .stream _ _ _ => s)

/-! ## Walks and traps -/

/-- The privilege of a code (R313). -/
def privOf (n : Nat) : Priv := if n = 0 then .user else if n = 1 then .supervisor else .machine

/-- A walk for an access (R92, R93): the leaf enters the unit's TLB with its A and M bits set where every check passes;
a walk that fails a check reports nothing by itself (R95). (DEDUCED, log 97) -/
def execPageWalk (unit ctx priv : Nat) (acc : Access) (va : Word) (s : State) : Host.Outcome State Fault Refusal :=
  .next (match translate s ⟨some unit, ctx, privOf priv, acc, 0, 0, 0, 0, 0⟩ va with
    | .ok (s, _) => s
    | .error _ => s)

/-- The thread that a due fault enters may be interrupted: it is at an instruction boundary, waiting for no answer of a home, and not held by
Henid. -/
def mayEnter (s : State) (n : Nat) : Bool :=
  !isHeld s (.core n) && (s.thread (.core n)).priv != .machine && (FMap.get? s.asked (.core n)).isNone

/-- A due fault enters the handler's thread; with none due and none under handling, the next queued one is offered (R321). -/
def execTrapEntry (c : Nat) (s : State) : Host.Outcome State Fault Refusal :=
  .next (match (s.ctxt c).delivery with
    | some (f, n) => if mayEnter s n then takeTrap s c f n else s
    | none => if (s.ctxt c).trapcause.getLsbD 63 then s else offerNext s c)

/-! ## Check bits (R326, R327, R351) -/

/-- An event counted at a unit's counters (R197; DESIGN CHOICE, log 95). -/
def countUnit (s : State) (u : CounterUnit) (ev n : Nat) : State :=
  match u with
  | .panel p => countFor s (.seq p 0) ev n
  | .core n' => countFor s (.core (2 * n')) ev n

/-- A single-bit error of an SRAM word corrected (R198, R351). -/
def execSecdedCorrection (u : CounterUnit) (s : State) : Host.Outcome State Fault Refusal := .next (countUnit s u 84 1)

/-- An event counted by every panel and core: that of an error at no unit of theirs (DESIGN CHOICE, log 95). -/
def countAll (s : State) (ev : Nat) : State :=
  { s with
    panels := mapVals (fun _ x => x.count ev 1) s.panels
    cores := mapVals (fun _ k => { k with counters := k.counters.map fun c => c.add ev 1 }) s.cores }

/-- The panel or core that a TLB serves (R93): the panel on an AG tile's block, or a service core. -/
def tlbUnit (s : State) (u : Nat) : Option CounterUnit :=
  if 512 ≤ u then some (.core (u - 512)) else (s.panels.find? fun c => c.2.blocks.contains u).map fun c => .panel c.1

/-- The unit whose counters an error counts at; none for an error at a home, in the L2 or in host memory. -/
def siteUnit (s : State) : ErrorSite → Option CounterUnit
  | .cleanCopy (.tile p _) _ => some (.panel p)
  | .cleanCopy (.core n) _ => some (.core n)
  | .cleanCopy .l2 _ => none
  | .instructionCache (.core n) => some (.core (n / 2))
  | .instructionCache p => (partyPanel p).map .panel
  | .scratchWord p _ _ => some (.panel p)
  | .coreScratchWord n _ => some (.core n)
  | .logAtPublish p _ => some (.panel p)
  | .phaseTable p => some (.panel p)
  | .fabricLink p => some (.panel p)
  | .sector _ => none
  | .saveSlot e => ((FMap.get? s.tasks e).bind fun t => t.panels.head?).map .panel
  | .tlbEntry u _ => tlbUnit s u
  | .hostPage _ _ => none
  | .pressWindow _ _ => none
  | .datapath p _ _ => some (.panel p)
  | .mxDatapath p _ => some (.panel p)
  | .gatherBuffer p _ _ => some (.panel p)
  | .scatterBuffer p _ _ => some (.panel p)
  | .readout e => ((FMap.get? s.tasks e).bind fun t => t.panels.head?).map .panel
  | .patternLoad p => some (.panel p)

/-- The site's error is one that check bits detect: not a completion of the host port, nor one of the stores that nothing checks (R326, R340,
R351). -/
def isChecked : ErrorSite → Bool
  | .hostPage _ _ => false
  | .pressWindow _ _ => false
  | .datapath _ _ _ => false
  | .mxDatapath _ _ => false
  | .gatherBuffer _ _ _ => false
  | .scatterBuffer _ _ _ => false
  | _ => true

/-- An event of an error counted at its unit, or everywhere where it has none. -/
def countSite (s : State) (e : ErrorSite) (ev : Nat) : State :=
  match siteUnit s e with
  | some u => countUnit s u ev 1
  | none => countAll s ev

/-- An error in a sector of the L2: dirty, it becomes poisoned at its home; a clean copy is dropped and counted as corrected (R326). -/
def l2Error (s : State) (sec : Nat) : State :=
  let s := if isDirty s.l2Dirty sec then
      { s with poison := (sec :: s.poison).dedup, l2Dirty := cleanSectors s.l2Dirty sec (sec + 1) }
    else countAll s 84
  { s with l2 := s.l2.filter fun x => x != sec }

/-- A free 64-bit value. (DEDUCED, log 93) -/
def freeWord (s : State) : State × Word :=
  let (s, bs) := freeBytes 8 s
  (s, wordOf bs)

/-- E.ECC offered to a panel at its row, of no element; the spec names no value for it (R316, R326). (DEDUCED, log 94) `src`: its source where
no word raised it (R315). -/
def panelEcc (s : State) (p : Nat) (src : Option Nat) : State :=
  let (s, v) := freeWord s
  fabricFaultFrom s p ⟨0, 7, none, mkTrap .ecc v, true, none⟩ src

/-- The panel runs and no fault holds it. -/
def panelRuns (s : State) (p : Nat) : Bool := ((s.panel? p).map fun x => x.state == .live && x.faulted.isEmpty).getD false

/-- The thread of a strand runs. -/
def strandAlive (s : State) (p i : Nat) : Bool :=
  panelRuns s p && (s.thread (.seq p i)).status == .running

/-- A wrong value of n bytes in a store of a tile that nothing checks: the bytes are free (R351; DESIGN CHOICE, log 18). -/
def wrongBytes (s : State) (p t n : Nat) (put : List Byte → Tile → Tile) : State :=
  match s.panel? p with
  | none => s
  | some x =>
    if t < x.ntiles then
      let (s, bs) := freeBytes n s
      s.modPanel p fun x => x.setTile t (put bs (x.tile t))
    else s

/-- A list with its last member changed by a function that may refuse it. -/
def changeLast {α : Type} (f : α → Option α) (l : List α) : List α :=
  match l.reverse with
  | a :: r => match f a with | some b => (b :: r).reverse | none => l
  | [] => []

/-- The rows of the newest interval of the MX replaced. -/
def wrongInterval (bs : List Byte) (tl : Tile) : Tile :=
  { tl with pipe := changeLast (fun v => v.out.map fun _ => { v with out := some ((unpack bs 0 4 16).map (BitVec.ofNat 32)) }) tl.pipe }

/-- The row of an entry of the operand latch replaced. -/
def wrongGather (e : BitVec 4) (bs : List Byte) (tl : Tile) : Tile :=
  let b := tl.oplatch[e.toFin]
  { tl with oplatch := tl.oplatch.set e.toFin { b with data := BitVec.ofNat 512 (ofBytes bs) } }

/-- The bytes of the newest write to scratch in a strand's log replaced. -/
def wrongScatter (i : Nat) (bs : List Byte) (tl : Tile) : Tile :=
  { tl with logs := tl.logs.set (i % 4) (changeLast (fun e => match e with
    | .scratch t off old full => some (.scratch t off (bs.take old.length) full)
    | _ => none) (tl.logs[i % 4]'(Nat.mod_lt _ (by decide)))) (Nat.mod_lt _ (by decide)) }

/-- The outcome of an uncorrectable error where it lies (R27, R310, R326, R340, R351). -/
def errorAt (s : State) (e : ErrorSite) : State :=
  match e with
  | .cleanCopy (.tile p t) line => s.modPanel p fun x =>
      (x.setTile t { x.tile t with lines := (x.tile t).lines.filter fun c => lineOf c.1 != line }).count 84 1
  | .cleanCopy (.core n) line => countUnit (evictUnit s (.core n) line) (.core n) 84 1
  | .cleanCopy .l2 sec => l2Error s sec
  | .tlbEntry u base =>
    countSite { s with tlb := s.tlb.filter fun w => w.unit != u || w.base != base } (.tlbEntry u base) 84
  | .hostPage page failing =>
    { s with hostBad := if failing then (page :: s.hostBad).dedup else s.hostBad.filter fun k => k != page }
  | .pressWindow n k => pressWriteAs s n k true
  | .datapath p t d => wrongBytes s p t 64 fun bs tl => { tl with v := tl.v.set d.toNat (BitVec.ofNat 512 (ofBytes bs)) }
  | .mxDatapath p t => wrongBytes s p t 64 wrongInterval
  | .gatherBuffer p t e => wrongBytes s p t 64 (wrongGather e)
  | .scatterBuffer p t i => wrongBytes s p t 64 (wrongScatter i)
  | .instructionCache p =>
    let s := { s with icache := s.icache.filter fun w => w.owner != icOwner p }
    countFor (countFor s p 84 1) p 86 1
  | .scratchWord p t off => s.modPanel p fun x =>
      if t < x.ntiles then x.setTile t { x.tile t with bad := (off / 8 :: (x.tile t).bad).dedup } else x
  | .coreScratchWord n off => s.setCore n { s.core? n with bad := (off / 8 :: (s.core? n).bad).dedup }
  | .logAtPublish p i =>
    if strandAlive s p i then
      let (s, v) := freeWord (s.modPanel p fun x => x.dropLogs i)
      raiseFor s (.seq p i) (mkTrap .ecc v)
    else s
  | .phaseTable p => if panelRuns s p then panelEcc s p none else s
  | .fabricLink p => if panelRuns s p then countFor (panelEcc s p (some 7)) (.seq p 0) 87 1 else s
  | .sector pa => { s with poison := (sectorOf pa :: s.poison).dedup }
  | .saveSlot e =>
    match FMap.get? s.tasks e with
    | some t => if t.frozen.isSome ∧ t.state = .loading then killTask s e else s
    | none => s
  | .readout e =>
    match FMap.get? s.tasks e with
    | some t => if t.wantFreeze ∧ allFrozen s t = true then killTask s e else s
    | none => s
  | .patternLoad p =>
    match s.panel? p with
    | some x => if (x.load.map fun l => l.state == .reading).getD false then failLoad s p else s
    | none => s

/-- An uncorrectable error: ev85 where check bits detect it, and its outcome (R326). -/
def execUncorrectableError (e : ErrorSite) (s : State) : Host.Outcome State Fault Refusal :=
  .next (errorAt (if isChecked e then countSite s e 85 else s) e)

/-! ## HBM4, heat (R198, R349) -/

/-- A pseudo-channel performs a refresh cycle: ev51 at its stack and pseudo-channel; it is not in self-refresh (R198,
R349). (DEDUCED, log 103) -/
def execRefreshCycle (st pc : Nat) (s : State) : Host.Outcome State Fault Refusal :=
  .next { s with
    panels := mapVals (fun _ x => { x with counters := x.counters.map fun c => c.addAt 51 st pc }) s.panels
    cores := mapVals (fun _ k => { k with counters := k.counters.map fun c => c.addAt 51 st pc }) s.cores
    selfRefresh := s.selfRefresh.filter fun q => q != (st, pc) }

/-- An idle pseudo-channel enters self-refresh (R349). -/
def execSelfRefresh (st pc : Nat) (s : State) : Host.Outcome State Fault Refusal :=
  .next { s with selfRefresh := ((st, pc) :: s.selfRefresh).dedup }

/-- A block passes its temperature limit and holds its panels (R349). -/
def execThermalClamp (b : Nat) (s : State) : Host.Outcome State Fault Refusal := .next { s with hot := (b :: s.hot).dedup }

/-- A block that has cooled releases its hold (R349). -/
def execThermalRelease (b : Nat) (s : State) : Host.Outcome State Fault Refusal :=
  .next { s with hot := s.hot.filter fun k => k != b }

/-! ## The clock (R99, R345) -/

/-- The cycle events of a waiting thread (R198). -/
def waitEvent (w : Wait) : Option Nat :=
  match w.instr with
  | .cond _ _ => some 92
  | .gbar _ => some 44
  | .gbarM _ => some 44
  | .ldsync _ _ _ => some 46
  | .ldsyncE _ _ _ => some 46
  | _ => none

/-- The cycles of waits counted; no counter counts a held cycle (R198, R267). -/
def countWaits : List (Party × Thread) → State → State
  | [], s => s
  | (p, t) :: l, s =>
    let s := countWaits l s
    match t.wait.bind waitEvent with
    | some ev => if isStill s p then s else countFor s p ev 1
    | none => s

/-- The ticks of a fabric cycle: one, and at most one withheld or added in 1,024 cycles while a correction is owed (R345). -/
def clockStep (c : Clock) (now : Nat) : Clock × Nat :=
  if c.owed = 0 ∨ now < c.lastFix + 1024 then (c, 1)
  else if 0 < c.owed then ({ c with owed := c.owed - 1, lastFix := now }, 2)
  else ({ c with owed := c.owed + 1, lastFix := now }, 0)

/-- A fabric cycle passes: the transfers of its frame slot move, and the frame counter is the cycle count modulo 256 (R33, R99). -/
def tickStep (s : State) : State :=
  let s := moveFrames (countWaits s.threads s)
  let (c, n) := clockStep s.clock (s.cycle + 1)
  { s with cycle := s.cycle + 1, clock := c, tick := s.tick + BitVec.ofNat 64 n }

/-- The tick clock and the frame counter advance by a fabric cycle (R99). -/
def execTick (s : State) : Host.Outcome State Fault Refusal := .next (tickStep s)

/-- A link is up. -/
def isUp (s : State) (l : Nat) : Bool := ((FMap.get? s.links l).map (·.up)).getD false

/-- A message of a link disciplines the clock: the link is up and the device is not the grandmaster. -/
def disciplines (s : State) (l : Nat) : Bool := isUp s l && !s.clock.grandmaster

/-- The device is the master of a link: it is up and is not the one that its own clock follows (R345). -/
def leads (s : State) (l : Nat) : Bool := isUp s l && s.clock.master != some l

/-- The departure of the last Sync of a link noted, or cleared. -/
def noteSync (s : State) (l : Nat) (t : Option Nat) : State :=
  match FMap.get? s.links l with
  | some k => { s with links := FMap.set s.links l { k with syncAt := t } }
  | none => s

/-- A control flit is received over a link that is up. -/
def hearFlit (s : State) (l : Nat) : State :=
  match FMap.get? s.links l with
  | some k => if k.up then { s with links := FMap.set s.links l (k.carry []) } else s
  | none => s

/-- A Sync message arrives: its link is the master's, and its arrival is t2 (R345). (DEDUCED, log 96) -/
def syncArrives (s : State) (l : Nat) : State :=
  if disciplines s l then
    { s with clock := { s.clock with master := some l, t1 := none, t2 := some s.tick.toNat, t3 := none, t4 := none } }
  else s

/-- A Sync message of a link: sent to a peer that follows this clock, its departure kept for the Follow_Up; or arriving (R345). -/
def execSync (e : LinkEnd) (s : State) : Host.Outcome State Fault Refusal :=
  let l := e.link
  .next (if e.out then (if leads s l then noteSync (sendFlit s l .sync) l (some s.tick.toNat) else s)
    else syncArrives (hearFlit s l) l)

/-- A Follow_Up message arrives with t1, the master's time of its Sync (R345). -/
def followUpArrives (s : State) (l t1 : Nat) : State :=
  if disciplines s l ∧ s.clock.master = some l ∧ s.clock.t2.isSome then { s with clock := { s.clock with t1 := some t1 } } else s

/-- A Follow_Up message: sent with the time noted at the departure of its Sync, or arriving (R345). -/
def execFollowUp (e : LinkEnd) (t1 : Nat) (s : State) : Host.Outcome State Fault Refusal :=
  let l := e.link
  .next (if e.out then
    match (FMap.get? s.links l).bind (·.syncAt) with
    | some t => if leads s l then noteSync (sendFlit s l (.followUp t)) l none else s
    | none => s
  else followUpArrives (hearFlit s l) l t1)

/-- A Delay_Req message of a peer is answered with a Delay_Resp that gives its arrival (R345). -/
def delayReqArrives (s : State) (l : Nat) : State := if leads s l then sendFlit s l (.delayResp s.tick.toNat) else s

/-- A Delay_Req message: sent to the master, its departure is t3; or arriving (R345). -/
def execDelayReq (e : LinkEnd) (s : State) : Host.Outcome State Fault Refusal :=
  let l := e.link
  .next (if e.out then
    (if disciplines s l ∧ s.clock.master = some l ∧ s.clock.t1.isSome then
      let s := sendFlit s l .delayReq
      { s with clock := { s.clock with t3 := some s.tick.toNat } }
    else s)
  else delayReqArrives (hearFlit s l) l)

/-- The offset of this clock from the master's by the four times (R345). -/
def clockOffset (t1 t2 t3 t4 : Nat) : Int := (((t2 : Int) - t1) - ((t4 : Int) - t3)) / 2

/-- A measurement: the correction owed, and lock where the offset is within ±8 ticks (R345). -/
def measured (c : Clock) (off : Int) : Clock :=
  { c with
    t1 := none, t2 := none, t3 := none, t4 := none, owed := -off
    lock := decide (-8 ≤ off) && decide (off ≤ 8) }

/-- A Delay_Resp message gives t4 and completes a measurement (R345). -/
def delayRespArrives (s : State) (l t4 : Nat) : State :=
  match s.clock.t1, s.clock.t2, s.clock.t3 with
  | some t1, some t2, some t3 =>
    if disciplines s l ∧ s.clock.master = some l then
      { s with clock := { measured s.clock (clockOffset t1 t2 t3 t4) with lastSync := s.cycle } }
    else s
  | _, _, _ => s

/-- A Delay_Resp message arrives (R345). -/
def execDelayResp (l t4 : Nat) (s : State) : Host.Outcome State Fault Refusal := .next (delayRespArrives (hearFlit s l) l t4)

/-! ## Henid (R267, R337, R338) -/

/-- The hold entries that a continue ends: all under `set hold all`, else those of the party or its panel. -/
def endsHold (s : State) (p : Party) (q : Party × Nat) : Bool :=
  s.holdAll || q.1 == p || ((partyPanel p).isSome && partyPanel q.1 == partyPanel p)

/-- The cycles that a party has been held for by the holds that end; none where it is not held. -/
def heldFor (s : State) (ends : List (Party × Nat)) (p : Party) : Nat :=
  match ends.find? fun q => match partyPanel p with | some x => partyPanel q.1 == some x | none => q.1 == p with
  | some q => s.cycle - q.2
  | none => 0

/-- A wait does not run while its thread is held (R267, R337). -/
def shiftWait (n : Nat) (t : Thread) : Thread := { t with wait := t.wait.map fun w => { w with since := w.since + n } }

/-- The waits of a panel's row do not run while it is held. -/
def shiftHolds (n : Nat) (x : Panel) : Panel := { x with holds := x.holds.map fun h => { h with since := h.since + n } }

/-- Henid continues a stopped party: the holds it ends are over and frozen garments may be placed again. A party whose panel was
frozen while it was held has no hold of its own left; under `set hold all` its continue still ends the other holds. -/
def continueHeld (s : State) (p : Party) : State :=
  let ends := s.debugHolds.filter (endsHold s p)
  { s with
    threads := mapVals (fun q t => shiftWait (heldFor s ends q) t) s.threads
    panels := mapVals (fun x y => shiftHolds (heldFor s ends (.seq x 0)) y) s.panels
    debugHolds := s.debugHolds.filter fun q => !endsHold s p q
    unplaced := [] }

/-- Henid's `preempt`: a request at supervisor privilege; a garment whose freeze it has accepted is not placed until Henid goes on (R328,
R338). -/
def henidPreempt (s : State) (c : Nat) (id : BitVec 32) : State :=
  let s := requestPreempt s c (zext64 id)
  if (findTask s id).any fun t => t.2.ctx == c && t.2.wantFreeze then { s with unplaced := (id :: s.unplaced).dedup } else s

/-- Bytes written by Henid's `load`, page by page, as engine writes applied at their homes; it ends at a page that does not translate
(R294; DEDUCED, log 133). -/
def henidLoad (c : Nat) : Nat → Nat → List Byte → State → State
  | 0, _, _, s => s
  | fuel + 1, va, bs, s =>
    if bs.isEmpty then s
    else
      let k := 65536 - va % 65536
      match devWrite s c va (bs.take k) with
      | some s => henidLoad c fuel (va + k) (bs.drop k) s
      | none => s

/-- A command of Henid (R267, R294, R337): a stopped thread continues, image bytes are loaded, a breakpoint is set, on a strand of every pass
of a task, on a service-core thread or once on a row, `set hold all` is chosen, a task is launched by it, a task is pre-empted. -/
def henidDoes (s : State) : HenidCmd → State
  | .continue_ p => continueHeld s p
  | .load c va bs => henidLoad c (bs.length / 65536 + 2) va.toNat bs s
  | .breakStrand id k i pc => { s with breaks := ((.strand id k i, pc) :: s.breaks).dedup }
  | .breakCore n pc => { s with breaks := ((.core n, pc) :: s.breaks).dedup }
  | .tbreak p t e row => { s with tbreaks := ((p, t, e.kind.toNat - 1, row) :: s.tbreaks).dedup }
  | .holdAll on => { s with holdAll := on }
  | .launched id => { s with henidTasks := (id :: s.henidTasks).dedup }
  | .preempt c id => henidPreempt s c id

/-- A command of Henid (R267, R294, R337). -/
def execHenidContinue (c : HenidCmd) (s : State) : Host.Outcome State Fault Refusal := .next (henidDoes s c)

end Sys2Proof.Machine
end

