-- ==== Sys2Proof/Machine/Platform.lean ====
section
/-! DEFINITION. The host's windows and resets (R340-R343), seam links (R344, R348), SPDM and seal keys (R346, R347),
cold reset and the enabling and disabling of contexts (R352-R354). -/

namespace Sys2Proof.Machine

open Sys2Proof

/-! ## Memory windows (R342) -/

/-- An answer given to the host. -/
def answer (s : State) (a : HostAnswer) : State := { s with outbox := s.outbox ++ [a] }

/-- The context's window is open: the host port is up, the context enabled, `c.hwin` on. -/
def windowOpen (s : State) (c : Nat) : Bool := s.hostUp && (s.ctxt c).cstat.getLsbD 63 && (s.ctxt c).hwin.getLsbD 0

/-- The virtual address of a window offset (R342). -/
def windowVa (s : State) (c : Nat) (off : BitVec 36) : Nat := bitsOf (s.ctxt c).hwin 36 19 * 2 ^ 36 + off.toNat

/-- What a window access meets at a page. -/
inductive WindowEnd where
  | at_ (s : State) (pa : Nat)
  | sealed
  | refused
  deriving DecidableEq, Repr

/-- A page translated with the checks of R92 at supervisor privilege; a leaf with a seal is refused whatever the domain.
(DEDUCED, log 100) -/
def windowPage (s : State) (c : Nat) (acc : Access) (va : Nat) : WindowEnd :=
  match translate s ⟨none, c, .supervisor, acc, 7, 0, 0, 0, 0⟩ (BitVec.ofNat 64 va) with
  | .ok (s', tg) =>
    if tg.dom ≠ 0 then .sealed
    else if paKind s tg.pa = .device then .refused
    else .at_ s' tg.pa
  | .error t => if t.cause = .sealed then .sealed else .refused

/-- A refused sealed access is logged (R341, R342). -/
def logSealed (s : State) (c va : Nat) : State :=
  let x := s.ctxt c
  let n := x.slogn.toNat
  s.setCtxt c { x with
    slogn := BitVec.ofNat 64 (if n + 1 < 2 ^ 32 then n + 1 else n)
    sloga := BitVec.ofNat 64 (va % 2 ^ 55) }

/-- Bytes read through a window, page by page: none for an unsupported request. (DEDUCED, log 98) -/
def windowRead (c : Nat) : Nat → State → Nat → Nat → State × Option (List Byte)
  | 0, s, _, _ => (s, some [])
  | fuel + 1, s, va, n =>
    if n = 0 then (s, some [])
    else
      let k := min n (65536 - va % 65536)
      let go (s : State) (bs : List Byte) : State × Option (List Byte) :=
        let (s, rest) := windowRead c fuel s (va + k) (n - k)
        (s, rest.map (bs ++ ·))
      match windowPage s c .read va with
      | .refused => (s, none)
      | .sealed => go (logSealed s c va) (List.replicate k 0xFF#8)
      | .at_ s pa =>
        if poisoned s pa k then
          let (s, bs) := freeBytes k s
          go s bs
        else
          let (s, bs) := readHomeLong s 0 pa k
          go s bs

/-- A request of the host to a context's function is accepted: a TDI in RUN takes only requests that IDE protects (R348). (DEDUCED, log
99) -/
def tdiTakes (s : State) (c : Nat) (ide : Bool) : Bool := ide || !s.tdiRun.contains (c + 1)

/-- A host read at a window offset, under IDE or not (R342, R348). -/
def execHostWindowRead (q : HostReq) (off : BitVec 36) (n : Nat) (s : State) : Host.Outcome State Fault Refusal :=
  let c := q.ctx
  .next (if windowOpen s c && tdiTakes s c q.ide then
    let (s, r) := windowRead c (n / 65536 + 2) s (windowVa s c off) n
    match r with
    | some bs => answer s (.data bs)
    | none => answer s .unsupported
  else answer s .unsupported)

/-- Bytes written through a window, page by page; whether every page took or dropped its bytes. -/
def windowWrite (c : Nat) : Nat → State → Nat → List Byte → State × Bool
  | 0, s, _, _ => (s, true)
  | fuel + 1, s, va, bs =>
    if bs.isEmpty then (s, true)
    else
      let k := 65536 - va % 65536
      match windowPage s c .write va with
      | .refused => (s, false)
      | .sealed => windowWrite c fuel (logSealed s c va) (va + k) (bs.drop k)
      | .at_ s pa =>
        let part := bs.take k
        windowWrite c fuel (writeHomeNow s 0 0 pa part none) (va + k) (bs.drop k)

/-- A host write at a window offset, under IDE or not (R342, R348). -/
def execHostWindowWrite (q : HostReq) (off : BitVec 36) (bytes : List Byte) (s : State) : Host.Outcome State Fault Refusal :=
  let c := q.ctx
  .next (if windowOpen s c && tdiTakes s c q.ide then
    let (s, ok) := windowWrite c (bytes.length / 65536 + 2) s (windowVa s c off) bytes
    if ok then s else answer s .unsupported
  else answer s .unsupported)

/-! ## Keys (R346, R347) -/

/-- The key of a seal domain destroyed: its bytes stay as ciphertext of a key that is gone (R347). -/
def destroyKey (s : State) (dom : Nat) : State :=
  if dom = 0 then s
  else { s with keys := FMap.erase s.keys dom, epochs := FMap.set s.epochs dom (FMap.getD s.epochs dom 0 + 1) }

/-- The answer of the security core to a request, in the clear or in a context's secured session, where there is one: the signature and all
else that the spec does not give are free by draw (R346; DESIGN CHOICE, log 19). -/
def spdmSays (s : State) (session : Option Nat) (devid : List Word) (digest : Option (BitVec 256)) : State :=
  if session.all fun c => s.spdm.sessions.contains c then
    let (s, d) := s.draw
    { s with spdm := { s.spdm with responses := s.spdm.responses ++ [⟨devid, digest, Config.spdmAnswer d, session⟩] } }
  else s

/-- A certificate request, made before there is a session: the device certificate of slot 0 carries the `c.devid` values (R14, R346). -/
def execCert (s : State) : Host.Outcome State Fault Refusal := .next (spdmSays s none [devidValue] none)

/-- A challenge, answered with a signature (R346). -/
def execChal (q : SpdmReq) (s : State) : Host.Outcome State Fault Refusal := .next (spdmSays s q.session [] none)

/-- A measurement request: the digest of a block of 1 to 4 as recorded, with the signature (R346). -/
def execMeas (q : SpdmReq) (s : State) : Host.Outcome State Fault Refusal :=
  .next (spdmSays s q.session [] (if q.value = 0 then none else s.spdm.blocks[q.value - 1]?))

/-- A key exchange establishes the secured session of a context's tenant (R346). -/
def execKeyEx (c : Nat) (s : State) : Host.Outcome State Fault Refusal :=
  .next (let s := spdmSays s none [] none
    { s with spdm := { s.spdm with sessions := (c :: s.spdm.sessions).dedup } })

/-- What measurement 3 covers of a context: its number, quota, groups and ranges (R346, R354). -/
def contextNumbers (c : Nat) (x : Context) : List Nat :=
  if x.cstat.getLsbD 63 then [c, bitsOf x.cstat 32 14, x.groups.length] ++ x.groups ++ [x.ranges.length] ++ x.ranges else []

/-- The firmware configuration: the remap table by the failed blocks, the grandmaster, the inbound windows, the contexts' quotas and
assignments (R346, R354). -/
def configNumbers (s : State) : List Nat :=
  [s.failedBlocks.length] ++ s.failedBlocks ++ [if s.clock.grandmaster then 1 else 0, s.links.length] ++
    (s.links.flatMap fun (l, k) => [l, k.window.1, k.window.2, k.dom]) ++ s.contexts.flatMap fun (c, x) => contextNumbers c x

/-- Measurement 3 recorded (R346, R352, R354). -/
def recordConfig (s : State) : State :=
  { s with spdm := { s.spdm with blocks := s.spdm.blocks.set 2 (Config.digest (configNumbers s)) } }

/-- CSTAT.sess of a context. -/
def setSess (s : State) (c : Nat) : State :=
  s.setCtxt c { s.ctxt c with cstat := (s.ctxt c).cstat ||| 0x2000000000000000#64 }

/-- A domain key is installed or generated through a secured session (R347): the domain is the context's own. -/
def execSealKeyInstall (c : Nat) (dom : BitVec 6) (s : State) : Host.Outcome State Fault Refusal :=
  .next (if s.spdm.sessions.contains c ∧ dom ≠ 0#6 ∧ ctxDomain s c = dom.toNat then
    let s := destroyKey s dom.toNat
    setSess { s with keys := FMap.set s.keys dom.toNat c } c
  else s)

/-- A TDISP request moves a VF's TDI into or out of RUN (R348). -/
def execTdispRequest (vf : Nat) (run : Bool) (s : State) : Host.Outcome State Fault Refusal :=
  .next { s with tdiRun := if run then (vf :: s.tdiRun).dedup else s.tdiRun.filter fun v => v != vf }

/-! ## Contexts retired and enabled (R343, R353, R354) -/

/-- An engine command of a context is accepted and not complete. -/
def engineBusy (s : State) (c : Nat) : Bool :=
  ((s.ctxt c).chans.any fun ch => !ch.2.queue.isEmpty) || (s.press.any fun q => q.2.ctx == c) ||
    (s.quilts.any fun q => q.2.ctx == c) || s.bobbin.any fun q => q.2.any fun b => b.ctx == c

/-- The byte ranges of units of 512 MiB. -/
def unitRanges (units : List Nat) : List (Nat × Nat) := units.map fun u => (u * 2 ^ 29, (u + 1) * 2 ^ 29)

/-- The units of 512 MiB of an assignment: twelve to a first-tier group (R85), and the second-tier units (R354). -/
def unitsOf (groups ranges : List Nat) : List Nat :=
  (groups.flatMap fun j => (List.range 12).map fun i => 12 * j + i) ++ ranges

/-- A number lies in a unit of a list, the unit being `size` numbers. -/
def inUnits (units : List Nat) (size n : Nat) : Bool := units.contains (n / size)

/-- Every byte of units of 512 MiB written with zero, unsealed and without poison; the L2 holds nothing of them (R354). -/
def zeroUnits (s : State) (units : List Nat) : State :=
  let s := flushRanges s (unitRanges units)
  { s with
    l2 := s.l2.filter fun sec => !inUnits units (2 ^ 24) sec
    l2Dirty := units.foldl (fun d u => cleanSectors d (u * 2 ^ 24) ((u + 1) * 2 ^ 24)) s.l2Dirty
    mem := s.mem.filter fun c => !inUnits units (2 ^ 29) c.1
    seals := s.seals.filter fun e => !inUnits units (2 ^ 24) e.1
    poison := s.poison.filter fun e => !inUnits units (2 ^ 24) e
    sides := s.sides.filter fun e => !inUnits units (2 ^ 21) e.1
    l2Dom := s.l2Dom.filter fun e => !inUnits units (2 ^ 21) e.1 }

/-- The threads of a context stop and belong to no task. -/
def idleThreads (s : State) (c : Nat) : State :=
  { s with threads := mapVals (fun p t => match p with
      | .core _ => if t.ctx = c ∧ t.priv ≠ .machine then Thread.clear else t
      | _ => t) s.threads }

/-- The enabled contexts but for one. -/
def othersUp (s : State) (c : Nat) : List Context :=
  (s.contexts.filter fun q => q.1 != c && q.2.cstat.getLsbD 63).map (·.2)

/-- The memory of an assignment as a newly enabled context finds it: zero bytes, and every group that is not assigned to another enabled context
in spread mode with identity masks (R353, R354). -/
def freshMemory (s : State) (c : Nat) (groups ranges : List Nat) : State :=
  let kept (j : Nat) : Bool := (othersUp s c).any fun x => x.groups.contains j
  setHbmMap (zeroUnits s (unitsOf groups ranges))
    ⟨s.hbmMode.filter kept, s.hbmMc.filter fun m => kept (m.1 / 12), s.hbmMp.filter fun m => kept (m.1 / 12)⟩

/-- A thread of a service core is assigned to a context. -/
def coreOf? (x : Context) (k : Nat) : Bool := x.scmap.getLsbD (2 * k) || x.scmap.getLsbD (2 * k + 1)

/-- The caches of the service cores that last ran for a context are emptied, and the scratch of a core that no other enabled context has a thread
of: no byte of an earlier tenant is readable by a later one (R354; DEDUCED, log 101). -/
def emptyCores (s : State) (c : Nat) : State :=
  let mine (k : Nat) : Bool := (s.core? k).lastCtx == some c
  let left (k : Nat) : Bool := coreOf? (s.ctxt c) k && (othersUp s c).all fun x => !coreOf? x k
  let clean (n : Nat) (k : Core) : Core := if left n then { k with scratch := [], empties := [], pins := [], bad := [] } else k
  { s with
    cores := mapVals (fun n k => clean n (if k.lastCtx = some c then { k with l1 := [], lastCtx := none } else k)) s.cores
    icache := s.icache.filter fun w => match w.owner with | .core n => !mine (n / 2) | _ => true }

/-- No task, panel or resident pattern of a context is left (R353, R354). -/
def forgetTasks (s : State) (c : Nat) : State :=
  let mine (e : Nat) : Bool := ((FMap.get? s.tasks e).map fun t => t.ctx == c).getD false
  let gone (id : Nat) : Bool := ((FMap.get? s.loads id).map fun l => l.ctx == c).getD false
  { s with
    tasks := s.tasks.filter fun t => t.2.ctx != c
    panels := s.panels.filter fun x => x.2.ctx != c
    frames := s.frames.filter fun f => !mine f.entry
    blocked := s.blocked.filter fun e => !mine e
    dlog := mapVals (fun _ l => l.filter fun d => !mine d.entry) s.dlog
    tables := mapVals (fun _ l => l.filter fun u => !gone u.loadId) s.tables
    loads := s.loads.filter fun l => l.2.ctx != c }

/-- A context with no command left is retired: its key destroyed, its registers at their reset values, its TLB entries and its tasks gone, its
memory zero (R343, R353, R354). (DEDUCED, log 101) -/
def retireContext (s : State) (c : Nat) : State :=
  let x := s.ctxt c
  let s := destroyKey s (ctxDomain s c)
  let s := forgetTasks (freshMemory (emptyCores (idleThreads s c) c) c x.groups x.ranges) c
  recordConfig { s with
    contexts := FMap.set s.contexts c Context.clear
    tlb := s.tlb.filter fun e => e.ctx != c
    spdm := { s.spdm with sessions := s.spdm.sessions.filter fun k => k != c } }

/-- A function-level reset begins: CSTAT.flr, and kill self on the context (R343). -/
def execFlr (c : Nat) (s : State) : Host.Outcome State Fault Refusal :=
  .next (if c < 64 then
    let s := killContext s c
    s.setCtxt c { s.ctxt c with cstat := (s.ctxt c).cstat ||| 0x4000000000000000#64 }
  else s)

/-- A function-level reset ends once every engine command of the context has completed (R343). -/
def execFlrComplete (c : Nat) (s : State) : Host.Outcome State Fault Refusal :=
  .next (if inFlr s c ∧ engineBusy s c = false then retireContext s c else s)

/-- Firmware disables a context (R354): its work stops, and once its engine commands have completed it is retired. -/
def execContextDisable (c : Nat) (s : State) : Host.Outcome State Fault Refusal :=
  .next (if (s.ctxt c).cstat.getLsbD 63 then
    let s := if (s.ctxt c).killed then s else killContext s c
    if engineBusy s c then s else retireContext s c
  else s)

/-- Firmware may enable a context as configured: the part has booted, the context is down, its memory and threads belong to no other enabled
context, its ranges lie in the second tier, its runtime is one of its threads, the quotas fit the table (R22, R193, R353, R354). -/
def mayEnable (s : State) (k : ContextConfig) : Bool :=
  let os := othersUp s k.ctx
  s.verified && s.mailbox.isEmpty && decide (k.ctx < 64) && !(s.ctxt k.ctx).cstat.getLsbD 63 && !engineBusy s k.ctx &&
    (k.groups.all fun g => decide (g < 128) && os.all fun x => !x.groups.contains g) &&
    (k.ranges.all fun r => decide (2048 ≤ r) && decide (r < 6144) && os.all fun x => !x.ranges.contains r) &&
    (os.all fun x => x.scmap &&& k.threads == 0#32) && decide (k.runtime < 32) && k.threads.getLsbD k.runtime &&
    decide ((os.map fun x => bitsOf x.cstat 32 14).sum + k.quota.toNat ≤ 8192)

/-- The context page of a newly enabled context: up, its quota, its seal domain (R341, R353). -/
def upContext (k : ContextConfig) : Context :=
  { Context.clear with
    cstat := BitVec.ofNat 64 (2 ^ 63 + k.dom.toNat * 2 ^ 48 + k.quota.toNat * 2 ^ 32)
    scmap := k.threads, groups := k.groups, ranges := k.ranges, runtime := some k.runtime }

/-- The threads assigned to a context idle in it. -/
def assignThreads (k : ContextConfig) : List Nat → State → State
  | [], s => s
  | n :: ns, s =>
    let s := assignThreads k ns s
    if k.threads.getLsbD n then s.setThread (.core n) { Thread.clear with ctx := k.ctx } else s

/-- Firmware enables a context: its memory zero, the format range table invalid, its assignment recorded in measurement 3; its runtime starts
at its entry address at supervisor privilege (R353, R354; DEDUCED, log 127). -/
def enableContext (s : State) (k : ContextConfig) : State :=
  let s := { freshMemory s k.ctx k.groups k.ranges with frt := [] }
  let s := recordConfig <| s.setCtxt k.ctx (upContext k)
  let s := enterCore (assignThreads k (List.range 32) s) k.runtime k.ctx
  s.setThread (.core k.runtime)
    { Thread.clear with ctx := k.ctx, priv := .supervisor, pc := k.entry, status := .running }

/-- Firmware enables a context (R353, R354). -/
def execContextEnable (k : ContextConfig) (s : State) : Host.Outcome State Fault Refusal :=
  .next (if mayEnable s k then enableContext s k else s)

/-! ## Cold reset (R32, R352) -/

/-- The failed physical blocks among a die's 136 (R32). -/
def dieFailed (failed : List Nat) (d : Nat) : Nat := (failed.dedup.filter fun b => b / 136 == d && decide (b < 544)).length

/-- A die with more failed blocks than the remap table can serve (R32). -/
def dieRefused (failed : List Nat) (d : Nat) : Bool := decide (72 < dieFailed failed d)

/-- The firmware mailbox's reports: each die that the remap table cannot serve, with its failed blocks (R32). -/
def dieReports (failed : List Nat) : List (Nat × Nat) :=
  ((List.range 4).filter (dieRefused failed)).map fun d => (d, dieFailed failed d)

/-- The link of a number after training (R344, R352). -/
def trainedLink (k : BootConfig) (l : Nat) : Nat × Link :=
  let w := (k.windows.find? fun w => w.1 == l).map (·.2)
  (l, ⟨true, (w.map fun w => (w.1, w.2.1)).getD (0, 0), (w.map fun w => w.2.2).getD 0, 0, 1, 0, [], none⟩)

/-- The links that train: numbers 0 to 11. -/
def trainedLinks (k : BootConfig) : FMap Nat Link :=
  ((List.range 12).filter fun l => k.linksUp.contains l).map (trainedLink k)

/-- The clock after a cold reset: locked where nothing is measured (R345). -/
def bootClock (k : BootConfig) : Clock :=
  ⟨k.grandmaster, k.grandmaster || (trainedLinks k).isEmpty, none, none, none, none, none, 0, 0, 0⟩

/-- The CXL ports after training: a port that does not train has no memory behind it (R88, R352). -/
def trainedPorts (k : BootConfig) : FMap Nat Nat :=
  (List.range 8).map fun p => (p, ((k.ports.find? fun q => q.1 == p).map (·.2)).getD 0)

/-- The boot ROM runs the image: its signature verifies and its rollback counter is not below the one held (R352; DEDUCED, log 128). -/
def imageRuns (k : BootConfig) (rollback : Nat) : Bool := k.verified && decide (rollback ≤ k.rollback)

/-- The state after a cold reset of a part that holds a rollback counter (R352): measurements 1, 2 and 4 are recorded; a firmware image that
fails verification is not run, and the host port stays down; one that runs trains memory and links and records measurement 3. -/
def booted (k : BootConfig) (rollback : Nat) : State :=
  let blocks := [k.rom, k.image, 0#256, Config.digest [k.rollback]]
  let s : State := { State.reset with spdm := ⟨[], [], blocks⟩ }
  if imageRuns k rollback then
    recordConfig { s with
      links := trainedLinks k, clock := bootClock k, failedBlocks := k.failed, ports := trainedPorts k
      mailbox := dieReports k.failed, rollback := k.rollback }
  else { s with verified := false, hostUp := false, rollback := rollback }

/-- A cold reset (R352). -/
def execColdReset (k : BootConfig) (s : State) : Host.Outcome State Fault Refusal := .next (booted k s.rollback)

/-! ## Seam links (R344, R348) -/

/-- A payload flit's bytes applied at this device's home under the window's seal domain and acknowledged, where they lie in the link's inbound
window; else refused (R344). (DESIGN CHOICE, log 106) -/
def applyFlit (s : State) (l : Nat) (k : Link) (c ch addr : Nat) (bytes : List Byte) : State :=
  if k.window.1 ≤ addr ∧ addr + bytes.length ≤ k.window.2 ∧ bytes.length ≤ 64 then
    sendFlit (writeHomeNow s k.dom 0 addr bytes none) l (.ack c ch)
  else sendFlit s l (.refusal c ch)

/-- An answer to a flit of the copy that a channel sends over a link: one answer less to come, and a refusal stops the copy (R182, R344). -/
def answerCopy (s : State) (l c ch : Nat) (refused : Bool) : State :=
  match (chanOf s c ch).queue with
  | [] => s
  | cmd :: _ =>
    if cmd.peer = l + 1 ∧ cmd.unanswered ≠ 0 then
      setHead s c ch { cmd with
        unanswered := cmd.unanswered - 1, failed := cmd.failed || refused, heldFault := cmd.heldFault && !refused }
    else s

/-- What a flit that has passed its check does (R344, R345). -/
def flitDoes (s : State) (l : Nat) (k : Link) : Flit → State
  | .payload c ch addr bs => applyFlit s l k c ch addr bs
  | .ack c ch => answerCopy s l c ch false
  | .refusal c ch => answerCopy s l c ch true
  | .sync => syncArrives s l
  | .followUp t1 => followUpArrives s l t1
  | .delayReq => delayReqArrives s l
  | .delayResp t4 => delayRespArrives s l t4

/-- A flit arrives; one that fails its CRC, or its authentication as if its CRC had failed, is replayed and counted in ev82 and ev83, and nothing
is done (R198, R344, R348). -/
def execFlitReceive (l : Nat) (f : Flit) (authOk crcOk : Bool) (s : State) : Host.Outcome State Fault Refusal :=
  .next (match FMap.get? s.links l with
    | some k =>
      if !k.up then s
      else if !(authOk && crcOk) then
        countAll (countAll { s with links := FMap.set s.links l { k with replays := k.replays + 1 } } 82) 83
      else flitDoes { s with links := FMap.set s.links l (k.carry []) } l k f
    | none => s)

/-- A copy to a peer that has begun and has still to write or to be answered. -/
def sending (peer : Nat) (c : Copy) : Bool := c.peer == peer && (decide (c.wroteParts.length < copyParts c) || c.unanswered != 0)

/-- The channel whose head sends over a link that is lost stops that copy (R182, R344): no answer comes any more. -/
def stopSend (peer : Nat) (ch : Channel) : Channel :=
  match ch.queue with
  | c :: q => if sending peer c then { ch with queue := { c with failed := true, heldFault := false, unanswered := 0 } :: q } else ch
  | [] => ch

/-- A link goes down: its copies stop, and a clock disciplined through it runs free where no link is left (R344, R345). -/
def execLinkDown (l : Nat) (s : State) : Host.Outcome State Fault Refusal :=
  .next (match FMap.get? s.links l with
    | some k =>
      let s := { s with
        links := FMap.set s.links l { k with up := false, syncAt := none }
        contexts := mapVals (fun _ x => { x with chans := mapVals (fun _ ch => stopSend (l + 1) ch) x.chans }) s.contexts }
      if s.links.any fun q => q.2.up then s else { s with clock := { s.clock with lock := true, owed := 0, master := none } }
    | none => s)

/-- The key of a link is replaced every 2^32 flits (R348). (DEDUCED, log 102) -/
def execLinkRekey (l : Nat) (s : State) : Host.Outcome State Fault Refusal :=
  .next (match FMap.get? s.links l with
    | some k => { s with links := FMap.set s.links l k.rekey }
    | none => s)

end Sys2Proof.Machine
end

