-- ==== Sys2Proof/Machine/Fetch.lean ====
section
/-! DEFINITION. Fetching an instruction (R128, R165), which parties may issue (R20, R263, R267), the order in which the
model takes the steps of a fabric cycle (DESIGN CHOICE, log 1), and the placing of a word where the next step fetches it. -/

namespace Sys2Proof.Machine

open Sys2Proof

/-! ## Fetch (R128, R132, R165) -/

/-- What a fetch gives: an instruction, or a word that line 1 of R139 refuses. -/
inductive Fetched where
  | instr (i : Instr)
  | unassigned (w : W32)
  deriving DecidableEq, Repr

/-- A decoded word, or the word that is refused. -/
def fetchedOf (w : W32) : Option Instr → Fetched
  | some i => .instr i
  | none => .unassigned w

/-- The instruction at a party's pc: one word, or the two of a long form at a multiple of 8 (R128, R132). -/
def fetchAt (s : State) (p : Party) (pc : Word) : Except Trap (State × Fetched) :=
  match fetchWordAt s p pc with
  | .error t => .error t
  | .ok (s, w) =>
    if isLongFirst w then
      if pc.toNat % 8 = 0 then
        match fetchWordAt s p (pc + 4#64) with
        | .error t => .error t
        | .ok (s, w1) => .ok (s, fetchedOf w (decodeLong w w1))
      else .ok (s, .unassigned w)
    else .ok (s, fetchedOf w (decodeWord w))

/-! ## Who may issue (R20, R138, R263, R267) -/

/-- The image of a load that a retry performs again for a strand is not read yet: the strand's thread goes on after it (R254, R262). -/
def reloads (y : Panel) (i : Nat) : Bool :=
  y.load.any fun l => l.replay && l.strand == i && (l.state == .reading || l.state == .held)

/-- The panel of a thread lets it issue: a sequencer thread once in the live cycle that the fabric cycle is, a slice engine while it is not
stopped (R29, R263). A cycle in which a wait for a tack or a condition clamps the panel counts as one for this (DESIGN CHOICE, log 141). -/
def panelLets (s : State) (p : Party) : Bool :=
  match p with
  | .core _ => true
  | .seq x i => ((s.panel? x).map fun y =>
      y.state == .live && y.tok == s.cycle + 1 && decide ((s.thread p).issued < y.tok) && !reloads y i).getD false
  | .slice x i => ((s.panel? x).map fun y => y.state == .live && !(y.strand i).sliceStop).getD false
  | .tile _ _ => false

/-- The party may issue its next word: no home has still to answer it. -/
def mayRun (s : State) (p : Party) : Bool :=
  (s.thread p).status == .running && (s.thread p).wait.isNone && (FMap.get? s.asked p).isNone && !isStill s p && panelLets s p

/-- The party stands before a breakpoint that Henid has not continued it past (R267, R294). -/
def atBreak (s : State) (p : Party) : Bool := s.breaks.contains (breakOf s p, (s.thread p).pc) && !(s.thread p).passed

/-- The thread in focus about to issue: it is past its breakpoint. -/
def leaveBreak (s : State) : State := s.setCur { s.cur with passed := false }

/-! ## The steps of a fabric cycle (DESIGN CHOICE, log 1) -/

/-- The parts of a copy still to read and to write, first ones first. -/
def copySteps (c n : Nat) (ch : Channel) : List Action :=
  match ch.queue with
  | [] => []
  | q :: _ =>
    let e := EngineId.copy c n
    let next := (List.range (copyParts q)).find? fun k => !q.wroteParts.contains k && !(q.readParts.any fun r => r.1 == k)
    let reads := match next with | some k => [.event (.engineRead e k)] | none => []
    reads ++ q.readParts.map (fun r => .event (.engineWrite e r.1)) ++
      (match next with | some k => [.event (.engineWrite e k)] | none => []) ++ [.event (.completionWordWrite e)]

/-- The steps of the press commands. -/
def pressSteps (s : State) : List Action :=
  s.press.flatMap fun (n, c) =>
    let k := c.wrote.length
    [.event (.engineRead (.press n) (pressSources c.op * k + c.ready.length)), .event (.engineWrite (.press n) k),
      .event (.pressCommandComplete n)]

/-- The steps of the bobbin units. -/
def bobbinSteps (s : State) : List Action := s.bobbin.map fun (p, _) => .event (.engineWrite (.bobbin p) 0)

/-- The steps of the quilt commands. -/
def quiltSteps (s : State) : List Action :=
  s.quilts.flatMap fun (n, _) => [.event (.nodeStep n), .event (.quiltCommandComplete n)]

/-- The steps of a context: its copies, its replay, a due fault, its chalk. -/
def contextSteps (c : Nat) (x : Context) : List Action :=
  x.chans.flatMap (fun ch => copySteps c ch.1 ch.2) ++
    (if x.greplay.busy || x.greplay.pend then [.event (.replayBegin c), .event (.replayEnd c)] else []) ++
    (if x.delivery.isSome || !x.faultQ.isEmpty then [.event (.trapEntry c)] else []) ++
    [.event (.chalkFire c), .event (.chalkLatch c)]

/-- The beats of the in-streams of a panel that may arrive; the AG tile of a block delivers one of them. -/
def beatSteps (now p : Nat) (x : Panel) : List Action :=
  strandIds.flatMap fun i => (x.strand i).streams.flatMap fun (q, sl) =>
    (List.range x.ntiles).filterMap fun t =>
      if canFetch x i q t sl && agFree x now t then some (.event (.streamBeatArrive p t (16 * i + q))) else none

/-- The steps of a panel: its load and its arming, its wheel, its beats. -/
def panelSteps (now p : Nat) (x : Panel) : List Action :=
  (if x.load.isSome then [.event (.loadComplete p)] else []) ++
    (match x.state with
    | .loading => [.event (.placementArm p)]
    | .preparing => [.event (.preparationComplete p)]
    | .live => [.event (.wheelAdvance p), .event (.publishSearchDone p)] ++ beatSteps now p x
    | _ => [])

/-- The steps of a thread: its next word, or the test and the timeout of its wait, or the answer that it waits for. -/
def threadSteps (s : State) (p : Party) (t : Thread) : List Action :=
  if (FMap.get? s.asked p).isSome then [.event (.waitSatisfied p)]
  else if t.wait.isSome then [.event (.waitSatisfied p), .event (.tlbinvComplete p), .event (.waitTimeout p)]
  else if t.status = .running then [.party p]
  else []

/-- The steps of a task. -/
def taskSteps (e : Nat) (t : TaskEntry) : List Action :=
  match t.state with
  | .waiting => [.event (.taskReady e)]
  | .running => [.event (.garmentDone e), .event (.fittingPassEnd e), .event (.taskEnd e)] ++
      (if t.wantFreeze then [.event (.freeze e), .event (.readoutComplete e)] else [])
  | _ => []

/-- A default order of the steps of one fabric cycle. Any other order of them is a run of the model too: the order is plain
data in State (DESIGN CHOICE, log 1). (DESIGN CHOICE, log 15) -/
def cycleSteps (s : State) : List Action :=
  (if s.cycle % 32 = 0 then [.event .markerStep] else []) ++
    s.tasks.flatMap (fun q => taskSteps q.1 q.2) ++
    s.panels.flatMap (fun q => panelSteps s.cycle q.1 q.2) ++
    s.threads.flatMap (fun q => threadSteps s q.1 q.2) ++
    s.contexts.flatMap (fun q => contextSteps q.1 q.2) ++
    pressSteps s ++ quiltSteps s ++ bobbinSteps s ++
    s.homeQ.filterMap (fun q => if q.2.isEmpty then none else some (.event (.apply q.1))) ++
    [.event .tick]

/-- A step of the device and not a word of a program. -/
def isEvent (i : Instr) : Bool := i.encode == .none

/-! ## Placing a word for the next step -/

/-- The virtual and physical address that a placed word stands at. -/
def placeAt : Nat := 0x40000

/-- An entry that points at a table (R91). -/
def tableEntry (pa : Nat) : Word := BitVec.ofNat 64 (pa + 1)

/-- A leaf with V, L, R, W, X and U set (R91). -/
def leafEntry (pa : Nat) : Word := BitVec.ofNat 64 (pa + 0x3F)

/-- Three tables that map the page of `placeAt` to itself, and bytes on that page. -/
def placedMem (m : Cells) (bs : List Byte) : Cells :=
  writeBytes (writeBytes (writeBytes (writeBytes m 0x10000 (toBytes 8 (tableEntry 0x20000).toNat))
    0x20000 (toBytes 8 (tableEntry 0x30000).toNat)) (0x30000 + 8 * 4) (toBytes 8 (leafEntry placeAt).toNat)) placeAt bs

/-- Context 0 enabled, with the tables of `placedMem` and the first group of the first tier. -/
def placedContext (x : Context) : Context :=
  { x with
    cstat := x.cstat ||| 0x8000000000000000#64, ptroot := 0x10001#64, groups := (0 :: x.groups).dedup
    scmap := x.scmap ||| 1#32, killed := false }

/-- A thread about to run at `placeAt`. -/
def placedThread (t : Thread) (priv : Priv) : Thread :=
  { t with pc := BitVec.ofNat 64 placeAt, ctx := 0, priv := priv, status := .running, wait := none, passed := false, issued := 0 }

/-- The image of a panel of one block with a wheel of one row, owned by strand 0. -/
def placedImage (phases : List (BitVec 40)) : Image :=
  ⟨1, 1, 1, 1, 0, false, 2, 2, [1#32], 0, [1024], [], [], (0, 64), phases, [], [], []⟩

/-- A live panel with that image, in a live cycle that lets its threads issue. -/
def placedPanel (now : Nat) (phases : List (BitVec 40)) : Panel where
  ctx := 0
  entry := 0
  index := 0
  bx := 0
  byy := 0
  uid := 0
  imageAddr := BitVec.ofNat 64 placeAt
  image := placedImage phases
  loadId := 0
  wrote := false
  state := .live
  prep := 0
  row := 0
  schedB := false
  nextB := false
  switching := 0
  live := 0
  tok := now + 1
  lastAdv := 0
  holds := []
  rampHold := 0
  publishHold := 0
  stitch := false
  strands := (Vector.replicate 4 { Strand.clear with finished := true }).set 0 { Strand.clear with sliceStop := false }
  tiles := (List.range 8).map fun t => (t, Tile.clear)
  agPending := Vector.replicate 16 0
  tacks := []
  hint := []
  load := none
  shadow := none
  counters := Vector.replicate 4 Counter.clear
  faulted := []
  skips := []
  rowRun := none
  seeds := List.replicate 32 0
  armedAt := 0
  chalk := none
  chalkHit := false
  agLast := []
  rowAt := (0, 0)
  half := none

/-- The first five words of the phase tables with a word in the table of its element of tile 0. -/
def placedPhases (w : BitVec 40) : List (BitVec 40) :=
  let e := (w.extractLsb' 37 3).toNat - 1
  (List.range 5).map fun k => if k = e then w else 0

/-- Where a placed word runs: a service core, a sequencer thread for a fabric command, a slice engine for `cpost`. -/
def placedParty (i : Option Instr) : Party :=
  match i with
  | some i => if isCpost i then .slice 0 0 else if isFabric i then .seq 0 0 else .core 0
  | none => .core 0

/-- The state with bytes at `placeAt`, a party there next to issue, and nothing of it cached. -/
def placeBytes (s : State) (p : Party) (bs : List Byte) : State :=
  let s := flushAll s
  let s := { s with
    mem := placedMem s.mem bs, tlb := [], icache := [], poison := [], breaks := [], debugHolds := [], asked := FMap.erase s.asked p
    seals := s.seals.filter fun e => decide (0x50000 / 32 ≤ e.1)
    contexts := FMap.set s.contexts 0 (placedContext (s.ctxt 0)) }
  let s := match partyPanel p with
    | some x => s.setPanel x (placedPanel s.cycle [])
    | none => s
  let priv : Priv := match p with | .core _ => .supervisor | _ => .user
  { s.setThread p (placedThread (s.thread p) priv) with agenda := [.party p], focus := p }

/-- The state with a phase word in the wheel of a live panel, whose next step is that panel's live cycle: its block is cool and at full
rate. -/
def placePhase (s : State) (w : BitVec 40) : State :=
  let s := { s with
    hot := s.hot.filter fun b => b != 0, failedBlocks := []
    contexts := FMap.set s.contexts 0 (placedContext (s.ctxt 0)), breaks := [], debugHolds := [], tbreaks := [] }
  let s := s.setPanel 0 (placedPanel s.cycle (placedPhases w))
  let s := s.setThread (.seq 0 0) (placedThread (s.thread (.seq 0 0)) .user)
  { s with agenda := [.event (.wheelAdvance 0)] }

/-- The state whose next step runs the instruction of a table word: a control word of 4 bytes or a long form of 8 (R128),
or a phase word of 5 (R140). -/
def placeWord (s : State) (nbits w : Nat) : State :=
  if nbits = 40 then placePhase s (BitVec.ofNat 40 w)
  else placeBytes s (placedParty (decodeTableWord nbits w)) (toBytes 8 w)

end Sys2Proof.Machine
end

