-- ==== Sys2Proof/Machine/Dispatch.lean ====
section
/-! DEFINITION. The meaning of every instruction and step: one arm per constructor of Instr. -/

namespace Sys2Proof.Machine

open Sys2Proof

/-- The meaning of an instruction or step. -/
def exec (i : Instr) (s : State) : Host.Outcome State Fault Refusal :=
  match i with
  -- integer and address arithmetic, R161
  | .add d a b => Sys2Proof.Machine.execAdd d a b s
  | .sub d a b => Sys2Proof.Machine.execSub d a b s
  | .mul d a b => Sys2Proof.Machine.execMul d a b s
  | .mulh d a b => Sys2Proof.Machine.execMulh d a b s
  | .mulhu d a b => Sys2Proof.Machine.execMulhu d a b s
  | .div d a b => Sys2Proof.Machine.execDiv d a b s
  | .divu d a b => Sys2Proof.Machine.execDivu d a b s
  | .rem d a b => Sys2Proof.Machine.execRem d a b s
  | .remu d a b => Sys2Proof.Machine.execRemu d a b s
  | .and d a b => Sys2Proof.Machine.execAnd d a b s
  | .or d a b => Sys2Proof.Machine.execOr d a b s
  | .xor d a b => Sys2Proof.Machine.execXor d a b s
  | .andn d a b => Sys2Proof.Machine.execAndn d a b s
  | .shl d a b => Sys2Proof.Machine.execShl d a b s
  | .shr d a b => Sys2Proof.Machine.execShr d a b s
  | .sra d a b => Sys2Proof.Machine.execSra d a b s
  | .rol d a b => Sys2Proof.Machine.execRol d a b s
  | .ror d a b => Sys2Proof.Machine.execRor d a b s
  | .clz d a => Sys2Proof.Machine.execClz d a s
  | .ctz d a => Sys2Proof.Machine.execCtz d a s
  | .popc d a => Sys2Proof.Machine.execPopc d a s
  | .min d a b => Sys2Proof.Machine.execMin d a b s
  | .max d a b => Sys2Proof.Machine.execMax d a b s
  | .minu d a b => Sys2Proof.Machine.execMinu d a b s
  | .maxu d a b => Sys2Proof.Machine.execMaxu d a b s
  | .sel d a b c => Sys2Proof.Machine.execSel d a b c s
  | .cmp cc d a b => Sys2Proof.Machine.execCmp cc d a b s
  | .lea d a b sc => Sys2Proof.Machine.execLea d a b sc s
  | .bext d a b => Sys2Proof.Machine.execBext d a b s
  | .bins d a b => Sys2Proof.Machine.execBins d a b s
  -- immediate forms, R162
  | .addi d a imm => Sys2Proof.Machine.execAddi d a imm s
  | .muli d a imm => Sys2Proof.Machine.execMuli d a imm s
  | .andi d a imm => Sys2Proof.Machine.execAndi d a imm s
  | .ori d a imm => Sys2Proof.Machine.execOri d a imm s
  | .xori d a imm => Sys2Proof.Machine.execXori d a imm s
  | .shli d a sh => Sys2Proof.Machine.execShli d a sh s
  | .shri d a sh => Sys2Proof.Machine.execShri d a sh s
  | .srai d a sh => Sys2Proof.Machine.execSrai d a sh s
  | .rori d a sh => Sys2Proof.Machine.execRori d a sh s
  | .cmpi cc d a imm => Sys2Proof.Machine.execCmpi cc d a imm s
  | .mini d a imm => Sys2Proof.Machine.execMini d a imm s
  | .maxi d a imm => Sys2Proof.Machine.execMaxi d a imm s
  | .minui d a imm => Sys2Proof.Machine.execMinui d a imm s
  | .maxui d a imm => Sys2Proof.Machine.execMaxui d a imm s
  | .movi d imm => Sys2Proof.Machine.execMovi d imm s
  -- control registers, R205
  | .cget d n => Sys2Proof.Machine.execCget d n s
  | .cset a n => Sys2Proof.Machine.execCset a n s
  -- loads, stores and scratch forms, R170-R172
  | .ld sz d a off => Sys2Proof.Machine.execLd sz d a off s
  | .ldZ sz d a off => Sys2Proof.Machine.execLdZ sz d a off s
  | .st sz d a off => Sys2Proof.Machine.execSt sz d a off s
  | .ldS sz d a off => Sys2Proof.Machine.execLdS sz d a off s
  | .ldSZ sz d a off => Sys2Proof.Machine.execLdSZ sz d a off s
  | .stS sz d a off => Sys2Proof.Machine.execStS sz d a off s
  | .stfill d a off => Sys2Proof.Machine.execStfill d a off s
  | .ldsync d a off => Sys2Proof.Machine.execLdsync d a off s
  | .ldsyncE d a off => Sys2Proof.Machine.execLdsyncE d a off s
  -- cache maintenance, R173
  | .prefetch a off => Sys2Proof.Machine.execPrefetch a off s
  | .clean a off => Sys2Proof.Machine.execClean a off s
  | .flush a off => Sys2Proof.Machine.execFlush a off s
  | .inval a off => Sys2Proof.Machine.execInval a off s
  | .invalI => Sys2Proof.Machine.execInvalI s
  -- flow and hardware loops, R163-R169
  | .br off => Sys2Proof.Machine.execBr off s
  | .jal off => Sys2Proof.Machine.execJal off s
  | .jalr d a imm => Sys2Proof.Machine.execJalr d a imm s
  | .bcc cc a b off => Sys2Proof.Machine.execBcc cc a b off s
  | .lexit cc a b slot => Sys2Proof.Machine.execLexit cc a b slot s
  | .loop slot a e bound => Sys2Proof.Machine.execLoop slot a e bound s
  | .loopw slot e bound => Sys2Proof.Machine.execLoopw slot e bound s
  | .nop => Sys2Proof.Machine.execNop s
  | .fin => Sys2Proof.Machine.execFin s
  -- traps, returns and system forms, R204-R207
  | .trap a => Sys2Proof.Machine.execTrap a s
  | .eret => Sys2Proof.Machine.execEret s
  | .tlbinv a b => Sys2Proof.Machine.execTlbinv a b s
  | .tlbinvComplete p => Sys2Proof.Machine.execTlbinvComplete p s
  | .ctxsave a => Sys2Proof.Machine.execCtxsave a s
  | .ctxload a => Sys2Proof.Machine.execCtxload a s
  -- service-core vector forms, R208-R211
  | .vld d a off => Sys2Proof.Machine.execVld d a off s
  | .vst d a off => Sys2Proof.Machine.execVst d a off s
  | .vgather d a b => Sys2Proof.Machine.execVgather d a b s
  | .vscatter d a b => Sys2Proof.Machine.execVscatter d a b s
  | .vmovg d a b => Sys2Proof.Machine.execVmovg d a b s
  | .vmovz d a b => Sys2Proof.Machine.execVmovz d a b s
  | .vop op w => Sys2Proof.Machine.execVop op w s
  -- synchronisation, R174
  | .bind a b c => Sys2Proof.Machine.execBind a b c s
  | .unbind c => Sys2Proof.Machine.execUnbind c s
  | .acq sc sz a b => Sys2Proof.Machine.execAcq sc sz a b s
  | .rel sc sz a b => Sys2Proof.Machine.execRel sc sz a b s
  | .fence sc => Sys2Proof.Machine.execFence sc s
  -- barriers and time, R177
  | .bar sc a b c => Sys2Proof.Machine.execBar sc a b c s
  | .gbar c => Sys2Proof.Machine.execGbar c s
  | .gbarM c => Sys2Proof.Machine.execGbarM c s
  | .tickget a => Sys2Proof.Machine.execTickget a s
  | .tickwait a b => Sys2Proof.Machine.execTickwait a b s
  -- atomics, R175-R176; wide = 8 bytes
  | .amoAdd wide a b c => Sys2Proof.Machine.execAmoAdd wide a b c s
  | .amoAnd wide a b c => Sys2Proof.Machine.execAmoAnd wide a b c s
  | .amoOr wide a b c => Sys2Proof.Machine.execAmoOr wide a b c s
  | .amoXor wide a b c => Sys2Proof.Machine.execAmoXor wide a b c s
  | .amoMin wide a b c => Sys2Proof.Machine.execAmoMin wide a b c s
  | .amoMax wide a b c => Sys2Proof.Machine.execAmoMax wide a b c s
  | .amoSwap wide a b c => Sys2Proof.Machine.execAmoSwap wide a b c s
  | .amoCas wide a b c => Sys2Proof.Machine.execAmoCas wide a b c s
  | .amoFadd a b c => Sys2Proof.Machine.execAmoFadd a b c s
  -- block transfer, R178-R184
  | .bttpl a b => Sys2Proof.Machine.execBttpl a b s
  | .apertureStore d a off => Sys2Proof.Machine.execApertureStore d a off s
  | .copyStatusLoad d a off => Sys2Proof.Machine.execCopyStatusLoad d a off s
  | .waitw a b c => Sys2Proof.Machine.execWaitw a b c s
  | .pinwait a b c => Sys2Proof.Machine.execPinwait a b c s
  -- the bobbin unit, R185-R190
  | .bdraw a b c => Sys2Proof.Machine.execBdraw a b c s
  | .bdrawv a b c => Sys2Proof.Machine.execBdrawv a b c s
  | .bseed a b => Sys2Proof.Machine.execBseed a b s
  | .bspool a => Sys2Proof.Machine.execBspool a s
  | .bspsave a => Sys2Proof.Machine.execBspsave a s
  | .bmode a => Sys2Proof.Machine.execBmode a s
  -- the quilt, R290
  | .qinit a c => Sys2Proof.Machine.execQinit a c s
  | .qapp a b c => Sys2Proof.Machine.execQapp a b c s
  | .qdesc a b c => Sys2Proof.Machine.execQdesc a b c s
  | .qsplit a b c => Sys2Proof.Machine.execQsplit a b c s
  | .qmerge a b c => Sys2Proof.Machine.execQmerge a b c s
  | .qfork a b c => Sys2Proof.Machine.execQfork a b c s
  | .qevict a b c => Sys2Proof.Machine.execQevict a b c s
  | .qmark a c => Sys2Proof.Machine.execQmark a c s
  | .qtrim a c => Sys2Proof.Machine.execQtrim a c s
  | .qstat a b c => Sys2Proof.Machine.execQstat a b c s
  | .qfree a c => Sys2Proof.Machine.execQfree a c s
  | .nodeStep cmd => Sys2Proof.Machine.execNodeStep cmd s
  | .quiltCommandComplete cmd => Sys2Proof.Machine.execQuiltCommandComplete cmd s
  -- the press, R296
  | .prcopy a b c => Sys2Proof.Machine.execPrcopy a b c s
  | .prfill a b c => Sys2Proof.Machine.execPrfill a b c s
  | .prand a b c => Sys2Proof.Machine.execPrand a b c s
  | .pror a b c => Sys2Proof.Machine.execPror a b c s
  | .prxor a b c => Sys2Proof.Machine.execPrxor a b c s
  | .prnot a b c => Sys2Proof.Machine.execPrnot a b c s
  | .pressCommandComplete cmd => Sys2Proof.Machine.execPressCommandComplete cmd s
  -- tasks and graphs, R194-R196
  | .tsub a b => Sys2Proof.Machine.execTsub a b s
  | .tdep a b c => Sys2Proof.Machine.execTdep a b c s
  | .gpset a b c => Sys2Proof.Machine.execGpset a b c s
  | .gpget a b c => Sys2Proof.Machine.execGpget a b c s
  -- fabric commands, R253-R258
  | .ldpat a => Sys2Proof.Machine.execLdpat a s
  | .loadComplete panel => Sys2Proof.Machine.execLoadComplete panel s
  | .arm a => Sys2Proof.Machine.execArm a s
  | .disarm => Sys2Proof.Machine.execDisarm s
  | .sgo a => Sys2Proof.Machine.execSgo a s
  | .sstop a => Sys2Proof.Machine.execSstop a s
  | .sspec stream ag a entry disp => Sys2Proof.Machine.execSspec stream ag a entry disp s
  | .slice a b => Sys2Proof.Machine.execSlice a b s
  | .cond a b => Sys2Proof.Machine.execCond a b s
  | .tack a => Sys2Proof.Machine.execTack a s
  | .tkwait a b => Sys2Proof.Machine.execTkwait a b s
  | .commit => Sys2Proof.Machine.execCommit s
  | .mxhint a => Sys2Proof.Machine.execMxhint a s
  | .cpost a => Sys2Proof.Machine.execCpost a s
  -- counters, fitting, chalk, R199-R202, R336
  | .pmsel a b c => Sys2Proof.Machine.execPmsel a b c s
  | .pmrd a b => Sys2Proof.Machine.execPmrd a b s
  | .pmclr a => Sys2Proof.Machine.execPmclr a s
  | .fitbeg a b => Sys2Proof.Machine.execFitbeg a b s
  | .fitend a => Sys2Proof.Machine.execFitend a s
  | .fitstat a b c => Sys2Proof.Machine.execFitstat a b c s
  | .chalk a b => Sys2Proof.Machine.execChalk a b s
  | .chalkFire ctx => Sys2Proof.Machine.execChalkFire ctx s
  | .chalkLatch ctx => Sys2Proof.Machine.execChalkLatch ctx s
  -- matrix words, R228-R234
  | .mxNop p => Sys2Proof.Machine.execMxNop p s
  | .mxLd p n => Sys2Proof.Machine.execMxLd p n s
  | .mxMm p acc row => Sys2Proof.Machine.execMxMm p acc row s
  | .mxMmg p acc row j => Sys2Proof.Machine.execMxMmg p acc row j s
  | .mxAcz p mask => Sys2Proof.Machine.execMxAcz p mask s
  | .mxAcrd p acc row w => Sys2Proof.Machine.execMxAcrd p acc row w s
  | .mxScl p => Sys2Proof.Machine.execMxScl p s
  | .mxFmt p fa fb => Sys2Proof.Machine.execMxFmt p fa fb s
  | .mxAcsv p acc row idx => Sys2Proof.Machine.execMxAcsv p acc row idx s
  | .mxAcld p acc row idx => Sys2Proof.Machine.execMxAcld p acc row idx s
  | .intervalComplete panel tile => Sys2Proof.Machine.execIntervalComplete panel tile s
  | .rampUpDone panel => Sys2Proof.Machine.execRampUpDone panel s
  | .rampDown panel tile => Sys2Proof.Machine.execRampDown panel tile s
  | .mxhintRampStart panel => Sys2Proof.Machine.execMxhintRampStart panel s
  -- vector words, R235-R242
  | .vadd p f => Sys2Proof.Machine.execVadd p f s
  | .vsub p f => Sys2Proof.Machine.execVsub p f s
  | .vmul p f => Sys2Proof.Machine.execVmul p f s
  | .vfma p f => Sys2Proof.Machine.execVfma p f s
  | .vmax p f => Sys2Proof.Machine.execVmax p f s
  | .vmin p f => Sys2Proof.Machine.execVmin p f s
  | .vexp2 p f => Sys2Proof.Machine.execVexp2 p f s
  | .vlog2 p f => Sys2Proof.Machine.execVlog2 p f s
  | .vrcp p f => Sys2Proof.Machine.execVrcp p f s
  | .vrsq p f => Sys2Proof.Machine.execVrsq p f s
  | .vcvt p f => Sys2Proof.Machine.execVcvt p f s
  | .vcmp p f => Sys2Proof.Machine.execVcmp p f s
  | .vsel p f => Sys2Proof.Machine.execVsel p f s
  | .vand p f => Sys2Proof.Machine.execVand p f s
  | .vor p f => Sys2Proof.Machine.execVor p f s
  | .vxor p f => Sys2Proof.Machine.execVxor p f s
  | .vshl p f => Sys2Proof.Machine.execVshl p f s
  | .vshr p f => Sys2Proof.Machine.execVshr p f s
  | .vperm p f => Sys2Proof.Machine.execVperm p f s
  | .vscan p f => Sys2Proof.Machine.execVscan p f s
  | .vred p f => Sys2Proof.Machine.execVred p f s
  | .vbcast p f => Sys2Proof.Machine.execVbcast p f s
  | .vpack p f => Sys2Proof.Machine.execVpack p f s
  | .vunpack p f => Sys2Proof.Machine.execVunpack p f s
  | .vmov p f => Sys2Proof.Machine.execVmov p f s
  | .vmovIn p f => Sys2Proof.Machine.execVmovIn p f s
  | .vmovOut p f => Sys2Proof.Machine.execVmovOut p f s
  | .vidx p f => Sys2Proof.Machine.execVidx p f s
  | .vcount p f => Sys2Proof.Machine.execVcount p f s
  | .vminmax p f => Sys2Proof.Machine.execVminmax p f s
  -- scratchpad words, R243-R247
  | .lsRd p idx ctr sh => Sys2Proof.Machine.execLsRd p idx ctr sh s
  | .lsWr p idx ctr sh => Sys2Proof.Machine.execLsWr p idx ctr sh s
  | .lsG p vi base => Sys2Proof.Machine.execLsG p vi base s
  | .gatherEntryWrite panel tile => Sys2Proof.Machine.execGatherEntryWrite panel tile s
  | .lsS p vd vi base => Sys2Proof.Machine.execLsS p vd vi base s
  | .lsFe p idx wd => Sys2Proof.Machine.execLsFe p idx wd s
  | .lsUpd p idx ctr sh op => Sys2Proof.Machine.execLsUpd p idx ctr sh op s
  -- crossbar words, R225-R227
  | .xbRoute p srcA outsA srcB outsB stream => Sys2Proof.Machine.execXbRoute p srcA outsA srcB outsB stream s
  | .xbEase p n e so w mx vx ls => Sys2Proof.Machine.execXbEase p n e so w mx vx ls s
  | .xbHold p src q => Sys2Proof.Machine.execXbHold p src q s
  -- counter, tack and schedule words, R248-R252
  | .tkNop p => Sys2Proof.Machine.execTkNop p s
  | .tkCnt p c field value => Sys2Proof.Machine.execTkCnt p c field value s
  | .tkCntTick p => Sys2Proof.Machine.execTkCntTick p s
  | .tkSend p ch => Sys2Proof.Machine.execTkSend p ch s
  | .tkWait p ch n => Sys2Proof.Machine.execTkWait p ch n s
  | .tkSel p src n => Sys2Proof.Machine.execTkSel p src n s
  | .tkStitch p => Sys2Proof.Machine.execTkStitch p s
  -- steps of a panel
  | .publishDone panel => Sys2Proof.Machine.execPublishDone panel s
  | .tackArrive panel ch => Sys2Proof.Machine.execTackArrive panel ch s
  | .wheelAdvance panel => Sys2Proof.Machine.execWheelAdvance panel s
  | .streamBeatArrive panel tile stream => Sys2Proof.Machine.execStreamBeatArrive panel tile stream s
  -- the clock, R99, R345
  | .tick => Sys2Proof.Machine.execTick s
  | .sync link => Sys2Proof.Machine.execSync link s
  | .followUp link t1 => Sys2Proof.Machine.execFollowUp link t1 s
  | .delayReq link => Sys2Proof.Machine.execDelayReq link s
  | .delayResp link t4 => Sys2Proof.Machine.execDelayResp link t4 s
  -- dispatcher and Marker, R20-R39, R77, R193, R202
  | .markerStep => Sys2Proof.Machine.execMarkerStep s
  | .placementArm panel => Sys2Proof.Machine.execPlacementArm panel s
  | .preparationComplete panel => Sys2Proof.Machine.execPreparationComplete panel s
  | .taskReady entry => Sys2Proof.Machine.execTaskReady entry s
  | .garmentDone entry => Sys2Proof.Machine.execGarmentDone entry s
  | .taskEnd entry => Sys2Proof.Machine.execTaskEnd entry s
  | .fittingPassEnd entry => Sys2Proof.Machine.execFittingPassEnd entry s
  | .greplayWrite ctx v => Sys2Proof.Machine.execGreplayWrite ctx v s
  | .replayBegin ctx => Sys2Proof.Machine.execReplayBegin ctx s
  | .replayEnd ctx => Sys2Proof.Machine.execReplayEnd ctx s
  -- steps of the reference machine, R99
  | .drain panel tile line => Sys2Proof.Machine.execDrain panel tile line s
  | .apply slice => Sys2Proof.Machine.execApply slice s
  | .fill u line => Sys2Proof.Machine.execFill u line s
  | .evict u line => Sys2Proof.Machine.execEvict u line s
  | .engineRead e part => Sys2Proof.Machine.execEngineRead e part s
  | .engineWrite e part => Sys2Proof.Machine.execEngineWrite e part s
  | .completionWordWrite e => Sys2Proof.Machine.execCompletionWordWrite e s
  | .pageWalk unit ctx priv acc va => Sys2Proof.Machine.execPageWalk unit ctx priv acc va s
  | .waitSatisfied p => Sys2Proof.Machine.execWaitSatisfied p s
  | .waitTimeout p => Sys2Proof.Machine.execWaitTimeout p s
  -- traps, pre-emption, R321, R328-R329
  | .trapEntry ctx => Sys2Proof.Machine.execTrapEntry ctx s
  | .preemptRequest ctx v => Sys2Proof.Machine.execPreemptRequest ctx v s
  | .freeze entry => Sys2Proof.Machine.execFreeze entry s
  | .readoutComplete entry => Sys2Proof.Machine.execReadoutComplete entry s
  -- writes of control and page registers
  | .ptrootWrite ctx v => Sys2Proof.Machine.execPtrootWrite ctx v s
  | .frtWrite n which v => Sys2Proof.Machine.execFrtWrite n which v s
  | .hbmMapWrite reg v => Sys2Proof.Machine.execHbmMapWrite reg v s
  | .loopRegisterWrite p slot field v => Sys2Proof.Machine.execLoopRegisterWrite p slot field v s
  | .tvecWrite ctx v => Sys2Proof.Machine.execTvecWrite ctx v s
  | .registerWrite p ctx reg v => Sys2Proof.Machine.execRegisterWrite p ctx reg v s
  | .fsumWrite ctx v => Sys2Proof.Machine.execFsumWrite ctx v s
  | .cpolWrite ctx v => Sys2Proof.Machine.execCpolWrite ctx v s
  | .slognWrite ctx v => Sys2Proof.Machine.execSlognWrite ctx v s
  -- the host, firmware and the outside world, chapter 21
  | .hostWindowRead req off n => Sys2Proof.Machine.execHostWindowRead req off n s
  | .hostWindowWrite req off bytes => Sys2Proof.Machine.execHostWindowWrite req off bytes s
  | .flr ctx => Sys2Proof.Machine.execFlr ctx s
  | .flrComplete ctx => Sys2Proof.Machine.execFlrComplete ctx s
  | .coldReset cfg => Sys2Proof.Machine.execColdReset cfg s
  | .contextEnable cfg => Sys2Proof.Machine.execContextEnable cfg s
  | .contextDisable ctx => Sys2Proof.Machine.execContextDisable ctx s
  | .flitReceive link flit authOk crcOk => Sys2Proof.Machine.execFlitReceive link flit authOk crcOk s
  | .linkDown link => Sys2Proof.Machine.execLinkDown link s
  | .linkRekey link => Sys2Proof.Machine.execLinkRekey link s
  | .cert => Sys2Proof.Machine.execCert s
  | .chal req => Sys2Proof.Machine.execChal req s
  | .meas req => Sys2Proof.Machine.execMeas req s
  | .keyEx ctx => Sys2Proof.Machine.execKeyEx ctx s
  | .sealKeyInstall ctx dom => Sys2Proof.Machine.execSealKeyInstall ctx dom s
  | .thermalClamp block => Sys2Proof.Machine.execThermalClamp block s
  | .thermalRelease block => Sys2Proof.Machine.execThermalRelease block s
  | .selfRefresh stack pc => Sys2Proof.Machine.execSelfRefresh stack pc s
  | .uncorrectableError site => Sys2Proof.Machine.execUncorrectableError site s
  | .unassignedOpcode w => Sys2Proof.Machine.execUnassignedOpcode w s
  | .fetchFault => Sys2Proof.Machine.execFetchFault s
  | .publishSearchDone panel => Sys2Proof.Machine.execPublishSearchDone panel s
  | .refreshCycle stack pc => Sys2Proof.Machine.execRefreshCycle stack pc s
  | .secdedCorrection u => Sys2Proof.Machine.execSecdedCorrection u s
  | .tdispRequest vf run => Sys2Proof.Machine.execTdispRequest vf run s
  | .henidContinue c => Sys2Proof.Machine.execHenidContinue c s

end Sys2Proof.Machine
end

