-- ==== Sys2Proof/Machine/Step.lean ====
section
/-! DEFINITION. The step of the machine: the next action of the agenda, a device step or the issue of a party's next
word; an empty agenda takes the steps of the fabric cycle (DESIGN CHOICE, log 1). -/

namespace Sys2Proof.Machine

open Sys2Proof

/-- A decoded instruction issued by the party in focus, its access to a home answered at once, or, where asked for and where it makes one, left in
the home queue (R99, R100; DESIGN CHOICE, log 115). -/
def issueInstr (queued : Bool) (i : Instr) (s : State) : Host.Outcome State Fault Refusal :=
  match (if queued then askIssue i s else none) with
  | some u => .next u
  | none => exec i s

/-- A fetched instruction executed by the party in focus. -/
def execFetched (queued : Bool) (f : Except Trap (State × Fetched)) (s : State) : Host.Outcome State Fault Refusal :=
  match f with
  | .error _ => exec .fetchFault s
  | .ok (s, .unassigned w) => exec (.unassignedOpcode w) (leaveBreak s)
  | .ok (s, .instr i) => issueInstr queued i (leaveBreak s)

/-- A party issues its next word, where it may; before a breakpoint it stops (R165, R267). -/
def stepParty (queued : Bool) (s : State) (p : Party) : Host.Outcome State Fault Refusal :=
  let s := { s with focus := p }
  if mayRun s p then
    if atBreak s p then .next (debugStop s p)
    else execFetched queued (fetchAt s p s.cur.pc) s
  else .next s

/-- An action of the agenda. -/
def stepAction (s : State) : Action → Host.Outcome State Fault Refusal
  | .party p => stepParty false s p
  | .queued p => stepParty true s p
  | .event i => if isEvent i then exec i s else .next s

/-- The step of the machine. -/
def step (s : State) : Host.Outcome State Fault Refusal :=
  match s.agenda with
  | a :: rest => stepAction { s with agenda := rest } a
  | [] => .next { s with agenda := cycleSteps s }

/-- The state with an instruction where the next step fetches it; how a program comes to run from reset is DESIGN CHOICE, log 30. -/
def State.withFetchWord (s : State) (nbits w : Nat) : State := placeWord s nbits w

end Sys2Proof.Machine
end

