-- ==== Sys2Proof/Safety.lean ====
section
/-! DEFINITION. What counts as a safe run, and the words in which the statements say what an instruction leaves as it
was: everything but the running thread and the event counters, and the running thread as it is to be. -/

namespace Sys2Proof

open Machine

/-- A step goes on: it answers a next state. -/
def goesOn (s : State) : Prop := ∃ t, step s = .next t

/-- The memory of the device keeps its canonical form: addresses strictly rising, no entry equal to what an unlisted
address reads as. -/
def memoryOk (s : State) : Prop := Memory.wf s.mem = true

/-- A run of `k` steps is safe: it stops at no fault and at no refusal. -/
def safeRun (s : State) (k : Nat) : Prop := ∃ t, Host.Core.run core k s = .next t

/-- An instruction answers a next state of which a property holds. -/
def Ends (i : Instr) (s : State) (P : State → Prop) : Prop := ∃ t, exec i s = .next t ∧ P t

/-- A panel but for its event counters and its commit shadow. -/
def uncounted (x : Panel) : Panel := { x with counters := Vector.replicate 4 Counter.clear, shadow := none }

/-- A core's own state but for its event counters. -/
def uncountedCore (x : Core) : Core := { x with counters := Vector.replicate 4 Counter.clear }

/-- The state but for threads, panels and cores: memory and its queues, seals and poison, contexts with every trap and
special register, tasks, translation, engines, clock, platform. -/
def outside (s : State) : State := { s with threads := [], panels := [], cores := [] }

/-- Nothing but the thread in focus, event counters and the commit shadow has changed. -/
structure Elsewhere (s t : State) : Prop where
  rest : outside t = outside s
  threads : ∀ p, p ≠ s.focus → t.thread p = s.thread p
  panels : ∀ p, (t.panel? p).map uncounted = (s.panel? p).map uncounted
  cores : ∀ c, uncountedCore (t.core? c) = uncountedCore (s.core? c)

/-- A thread but for the mark of the live cycle it issued in (R263). -/
def unmarked (t : Thread) : Thread := { t with issued := 0 }

/-- An instruction completes: its thread becomes `th`, and all else is as in the state `u`. -/
def Leaves (i : Instr) (s u : State) (th : Thread) : Prop :=
  Ends i s fun t => Elsewhere u t ∧ unmarked t.cur = unmarked th

/-- An instruction completes: its thread becomes `th`, and nothing else changes. -/
def RunsTo (i : Instr) (s : State) (th : Thread) : Prop := Leaves i s s th

/-- No active loop slot of the thread ends at the word (R168). -/
def NoTrip (i : Instr) (t : Thread) : Prop :=
  ∀ n, n < 4 → (t.slot n).active = true → (tripAddrs i t.pc).contains (t.slot n).lstop = false

/-- The party in focus may issue the form at its privilege (R138), and the stitch that the form may imply is not held back by a row of its panel
(R118). -/
structure MayIssue (i : Instr) (s : State) : Prop where
  form : mayIssue s.focus i = true
  priv : needsSupervisor i = true → partyPriv s s.focus ≠ .user
  stitches : stitchWaits i s = false

/-- The party in focus may issue the form, and no active loop slot ends at the word (R168). -/
structure Issues (i : Instr) (s : State) : Prop extends MayIssue i s where
  noTrip : NoTrip i s.cur

/-- The thread after a form that goes on to the next word. -/
def pastWord (i : Instr) (t : Thread) : Thread := { t with pc := t.pc + BitVec.ofNat 64 i.len }

end Sys2Proof
end

