-- ==== Sys2Proof/Certificates/Slice0/Obligations.lean ====
section
/-! DEFINITION. The statements for the provers, with the rules' own tables of results. -/

namespace Sys2Proof

open Machine

/-! ## The rules' tables -/

/-- The conditions of R131 on sval and uval. -/
def ruleHolds (cc : CC) (a b : Word) : Bool :=
  match cc with
  | .eq => decide (a.toNat = b.toNat)
  | .ne => decide (a.toNat ≠ b.toNat)
  | .lt => decide (a.toInt < b.toInt)
  | .ge => decide (b.toInt ≤ a.toInt)
  | .ltu => decide (a.toNat < b.toNat)
  | .geu => decide (b.toNat ≤ a.toNat)
  | .gt => decide (b.toInt < a.toInt)
  | .le => decide (a.toInt ≤ b.toInt)
  | .gtu => decide (b.toNat < a.toNat)
  | .leu => decide (a.toNat ≤ b.toNat)

/-- Rotation right by n, from 0 to 64, as two shifts. -/
def ruleRor (a : Word) (n : Nat) : Word := (a >>> n) ||| (a <<< (64 - n))

/-- The place of the lowest set bit of a function on bit numbers, 64 where there is none. -/
def ruleFirst (f : Nat → Bool) : Word := BitVec.ofNat 64 (((List.range 64).find? f).getD 64)

/-- The destination and the result of a form of the alu group (R161). -/
def aluRule (g : Reg → Word) : Instr → Option (Reg × Word)
  | .add d a b => some (d, BitVec.ofNat 64 ((g a).toNat + (g b).toNat))
  | .sub d a b => some (d, BitVec.ofInt 64 ((g a).toInt - (g b).toInt))
  | .mul d a b => some (d, BitVec.ofNat 64 ((g a).toNat * (g b).toNat))
  | .mulh d a b => some (d, BitVec.ofInt 64 ((g a).toInt * (g b).toInt / 2 ^ 64))
  | .mulhu d a b => some (d, BitVec.ofNat 64 ((g a).toNat * (g b).toNat / 2 ^ 64))
  | .div d a b => some (d,
      if (g b).toNat = 0 then BitVec.allOnes 64
      else if (g a).toInt = -(2 ^ 63) ∧ (g b).toInt = -1 then BitVec.ofInt 64 (-(2 ^ 63))
      else BitVec.ofInt 64 ((g a).toInt.tdiv (g b).toInt))
  | .divu d a b => some (d,
      if (g b).toNat = 0 then BitVec.allOnes 64 else BitVec.ofNat 64 ((g a).toNat / (g b).toNat))
  | .rem d a b => some (d,
      if (g b).toNat = 0 then g a
      else if (g a).toInt = -(2 ^ 63) ∧ (g b).toInt = -1 then 0#64
      else BitVec.ofInt 64 ((g a).toInt - (g b).toInt * (g a).toInt.tdiv (g b).toInt))
  | .remu d a b => some (d, if (g b).toNat = 0 then g a else BitVec.ofNat 64 ((g a).toNat % (g b).toNat))
  | .and d a b => some (d, g a &&& g b)
  | .or d a b => some (d, g a ||| g b)
  | .xor d a b => some (d, g a ^^^ g b)
  | .andn d a b => some (d, g a &&& ~~~g b)
  | .shl d a b => some (d, BitVec.ofNat 64 ((g a).toNat * 2 ^ ((g b).toNat % 64)))
  | .shr d a b => some (d, BitVec.ofNat 64 ((g a).toNat / 2 ^ ((g b).toNat % 64)))
  | .sra d a b => some (d, BitVec.ofInt 64 ((g a).toInt / 2 ^ ((g b).toNat % 64)))
  | .rol d a b => some (d, ruleRor (g a) (64 - (g b).toNat % 64))
  | .ror d a b => some (d, ruleRor (g a) ((g b).toNat % 64))
  | .clz d a => some (d, ruleFirst fun i => (g a).getLsbD (63 - i))
  | .ctz d a => some (d, ruleFirst fun i => (g a).getLsbD i)
  | .popc d a => some (d, BitVec.ofNat 64 ((List.range 64).countP fun i => (g a).getLsbD i))
  | .min d a b => some (d, if (g a).toInt ≤ (g b).toInt then g a else g b)
  | .max d a b => some (d, if (g a).toInt ≤ (g b).toInt then g b else g a)
  | .minu d a b => some (d, if (g a).toNat ≤ (g b).toNat then g a else g b)
  | .maxu d a b => some (d, if (g a).toNat ≤ (g b).toNat then g b else g a)
  | .sel d a b c => some (d, if (g c).toNat ≠ 0 then g a else g b)
  | .cmp cc d a b => some (d, if ruleHolds cc (g a) (g b) then 1#64 else 0#64)
  | .lea d a b sh => some (d, BitVec.ofNat 64 ((g a).toNat + (g b).toNat * 2 ^ sh.toNat))
  | .bext d a b => some (d, BitVec.ofNat 64
      ((g a).toNat / 2 ^ ((g b).toNat % 64) % 2 ^ ((g b).toNat / 256 % 64 + 1)))
  | .bins d a b => some (d, BitVec.ofFnLE fun j : Fin 64 =>
      let p := (g b).toNat % 64
      if p ≤ j.val ∧ j.val < p + ((g b).toNat / 256 % 64 + 1) then (g a).getLsbD (j.val - p) else (g d).getLsbD j.val)
  | _ => none

/-- The destination and the result of an immediate form (R162, R130). -/
def immediateRule (g : Reg → Word) : Instr → Option (Reg × Word)
  | .addi d a imm => some (d, BitVec.ofInt 64 ((g a).toInt + imm.toInt))
  | .muli d a imm => some (d, BitVec.ofInt 64 ((g a).toInt * imm.toInt))
  | .andi d a imm => some (d, g a &&& BitVec.ofNat 64 imm.toNat)
  | .ori d a imm => some (d, g a ||| BitVec.ofNat 64 imm.toNat)
  | .xori d a imm => some (d, g a ^^^ BitVec.ofNat 64 imm.toNat)
  | .shli d a sh => some (d, BitVec.ofNat 64 ((g a).toNat * 2 ^ sh.toNat))
  | .shri d a sh => some (d, BitVec.ofNat 64 ((g a).toNat / 2 ^ sh.toNat))
  | .srai d a sh => some (d, BitVec.ofInt 64 ((g a).toInt / 2 ^ sh.toNat))
  | .rori d a sh => some (d, ruleRor (g a) sh.toNat)
  | .cmpi cc d a imm => some (d, if ruleHolds cc (g a) (BitVec.ofInt 64 imm.toInt) then 1#64 else 0#64)
  | .mini d a imm => some (d, if (g a).toInt ≤ imm.toInt then g a else BitVec.ofInt 64 imm.toInt)
  | .maxi d a imm => some (d, if (g a).toInt ≤ imm.toInt then BitVec.ofInt 64 imm.toInt else g a)
  | .minui d a imm => some (d, if (g a).toNat ≤ imm.toNat then g a else BitVec.ofNat 64 imm.toNat)
  | .maxui d a imm => some (d, if (g a).toNat ≤ imm.toNat then BitVec.ofNat 64 imm.toNat else g a)
  | .movi d imm => some (d, BitVec.ofInt 64 imm.toInt)
  | _ => none

/-- The address of a relative target: 4 × sext(offset) from the word, modulo 2^64 (R130). -/
def ruleTarget {n : Nat} (pc : Word) (off : BitVec n) : Word := BitVec.ofInt 64 (pc.toInt + 4 * off.toInt)

/-- An instruction ends in a precise trap of the thread, with none of its effect. -/
def Traps (i : Instr) (s : State) (cause : Cause) (val : Word) : Prop :=
  exec i s = .next (raise (noteIssue s) ⟨cause, val, none⟩)

/-- The thread after a flow form that completes (R163); the outcome of a `bcc` enters the signature (R203). -/
def flowRule (s : State) : Instr → Option Thread
  | .br off => some { s.cur with pc := ruleTarget s.cur.pc off }
  | .jal off => some { s.cur.put 1#5 (s.cur.pc + 4#64) with pc := ruleTarget s.cur.pc off }
  | .jalr d a imm =>
    let t : Word := s.g a + BitVec.ofInt 64 imm.toInt
    if t.toNat % 4 = 0 then some { s.cur.put d (s.cur.pc + 4#64) with pc := t } else none
  | .bcc cc a b off =>
    if ruleHolds cc (s.g a) (s.g b) then some { s.cur.sign true with pc := ruleTarget s.cur.pc off }
    else some { s.cur.sign false with pc := s.cur.pc + 4#64 }
  | .nop => some { s.cur with pc := s.cur.pc + 4#64 }
  | _ => none

/-- The start, the end and the count with which a loop form enters its slot (R167). -/
def loopLimits (s : State) (slot : Nat) (e : BitVec 15) (count : Word) (counted : Bool) : Word × Word × Word :=
  let h := s.cur.slot slot
  (if h.pstart then h.start else s.cur.pc + 8#64,
    if h.pstop then h.stop else s.cur.pc + 8#64 + BitVec.ofNat 64 (4 * e.toNat),
    if counted && h.pcount then h.count else count)

/-- The limits that a loop form refuses (R136, R167). -/
abbrev loopRefused (bound : BitVec 24) (counted : Bool) (l : Word × Word × Word) : Prop :=
  bound.toNat = 0 ∨ (counted = true ∧ bound.toNat < l.2.2.toNat) ∨ l.1.toNat % 4 ≠ 0 ∨ l.2.1.toNat % 4 ≠ 0 ∨
    l.2.1.toNat < l.1.toNat ∨ 32768 ≤ (l.2.1.toNat - l.1.toNat) / 4

/-- The thread after a loop form that enters its slot (R167). -/
def loopEntered (s : State) (slot : Nat) (counted : Bool) (l : Word × Word × Word) : Thread :=
  let t := s.cur.setSlot slot
    ⟨l.1, l.2.1, l.2.2, l.2.2, l.1, l.2.1, l.2.2, false, false, false, l.2.2 != 0#64, !counted⟩
  if l.2.2.toNat = 0 then { t with pc := l.2.1 + 4#64 }
  else { t with pc := l.1, order := slot :: s.cur.order.filter fun j => j != slot }

/-- A flow form that transfers control: it ends no trip (R168). -/
def transfers (s : State) : Instr → Bool
  | .br _ => true
  | .jal _ => true
  | .jalr _ _ _ => true
  | .bcc cc a b _ => ruleHolds cc (s.g a) (s.g b)
  | _ => false

/-- The thread before its pc moves, for a form that transfers no control: the alu group, the immediates, nop, and a bcc
that is not taken. -/
def plainRule (s : State) (i : Instr) : Option Thread :=
  match aluRule s.g i, immediateRule s.g i with
  | some (d, v), _ => some (s.cur.put d v)
  | none, some (d, v) => some (s.cur.put d v)
  | none, none => match i with
    | .nop => some s.cur
    | .bcc cc a b _ => if ruleHolds cc (s.g a) (s.g b) then none else some (s.cur.sign false)
    | _ => none

/-- An active slot ends at the word (R168). -/
def endsAt (i : Instr) (t : Thread) (j : Nat) : Bool := (t.slot j).active && (tripAddrs i t.pc).contains (t.slot j).lstop

/-- A slot as a trip end that leaves the loop has it. -/
def slotLeft (t : Thread) (j : Nat) : Thread := (t.setSlot j { t.slot j with left := 0#64, active := false }).sign false

/-! ## Traps -/

/-- A service-core thread below machine privilege whose context takes a fault at once: the vector is on, no fault is
under handling, queued or due (R321). -/
structure Deliverable (s : State) (n : Nat) : Prop where
  focus : s.focus = .core n
  priv : partyPriv s (.core n) ≠ .machine
  vector : (s.ctxt (partyCtx s (.core n))).tvec.getLsbD 0 = true
  idle : (s.ctxt (partyCtx s (.core n))).trapcause.getLsbD 63 = false
  queue : (s.ctxt (partyCtx s (.core n))).faultQ = []
  due : (s.ctxt (partyCtx s (.core n))).delivery = none

/-- A context but for what trap entry writes. -/
def besideTrap (x : Context) : Context :=
  { x with
    trapcause := 0, trappc := 0, trapval := 0, fwhere := 0, fpc := 0, xlva := 0, xlinfo := 0, fact := none
    handling := none, delivery := none, voided := false }

/-- A service-core thread has taken its own fault (R315, R318, R321): the trap registers, the swap of g31 and
`c.tscratch`, the privilege and the handler's address; nothing else changes but counters. -/
structure TookTrap (s t : State) (n : Nat) (cause : Cause) (val : Word) : Prop where
  cause : (t.ctxt (partyCtx s (.core n))).trapcause = BitVec.ofNat 64
    (2 ^ 63 + (partyPriv s (.core n)).code * 2 ^ 61 + (s.thread (.core n)).task.toNat * 2 ^ 8 + cause.num)
  pc : (t.ctxt (partyCtx s (.core n))).trappc = (s.thread (.core n)).pc
  val : (t.ctxt (partyCtx s (.core n))).trapval = val
  beside : besideTrap (t.ctxt (partyCtx s (.core n))) = besideTrap (s.ctxt (partyCtx s (.core n)))
  contexts : ∀ c, c ≠ partyCtx s (.core n) → t.ctxt c = s.ctxt c
  regs : ∀ x, (t.thread (.core n)).get x = if x = 31#5 then (s.thread (.core n)).tscratch else (s.thread (.core n)).get x
  scratch : (t.thread (.core n)).tscratch = (s.thread (.core n)).get 31#5
  priv : (t.thread (.core n)).priv = .supervisor
  handler : (t.thread (.core n)).pc =
    BitVec.ofNat 64 ((s.ctxt (partyCtx s (.core n))).tvec.toNat / 2 ^ 8 % 2 ^ 47 * 2 ^ 8)
  running : (t.thread (.core n)).status = .running ∧ (t.thread (.core n)).wait = none
  memory : ∀ dom pa, homeByte t dom pa = homeByte s dom pa
  others : ∀ p, p ≠ .core n → t.thread p = s.thread p
  panels : ∀ p, t.panel? p = s.panel? p

/-- A service-core thread under its handler for a fault of its own, at supervisor, with nothing queued (R322). -/
structure HandlesOwn (s : State) (n : Nat) (f : FaultRec) : Prop where
  focus : s.focus = .core n
  priv : partyPriv s (.core n) ≠ .user
  handling : (s.ctxt (partyCtx s (.core n))).handling = some (f, n)
  own : f.party = some (.core n)
  alive : (s.ctxt (partyCtx s (.core n))).killed = false ∧ (s.ctxt (partyCtx s (.core n))).voided = false
  cause : f.cause ≠ .preempt
  queue : (s.ctxt (partyCtx s (.core n))).faultQ = []

/-- The thread that `eret` returns to: g31 swapped back, the privilege of prior, the pc of `c.trappc` (R322). -/
def returned (x : Context) (t : Thread) : Thread :=
  { t.put 31#5 t.tscratch with
    tscratch := t.get 31#5
    priv := if x.trapcause.toNat / 2 ^ 61 % 4 = 0 then .user
      else if x.trapcause.toNat / 2 ^ 61 % 4 = 1 then .supervisor else .machine
    pc := x.trappc, status := t.before, wait := none }

/-- The instruction is a control word, short or long (R128). -/
def isControl (i : Instr) : Bool :=
  match i.encode with
  | .w32 _ => true
  | .w64 _ _ => true
  | _ => false

/-! ## Control registers (R37, R83, R87, R127, R317, R342) -/

/-- The value that `cget` of a number reads, and whether it is a register of supervisor privilege. -/
def cgetRule (s : State) (n : Nat) : Option (Word × Bool) :=
  let p := s.focus
  let x := s.ctxt (partyCtx s p)
  if n = 0x0000 then some (0x50C0482042006001#64, false)
  else if n = 0x0001 then some (BitVec.ofNat 64 (issuerNo p + (partyPriv s p).code * 2 ^ 16), false)
  else if n = 0x0010 then some (s.tick, false)
  else if n = 0x0020 then some (x.trapcause, true)
  else if n = 0x0021 then some (x.trappc, true)
  else if n = 0x0022 then some (x.trapval, true)
  else if n = 0x0023 then some (x.xlva, true)
  else if n = 0x0024 then some (x.xlinfo, true)
  else if n = 0x0025 then some (x.fwhere, true)
  else if n = 0x0026 then some (x.fpc, true)
  else if n = 0x0027 then some (0#64, true)
  else if n = 0x0028 then some (x.tvec, true)
  else if n = 0x0029 then some (s.cur.tscratch, true)
  else if n = 0x002A then some (x.preempt, true)
  else if n = 0x002B then some (x.save, true)
  else if n = 0x002C then some (x.chalkbase, true)
  else if n = 0x002D then some (x.fsum, true)
  else if n = 0x002E then some (x.hwin, true)
  else if n = 0x002F then some (x.gtab, true)
  else if n = 0x0030 then some (x.ptroot, true)
  else if 0x0100 ≤ n ∧ n ≤ 0x010F then
    let h := s.cur.slot ((n - 0x0100) / 4)
    some (match (n - 0x0100) % 4 with | 0 => h.start | 1 => h.stop | 2 => h.count | _ => h.left, false)
  else if 0x0200 ≤ n ∧ n ≤ 0x021F then some (x.seeds.getD (n - 0x0200) 0#64, false)
  else if 0x0300 ≤ n ∧ n ≤ 0x030F then some ((FMap.getD s.frt (n - 0x0300) ⟨0, 0, 0⟩).base, false)
  else if 0x0310 ≤ n ∧ n ≤ 0x031F then some ((FMap.getD s.frt (n - 0x0310) ⟨0, 0, 0⟩).limit, false)
  else if 0x0320 ≤ n ∧ n ≤ 0x032F then some ((FMap.getD s.frt (n - 0x0320) ⟨0, 0, 0⟩).scale, false)
  else if 0x0800 ≤ n ∧ n ≤ 0x087F then some (if s.hbmMode.contains (n - 0x0800) then 1#64 else 0#64, false)
  else if 0x1000 ≤ n ∧ n ≤ 0x15FF then some (FMap.getD s.hbmMc (n - 0x1000) 0#64, false)
  else if 0x2000 ≤ n ∧ n ≤ 0x25FF then some (FMap.getD s.hbmMp (n - 0x2000) 0#64, false)
  else none

/-- The privilege that a `cset` of a number asks for: none, supervisor, machine, or that of R87 for a group. -/
inductive WriteAt where
  | all | supervisor | machine | group (j : Nat)

/-- Where a number is written (R37, R83, R87, R127, R317, R342). -/
def csetAt (n : Nat) : WriteAt :=
  if n ≤ 0x0010 ∨ (0x0023 ≤ n ∧ n ≤ 0x0026) ∨ n = 0x002D then .all
  else if n ≤ 0x0030 then .supervisor
  else if n ≤ 0x010F then .all
  else if n ≤ 0x021F then .supervisor
  else if n ≤ 0x032F then .machine
  else if n ≤ 0x087F then .group (n - 0x0800)
  else if n ≤ 0x15FF then .group ((n - 0x1000) / 12)
  else .group ((n - 0x2000) / 12)

/-- The party in focus may write at the privilege. -/
def csetAllowed (s : State) : WriteAt → Bool
  | .all => true
  | .supervisor => partyPriv s s.focus != .user
  | .machine => partyPriv s s.focus == .machine
  | .group j => partyPriv s s.focus == .machine ||
      (partyPriv s s.focus == .supervisor && (s.ctxt (partyCtx s s.focus)).groups.contains j)

/-- A loop slot with a field written (R166). -/
def loopWritten (h : LoopSlot) (f : Nat) (v : Word) : LoopSlot :=
  match f with
  | 0 => { h with start := v, pstart := true }
  | 1 => { h with stop := v, pstop := true }
  | 2 => { h with count := v, pcount := true }
  | _ => { h with left := v }

/-- A context with `c.tvec` written: a thread not assigned to it stores on = 0 (R318). -/
def tvecWritten (x : Context) (v : Word) : Context :=
  let w : Word := v &&& 0x007FFFFFFFFFFFF9#64
  { x with tvec := if x.scmap.getLsbD (w.toNat / 8 % 32) then w else w &&& 0xFFFFFFFFFFFFFFFE#64 }

/-- The state after a `cset` that is not ignored, for the registers of a context or of the thread in focus. -/
def csetRule (s : State) (n : Nat) (v : Word) : Option State :=
  let c := partyCtx s s.focus
  let x := s.ctxt c
  if n = 0x0020 then some (s.setCtxt c { x with
    trapcause := (x.trapcause &&& 0x8000000000000000#64) ||| (v &&& 0x7F0000FFFFFFFF1F#64) })
  else if n = 0x0021 then some (s.setCtxt c { x with trappc := v })
  else if n = 0x0022 then some (s.setCtxt c { x with trapval := v })
  else if n = 0x0027 then some (if x.trapcause.getLsbD 63 then
    s.setCtxt c { x with fact := some (if v.toNat = 0 then 0#2 else if v.toNat = 1 then 1#2 else 2#2) } else s)
  else if n = 0x0028 then some (s.setCtxt c (tvecWritten x v))
  else if n = 0x0029 then some (s.setCur { s.cur with tscratch := v })
  else if n = 0x002B then some (s.setCtxt c { x with save := v &&& 0x007FFFFFFF00FF01#64 })
  else if n = 0x002C then some (s.setCtxt c { x with chalkbase := v &&& 0x007FFFFFFFFF0001#64 })
  else if n = 0x002E then some (s.setCtxt c { x with hwin := v &&& 0x007FFFF000000001#64 })
  else if n = 0x002F then some (s.setCtxt c { x with gtab := v &&& 0x007FFFFFFFFFF001#64 })
  else if n = 0x0030 then some (s.setCtxt c { x with ptroot := v &&& 0x000FFFFFFFFF0001#64 })
  else if 0x0100 ≤ n ∧ n ≤ 0x010F then
    some (s.setCur (s.cur.setSlot ((n - 0x0100) / 4) (loopWritten (s.cur.slot ((n - 0x0100) / 4)) ((n - 0x0100) % 4) v)))
  else if 0x0200 ≤ n ∧ n ≤ 0x021F then some (s.setCtxt c { x with seeds := x.seeds.set (n - 0x0200) v })
  else if n = 0x0000 ∨ n = 0x0001 ∨ n = 0x0010 ∨ (0x0023 ≤ n ∧ n ≤ 0x0026) ∨ n = 0x002D then some s
  else none

/-- The registers whose `cset` acts as a write step of its own, and that step: `c.preempt`, the format range table, the HBM map. -/
def CsetStep (c : Nat) (n : BitVec 16) (v : Word) (i : Instr) : Prop :=
  let k := n.toNat
  (k = 0x002A ∧ i = .preemptRequest c v) ∨
  (0x0300 ≤ k ∧ k ≤ 0x032F ∧ i = .frtWrite ((k - 0x0300) % 16) (BitVec.ofNat 2 ((k - 0x0300) / 16)) v) ∨
  (((0x0800 ≤ k ∧ k ≤ 0x087F) ∨ (0x1000 ≤ k ∧ k ≤ 0x15FF) ∨ (0x2000 ≤ k ∧ k ≤ 0x25FF)) ∧ i = .hbmMapWrite n v)

/-- A write at supervisor privilege in a context is allowed (R87, R127). -/
def supervisorMay (s : State) (c : Nat) : WriteAt → Bool
  | .all => true
  | .supervisor => true
  | .machine => false
  | .group j => (s.ctxt c).groups.contains j

/-- An entry of the format range table with its base register written (R83). -/
def frtBaseWritten (s : State) (e : FrtEntry) (v : Word) : FrtEntry :=
  let w : Word := v &&& 0x81FFFFFFFFFF0000#64
  let base := w.toNat / 2 ^ 16 % 2 ^ 36
  let limit := e.limit.toNat / 2 ^ 16 % 2 ^ 36
  let fits : Bool := decide (0x12 ≤ w.toNat / 2 ^ 52 % 32) && decide (w.toNat / 2 ^ 52 % 32 ≤ 0x18) && decide (base ≤ limit) &&
    (paKind s (base * 65536) == .first || paKind s (base * 65536) == .second) &&
    paKind s (limit * 65536) == paKind s (base * 65536)
  { e with base := if fits then w else w &&& 0x7FFFFFFFFFFFFFFF#64 }

/-- GREPLAY after a write (R36): the W1C bits, then a start that begins, pends or is dropped. -/
def greplayWritten (r : Greplay) (v : Word) : Greplay :=
  let r := { r with
    ovr := r.ovr && !v.getLsbD 29, fail := r.fail && !v.getLsbD 28, bad := r.bad && !v.getLsbD 27 }
  if v.getLsbD 15 = false then r
  else if r.busy = false then
    { r with busy := true, graph := v.setWidth 8, running := v.setWidth 8, begun := false, policy := 0 }
  else if r.pend = false then { r with pend := true, graph := v.setWidth 8, pendGraph := v.setWidth 8 }
  else { r with ovr := true }

/-! ## Loads, stores, scratch -/

/-- The value of loaded bytes, sign- or zero-extended (R170). -/
def ruleExtend (bs : List Byte) (signed : Bool) : Word :=
  if signed then BitVec.ofInt 64 (BitVec.ofNat (8 * bs.length) (ofBytes bs)).toInt else BitVec.ofNat 64 (ofBytes bs)

/-- A translated load: its size, destination, address register, offset and signedness (R130, R170). -/
def loadForm : Instr → Option (Nat × Reg × Reg × BitVec 14 × Bool)
  | .ld sz d a off => some (sz.bytes, d, a, off, true)
  | .ldZ sz d a off => some (sz.bytes, d, a, off, false)
  | _ => none

/-- A scratch load (R171). -/
def scratchLoadForm : Instr → Option (Nat × Reg × Reg × BitVec 14 × Bool)
  | .ldS sz d a off => some (sz.bytes, d, a, off, true)
  | .ldSZ sz d a off => some (sz.bytes, d, a, off, false)
  | _ => none

/-- A scratch store: its size, value and address registers, offset, and whether it sets its word full (R171, R172). -/
def scratchStoreForm : Instr → Option (Nat × Reg × Reg × BitVec 14 × Bool)
  | .stS sz d a off => some (sz.bytes, d, a, off, false)
  | .stfill d a off => some (8, d, a, off, true)
  | _ => none

/-- The address of a load or store: g[a] + sext(offset) × n (R130, R170). -/
def ruleAddr (s : State) (a : Reg) (off : BitVec 14) (n : Nat) : Word :=
  BitVec.ofInt 64 ((s.g a).toInt + off.toInt * n)

/-- The panel with an entry appended to a strand's sequencer log. -/
def seqLogged (x : Panel) (i : Nat) (e : LogEntry) : Panel :=
  x.setStrand i { x.strand i with log := (x.strand i).log ++ [e] }

/-- A thread that waits at a form from a cycle on, with a timeout, nothing of it performed (R30). -/
def waiting (i : Instr) (s : State) (timeout : Word) : Thread :=
  { s.cur with wait := some ⟨i, s.cycle, some timeout.toNat, false⟩ }

/-- What a wait form does where its test answers nothing (R30): it waits, or traps E.WAITBOUND with a timeout of 0. -/
def WaitsFor (i : Instr) (s : State) (timeout : Word) : Prop :=
  (timeout.toNat ≠ 0 → RunsTo i s (waiting i s timeout)) ∧ (timeout.toNat = 0 → Traps i s .waitBound 0#64)

/-! ## Atomics (R175, R176) -/

/-- The kind, the size, and the registers of destination, address and operand of an atomic. -/
def amoForm : Instr → Option (Nat × Nat × Reg × Reg × Reg)
  | .amoAdd w a b c => some (0, if w then 8 else 4, a, b, c)
  | .amoAnd w a b c => some (1, if w then 8 else 4, a, b, c)
  | .amoOr w a b c => some (2, if w then 8 else 4, a, b, c)
  | .amoXor w a b c => some (3, if w then 8 else 4, a, b, c)
  | .amoMin w a b c => some (4, if w then 8 else 4, a, b, c)
  | .amoMax w a b c => some (5, if w then 8 else 4, a, b, c)
  | .amoSwap w a b c => some (6, if w then 8 else 4, a, b, c)
  | .amoCas w a b c => some (7, if w then 8 else 4, a, b, c)
  | .amoFadd a b c => some (8, 4, a, b, c)
  | _ => none

/-- sval of n bytes. -/
def svalBytes (n x : Nat) : Int := (BitVec.ofNat (8 * n) x).toInt

/-- new(kind, old, v) of R176 on n bytes; `fadd` is the FP32 sum under round_ne. -/
def amoRule (kind n old v expected : Nat) : Nat :=
  match kind with
  | 0 => (old + v) % 2 ^ (8 * n)
  | 1 => old &&& v
  | 2 => old ||| v
  | 3 => old ^^^ v
  | 4 => if svalBytes n old ≤ svalBytes n v then old else v
  | 5 => if svalBytes n v ≤ svalBytes n old then old else v
  | 6 => v
  | 7 => if old = expected then v else old
  | _ => (f32add 0 (BitVec.ofNat 32 old) (BitVec.ofNat 32 v)).toNat

/-- The address of an atomic is a virtual address aligned to its size (R175). -/
abbrev amoAddressOk (A : Word) (n : Nat) : Prop := A.toNat < 2 ^ 63 ∧ A.toNat % n = 0

/-- The issuer and the strand of a logged atomic (R116): 64·y + x of the top-left tile of the lead block, whose number 16·by + bx is the
panel's, for a sequencer thread; 4,096 + 2·core + thread for a service core. -/
def issuerOf : Party → Option (Nat × Nat)
  | .core n => some (4096 + n, 0)
  | .seq p k => some (64 * (2 * (p / 16)) + 4 * (p % 16), k)
  | _ => none

/-! ## Copies (R159, R180) -/

/-- The copy that a template gives at an index, as accepted: nothing of it done (R180). -/
def copyAccepted (s : State) (t : Template) (i : Word) : Copy :=
  { src := t.src + i * t.sstride, dst := t.dst + i * t.dstride, length := t.length, peer := t.peer, cw := t.cw, cwaddr := t.cwaddr
    value := t.cwval + i, party := s.focus, uid := partyUid s s.focus, priv := partyPriv s s.focus, task := partyTask s s.focus
    readParts := [], wroteParts := [], ranges := [], heldFault := false, cwChecked := false, failed := false, unanswered := 0 }

/-- R159 refuses a scratch-tagged address of a copy, or its range passes the scratchpad's end; a destination at a peer is not looked at. -/
def copyRefused (s : State) (c : Copy) : Prop :=
  let bad (a : Word) (n : Nat) : Prop :=
    a.getLsbD 63 = true ∧ copyScratch s (partyCtx s s.focus) s.focus c.uid a n = none
  bad c.src c.length ∨ (c.peer = 0 ∧ bad c.dst c.length) ∨ (c.cw = true ∧ bad c.cwaddr 8)

/-- A command of memory parts accepted by the bobbin unit of the party in focus (R110, R189). -/
def bobbinAccepts (s : State) (ms : List MemPart) : State :=
  let q := FMap.getD s.bobbin s.focus [] ++ [⟨partyUid s s.focus, partyTask s s.focus, partyCtx s s.focus, ms, none⟩]
  { s with bobbin := FMap.set s.bobbin s.focus q }

/-! ## Commands (R194, R199, R254-R258, R277, R290, R296, R297) -/

/-- The first failing check of a list: its cause and its value. -/
def firstFailing (l : List (Bool × Cause × Word)) : Option (Cause × Word) := (l.find? (·.1)).map (·.2)

/-- A scratch-tagged address whose n bytes the party's scratch rules refuse (R159). -/
def tagRefused (s : State) (x : Word) (n : Nat) : Bool := x.getLsbD 63 && (partyTagged s s.focus x n).isNone

/-- A quilt form: its number, the registers of descriptor, record and completion word, the alignment and the size of its
record, and whether a record in scratch is refused (R290). -/
def quiltForm : Instr → Option (Nat × Reg × Reg × Reg × Nat × Nat × Bool)
  | .qinit a c => some (0, a, 0, c, 1, 0, false)
  | .qapp a b c => some (1, a, b, c, 64, 64, false)
  | .qdesc a b c => some (2, a, b, c, 64, 64, false)
  | .qsplit a b c => some (3, a, b, c, 64, 64, true)
  | .qmerge a b c => some (4, a, b, c, 64, 64, true)
  | .qfork a b c => some (5, a, b, c, 256, 256, true)
  | .qevict a b c => some (6, a, b, c, 64, 64, true)
  | .qmark a c => some (7, a, 0, c, 1, 0, false)
  | .qtrim a c => some (8, a, 0, c, 1, 0, false)
  | .qstat a b c => some (9, a, b, c, 64, 64, false)
  | .qfree a c => some (10, a, 0, c, 1, 0, false)
  | _ => none

/-- The checks of a quilt form in the order of R290. -/
def quiltChecks (s : State) (i : Instr) (a b c : Word) (al n : Nat) (mem : Bool) : List (Bool × Cause × Word) :=
  [ (a.getLsbD 63, .perm, a), (if mem then b.getLsbD 63 else tagRefused s b n, .perm, b), (tagRefused s c 8, .perm, c),
    (decide (a.toNat % 256 ≠ 0), .align, a), (decide (b.toNat % al ≠ 0), .align, b), (decide (c.toNat % 8 ≠ 0), .align, c),
    (decide (16 ≤ (s.quilts.filter fun q => q.2.party == s.focus).length), .engine, BitVec.ofNat 64 i.firstWord.toNat) ]

/-- A quilt command as accepted: what its form names, nothing of it done. -/
def quiltAccepted (s : State) (op : Nat) (a b c : Word) : QuiltCmd :=
  { op := op, ctx := partyCtx s s.focus, party := s.focus, uid := partyUid s s.focus, a := a, b := b, record := c
    priv := partyPriv s s.focus, task := partyTask s s.focus, stage := 0, data := [], pages := [], script := [], reserved := 0, pool := 0
    incs := [], cw := none, word := 0, code := 0, evs := [], heldFault := false, heldRecord := false, failed := none }

/-- A press form: its number and its registers (R296). -/
def pressForm : Instr → Option (Nat × Reg × Reg × Reg)
  | .prcopy a b c => some (0, a, b, c)
  | .prfill a b c => some (1, a, b, c)
  | .prand a b c => some (2, a, b, c)
  | .pror a b c => some (3, a, b, c)
  | .prxor a b c => some (4, a, b, c)
  | .prnot a b c => some (5, a, b, c)
  | _ => none

/-- The checks of a press form in the order of R297. -/
def pressChecks (s : State) (i : Instr) (a b c : Word) : List (Bool × Cause × Word) :=
  [ (a.getLsbD 63, .perm, a), (tagRefused s b 32, .perm, b), (tagRefused s c 32, .perm, c),
    (decide (a.toNat % 2 ^ 20 ≠ 0), .align, a), (decide (b.toNat % 32 ≠ 0), .align, b),
    (decide (c.toNat % 32 ≠ 0), .align, c),
    (decide (16 ≤ (s.press.filter fun q => q.2.party == s.focus).length), .engine, BitVec.ofNat 64 i.firstWord.toNat) ]

/-- A press command as accepted. -/
def pressAccepted (s : State) (op : Nat) (a b c : Word) : PressCmd :=
  { op := op, ctx := partyCtx s s.focus, party := s.focus, uid := partyUid s s.focus, dst := a, desc := b, record := c
    priv := partyPriv s s.focus, task := partyTask s s.focus, data := [], plan := none, ready := [], wrote := [], heldFault := false, heldRecord := false
    failed := none }

/-- The word of a form as a trap value (R314). -/
def wordOfForm (i : Instr) : Word := BitVec.ofNat 64 i.firstWord.toNat

/-- A task of the dependence table with one dependence more (R195). -/
def oneDepMore (t : TaskEntry) (d : Dep) (met : Bool) : TaskEntry :=
  { t with ndeps := t.ndeps + 1, deps := if met then t.deps else t.deps ++ [d] }

/-- A state with an entry of the dependence table replaced. -/
def withTask (s : State) (e : Nat) (t : TaskEntry) : State := { s with tasks := FMap.set s.tasks e t }

/-- A task submitted with its record's dependences: those on tasks not over are kept (R191, R194). -/
def submitted (s : State) (e c : Nat) (r : TaskRec) (priv : Priv) (replay : Bool) : State :=
  r.deps.foldl (fun s id => addDep s e (.task id) (!taskLive s id)) (addTask s e c r priv replay)

/-- The event and the qualifier that a counter of the running party's four is selected for (R199). -/
def selection (s : State) (k : Fin 4) : Option Nat × Nat := ((countersOf s s.focus)[k].event, (countersOf s s.focus)[k].qual)

/-- A counter of a party holds a count with its overflow flag clear. -/
def countedAs (t : State) (p : Party) (k : Fin 4) (n : BitVec 48) : Prop :=
  ((countersOf t p)[k]).count = n ∧ ((countersOf t p)[k]).ovf = false

/-- What a cleared counter of an event has counted once the sequencer's own issue is over: ev88 counts the word itself (R198). -/
def ownIssue (s : State) (event : Option Nat) : BitVec 48 :=
  if event = some 88 ∧ ((partyPanel s.focus).bind s.panel?).isSome = true then 1 else 0

/-- A byte of a list, and the little-endian value of n bytes (R1). -/
def planField (bs : List Byte) (i n : Nat) : Nat := ofBytes ((bs.drop i).take n)

/-- A fitting plan breaks R201: 1 to 8 passes, a buffer of 1 to 1,024 pages at a multiple of 64 KiB, every reserved byte zero. -/
abbrev planBreaks (bs : List Byte) : Prop :=
  ¬ (1 ≤ planField bs 0 1 ∧ planField bs 0 1 ≤ 8) ∨ planField bs 8 8 % 65536 ≠ 0 ∨ ¬ (1 ≤ planField bs 0x10 2 ∧ planField bs 0x10 2 ≤ 1024) ∨
    planField bs 1 7 ≠ 0 ∨ planField bs 0x12 14 ≠ 0 ∨ planField bs 0xA0 96 ≠ 0 ∨ ∃ j, j < 32 ∧ planField bs (0x23 + 4 * j) 1 ≠ 0

/-! ## Sequencer commands (R120, R218, R222, R254-R258) -/

/-- A strand of a panel issues the form: the panel and the strand in focus. -/
structure Strands (i : Instr) (s : State) (p k : Nat) (x : Panel) : Prop where
  issues : Issues i s
  focus : s.focus = .seq p k
  panel : s.panel? p = some x

/-- A wait form that finds nothing waits with its timeout, after the stitch, or traps E.WAITBOUND with a timeout of 0. -/
def WaitsStitched (i : Instr) (s : State) (timeout : Word) : Prop :=
  (timeout.toNat ≠ 0 → Leaves i s (stitchBefore s) (waiting i (stitchBefore s) timeout)) ∧
  (timeout.toNat = 0 → Traps i s .waitBound 0#64)

/-- The panel with a strand changed. -/
def withStrand (x : Panel) (k : Nat) (f : Strand → Strand) : Panel := x.setStrand k (f (x.strand k))

/-- The thread of a slice engine at its start: g3 the image, g4 the strand, g5 the argument, all else zero (R256). -/
def sliceThread (x : Panel) (k : Nat) (pc arg : Word) : Thread :=
  { Thread.clear with
    pc := pc, ctx := x.ctx, status := .running
    g := Vector.ofFn fun r : Fin 32 =>
      if r.val = 3 then x.imageAddr else if r.val = 4 then BitVec.ofNat 64 k else if r.val = 5 then arg else 0#64 }

/-- The beats that the end of named slots discards, slot by slot: those of a running in-stream that wait in its tiles' queues or, read whole, for a
place there (R220, R222). -/
def discardedBeats (x : Panel) (k : Nat) (m : Word) : List Nat :=
  (List.range 16).filterMap fun q => if m.getLsbD q then (x.slot? k q).bind fun sl =>
    if sl.state = .running ∧ sl.spec.dirOut = false then some (waitingBeats k x q sl) else none else none

/-- A stream of a panel runs (R222). -/
abbrev streamRuns (x : Panel) : Prop := ∃ j q sl, j < 4 ∧ x.slot? j q = some sl ∧ sl.state = .running

/-! ## Phase words (R17, R140-R142, R214-R252) -/

/-- The predicate of a phase word (R17, R140). -/
def predOf : Instr → Option Pred
  | .mxNop p | .mxLd p _ | .mxMm p _ _ | .mxMmg p _ _ _ | .mxAcz p _ | .mxAcrd p _ _ _ | .mxScl p | .mxFmt p _ _
  | .mxAcsv p _ _ _ | .mxAcld p _ _ _ => some p
  | .vadd p _ | .vsub p _ | .vmul p _ | .vfma p _ | .vmax p _ | .vmin p _ | .vexp2 p _ | .vlog2 p _ | .vrcp p _ | .vrsq p _
  | .vcvt p _ | .vcmp p _ | .vsel p _ | .vand p _ | .vor p _ | .vxor p _ | .vshl p _ | .vshr p _ | .vperm p _
  | .vscan p _ | .vred p _ | .vbcast p _ | .vpack p _ | .vunpack p _ | .vmov p _ | .vmovIn p _ | .vmovOut p _ | .vidx p _
  | .vcount p _ | .vminmax p _ => some p
  | .lsRd p _ _ _ | .lsWr p _ _ _ | .lsG p _ _ | .lsS p _ _ _ | .lsFe p _ _ | .lsUpd p _ _ _ _ => some p
  | .xbRoute p _ _ _ _ _ | .xbEase p _ _ _ _ _ _ _ | .xbHold p _ _ => some p
  | .tkNop p | .tkCnt p _ _ _ | .tkCntTick p | .tkSend p _ | .tkWait p _ _ | .tkSel p _ _ | .tkStitch p => some p
  | _ => none

/-- A tile of a panel runs a phase word whose predicate holds, and the word begins no clamp (R224). -/
structure TileWord (i : Instr) (s : State) (p n : Nat) (x : Panel) : Prop where
  focus : s.focus = .tile p n
  panel : s.panel? p = some x
  pred : ∃ pr, predOf i = some pr ∧ predHolds pr (x.tile n) = true
  noClamp : clampOf x n 0 s.cycle i = none

/-- A phase word completes: the panel becomes `y` but for its event counters, and nothing else changes. -/
def PanelEnds (i : Instr) (s : State) (p : Nat) (y : Panel) : Prop :=
  Ends i s fun t => outside t = outside s ∧ t.threads = s.threads ∧ t.cores = s.cores ∧
    (∀ q, q ≠ p → t.panel? q = s.panel? q) ∧ (t.panel? p).map uncounted = some (uncounted y)

/-- A lane-by-lane sum, difference, product or fused sum of a type: FP32 under the rounding mode, integers modulo 2^32. -/
def laneRule (f : VF) (fp : Nat → W32) (int : Nat → Int) (k : Nat) : W32 :=
  if f.aux.toNat % 4 = 0 then fp k else BitVec.ofInt 32 (int k)

/-- The greater or the lesser of two lanes as integers of the type's signedness. -/
def pickRule (signed greater : Bool) (a b : W32) : W32 :=
  let u (w : W32) : Int := if signed then w.toInt else w.toNat
  if greater then (if u a < u b then b else a) else if u b < u a then b else a

/-- The lanes of a VX form: its fields, whether its mask applies, and lane k (R236-R242), from the lanes of the registers
and the bits of the mask. -/
def vxRule (R : Reg → Nat → W32) (v : Reg → Lanes) (m : BitVec 3 → BitVec 16) : Instr → Option (VF × Bool × (Nat → W32))
  | .vadd _ f => some (f, true, laneRule f (fun k => f32add f.rnd.toNat (R f.a k) (R f.b k))
      fun k => (R f.a k).toNat + (R f.b k).toNat)
  | .vsub _ f => some (f, true, laneRule f (fun k => f32sub f.rnd.toNat (R f.a k) (R f.b k))
      fun k => (R f.a k).toNat - (R f.b k).toNat)
  | .vmul _ f => some (f, true, laneRule f (fun k => f32mul f.rnd.toNat (R f.a k) (R f.b k))
      fun k => (R f.a k).toNat * (R f.b k).toNat)
  | .vfma _ f => some (f, true, laneRule f (fun k => f32fma f.rnd.toNat (R f.a k) (R f.b k) (R f.c k))
      fun k => (R f.a k).toNat * (R f.b k).toNat + (R f.c k).toNat)
  | .vmax _ f => some (f, true, fun k => if VF.ty f = .f32 then f32max (R f.a k) (R f.b k)
      else pickRule (decide (VF.ty f = .s32)) true (R f.a k) (R f.b k))
  | .vmin _ f => some (f, true, fun k => if VF.ty f = .f32 then f32min (R f.a k) (R f.b k)
      else pickRule (decide (VF.ty f = .s32)) false (R f.a k) (R f.b k))
  | .vexp2 _ f => some (f, true, fun k => vexp2Lane (R f.a k))
  | .vlog2 _ f => some (f, true, fun k => vlog2Lane (R f.a k))
  | .vrcp _ f => some (f, true, fun k => vrcpLane (R f.a k))
  | .vrsq _ f => some (f, true, fun k => vrsqLane (R f.a k))
  | .vcvt _ f => some (f, false, fun k => cvtLane f (R f.a k) (R f.b k))
  | .vsel _ f => some (f, false, fun k => if (m f.k).getLsbD k then R f.a k else R f.b k)
  | .vand _ f => some (f, true, fun k => R f.a k &&& R f.b k)
  | .vor _ f => some (f, true, fun k => R f.a k ||| R f.b k)
  | .vxor _ f => some (f, true, fun k => R f.a k ^^^ R f.b k)
  | .vshl _ f => some (f, true, fun k => BitVec.ofNat 32 ((R f.a k).toNat * 2 ^ ((R f.b k).toNat % 256)))
  | .vshr _ f => some (f, true, fun k =>
      if VF.ty f = .s32 then BitVec.ofInt 32 ((R f.a k).toInt / 2 ^ ((R f.b k).toNat % 256))
      else BitVec.ofNat 32 ((R f.a k).toNat / 2 ^ ((R f.b k).toNat % 256)))
  | .vperm _ f => some (f, true, fun k => R f.a ((R f.b k).toNat % 16))
  | .vscan _ f => some (f, true, fun k => (vscanTree (redOp (f.aux.toNat / 4) (VF.ty f))
      (redLanes (f.aux.toNat / 4) (VF.ty f) (m f.k) (v f.a))).getD k 0#32)
  | .vred _ f => some (f, false, fun _ => vredTree (redOp (f.aux.toNat / 4) (VF.ty f))
      (redLanes (f.aux.toNat / 4) (VF.ty f) (m f.k) (v f.a)))
  | .vbcast _ f => some (f, true, fun _ => R f.a (f.aux.toNat % 16))
  | .vpack _ f => some (f, false, fun k => lane (packInto (packWidth (f.aux.toNat % 4)) (f.aux.toNat / 4) (v f.a) (v f.d)) k)
  | .vunpack _ f => some (f, false, fun k =>
      let w := [4, 8, 16, 6].getD (f.aux.toNat % 4) 6
      BitVec.ofNat 32 ((v f.a).toNat / 2 ^ (16 * w * (f.aux.toNat / 4) + w * k) % 2 ^ w))
  | .vmov _ f => some (f, true, fun k => R f.a k)
  | .vidx _ f => some (f, true, fun k => BitVec.ofNat 32 k)
  | .vcount _ f => some (f, false, fun _ => BitVec.ofNat 32 ((List.range 16).countP fun j => (m f.k).getLsbD j))
  | .vminmax _ f => some (f, false, minmaxLane (f.aux.toNat / 4) (f.aux.toNat % 4) (v f.a))
  | _ => none

/-- The conditions of `vcmp` on lanes (R238): FP32 with a NaN fulfils `ne` alone. -/
def vcmpRule (f : VF) (a b : W32) : Bool :=
  let cc := f.aux.toNat / 4
  let rel (x y : Int) : Bool :=
    match cc with
    | 0 => decide (x = y) | 1 => decide (x ≠ y) | 2 => decide (x < y) | 3 => decide (x ≤ y) | 4 => decide (y < x)
    | _ => decide (y ≤ x)
  match VF.ty f with
  | .f32 => if isNan32 a || isNan32 b then cc == 1 else rel (cmpKey32 a) (cmpKey32 b)
  | .s32 => rel a.toInt b.toInt
  | .u32 => rel a.toNat b.toNat

/-- A tile with a beat written to its output latch of an element (R214). -/
def latched (tl : Tile) (e : Fin 5) (b : Beat) : Tile := { tl with outNext := tl.outNext.set e b }

/-- A tile with an interval issued from a feed (R230); a bubble feed adds nothing. -/
def intervalIssued (tl : Tile) (a : BitVec 3) (r : BitVec 4) (feed : Beat) : Tile :=
  { tl with pipe := tl.pipe ++ [⟨a, r, if feed.bubble then none
      else some (mxRow tl.fa.toNat tl.fb.toNat feed.data feed.scale tl.weights tl.wscale), 17⟩] }

/-- The bytes of a row of 64 as one register, byte 0 lowest (R1). -/
def rowRegister (bs : List Byte) : Lanes := BitVec.ofNat 512 (ofBytes (bs.take 64))

/-- A tile with scratch writes appended to a strand's log, in order (R99). -/
def scratchLogged (tl : Tile) (i n : Nat) (ws : List (Nat × List Byte)) : Tile :=
  ws.foldl (fun tl w => tl.addLog i (.scratch n w.1 w.2 false)) tl

/-- The panel with the beats of both groups of a route delivered, output 0 first (R225). -/
def routed (x : Panel) (n : Nat) (a b : Beat) (outsA outsB : BitVec 8) : Panel :=
  ((List.range 7).filter fun o => outsB.getLsbD o).foldl (fun x o => deliver x n o b)
    (((List.range 7).filter fun o => outsA.getLsbD o).foldl (fun x o => deliver x n o a) x)

/-- The beat of a source that is no stream (R215, R225, R227); F is no connection. -/
def sourceBeat (tl : Tile) (src : BitVec 4) : Beat :=
  if src = 15#4 then Beat.bubbleBeat else if src = 8#4 then tl.hold else presented tl src.toNat

/-! ## Steps of the device (R22-R39, R77, R84, R92, R99, R182, R228-R232, R245, R250, R259, R291, R299, R321-R354) -/

/-- A state with a quilt command replaced, or a press command. -/
def withQuilt (s : State) (n : Nat) (c : QuiltCmd) : State := { s with quilts := FMap.set s.quilts n c }

/-- The words that the present row of a panel executes: none where its strand does not run (R17, R20, R140). -/
def rowWordsOf (u : State) (p : Nat) (y : Panel) : List RowWord := if rowRuns u p y then rowWords y else []

/-- A stream with elements of its next beat for a tile read: their number, bytes and addresses kept (R101). -/
def partsTaken (sl : StreamSlot) (n : Nat) (ks : List Nat) (bs : List Byte) (pas : List (Nat × Nat)) : StreamSlot :=
  { sl with parts := FMap.set sl.parts n ((partOf sl n).1 + ks.length, (partOf sl n).2.1 ++ bs, (partOf sl n).2.2 ++ pas) }

/-- The state in which the next beat of a stream is wholly read: nothing of it was left, or what was left has been read. -/
def BeatRead (s : State) (p n q : Nat) (x : Panel) (sl : StreamSlot) (v : State) : Prop :=
  (elemsLeft x sl n = [] ∧ v = s) ∨ (elemsLeft x sl n ≠ [] ∧ ∃ u bs pas,
    readElems s p n (q / 16 % 4) (blockOf x n) sl (elemsLeft x sl n) = .ok (u, bs, pas) ∧
    v = u.modPanel p fun y => y.setSlot (q / 16 % 4) (q % 16) (partsTaken sl n (elemsLeft x sl n) bs pas))

/-- The head of a channel of copies, its command active: no held fault, not failed. -/
structure CopyHead (s : State) (c n : Nat) (cmd : Copy) (rest : List Copy) : Prop where
  head : (chanOf s c n).queue = cmd :: rest
  live : cmd.heldFault = false ∧ cmd.failed = false

/-- The eight-byte completion word of a quilt command: bit 63, the code, the result fields (R291). -/
def quiltDone (code fields : Nat) : List Byte := toBytes 8 (2 ^ 63 + code * 2 ^ 56 + fields)

/-- A pending count raised by one on every tile and in the lead AG tile (R250). -/
def TackRaised (x y : Panel) (ch : Nat) : Prop :=
  (∀ n, n < x.ntiles → (y.tile n).pend ch = (x.tile n).pend ch + 1) ∧
  (∀ k : Fin 16, y.agPending[k] = if k.val = ch then x.agPending[k] + 1 else x.agPending[k])

/-- A device message of the clock is acted on: its link is up and the device is no grandmaster (R345). -/
def clockHears (s : State) (l : Nat) : Bool := ((FMap.get? s.links l).map (·.up)).getD false && !s.clock.grandmaster

/-- A copy to a peer that has still to write a part or to be answered. -/
def unsent (peer : Nat) (c : Copy) : Prop := c.peer = peer ∧ (c.wroteParts.length < copyParts c ∨ c.unanswered ≠ 0)

/-- The flits sent over a link since a state. -/
def sentOver (s t : State) (l : Nat) : List Flit :=
  (((FMap.get? t.links l).map (·.out)).getD []).drop (((FMap.get? s.links l).map (·.out)).getD []).length

/-- Nothing differs from a state but the counters of panels and cores. -/
def OnlyCounts (s t : State) : Prop :=
  outside t = outside s ∧ t.threads = s.threads ∧ (∀ p, (t.panel? p).map uncounted = (s.panel? p).map uncounted) ∧
    ∀ c, uncountedCore (t.core? c) = uncountedCore (s.core? c)

/-- A flit failed its check: nothing differs from a state but counters, where every panel's counters of ev82 and ev83 have counted it (R198,
R344). -/
def CrcFailed (s t : State) : Prop :=
  OnlyCounts s t ∧ ∀ p x, s.panel? p = some x → ∃ y, t.panel? p = some y ∧
    ∀ j : Fin 4, (x.counters[j].event = some 82 → y.counters[j] = x.counters[j].add 82 1) ∧
      (x.counters[j].event = some 83 → y.counters[j] = x.counters[j].add 83 1)

/-- The record of a chalk snapshot of a one-block panel (R336), no cause clamping it. -/
def snapshotRecord (s : State) (p : Nat) (x : Panel) : List Byte :=
  toBytes 8 s.tick.toNat ++ toBytes 4 (taskId s x.entry).toNat ++ [BitVec.ofNat 8 x.row, BitVec.ofNat 8 x.schedB.toNat, 0#8, 0#8] ++
    toBytes 8 (x.live - x.armedAt) ++ (x.counters.toList.flatMap fun k => toBytes 8 (countWord k.count k.ovf).toNat) ++
    ((List.range 4).flatMap fun i => toBytes 8 (s.thread (.seq p i)).pc.toNat) ++ List.replicate 40 0#8

/-- A party is in a wait, and neither held by the debug unit nor frozen (R267, R329), and its panel may stitch where its form does so before it
tests (R31, R118, R160). -/
structure WaitsAt (s : State) (p : Party) (w : Wait) : Prop where
  wait : (s.thread p).wait = some w
  moves : isStill s p = false
  runs : (s.thread p).status = .running
  stitches : w.stitches = false ∨ stitchBarred s p = false

/-- A context has a fault due for a service-core thread that may be entered: no home is still to answer it (R321). -/
structure FaultDue (s : State) (c n : Nat) (f : FaultRec) : Prop where
  due : (s.ctxt c).delivery = some (f, n)
  enters : isHeld s (.core n) = false ∧ (s.thread (.core n)).priv ≠ .machine ∧ FMap.get? s.asked (.core n) = none

end Sys2Proof

open Sys2Proof Sys2Proof.Machine

/-! ## Integer and address arithmetic -/

/-- R161, R162: every form of the alu group, every immediate form and movi write g[d] as their rows state, advance the pc and
change nothing else; a write to g0 is discarded (R124). -/
def Obligations.ArithmeticResults : Prop :=
  (∀ (i : Instr) (s : State) (d : Reg) (v : Word),
    aluRule s.g i = some (d, v) → Issues i s → RunsTo i s (pastWord i (s.cur.put d v))) ∧
  (∀ (i : Instr) (s : State) (d : Reg) (v : Word),
    immediateRule s.g i = some (d, v) → Issues i s → RunsTo i s (pastWord i (s.cur.put d v)))

/-! ## Branches, calls and hardware loops -/

/-- R163: br, jal, jalr, bcc and nop complete at their target or at next, and change nothing else; jalr to a target that is not
a multiple of 4 traps E.ALIGN with the target as its value. -/
def Obligations.FlowFormsComplete : Prop :=
  (∀ (i : Instr) (s : State) (th : Thread), flowRule s i = some th → MayIssue i s → (transfers s i = true ∨ NoTrip i s.cur) →
    RunsTo i s th) ∧
  (∀ (d a : Reg) (imm : BitVec 16) (s : State), MayIssue (.jalr d a imm) s →
    (s.g a + BitVec.ofInt 64 imm.toInt).toNat % 4 ≠ 0 → Traps (.jalr d a imm) s .align (s.g a + BitVec.ofInt 64 imm.toInt))

/-- R167: loop and loopw enter their slot with the stated limits, or trap E.LOOPSPEC with nothing written; a count of 0
leaves the slot inactive and continues past the end. -/
def Obligations.LoopFormsEnter : Prop :=
  (∀ (slot : BitVec 2) (a : Reg) (e : BitVec 15) (bound : BitVec 24) (s : State),
    let i := Instr.loop slot a e bound
    let l := loopLimits s slot.toNat e (s.g a) true
    MayIssue i s →
      (loopRefused bound true l → Traps i s .loopSpec (s.cur.pc + BitVec.ofNat 64 slot.toNat)) ∧
      (¬ loopRefused bound true l → RunsTo i s (loopEntered s slot.toNat true l))) ∧
  (∀ (slot : BitVec 2) (e : BitVec 15) (bound : BitVec 24) (s : State),
    let i := Instr.loopw slot e bound
    let l := loopLimits s slot.toNat e (BitVec.ofNat 64 bound.toNat) false
    MayIssue i s →
      (loopRefused bound false l → Traps i s .loopSpec (s.cur.pc + BitVec.ofNat 64 slot.toNat)) ∧
      (¬ loopRefused bound false l → RunsTo i s (loopEntered s slot.toNat false l)))

/-- R168: a word that occupies the latched end of an active slot ends a trip of the most recently entered such slot: it
branches to the latched start while trips are left, else the slot becomes inactive, and a loopw then traps E.LOOPBOUND
past the end with the word's effects standing. -/
def Obligations.TripEnds : Prop :=
  ∀ (i : Instr) (s : State) (th : Thread) (j : Nat) (before after : List Nat),
    plainRule s i = some th → mayIssue s.focus i = true → j < 4 →
    s.cur.order = before ++ j :: after → (∀ k ∈ before, endsAt i s.cur k = false) → endsAt i s.cur j = true →
      (2 ≤ (s.cur.slot j).left.toNat → RunsTo i s
        { (th.setSlot j { s.cur.slot j with left := (s.cur.slot j).left - 1#64 }).sign true with
          pc := (s.cur.slot j).lstart }) ∧
      ((s.cur.slot j).left.toNat ≤ 1 → (s.cur.slot j).exits = false → (∀ k ∈ after, k % 4 ≠ j ∧ endsAt i s.cur k = false) →
        RunsTo i s (pastWord i (slotLeft th j))) ∧
      ((s.cur.slot j).left.toNat ≤ 1 → (s.cur.slot j).exits = true →
        ∃ u, exec i s = .next (noteIssue (raise u ⟨.loopBound, (s.cur.slot j).lstart + BitVec.ofNat 64 j, none⟩)) ∧
          Elsewhere s u ∧ u.cur = { slotLeft th j with pc := (s.cur.slot j).lstop + 4#64 })

/-- R169: lexit goes on to next where its condition fails; else it traps on an inactive slot, or leaves the slot and
every slot entered after it and continues past the latched end. -/
def Obligations.LexitLeavesLoops : Prop :=
  ∀ (cc : CC) (a b : Reg) (slot : BitVec 2) (s : State),
    let i := Instr.lexit cc a b slot
    let h := s.cur.slot slot.toNat
    MayIssue i s →
      (ruleHolds cc (s.g a) (s.g b) = false → NoTrip i s.cur → RunsTo i s (pastWord i (s.cur.sign false))) ∧
      (ruleHolds cc (s.g a) (s.g b) = true → h.active = false →
        Traps i s .loopSpec (s.cur.pc + BitVec.ofNat 64 slot.toNat)) ∧
      (ruleHolds cc (s.g a) (s.g b) = true → h.active = true → RunsTo i s
        { ((s.cur.deactivate (enteredAfter s.cur.order slot.toNat)).setSlot slot.toNat
            { h with left := 0#64, active := false }).sign true with pc := h.lstop + 4#64 })

/-- R164: fin on a service core ends its task's thread and changes nothing else; on a sequencer without a failed load
the strand is finished after its stitch, which no row of the panel holds back. -/
def Obligations.FinEndsThread : Prop :=
  (∀ (s : State) (n : Nat), s.focus = .core n → RunsTo .fin s { s.cur with status := .finished }) ∧
  (∀ (s : State) (p i : Nat) (x : Panel), s.focus = .seq p i → s.panel? p = some x →
    (x.strand i).failed = none → stitchBarred s (.seq p i) = false →
      Ends .fin s fun t => (t.thread (.seq p i)).status = .finished ∧
        ∃ y, t.panel? p = some y ∧ (y.strand i).finished = true ∧ (y.strand i).log = [])

/-! ## Traps, returns and system forms -/

/-- R118, R138, R139: a control word that its issuer may not run traps E.ILLEGAL, and one above its privilege E.PRIV, before
any of its effect, with the word as the value; a form that stitches is issued again, nothing of it performed, while a row of its panel holds
its stitch back (the model's choice, log 131). -/
def Obligations.IssueRefused : Prop :=
  ∀ (i : Instr) (s : State), isControl i = true →
    (mayIssue s.focus i = false → Traps i s .illegal (BitVec.ofNat 64 i.firstWord.toNat)) ∧
    (mayIssue s.focus i = true → needsSupervisor i = true → partyPriv s s.focus = .user →
      Traps i s .priv (BitVec.ofNat 64 i.firstWord.toNat)) ∧
    (mayIssue s.focus i = true → (needsSupervisor i = true → partyPriv s s.focus ≠ .user) → stitchWaits i s = true →
      exec i s = .next s)

/-- R315, R318, R321: a service-core thread takes its own fault at once: the trap registers record its pc, cause and value, with
busy set; g31 and `c.tscratch` are exchanged; the thread goes on at supervisor privilege at the handler's address; memory, the panels, the
other threads and the other contexts stay. -/
def Obligations.OwnFaultEntersHandler : Prop :=
  ∀ (s : State) (n : Nat) (t : Trap), Deliverable s n → TookTrap s (raise s t) n t.cause t.val

/-- R165, R204, R139: trap at user, a word of no assigned form, and a fetch that fails end in the handler of the thread,
each with its cause and value; trap at supervisor reaches firmware, `c.trapval` and `c.trappc` written, and goes on (that the request is
recorded and the thread goes on at once is the model's choice, log 24). -/
def Obligations.TrapFormsEnterHandler : Prop :=
  (∀ (a : Reg) (s : State) (n : Nat), Deliverable s n → partyPriv s (.core n) = .user →
    Ends (.trap a) s fun t => TookTrap s t n .priv (s.g a)) ∧
  (∀ (a : Reg) (s : State) (n : Nat), s.focus = .core n → MayIssue (.trap a) s → NoTrip (.trap a) s.cur →
    partyPriv s (.core n) = .supervisor →
      let x := s.ctxt s.cur.ctx
      Leaves (.trap a) s (s.setCtxt s.cur.ctx { x with
        fwreq := x.fwreq ++ [(n, s.g a)], trapval := s.g a, trappc := s.cur.pc }) (pastWord (.trap a) s.cur)) ∧
  (∀ (w : W32) (s : State) (n : Nat), Deliverable s n →
    Ends (.unassignedOpcode w) s fun t => TookTrap s t n .illegal (BitVec.ofNat 64 w.toNat)) ∧
  (∀ (s : State) (n : Nat) (t : Trap), Deliverable s n → fetchTrap s s.focus s.cur.pc = some t →
    Ends .fetchFault s fun u => TookTrap s u n t.cause t.val)

/-- R322: eret after a fault of the thread's own, with `c.fact` 0 or not written, returns to `c.trappc` with the saved
privilege and g31, clears busy, and changes nothing else. -/
def Obligations.EretReturns : Prop :=
  ∀ (s : State) (n : Nat) (f : FaultRec), HandlesOwn s n f →
    ((s.ctxt (partyCtx s (.core n))).fact = none ∨ (s.ctxt (partyCtx s (.core n))).fact = some 0#2) →
      Leaves .eret s (s.setCtxt (partyCtx s (.core n)) { s.ctxt (partyCtx s (.core n)) with
          trapcause := (s.ctxt (partyCtx s (.core n))).trapcause &&& 0x7FFFFFFFFFFFFFFF#64
          handling := none, fact := none })
        (returned (s.ctxt (partyCtx s (.core n))) s.cur)

/-- R96, R206: tlbinv waits; its completion leaves no entry of the context that maps a byte of the range, keeps the
others, and lets the thread go on. -/
def Obligations.TlbinvInvalidates : Prop :=
  (∀ (a b : Reg) (s : State), Issues (.tlbinv a b) s →
    RunsTo (.tlbinv a b) s { s.cur with wait := some ⟨.tlbinv a b, s.cycle, none, true⟩ }) ∧
  (∀ (p : Party) (s : State) (a b : Reg) (w : Wait), (s.thread p).wait = some w → w.instr = .tlbinv a b →
    NoTrip (.tlbinv a b) (s.thread p) →
      Leaves (.tlbinvComplete p) s
        { s with
          focus := p
          tlb := s.tlb.filter fun e => !(e.ctx == partyCtx s p && (((s.thread p).get b).toNat == 0 ||
            (decide (e.base < ((s.thread p).get a).toNat + ((s.thread p).get b).toNat) &&
              decide (((s.thread p).get a).toNat < e.base + pageSize e.level)))) }
        { s.thread p with wait := none, pc := (s.thread p).pc + 4#64 })

/-- R207, R335: ctxsave of an aligned and writable area stores the thread's image and goes on; ctxload of a readable,
well-formed image restores the thread and the trap registers, and of a malformed one traps E.ENGINE with nothing
written. The loop kind of a restored slot is a free value (log 23), the thread's status under a later handler running (log 92), the end of
the order field that is the most recent the model's choice (log 49). -/
def Obligations.SwitchingImages : Prop :=
  (∀ (a : Reg) (s u : State), Issues (.ctxsave a) s → (s.g a).toNat % 256 = 0 →
    storeParts s s.focus 32 (s.g a) (saveImage s.cur (s.ctxt (partyCtx s s.focus))
      (if inHandler s then s.cur.tscratch else s.cur.get 31#5)) = .ok u → u.focus = s.focus →
    NoTrip (.ctxsave a) u.cur →
      Leaves (.ctxsave a) s u (pastWord (.ctxsave a) u.cur)) ∧
  (∀ (a : Reg) (s u : State) (img : List Byte) (th : Thread), Issues (.ctxload a) s → (s.g a).toNat % 256 = 0 →
    loadParts s s.focus 32 (s.g a) = .ok (u, img) → u.focus = s.focus →
    imgThread u.cur img (inHandler u) u.fresh = some th →
    NoTrip (.ctxload a) th →
      Leaves (.ctxload a) s
        (State.setCtxt { u with fresh := u.fresh + 1 } (partyCtx u u.focus) (imgContext (u.ctxt (partyCtx u u.focus)) img))
        (pastWord (.ctxload a) { th with before := .running })) ∧
  (∀ (a : Reg) (s u : State) (img : List Byte), Issues (.ctxload a) s → (s.g a).toNat % 256 = 0 →
    loadParts s s.focus 32 (s.g a) = .ok (u, img) → imgThread u.cur img (inHandler u) u.fresh = none →
      Traps (.ctxload a) s .engine (BitVec.ofNat 64 (Instr.ctxload a).firstWord.toNat))

/-! ## Control registers -/

/-- R127, R205, R317: cget reads each register of the table at its privilege, traps E.PRIV below it and E.ILLEGAL for a
number not in the table. -/
def Obligations.CgetReadsRegisters : Prop :=
  ∀ (d : Reg) (n : BitVec 16) (s : State), Issues (.cget d n) s →
    let word : Word := BitVec.ofNat 64 (Instr.cget d n).firstWord.toNat
    (∀ v sup, cgetRule s n.toNat = some (v, sup) → (sup = true → partyPriv s s.focus ≠ .user) →
      RunsTo (.cget d n) s (pastWord (.cget d n) (s.cur.put d v))) ∧
    (∀ v, cgetRule s n.toNat = some (v, true) → partyPriv s s.focus = .user → Traps (.cget d n) s .priv word) ∧
    (cgetRule s n.toNat = none → Traps (.cget d n) s .illegal word)

/-- R127, R166, R205, R315, R318, R322: cset writes each register of a context or of the thread under its layout, changes
nothing where it is ignored, acts as the write step of its register elsewhere, and traps E.PRIV or E.ILLEGAL as cget. -/
def Obligations.CsetWritesRegisters : Prop :=
  ∀ (a : Reg) (n : BitVec 16) (s : State), Issues (.cset a n) s →
    let word : Word := BitVec.ofNat 64 (Instr.cset a n).firstWord.toNat
    (∀ u, csetAllowed s (csetAt n.toNat) = true → csetRule s n.toNat (s.g a) = some u →
      Leaves (.cset a n) s u (pastWord (.cset a n) u.cur)) ∧
    (∀ i, csetAllowed s (csetAt n.toNat) = true → CsetStep (partyCtx s s.focus) n (s.g a) i → ∃ u, exec i s = .next u ∧
      (u.focus = s.focus → NoTrip (.cset a n) u.cur → Leaves (.cset a n) s u (pastWord (.cset a n) u.cur))) ∧
    ((cgetRule s n.toNat).isSome = true → csetAllowed s (csetAt n.toNat) = false → Traps (.cset a n) s .priv word) ∧
    (cgetRule s n.toNat = none → Traps (.cset a n) s .illegal word)

/-- R36, R83, R90, R166, R312, R318, R324, R341: what each write step of a control or page register leaves, and that it changes
nothing else; a write named by its register's number acts as a `cset` at supervisor privilege of the party, and changes nothing where R127
or R87 refuses it; a page under a function-level reset takes no write (R343). A start through GREPLAY sets busy alone, the replay beginning
in a step of its own (the model's choice, log 107); the page of a TDI in RUN takes a write only where IDE protects it, which is a free value
(R348; the model's choice, log 138). -/
def Obligations.RegisterWriteSteps : Prop :=
  (∀ c v s, exec (.ptrootWrite c v) s = .next (s.setCtxt c { s.ctxt c with ptroot := v &&& 0x000FFFFFFFFF0001#64 })) ∧
  (∀ c v s, exec (.tvecWrite c v) s = .next (s.setCtxt c (tvecWritten (s.ctxt c) v))) ∧
  (∀ p slot field v s, exec (.loopRegisterWrite p slot field v) s = .next (s.setThread p
    ((s.thread p).setSlot slot.toNat (loopWritten ((s.thread p).slot slot.toNat) field.toNat v)))) ∧
  (∀ (n : Nat) v s, n < 16 → exec (.frtWrite n 0 v) s = .next { s with
    frt := FMap.set s.frt n (frtBaseWritten s (FMap.getD s.frt n ⟨0, 0, 0⟩) v) }) ∧
  (∀ (n : Nat) v s, n < 16 → exec (.frtWrite n 1 v) s = .next { s with
    frt := FMap.set s.frt n { FMap.getD s.frt n ⟨0, 0, 0⟩ with limit := v &&& 0x000FFFFFFFFF0000#64 } }) ∧
  (∀ (n : Nat) v s, n < 16 → exec (.frtWrite n 2 v) s = .next { s with
    frt := FMap.set s.frt n { FMap.getD s.frt n ⟨0, 0, 0⟩ with scale := v &&& 0x000FFFFFFFFFFFF0#64 } }) ∧
  (∀ p c n v s,
    ((partyCtx s p ≠ c ∨ cgetRule s n.toNat = none ∨ supervisorMay s c (csetAt n.toNat) = false) →
      exec (.registerWrite p c n v) s = .next s) ∧
    (∀ u, partyCtx s p = c → supervisorMay s c (csetAt n.toNat) = true → csetRule { s with focus := p } n.toNat v = some u →
      exec (.registerWrite p c n v) s = .next { u with focus := s.focus }) ∧
    (∀ i, partyCtx s p = c → supervisorMay s c (csetAt n.toNat) = true → CsetStep c n v i →
      exec (.registerWrite p c n v) s = exec i s)) ∧
  (∀ c v s, (s.ctxt c).cstat.getLsbD 62 = false → c + 1 ∉ s.tdiRun →
    exec (.fsumWrite c v) s = .next (s.setCtxt c { s.ctxt c with
      fsum := (v &&& 0xFFFFFFFFFFFFFF00#64) ||| ((s.ctxt c).fsum &&& 0x80#64 &&& ~~~v) ||| ((s.ctxt c).fsum &&& 0x1F#64) }) ∧
    exec (.cpolWrite c v) s = .next (s.setCtxt c { s.ctxt c with cpol := v.setWidth 2 }) ∧
    exec (.slognWrite c v) s = .next (s.setCtxt c { s.ctxt c with slogn := v &&& 0xFFFFFFFF#64 }) ∧
    exec (.greplayWrite c v) s = .next (s.setCtxt c { s.ctxt c with greplay := greplayWritten (s.ctxt c).greplay v })) ∧
  (∀ c v s, (s.ctxt c).cstat.getLsbD 62 = true → c + 1 ∉ s.tdiRun →
    exec (.fsumWrite c v) s = .next s ∧ exec (.cpolWrite c v) s = .next s ∧ exec (.slognWrite c v) s = .next s ∧
    exec (.greplayWrite c v) s = .next s) ∧
  (∀ c v s i, c + 1 ∈ s.tdiRun → (i = .fsumWrite c v ∨ i = .cpolWrite c v ∨ i = .slognWrite c v ∨ i = .greplayWrite c v) →
    let u := { s with fresh := s.fresh + 1 }
    (Config.hostIde s.fresh = false → exec i s = .next u) ∧
    (Config.hostIde s.fresh = true →
      ∃ w, exec i { u with tdiRun := [] } = .next w ∧ exec i s = .next { w with tdiRun := s.tdiRun }))

/-- R87: a write of a group mode or of a region mask sets it, keeps every other mode and mask, and leaves each byte at its
DRAM location: a location reads after the write as it read before. -/
def Obligations.HbmMapWriteKeepsLocations : Prop :=
  ∀ (reg : BitVec 16) (v : Word) (s : State), Memory.wf s.mem = true →
    (∀ n, FMap.getD s.hbmMc n 0#64 &&& 0x000FFFFFFFFFC000#64 = FMap.getD s.hbmMc n 0#64) →
    (∀ n, FMap.getD s.hbmMp n 0#64 &&& 0x000FFFFFFFFFC000#64 = FMap.getD s.hbmMp n 0#64) →
    Ends (.hbmMapWrite reg v) s fun t =>
    (0x0800 ≤ reg.toNat ∧ reg.toNat ≤ 0x087F →
      (∀ j, t.hbmMode.contains j = if j = reg.toNat - 0x0800 then v.getLsbD 0 else s.hbmMode.contains j) ∧
      t.hbmMc = s.hbmMc ∧ t.hbmMp = s.hbmMp) ∧
    (0x1000 ≤ reg.toNat ∧ reg.toNat ≤ 0x15FF → t.hbmMode = s.hbmMode ∧ t.hbmMp = s.hbmMp ∧
      ∀ n, FMap.getD t.hbmMc n 0#64 = if n = reg.toNat - 0x1000 then v &&& 0x000FFFFFFFFFC000#64 else FMap.getD s.hbmMc n 0#64) ∧
    (0x2000 ≤ reg.toNat ∧ reg.toNat ≤ 0x25FF → t.hbmMode = s.hbmMode ∧ t.hbmMc = s.hbmMc ∧
      ∀ n, FMap.getD t.hbmMp n 0#64 = if n = reg.toNat - 0x2000 then v &&& 0x000FFFFFFFFFC000#64 else FMap.getD s.hbmMp n 0#64) ∧
    (∀ pa, 0x00C000000000 ≤ pa → readCell t.mem pa = readCell s.mem pa) ∧
    (∀ pa, pa < 0x00C000000000 → readCell t.mem pa =
      readCell s.mem (paOfLoc (hbmOf s) (dramLoc (hbmOf t) pa).1 (dramLoc (hbmOf t) pa).2))

/-! ## Loads, stores and scratch -/

/-- R170, R100, R101, R340: a load whose access translates and is aligned completes with g[d] the extended bytes that its party reads, and a failed
translation, then a misaligned address, then a host completion with an error status, traps; only translation, caches and queued updates change
beside the register. That the access is answered within the step, the caches it misses filled behind what is queued, is one of the two forms that a
load takes (log 115); a trap after a translation leaves the state from before it (log 34), and the error status is seen by reads alone (log 116). -/
def Obligations.LoadsComplete : Prop :=
  ∀ (i : Instr) (n : Nat) (d a : Reg) (off : BitVec 14) (signed : Bool) (s : State),
    loadForm i = some (n, d, a, off, signed) → Issues i s →
    (∀ t, translate s (partyReq s s.focus .read) (ruleAddr s a off n) = .error t →
      exec i s = .next (raise (noteIssue s) t)) ∧
    (∀ u tg, translate s (partyReq s s.focus .read) (ruleAddr s a off n) = .ok (u, tg) →
      ((ruleAddr s a off n).toNat % n ≠ 0 → Traps i s .align (ruleAddr s a off n)) ∧
      ((ruleAddr s a off n).toNat % n = 0 → hostFails u tg.pa = true → Traps i s .perm (ruleAddr s a off n)) ∧
      ((ruleAddr s a off n).toNat % n = 0 → hostFails u tg.pa = false → paKind u tg.pa ≠ .device →
        (∀ w bs, readFor u s.focus tg n = .ok (w, bs) → Leaves i s w (pastWord i (s.cur.put d (ruleExtend bs signed)))) ∧
        (∀ t, readFor u s.focus tg n = .error t → exec i s = .next (raise (noteIssue s) t))))

/-- R100: a load served by a held translation, with nothing queued at its home, no poison and no dirty sideband that the L2 could write back,
changes no byte of memory, no register but g[d], and no trap or special register; a sequencer reads the home under its own log, a service core
that caches no byte of it reads the home. -/
def Obligations.LoadFrame : Prop :=
  ∀ (i : Instr) (n : Nat) (d a : Reg) (off : BitVec 14) (signed : Bool) (s : State) (tg : Target),
    loadForm i = some (n, d, a, off, signed) → Issues i s →
    translate s (partyReq s s.focus .read) (ruleAddr s a off n) = .ok (s, tg) → (ruleAddr s a off n).toNat % n = 0 →
    (paKind s tg.pa = .first ∨ paKind s tg.pa = .second) → tg.pa % n = 0 →
    FMap.getD s.homeQ (sliceOf tg.pa) [] = [] → s.poison = [] → (∀ e ∈ s.sides, true ∉ e.2.dirty) →
      Ends i s fun t =>
        (∀ dom pa, homeByte t dom pa = homeByte s dom pa) ∧ t.homeQ = s.homeQ ∧ t.contexts = s.contexts ∧
        (∀ p, p ≠ s.focus → t.thread p = s.thread p) ∧ t.cur.pc = s.cur.pc + 4#64 ∧
        (∀ x, x ≠ d → t.g x = s.g x) ∧
        (d ≠ 0#5 → (∀ c, s.focus = .core c → ∀ k, k < 32 → FMap.get? (s.core? (c / 2)).l1 (tg.pa / 32 * 32 + k) = none) →
          t.g d = ruleExtend (overlayMem (ownLog s s.focus) tg.pa (homeBytes s tg.dom tg.pa n)) signed)

/-- R99, R109, R170, R260: a store completes: a sequencer appends its bytes to its log, unless they overflow it
(E.LOGFULL), and changes no memory; a service core's bytes enter the home queues at its translated address; a failed
translation, then a misaligned address, traps, the state as before it (log 34). -/
def Obligations.StoresComplete : Prop :=
  ∀ (sz : Size) (d a : Reg) (off : BitVec 14) (s : State),
    let i := Instr.st sz d a off
    let A := ruleAddr s a off sz.bytes
    let bs := toBytes sz.bytes (s.g d).toNat
    Issues i s →
    (∀ t, translate s (partyReq s s.focus .write) A = .error t → exec i s = .next (raise (noteIssue s) t)) ∧
    (∀ u tg, translate s (partyReq s s.focus .write) A = .ok (u, tg) →
      (A.toNat % sz.bytes ≠ 0 → Traps i s .align A) ∧
      (A.toNat % sz.bytes = 0 → paKind u tg.pa ≠ .device →
        (∀ p k x, s.focus = .seq p k → u.panel? p = some x →
          (logSize (x.strand k).log + wordsTouched [⟨tg.pa, bs, tg.wt, tg.dom⟩] ≤ 1024 →
            Leaves i s (u.setPanel p (seqLogged x k (.memory [⟨tg.pa, bs, tg.wt, tg.dom⟩]))) (pastWord i s.cur)) ∧
          (1024 < logSize (x.strand k).log + wordsTouched [⟨tg.pa, bs, tg.wt, tg.dom⟩] →
            Traps i s .logFull (BitVec.ofNat 64 (logSize (x.strand k).log + wordsTouched [⟨tg.pa, bs, tg.wt, tg.dom⟩])))) ∧
        (∀ c, s.focus = .core c → Ends i s fun t =>
          t.mem = u.mem ∧ t.contexts = u.contexts ∧ t.poison = u.poison ∧ t.seals = u.seals ∧
          t.homeQ = (pushHome u tg.dom (partyTask s s.focus) tg.pa bs (some (.core (c / 2)))).homeQ ∧
          (∀ p, p ≠ s.focus → t.thread p = s.thread p) ∧ (∀ x, t.g x = s.g x) ∧ t.cur.pc = s.cur.pc + 4#64)))

/-- R1, R99: bytes written at their home read back there, and every other byte of memory is unchanged, where nothing waits at the homes of
their lines, the sectors written belong to the writer's domain and the L2 holds no line of them under another. -/
def Obligations.HomeWriteReadsBack : Prop :=
  ∀ (s : State) (dom : Nat) (task : BitVec 32) (pa : Nat) (bs : List Byte) (w : Option Writer),
    Memory.wf s.mem = true → (∀ h ∈ slicesOf pa bs.length, FMap.getD s.homeQ h [] = []) → s.tasks = [] →
    (∀ k, k < bs.length → sealFits s dom (sectorOf (pa + k)) = true ∧ otherDomain s dom (lineOf (pa + k)) = false) →
      (∀ a, readCell (writeHomeNow s dom task pa bs w).mem a =
        if pa ≤ a ∧ a < pa + bs.length then bs.getD (a - pa) 0 else readCell s.mem a) ∧
      Memory.wf (writeHomeNow s dom task pa bs w).mem = true

/-- R76, R78, R118, R171, R172: scratch loads and stores complete inside their scratch, aligned: a load reads the published
bytes under a sequencer's own log, and waits with no effect in a row that reserves the bank (how a row bars a bank is the model's choice, log
131); a service core's store lands at once, a sequencer's store enters its log; stfill sets
its word full; outside the scratch E.PERM, then misaligned E.ALIGN. -/
def Obligations.ScratchFormsComplete : Prop :=
  (∀ (i : Instr) (n : Nat) (d a : Reg) (off : BitVec 14) (signed : Bool) (s : State),
    scratchLoadForm i = some (n, d, a, off, signed) → Issues i s →
    (scratchLoc s s.focus (ruleAddr s a off n) n = none → Traps i s .perm (ruleAddr s a off n)) ∧
    (∀ l, scratchLoc s s.focus (ruleAddr s a off n) n = some l →
      ((ruleAddr s a off n).toNat % n ≠ 0 → Traps i s .align (ruleAddr s a off n)) ∧
      ((ruleAddr s a off n).toNat % n = 0 → bankReserved s s.focus l n = true → exec i s = .next s) ∧
      ((ruleAddr s a off n).toNat % n = 0 → bankReserved s s.focus l n = false → scratchEcc s s.focus l n = none →
        RunsTo i s (pastWord i (s.cur.put d (ruleExtend (readScratch s s.focus l n) signed)))))) ∧
  (∀ (i : Instr) (n : Nat) (d a : Reg) (off : BitVec 14) (full : Bool) (s : State),
    scratchStoreForm i = some (n, d, a, off, full) → Issues i s →
    (scratchLoc s s.focus (ruleAddr s a off n) n = none → Traps i s .perm (ruleAddr s a off n)) ∧
    (∀ l, scratchLoc s s.focus (ruleAddr s a off n) n = some l →
      ((ruleAddr s a off n).toNat % n ≠ 0 → Traps i s .align (ruleAddr s a off n)) ∧
      ((ruleAddr s a off n).toNat % n = 0 →
        (∀ c o, l = .core c o → Leaves i s (landCore s c o (toBytes n (s.g d).toNat) full) (pastWord i s.cur)) ∧
        (∀ p k x y o, l = .tile y o → s.focus = .seq p k → s.panel? p = some x →
          logSize (x.strand k).log + logSpan o n ≤ 1024 →
            Leaves i s (s.setPanel p (seqLogged x k (.scratch y o (toBytes n (s.g d).toNat) full))) (pastWord i s.cur)))))

/-- R30, R111, R118, R172, R183, R184: ldsync, ldsync.e, waitw and pinwait complete where their test holds at once, and else wait,
or trap E.WAITBOUND with a timeout of 0; ldsync makes no test in a row that reserves the bank (the model's choice, log 131), and waitw tests
the bytes at the home under the strand's own log (the model's choice, log 47); a chunk of a pin mask outside the scratchpad traps E.PERM. -/
def Obligations.WaitFormsComplete : Prop :=
  (∀ (d a : Reg) (off : BitVec 14) (s : State) (l : ScratchLoc), Issues (.ldsync d a off) s →
    scratchLoc s s.focus (ruleAddr s a off 8) 8 = some l → (ruleAddr s a off 8).toNat % 8 = 0 →
    (bankReserved s s.focus l 8 = true → exec (.ldsync d a off) s = .next s) ∧
    (bankReserved s s.focus l 8 = false → isFull s s.focus l = true → scratchEcc s s.focus l 8 = none → RunsTo (.ldsync d a off) s
      (pastWord (.ldsync d a off) (s.cur.put d (BitVec.ofNat 64 (ofBytes (readScratch s s.focus l 8)))))) ∧
    (bankReserved s s.focus l 8 = false → isFull s s.focus l = false → WaitsFor (.ldsync d a off) s (s.g d))) ∧
  (∀ (d a : Reg) (off : BitVec 14) (s : State) (n c o : Nat), Issues (.ldsyncE d a off) s → s.focus = .core n →
    scratchLoc s s.focus (ruleAddr s a off 8) 8 = some (.core c o) → (ruleAddr s a off 8).toNat % 8 = 0 →
    (isFull s s.focus (.core c o) = true → scratchEcc s s.focus (.core c o) 8 = none → Leaves (.ldsyncE d a off) s
      (s.setCore c { s.core? c with empties := (o / 8 :: (s.core? c).empties).dedup })
      (pastWord (.ldsyncE d a off) (s.cur.put d (BitVec.ofNat 64 (ofBytes (readScratch s s.focus (.core c o) 8)))))) ∧
    (isFull s s.focus (.core c o) = false → WaitsFor (.ldsyncE d a off) s (s.g d))) ∧
  (∀ (a b c : Reg) (s u v : State) (tg : Target) (bs : List Byte), Issues (.waitw a b c) s →
    (s.g b).toNat < 2 ^ 63 → (s.g b).toNat % 8 = 0 → translate s (partyReq s s.focus .read) (s.g b) = .ok (u, tg) →
    paKind u tg.pa ≠ .device → hostFails u tg.pa = false → homeRead u tg.dom tg.pa 8 = .ok (v, bs) →
    (wordOf (overlayMem (ownLog v s.focus) tg.pa bs) = s.g a → NoTrip (.waitw a b c) v.cur →
      Leaves (.waitw a b c) s (acquireDrop v (s.g b)) (pastWord (.waitw a b c) s.cur)) ∧
    (wordOf (overlayMem (ownLog v s.focus) tg.pa bs) ≠ s.g a → WaitsFor (.waitw a b c) s (s.g c))) ∧
  (∀ (a b c : Reg) (s : State) (l : ScratchLoc), Issues (.pinwait a b c) s →
    2 ^ 63 ≤ (s.g b).toNat → (s.g b).toNat % 512 = 0 → partyTagged s s.focus (s.g b) 0 = some l →
    ((∃ j, j < 64 ∧ (s.g a).getLsbD j = true ∧ locSize s s.focus l < l.off + 512 * j + 512) →
      Traps (.pinwait a b c) s .perm (s.g b)) ∧
    ((∀ j, j < 64 → (s.g a).getLsbD j = true → l.off + 512 * j + 512 ≤ locSize s s.focus l) →
    ((∀ j, j < 64 → (s.g a).getLsbD j = true → (pinsOf s s.focus l).contains (l.off / 512 + j) = true) →
      RunsTo (.pinwait a b c) s (pastWord (.pinwait a b c) s.cur)) ∧
    ((∃ j, j < 64 ∧ (s.g a).getLsbD j = true ∧ (pinsOf s s.focus l).contains (l.off / 512 + j) = false) →
      WaitsFor (.pinwait a b c) s (s.g c))))

/-- R95, R173: prefetch never traps and changes nothing; clean, flush and inval complete on the line that holds their
translated address: dirty bytes drained, clean bytes dropped, as each form has it; inval.i empties the issuer's
instruction cache. -/
def Obligations.CacheFormsComplete : Prop :=
  (∀ a off s, Issues (.prefetch a off) s → RunsTo (.prefetch a off) s (pastWord (.prefetch a off) s.cur)) ∧
  (∀ s, Issues .invalI s → Leaves .invalI s { s with icache := s.icache.filter fun w => w.owner != icOwner s.focus }
    (pastWord .invalI s.cur)) ∧
  (∀ (a : Reg) (off : BitVec 14) (s u : State) (tg : Target),
    translate s (partyReq s s.focus .read) (s.g a + BitVec.ofInt 64 off.toInt) = .ok (u, tg) →
    (Issues (.clean a off) s →
      Leaves (.clean a off) s (drainFor u s.focus (· == lineOf tg.pa)) (pastWord (.clean a off) s.cur)) ∧
    (Issues (.flush a off) s →
      Leaves (.flush a off) s (dropCleanFor (drainFor u s.focus (· == lineOf tg.pa)) s.focus (· == lineOf tg.pa))
        (pastWord (.flush a off) s.cur)) ∧
    (Issues (.inval a off) s →
      Leaves (.inval a off) s (dropCleanFor u s.focus (· == lineOf tg.pa)) (pastWord (.inval a off) s.cur)))

/-- R159, R208-R211: the service-core vector forms complete: vld and vst on 64 aligned bytes of memory or of the core's own scratch, outside which
they trap E.PERM, then E.ALIGN; vgather and vscatter on 16 translated lanes, vmovg and vmovz on one lane, vop as the VX operation of its opcode. -/
def Obligations.VectorFormsComplete : Prop :=
  (∀ (d a : Reg) (off : BitVec 14) (s u w : State) (tg : Target) (bs : List Byte), Issues (.vld d a off) s →
    (ruleAddr s a off 64).toNat < 2 ^ 63 → accessTarget s s.focus .read (ruleAddr s a off 64) 64 = .ok (u, tg) →
    paKind u tg.pa ≠ .device → readFor u s.focus tg 64 = .ok (w, bs) →
      Leaves (.vld d a off) s w (pastWord (.vld d a off) { s.cur with z := putV s.cur.z d (BitVec.ofNat 512 (ofBytes bs)) })) ∧
  (∀ (d a : Reg) (off : BitVec 14) (s u w : State) (tg : Target), Issues (.vst d a off) s →
    (ruleAddr s a off 64).toNat < 2 ^ 63 → accessTarget s s.focus .write (ruleAddr s a off 64) 64 = .ok (u, tg) →
    paKind u tg.pa ≠ .device → writeFor u s.focus tg (toBytes 64 (getV s.cur.z d).toNat) = .ok w →
      Leaves (.vst d a off) s w (pastWord (.vst d a off) w.cur)) ∧
  (∀ (d a : Reg) (off : BitVec 14) (s : State) (n : Nat), s.focus = .core n → 2 ^ 63 ≤ (ruleAddr s a off 64).toNat →
    let A := ruleAddr s a off 64
    (Issues (.vld d a off) s →
      (partyTagged s (.core n) A 64 = none → Traps (.vld d a off) s .perm A) ∧
      (∀ l, partyTagged s (.core n) A 64 = some l → A.toNat % 64 ≠ 0 → Traps (.vld d a off) s .align A) ∧
      (∀ c o, partyTagged s (.core n) A 64 = some (.core c o) → A.toNat % 64 = 0 → scratchEcc s (.core n) (.core c o) 64 = none →
        RunsTo (.vld d a off) s (pastWord (.vld d a off)
          { s.cur with z := putV s.cur.z d (rowRegister (readBytes (s.core? c).scratch o 64)) }))) ∧
    (Issues (.vst d a off) s →
      (partyTagged s (.core n) A 64 = none → Traps (.vst d a off) s .perm A) ∧
      (∀ l, partyTagged s (.core n) A 64 = some l → A.toNat % 64 ≠ 0 → Traps (.vst d a off) s .align A) ∧
      (∀ c o, partyTagged s (.core n) A 64 = some (.core c o) → A.toNat % 64 = 0 →
        Leaves (.vst d a off) s (landCore s c o (toBytes 64 (getV s.cur.z d).toNat) false) (pastWord (.vst d a off) s.cur)))) ∧
  (∀ (d a b : Reg) (s u w : State) (tgs : List Target) (l : List W32), Issues (.vgather d a b) s → (s.g a).toNat % 4 = 0 →
    laneTargets s .read (laneAddrs s a b) = .ok (u, tgs) → readLanes u tgs = .ok (w, l) →
      Leaves (.vgather d a b) s w
        (pastWord (.vgather d a b) { s.cur with z := putV s.cur.z d (ofLanes fun i => l.getD i 0#32) })) ∧
  (∀ (d a b : Reg) (s u w : State) (tgs : List Target), Issues (.vscatter d a b) s → (s.g a).toNat % 4 = 0 →
    laneTargets s .write (laneAddrs s a b) = .ok (u, tgs) →
    writeLanes u (tgs.zip (laneIds.map fun i => lane (getV s.cur.z d) i)) = .ok w →
      Leaves (.vscatter d a b) s w (pastWord (.vscatter d a b) w.cur)) ∧
  (∀ (d a b : Reg) (s : State), Issues (.vmovg d a b) s → RunsTo (.vmovg d a b) s (pastWord (.vmovg d a b)
    (s.cur.put d (BitVec.ofNat 64 ((getV s.cur.z a).toNat / 2 ^ (32 * ((s.g b).toNat % 16)) % 2 ^ 32))))) ∧
  (∀ (d a b : Reg) (s : State), Issues (.vmovz d a b) s → ∃ z, RunsTo (.vmovz d a b) s (pastWord (.vmovz d a b)
      { s.cur with z := z }) ∧ (∀ x, x ≠ d → getV z x = getV s.cur.z x) ∧
      ∀ k, k < 16 → lane (getV z d) k = if k = (s.g b).toNat % 16 then (s.g a).setWidth 32 else lane (getV s.cur.z d) k) ∧
  (∀ (op : BitVec 5) (w : BitVec 30) (s : State), Issues (.vop op w) s → (Instr.vop op w).wf = true →
    RunsTo (.vop op w) s (pastWord (.vop op w) { s.cur with
      z := (vxCompute op.toNat (VF.ofBits w) ⟨s.cur.z, s.cur.k⟩).v
      k := (vxCompute op.toNat (VF.ofBits w) ⟨s.cur.z, s.cur.k⟩).k }))

/-! ## Synchronisation and time -/

/-- R104-R106, R108, R160, R174: bind adds its entry or traps with the table unchanged; unbind removes every entry of its object; acq
drops the clean lines of the bound regions and returns the bytes at the home; rel, on a sequencer after a stitch, drains and applies the
bound regions before its own bytes are written; a misaligned memory object traps E.ALIGN before it is translated, and a scratch object whose
bank the present row reserves is waited for; fence releases every line and drops the clean ones. The trap value of bind and the order of its
checks are the model's choice (log 41). -/
def Obligations.ConsistencyFormsComplete : Prop :=
  (∀ (a b c : Reg) (s : State), Issues (.bind a b c) s →
    (((s.g b).toNat = 0 ∨ 2 ^ 36 < (s.g b).toNat ∨ 2 ^ 64 < (s.g a).toNat + (s.g b).toNat) →
      Traps (.bind a b c) s .perm (s.g a)) ∧
    (1 ≤ (s.g b).toNat → (s.g b).toNat ≤ 2 ^ 36 → (s.g a).toNat + (s.g b).toNat ≤ 2 ^ 64 →
      ((s.g c).toNat % 8 ≠ 0 → Traps (.bind a b c) s .align (s.g c)) ∧
      ((s.g c).toNat % 8 = 0 → (s.g c).toNat < 2 ^ 63 →
        (16 ≤ s.cur.bound.length → Traps (.bind a b c) s .perm (s.g a)) ∧
        (s.cur.bound.length < 16 → RunsTo (.bind a b c) s (pastWord (.bind a b c)
          { s.cur with bound := s.cur.bound ++ [⟨s.g a, s.g b, s.g c⟩] }))))) ∧
  (∀ (c : Reg) (s : State), Issues (.unbind c) s → RunsTo (.unbind c) s (pastWord (.unbind c)
    { s.cur with bound := s.cur.bound.filter fun e => e.object != s.g c })) ∧
  (∀ (sc : Scope) (sz : Size) (a b : Reg) (s u w : State) (tg : Target) (bs : List Byte), Issues (.acq sc sz a b) s →
    (s.g b).toNat < 2 ^ 63 → accessTarget s s.focus .read (s.g b) sz.bytes = .ok (u, tg) → paKind u tg.pa ≠ .device →
    homeRead (countFor (acquireDrop u (s.g b)) s.focus 39 1) tg.dom tg.pa sz.bytes = .ok (w, bs) →
      Leaves (.acq sc sz a b) s w (pastWord (.acq sc sz a b) (s.cur.put a (BitVec.ofNat 64 (ofBytes bs))))) ∧
  (∀ (sc : Scope) (sz : Size) (a b : Reg) (s : State) (i : Instr), (i = .acq sc sz a b ∨ i = .rel sc sz a b) → Issues i s →
    ((s.g b).toNat < 2 ^ 63 → (s.g b).toNat % sz.bytes ≠ 0 → Traps i s .align (s.g b)) ∧
    (∀ l, (sc = .tile ∨ sc = .panel) → 2 ^ 63 ≤ (s.g b).toNat → isCoreTag (s.g b) = false →
      partyTagged s s.focus (s.g b) sz.bytes = some l → (s.g b).toNat % sz.bytes = 0 → bankReserved s s.focus l sz.bytes = true →
      exec i s = .next s)) ∧
  (∀ (sc : Scope) (sz : Size) (a b : Reg) (s u : State) (tg : Target) (n : Nat), Issues (.rel sc sz a b) s →
    s.focus = .core n → (s.g b).toNat < 2 ^ 63 → accessTarget s s.focus .write (s.g b) sz.bytes = .ok (u, tg) →
    paKind u tg.pa ≠ .device → ∀ w, writeFor (releaseRanges u s.focus (boundLines u s.focus (s.g b))) s.focus tg
      (toBytes sz.bytes (s.g a).toNat) = .ok w →
      Leaves (.rel sc sz a b) s w (pastWord (.rel sc sz a b) w.cur)) ∧
  (∀ (sc : Scope) (sz : Size) (a b : Reg) (s u : State) (tg : Target) (p k : Nat), Issues (.rel sc sz a b) s →
    s.focus = .seq p k → (s.g b).toNat < 2 ^ 63 → accessTarget s s.focus .write (s.g b) sz.bytes = .ok (u, tg) →
    paKind u tg.pa ≠ .device →
      let w := releaseRanges (stitchPanel u p) s.focus (boundLines (stitchPanel u p) s.focus (s.g b))
      let v := touch (pushHome w tg.dom (partyTask w s.focus) tg.pa (toBytes sz.bytes (s.g a).toNat) (writerOf w s.focus)) s.focus tg.pa
      NoTrip (.rel sc sz a b) v.cur → Leaves (.rel sc sz a b) s v (pastWord (.rel sc sz a b) v.cur)) ∧
  (∀ (sc : Scope) (s : State) (n : Nat), Issues (.fence sc) s → s.focus = .core n →
    Leaves (.fence sc) s (fenceFor s s.focus sc) (pastWord (.fence sc) (fenceFor s s.focus sc).cur)) ∧
  (∀ (sc : Scope) (s : State) (p k : Nat), Issues (.fence sc) s → s.focus = .seq p k →
    NoTrip (.fence sc) (fenceFor (stitchPanel s p) s.focus sc).cur →
    Leaves (.fence sc) s (fenceFor (stitchPanel s p) s.focus sc)
      (pastWord (.fence sc) (fenceFor (stitchPanel s p) s.focus sc).cur))

/-- R106, R119, R121, R160, R177: bar first releases the regions bound to its word; then it traps E.BAR_OVER, the release standing and the
word unchanged, where the phase is not its own or expect is 0; the arrival that completes the phase writes p + 1 with none arrived and goes
on with p + 1; any other adds one to arrived and waits, or traps E.WAITBOUND with a timeout of 0, the arrival standing; tickget reads the
tick clock; tickwait traps on a tick more than 2^40 ahead, returns the lateness of a reached one, and else waits. -/
def Obligations.BarrierAndTimeForms : Prop :=
  (∀ (sc : Scope) (a b c : Reg) (s u h : State) (tg : Target) (bs : List Byte),
    let i := Instr.bar sc a b c
    Issues i s → (s.g b).toNat < 2 ^ 63 → (s.g b).toNat % 8 = 0 →
    translate s (partyReq s s.focus .amo) (s.g b) = .ok (u, tg) → paKind u tg.pa ≠ .device → hostFails u tg.pa = false →
    homeRead (barRelease u b) tg.dom tg.pa 8 = .ok (h, bs) →
      let w := wordOf bs
      let phase := w.toNat / 2 ^ 32
      let expect := w.toNat / 2 ^ 16 % 2 ^ 16
      let arrived := w.toNat % 2 ^ 16
      let arrival (v : Word) : State := writeHomeNow h tg.dom (partyTask h s.focus) tg.pa (toBytes 8 v.toNat) (writerOf h s.focus)
      ((expect = 0 ∨ (s.g a).toNat ≠ phase) → exec i s = .next (raise (noteIssue h) ⟨.barOver, s.g b, none⟩)) ∧
      (expect ≠ 0 → (s.g a).toNat = phase → arrived + 1 = expect → Memory.wf h.mem = true →
        let v := arrival (BitVec.ofNat 64 ((phase + 1) % 2 ^ 32 * 2 ^ 32 + expect * 2 ^ 16))
        NoTrip i v.cur → Leaves i s (acquireDrop v (s.g b))
          (pastWord i (v.cur.put a (BitVec.ofNat 64 (((s.g a).toNat + 1) % 2 ^ 32))))) ∧
      (expect ≠ 0 → (s.g a).toNat = phase → arrived + 1 ≠ expect → Memory.wf h.mem = true →
        let v := arrival (BitVec.ofNat 64 (phase * 2 ^ 32 + expect * 2 ^ 16 + (arrived + 1) % 2 ^ 16))
        (s.g c ≠ 0#64 → Leaves i s v { v.cur with wait := some ⟨i, s.cycle, some (s.g c).toNat, true⟩ }) ∧
        (s.g c = 0#64 → ∃ x, Elsewhere v x ∧ x.cur = { v.cur with wait := some ⟨i, s.cycle, some 0, true⟩ } ∧
          exec i s = .next (raise (noteIssue x) ⟨.waitBound, 0#64, none⟩)))) ∧
  (∀ (a : Reg) (s : State), Issues (.tickget a) s → RunsTo (.tickget a) s (pastWord (.tickget a) (s.cur.put a s.tick))) ∧
  (∀ (a b : Reg) (s : State), Issues (.tickwait a b) s →
    (s.tick.toNat + 2 ^ 40 < (s.g b).toNat → Traps (.tickwait a b) s .waitBound (s.g b)) ∧
    ((s.g b).toNat ≤ s.tick.toNat → RunsTo (.tickwait a b) s (pastWord (.tickwait a b)
      (s.cur.put a (BitVec.ofNat 64 (s.tick.toNat - (s.g b).toNat))))) ∧
    (s.tick.toNat < (s.g b).toNat → (s.g b).toNat ≤ s.tick.toNat + 2 ^ 40 →
      RunsTo (.tickwait a b) s { s.cur with wait := some ⟨.tickwait a b, s.cycle, none, false⟩ }))

/-! ## Atomics -/

/-- R89, R114, R175, R176: an atomic to an aligned virtual address that translates for writing, outside D pages, takes the
old bytes at the home into g[a] and writes new(kind, old, v) there in one step, and changes no other byte. That it is answered within the
step, behind what is queued at its home, is one of the two forms that it takes (log 115). -/
def Obligations.AtomicsAtHome : Prop :=
  ∀ (i : Instr) (kind n : Nat) (a b c : Reg) (s w : State) (tg : Target),
    amoForm i = some (kind, n, a, b, c) → Issues i s → amoAddressOk (s.g b) n →
    translate s (partyReq s s.focus .amo) (s.g b) = .ok (w, tg) → paKind w tg.pa ≠ .device → hostFails w tg.pa = false →
    (paKind w tg.pa = .host → kind = 0 ∨ kind = 6 ∨ kind = 7) → tg.det = false →
      let u := amoDrain (stitchBefore w) s.focus (lineOf tg.pa)
      let h := l2Reads (flushSlice u (sliceOf tg.pa)) tg.dom tg.pa n
      badSector h tg.pa n = none → NoTrip i u.cur →
        let old := ofBytes (homeBytes h tg.dom tg.pa n)
        let new := amoRule kind n old ((s.g c).toNat % 2 ^ (8 * n)) ((s.g a).toNat % 2 ^ (8 * n))
        Leaves i s
          (dropCleanFor (writeHomeNow h tg.dom (partyTask h s.focus) tg.pa (toBytes n new) (writerOf h s.focus)) s.focus (· == lineOf tg.pa))
          (pastWord i (u.cur.put a (BitVec.ofNat 64 old)))

/-- R89, R116, R175, R340: what an atomic refuses: a scratch-tagged address, device registers and a host completion with an error status
E.PERM, a misaligned address E.ALIGN, a kind host memory does not run E.PERM; on a D page a destination other than g0 or cas E.DETRET with
nothing logged, a full log E.ENGINE with nothing appended; else the entry is appended unread, on a sequencer after a stitch. A trap after a
translation leaves the state from before it (the model's choice, log 34), and the status of the host's completion is seen in the same step
(the model's choice, log 116). -/
def Obligations.AtomicsRefusedOrLogged : Prop :=
  ∀ (i : Instr) (kind n : Nat) (a b c : Reg) (s : State), amoForm i = some (kind, n, a, b, c) → Issues i s →
    (2 ^ 63 ≤ (s.g b).toNat → Traps i s .perm (s.g b)) ∧
    ((s.g b).toNat < 2 ^ 63 → (s.g b).toNat % n ≠ 0 → Traps i s .align (s.g b)) ∧
    (∀ w tg, amoAddressOk (s.g b) n → translate s (partyReq s s.focus .amo) (s.g b) = .ok (w, tg) →
      (paKind w tg.pa = .device → Traps i s .perm (s.g b)) ∧
      (hostFails w tg.pa = true → Traps i s .perm (s.g b)) ∧
      (paKind w tg.pa = .host → kind ≠ 0 → kind ≠ 6 → kind ≠ 7 → Traps i s .perm (s.g b)) ∧
      ((paKind w tg.pa = .first ∨ paKind w tg.pa = .second) → tg.det = true →
        (a ≠ 0#5 ∨ kind = 7 → Traps i s .detRet (s.g b)) ∧
        (a = 0#5 → kind ≠ 7 → 4096 ≤ (FMap.getD w.dlog (sliceOf tg.pa) []).length → ∃ x, Elsewhere w x ∧ x.cur = w.cur ∧
          exec i s = .next (noteIssue (raise x ⟨.engine, wordOfForm i, none⟩))) ∧
        (∀ q, issuerOf s.focus = some q → a = 0#5 → kind ≠ 7 → (FMap.getD w.dlog (sliceOf tg.pa) []).length < 4096 →
          let u := stitchBefore w
          Leaves i s { u with dlog := FMap.set u.dlog (sliceOf tg.pa) (FMap.getD w.dlog (sliceOf tg.pa) [] ++
              [⟨tg.pa, q.1, q.2, u.cur.dseq, kind, n == 8, s.g c, partyEntry u s.focus, tg.dom⟩]) }
            (pastWord i { u.cur with dseq := u.cur.dseq + 1 }))))

/-! ## Block transfer -/

/-- R178, R179: bttpl, on a sequencer after a stitch, loads its slot from a readable record that keeps the rules of R178; it traps E.ENGINE on a
slot above 255, on a record that breaks them and on an address with tag 0b11 of a core with no thread assigned to the context, E.ALIGN on a
misaligned record, E.PRIV on a peer at user, and what its read of the record meets. -/
def Obligations.BttplLoadsTemplate : Prop :=
  ∀ (a b : Reg) (s : State), Issues (.bttpl a b) s →
    let word : Word := BitVec.ofNat 64 (Instr.bttpl a b).firstWord.toNat
    let c := partyCtx s s.focus
    let read := engReadN (stitchBefore s) (engReq c (partyPriv s s.focus) .read 5) (s.g b) 64
    (255 < (s.g a).toNat → Traps (.bttpl a b) s .engine word) ∧
    ((s.g a).toNat ≤ 255 → (s.g b).toNat % 64 ≠ 0 → Traps (.bttpl a b) s .align (s.g b)) ∧
    ((s.g a).toNat ≤ 255 → (s.g b).toNat % 64 = 0 →
      (∀ t, read = .error t → exec (.bttpl a b) s = .next (raise (noteIssue s) t)) ∧
      (∀ u bs, read = .ok (u, bs) →
        (templateOf bs = none → Traps (.bttpl a b) s .engine word) ∧
        (∀ t, templateOf bs = some t →
          let tagged (x : Word) : Prop := isCoreTag x = true ∧ (u.ctxt c).scmap.getLsbD (2 * (x.toNat / 2 ^ 32 % 16)) = false ∧
            (u.ctxt c).scmap.getLsbD (2 * (x.toNat / 2 ^ 32 % 16) + 1) = false
          let refused := tagged t.src ∨ tagged t.dst ∨ tagged t.cwaddr
          (refused → Traps (.bttpl a b) s .engine word) ∧
          (¬ refused → t.peer ≠ 0 → partyPriv s s.focus = .user → Traps (.bttpl a b) s .priv word) ∧
          (¬ refused → (t.peer = 0 ∨ partyPriv s s.focus ≠ .user) → Leaves (.bttpl a b) s
            (u.setCtxt c { u.ctxt c with templates := FMap.set (u.ctxt c).templates (s.g a).toNat t })
            (pastWord (.bttpl a b) u.cur)))))

/-- R110, R113, R159, R180, R181: a st.d to a channel of the context's aperture stitches first and appends the copy that its template and
index give, a copy into scratch clearing the pin bits of its chunks; it traps E.ENGINE where data bits 15:8 are not 0, on a template never
loaded, a full channel and ranges that overlap, and E.PERM on an address that R159 refuses; a ld.d of the channel returns its queue length
and fault bit and clears the bit. -/
def Obligations.ApertureFormsComplete : Prop :=
  (∀ (d a : Reg) (off : BitVec 14) (s u : State) (tg : Target) (n : Nat), Issues (.st .d d a off) s →
    translate s (partyReq s s.focus .write) (ruleAddr s a off 8) = .ok (u, tg) → (ruleAddr s a off 8).toNat % 8 = 0 →
    paKind u tg.pa = .device → pageOf tg.pa = none → apertureOf tg.pa = some (partyCtx s s.focus, 8 * n) → n < 64 →
    stitchWaits (.apertureStore d a off) s = false → ∀ i, (i = .st .d d a off ∨ i = .apertureStore d a off) →
      let c := partyCtx s s.focus
      let v := stitchBefore u
      let q := (chanOf v c n).queue
      let word := wordOfForm (.st .d d a off)
      ((s.g d).toNat / 2 ^ 8 % 2 ^ 8 ≠ 0 ∨ FMap.get? (v.ctxt c).templates ((s.g d).toNat % 2 ^ 8) = none → Traps i s .engine word) ∧
      (∀ t, (s.g d).toNat / 2 ^ 8 % 2 ^ 8 = 0 → FMap.get? (v.ctxt c).templates ((s.g d).toNat % 2 ^ 8) = some t →
        let cmd := copyAccepted v t (BitVec.ofNat 64 ((s.g d).toNat / 2 ^ 16))
        (16 ≤ q.length → Traps i s .engine word) ∧
        (q.length < 16 → copyRefused v cmd → Traps i s .perm (ruleAddr s a off 8)) ∧
        (q.length < 16 → ¬ copyRefused v cmd → rangesOverlap cmd.peer cmd.src cmd.dst cmd.length = true → Traps i s .engine word) ∧
        (q.length < 16 → ¬ copyRefused v cmd → rangesOverlap cmd.peer cmd.src cmd.dst cmd.length = false →
          let w := setChan v c n { chanOf v c n with queue := q ++ [cmd] }
          (cmd.peer ≠ 0 ∨ cmd.dst.getLsbD 63 = false → Leaves i s w (pastWord (.st .d d a off) v.cur)) ∧
          (∀ l, cmd.peer = 0 → cmd.dst.getLsbD 63 = true → copyScratch v c s.focus cmd.uid cmd.dst cmd.length = some l →
            Leaves i s (setPins w s.focus l cmd.length false) (pastWord (.st .d d a off) v.cur))))) ∧
  (∀ (d a : Reg) (off : BitVec 14) (s u : State) (tg : Target) (n : Nat), Issues (.ld .d d a off) s →
    translate s (partyReq s s.focus .read) (ruleAddr s a off 8) = .ok (u, tg) → (ruleAddr s a off 8).toNat % 8 = 0 →
    paKind u tg.pa = .device → pageOf tg.pa = none → apertureOf tg.pa = some (partyCtx s s.focus, 8 * n) → n < 64 →
      ∀ i, (i = .ld .d d a off ∨ i = .copyStatusLoad d a off) → Leaves i s
        (setChan u (partyCtx s s.focus) n { chanOf u (partyCtx s s.focus) n with fault := false })
        (pastWord (.ld .d d a off) (s.cur.put d (BitVec.ofNat 64
          ((if (chanOf u (partyCtx s s.focus) n).fault then 256 else 0) + (chanOf u (partyCtx s s.focus) n).queue.length)))))

/-! ## The bobbin unit -/

/-- R110, R187, R189: the bobbin forms complete: bdraw returns the draw, bseed and bmode write the spool; bdrawv and bspsave are accepted
by the queue of the party's bobbin unit with the bytes that they write; bspool reads behind that queue and writes the spool; select bits outside
4:0 and 8, a mode above 1 and a malformed image trap E.ENGINE. That bspool completes the earlier commands and reads in one step, and that the
pages are translated at issue, is the model's choice (log 48). -/
def Obligations.BobbinFormsComplete : Prop :=
  (∀ (a b c : Reg) (s : State), Issues (.bdraw a b c) s →
    (s.g c &&& 0xFFFFFFFFFFFFFEE0#64 ≠ 0#64 →
      Traps (.bdraw a b c) s .engine (BitVec.ofNat 64 (Instr.bdraw a b c).firstWord.toNat)) ∧
    (s.g c &&& 0xFFFFFFFFFFFFFEE0#64 = 0#64 → RunsTo (.bdraw a b c) s (pastWord (.bdraw a b c) (s.cur.put a
      (BitVec.ofNat 64 (drawVal s.cur.spool ((s.g c).toNat % 32) ((s.g b).setWidth 32) ((s.g c).getLsbD 8)).toNat))))) ∧
  (∀ (a b c : Reg) (s u : State) (m : Nat) (ms : List MemPart), Issues (.bdrawv a b c) s → s.focus = .core m →
    s.g c &&& 0xFFFFFFFFFFFFFEE0#64 = 0#64 → (s.g a).toNat % 64 = 0 → (s.g a).toNat < 2 ^ 63 →
    bobbinParts { partyReq s s.focus .write with unit := none } 2 s (s.g a)
      (drawBytes s.cur.spool ((s.g c).toNat % 32) ((s.g b).setWidth 32) ((s.g c).getLsbD 8)) = .ok (u, ms) →
      Leaves (.bdrawv a b c) s (bobbinAccepts u ms) (pastWord (.bdrawv a b c) s.cur)) ∧
  (∀ (a b : Reg) (s : State), Issues (.bseed a b) s → RunsTo (.bseed a b) s (pastWord (.bseed a b) { s.cur with
    spool := { s.cur.spool with seeds := s.cur.spool.seeds.set ((s.g b).toNat % 32) ((s.g a).setWidth 32) } })) ∧
  (∀ (a : Reg) (s : State), Issues (.bmode a) s →
    (1 < (s.g a).toNat → Traps (.bmode a) s .engine (BitVec.ofNat 64 (Instr.bmode a).firstWord.toNat)) ∧
    ((s.g a).toNat ≤ 1 → RunsTo (.bmode a) s (pastWord (.bmode a) { s.cur with
      spool := { s.cur.spool with mode := (s.g a).toNat } }))) ∧
  (∀ (a : Reg) (s u : State) (bs : List Byte) (m : Nat), Issues (.bspool a) s → s.focus = .core m → (s.g a).toNat % 256 = 0 →
    engReadN (finishBobbin s) { partyReq s s.focus .read with unit := none } (s.g a) 4352 = .ok (u, bs) →
    (spoolOfImage bs = none → Traps (.bspool a) s .engine (BitVec.ofNat 64 (Instr.bspool a).firstWord.toNat)) ∧
    (∀ sp, spoolOfImage bs = some sp → Leaves (.bspool a) s u (pastWord (.bspool a) { s.cur with spool := sp }))) ∧
  (∀ (a : Reg) (s u : State) (m : Nat) (ms : List MemPart), Issues (.bspsave a) s → s.focus = .core m → (s.g a).toNat % 256 = 0 →
    (s.g a).toNat < 2 ^ 63 →
    bobbinParts { partyReq s s.focus .write with unit := none } 19 s (s.g a) (spoolImage s.cur.spool) = .ok (u, ms) →
      Leaves (.bspsave a) s (bobbinAccepts u ms) (pastWord (.bspsave a) s.cur))

/-! ## Commands of the quilt, the press, tasks and counters -/

/-- R277, R290, R296, R297: every quilt and press form completes with its command accepted, unless the first failing check of
R290 or R297 traps with its cause and value and no effect. -/
def Obligations.EngineFormsAccept : Prop :=
  (∀ (i : Instr) (op : Nat) (ra rb rc : Reg) (al n : Nat) (mem : Bool) (s : State),
    quiltForm i = some (op, ra, rb, rc, al, n, mem) → Issues i s →
    let checks := quiltChecks s i (s.g ra) (s.g rb) (s.g rc) al n mem
    let u := stitchBefore s
    (∀ cause v, firstFailing checks = some (cause, v) → Traps i s cause v) ∧
    (firstFailing checks = none → Leaves i s
      { u with quilts := FMap.set u.quilts u.nextId (quiltAccepted s op (s.g ra) (s.g rb) (s.g rc)), nextId := u.nextId + 1 }
      (pastWord i u.cur))) ∧
  (∀ (i : Instr) (op : Nat) (ra rb rc : Reg) (s : State), pressForm i = some (op, ra, rb, rc) → Issues i s →
    let checks := pressChecks s i (s.g ra) (s.g rb) (s.g rc)
    let u := stitchBefore s
    (∀ cause v, firstFailing checks = some (cause, v) → Traps i s cause v) ∧
    (firstFailing checks = none → Leaves i s
      { u with press := FMap.set u.press u.nextId (pressAccepted s op (s.g ra) (s.g rb) (s.g rc)), nextId := u.nextId + 1 }
      (pastWord i u.cur)))

/-- R192, R194-R196: tsub submits the record at g[b]: g[a] is the identifier of its entry, the lowest free one; tdep adds one
dependence to an open task of its context, or closes it; gpset writes and gpget reads a graph parameter; each traps what its
rule refuses. -/
def Obligations.TaskFormsComplete : Prop :=
  (∀ (a b : Reg) (s : State), Issues (.tsub a b) s →
    let i := Instr.tsub a b
    ((s.g b).toNat % 64 ≠ 0 → Traps i s .align (s.g b)) ∧
    ((s.g b).toNat % 64 = 0 →
      (∀ t, ownRead (stitchBefore s) (s.g b) 128 = .error t → exec i s = .next (raise (noteIssue s) t)) ∧
      (∀ u bs, ownRead (stitchBefore s) (s.g b) 128 = .ok (u, bs) →
        (parseTask (s.g b) bs = none → Traps i s .engine (wordOfForm i)) ∧
        (∀ r, parseTask (s.g b) bs = some r →
          (quotaOf u (partyCtx u u.focus) ≤ entriesUsed u (partyCtx u u.focus) ∨ lowestFree u = none →
            Traps i s .engine (wordOfForm i)) ∧
          (∀ e, entriesUsed u (partyCtx u u.focus) < quotaOf u (partyCtx u u.focus) → lowestFree u = some e →
            let w := submitted u e (partyCtx u u.focus) r (partyPriv u u.focus) (submitsInReplay u u.focus)
            Leaves i s w (pastWord i (w.cur.put a ((taskId w e).setWidth 64)))))))) ∧
  (∀ (a b c : Reg) (s : State), Issues (.tdep a b c) s →
    let i := Instr.tdep a b c
    (openTask s (s.g a) = none → Traps i s .engine (wordOfForm i)) ∧
    (∀ e t, openTask s (s.g a) = some (e, t) →
      (c ≠ 0#5 → 8 ≤ t.ndeps → Traps i s .engine (wordOfForm i)) ∧
      (c ≠ 0#5 → t.ndeps < 8 → (s.g b).toNat % 8 ≠ 0 → Traps i s .align (s.g b)) ∧
      (∀ x, c ≠ 0#5 → t.ndeps < 8 → (s.g b).toNat % 8 = 0 →
        depWord (stitchBefore s) (engReq (partyCtx s s.focus) (partyPriv s s.focus) .read (partyReq s s.focus .read).src)
          (s.g b) = .error x → exec i s = .next (raise (noteIssue s) x)) ∧
      (∀ u pa old t', c ≠ 0#5 → (s.g b).toNat % 8 = 0 → t.ndeps < 8 →
        depWord (stitchBefore s) (engReq (partyCtx s s.focus) (partyPriv s s.focus) .read (partyReq s s.focus .read).src)
          (s.g b) = .ok (u, pa, old) → FMap.get? u.tasks e = some t' →
        Leaves i s (withTask u e (oneDepMore t' (.word pa (s.g c)) (decide ((s.g c).toNat ≤ old)))) (pastWord i u.cur)) ∧
      (∀ t', c = 0#5 → s.g b = 0#64 → FMap.get? (stitchBefore s).tasks e = some t' →
        Leaves i s (withTask (stitchBefore s) e { t' with state := .waiting }) (pastWord i (stitchBefore s).cur)) ∧
      (c = 0#5 → s.g b ≠ 0#64 → 8 ≤ t.ndeps → Traps i s .engine (wordOfForm i)) ∧
      (∀ t', c = 0#5 → s.g b ≠ 0#64 → t.ndeps < 8 → FMap.get? (stitchBefore s).tasks e = some t' →
        Leaves i s (withTask (stitchBefore s) e (oneDepMore t' (.task ((s.g b).setWidth 32))
          (decide (2 ^ 32 ≤ (s.g b).toNat) || !taskLive (stitchBefore s) ((s.g b).setWidth 32))))
          (pastWord i (stitchBefore s).cur)))) ∧
  (∀ (a b c : Reg) (s : State), Issues (.gpset a b c) s →
    (63 < (s.g b).toNat ∨ 255 < (s.g c).toNat → Traps (.gpset a b c) s .engine (wordOfForm (.gpset a b c))) ∧
    ((s.g b).toNat ≤ 63 → (s.g c).toNat ≤ 255 →
      let u := stitchBefore s
      Leaves (.gpset a b c) s
        (u.setCtxt (partyCtx s s.focus) { u.ctxt (partyCtx s s.focus) with
          gps := FMap.set (u.ctxt (partyCtx s s.focus)).gps ((s.g c).toNat, (s.g b).toNat) (s.g a) })
        (pastWord (.gpset a b c) u.cur))) ∧
  (∀ (a b c : Reg) (s : State), Issues (.gpget a b c) s →
    (63 < (s.g b).toNat ∨ 255 < (s.g c).toNat → Traps (.gpget a b c) s .engine (wordOfForm (.gpget a b c))) ∧
    ((s.g b).toNat ≤ 63 → (s.g c).toNat ≤ 255 → RunsTo (.gpget a b c) s (pastWord (.gpget a b c)
      (s.cur.put a (FMap.getD (s.ctxt (partyCtx s s.focus)).gps ((s.g c).toNat, (s.g b).toNat) 0#64)))))

/-- R199-R202: the counter, fitting and chalk forms complete, or trap E.ENGINE on a number, an event, a qualifier, a task or a plan that
their rules refuse: pmsel selects its counter's event and qualifier and clears it, pmclr clears the counts and flags of its mask and no
others, fitbeg attaches a plan that keeps R201, fitend of a task that is done, or whose generation is past (R191), completes. A misaligned plan
that is E.ENGINE (log 67), the qualifier taken modulo 2^11 (log 72) and the own issue that ev88 counts after the clear (log 45) are the model's
choices. -/
def Obligations.CounterFormsComplete : Prop :=
  (∀ (a b c : Reg) (s : State), Issues (.pmsel a b c) s →
    let refused := 3 < (s.g a).toNat ∨ 95 < (s.g b).toNat ∨ badQualifier (s.g b).toNat (s.g c) = true ∨ underFit s s.focus = true
    (refused → Traps (.pmsel a b c) s .engine (wordOfForm (.pmsel a b c))) ∧
    (¬ refused → let u := stitchBefore s
      Ends (.pmsel a b c) s fun t => Elsewhere u t ∧ unmarked t.cur = unmarked (pastWord (.pmsel a b c) u.cur) ∧
        ((∀ x, partyPanel s.focus = some x → (s.panel? x).isSome = true) → ∀ k : Fin 4,
          (selection t k = if k.val = (s.g a).toNat then (some (s.g b).toNat, (s.g c).toNat % 2 ^ 11) else selection u k) ∧
          (k.val = (s.g a).toNat → countedAs t s.focus k (ownIssue s (some (s.g b).toNat)))))) ∧
  (∀ (a b : Reg) (s : State), Issues (.pmrd a b) s →
    (3 < (s.g b).toNat → Traps (.pmrd a b) s .engine (wordOfForm (.pmrd a b))) ∧
    (∀ h : (s.g b).toNat < 4,
      let r := counterRead s ((countersOf s s.focus)[(s.g b).toNat])
      Leaves (.pmrd a b) s r.1 (pastWord (.pmrd a b) (s.cur.put a (countWord r.2.1 r.2.2))))) ∧
  (∀ (a : Reg) (s : State), Issues (.pmclr a) s →
    (underFit s s.focus = true → Traps (.pmclr a) s .engine (wordOfForm (.pmclr a))) ∧
    (underFit s s.focus = false → Ends (.pmclr a) s fun t => Elsewhere (stitchBefore s) t ∧
      unmarked t.cur = unmarked (pastWord (.pmclr a) (stitchBefore s).cur) ∧ ∀ k : Fin 4, selection t k = selection s k ∧
        ((s.g a).getLsbD k.val = true → countedAs t s.focus k (ownIssue s (selection s k).1)) ∧
        ((s.g a).getLsbD k.val = false → (selection s k).1 ≠ some 88 →
          (countersOf t s.focus)[k] = (countersOf (stitchBefore s) s.focus)[k]))) ∧
  (∀ (a b : Reg) (s : State), Issues (.fitbeg a b) s →
    (openTask s (s.g a) = none → Traps (.fitbeg a b) s .engine (wordOfForm (.fitbeg a b))) ∧
    (∀ e t, openTask s (s.g a) = some (e, t) → (t.fit.isSome = true ∨ (s.g b).toNat % 64 ≠ 0) →
      Traps (.fitbeg a b) s .engine (wordOfForm (.fitbeg a b))) ∧
    (∀ e t u bs, openTask s (s.g a) = some (e, t) → t.fit = none → (s.g b).toNat % 64 = 0 →
      ownRead s (s.g b) 256 = .ok (u, bs) → planBreaks bs → Traps (.fitbeg a b) s .engine (wordOfForm (.fitbeg a b))) ∧
    (∀ e t u w bs f pas t', openTask s (s.g a) = some (e, t) → t.fit = none → (s.g b).toNat % 64 = 0 →
      ownRead s (s.g b) 256 = .ok (u, bs) → parsePlan bs = some f →
      bufferPages (engReq (partyCtx u u.focus) (partyPriv u u.focus) .write (partyReq u u.focus .write).src) f.buffer
        (List.range f.pages) u = .ok (w, pas) → FMap.get? w.tasks e = some t' →
        Leaves (.fitbeg a b) s (withTask w e { t' with fit := some { f with bufferPas := pas } })
          (pastWord (.fitbeg a b) w.cur))) ∧
  (∀ (a : Reg) (s : State), Issues (.fitend a) s →
    (fitTask s (s.g a) = none →
      (namesPast s (s.g a) = true → RunsTo (.fitend a) s (pastWord (.fitend a) s.cur)) ∧
      (namesPast s (s.g a) = false → Traps (.fitend a) s .engine (wordOfForm (.fitend a)))) ∧
    (∀ e t, fitTask s (s.g a) = some (e, t) →
      (t.state.isOver = true → Leaves (.fitend a) s (withTask s e { t with fit := none }) (pastWord (.fitend a) s.cur)) ∧
      (t.state.isOver = false → Traps (.fitend a) s .engine (wordOfForm (.fitend a))))) ∧
  (∀ (a b c : Reg) (s : State) (e : Nat) (t : TaskEntry) (f : Fitting), Issues (.fitstat a b c) s →
    fitTask s (s.g b) = some (e, t) → t.fit = some f →
    (∀ v, fitItem t f (s.g c).toNat = some v → RunsTo (.fitstat a b c) s (pastWord (.fitstat a b c) (s.cur.put a v))) ∧
    (fitItem t f (s.g c).toNat = none → Traps (.fitstat a b c) s .engine (wordOfForm (.fitstat a b c)))) ∧
  (∀ (a b : Reg) (s : State), Issues (.chalk a b) s →
    let u := stitchBefore s
    let k := partyCtx s s.focus
    (4 < (s.g a).toNat → Traps (.chalk a b) s .engine (wordOfForm (.chalk a b))) ∧
    (1 ≤ (s.g a).toNat → (s.g a).toNat ≤ 4 → partyPriv s s.focus = .user →
      Traps (.chalk a b) s .priv (wordOfForm (.chalk a b))) ∧
    (s.g a = 0#64 → Leaves (.chalk a b) s (fireChalk u k) (pastWord (.chalk a b) u.cur)) ∧
    (partyPriv s s.focus ≠ .user →
      (s.g a = 1#64 → Leaves (.chalk a b) s (setTriggers u k (some (.onTick (s.g b)))) (pastWord (.chalk a b) u.cur)) ∧
      (s.g a = 2#64 → Leaves (.chalk a b) s (setTriggers u k (some (.onOverflow ((s.g b).setWidth 4))))
        (pastWord (.chalk a b) u.cur)) ∧
      (s.g a = 3#64 → Leaves (.chalk a b) s (setTriggers u k (some (.onTack ((s.g b).toNat % 16))))
        (pastWord (.chalk a b) u.cur)) ∧
      (s.g a = 4#64 → Leaves (.chalk a b) s (setTriggers u k none) (pastWord (.chalk a b) u.cur))))

/-! ## Sequencer commands -/

/-- R27, R254: ldpat begins a load where none of the panel is to be armed and its blocks have room, records its address, and goes on; a load
to be armed or no room traps E.ENGINE, a load of the strand that has failed E.CFGLOAD; disarm cancels the panel's load with its entries and
its recorded address, and does nothing without one. -/
def Obligations.LdpatDisarmComplete : Prop :=
  (∀ (a : Reg) (s : State) (p k : Nat) (x y : Panel), Strands (.ldpat a) s p k x →
    (∀ va, (x.strand k).failed = some va →
      exec (.ldpat a) s = .next (noteIssue (raise (dropLoad s p k) ⟨.cfgLoad, va, none⟩))) ∧
    ((x.strand k).failed = none →
      (x.load.isSome = true → Traps (.ldpat a) s .engine (wordOfForm (.ldpat a))) ∧
      (x.load = none → lacksRoom s x (s.g a) = true → Traps (.ldpat a) s .engine (wordOfForm (.ldpat a))) ∧
      (x.load = none → lacksRoom s x (s.g a) = false → (stitchBefore s).panel? p = some y →
        let u := stitchBefore s
        Leaves (.ldpat a) s { u.setPanel p { withStrand y k fun st => { st with loadAddr := some (s.g a) } with
          load := some ⟨s.g a, .reading, none, u.nextId, k, false⟩ } with nextId := u.nextId + 1 } (pastWord (.ldpat a) u.cur)))) ∧
  (∀ (s : State) (p k : Nat) (x : Panel), Strands .disarm s p k x →
    let u := stitchBefore s
    (x.load = none → Leaves .disarm s u (pastWord .disarm u.cur)) ∧
    (∀ l, x.load = some l → Leaves .disarm s (discardEntries (dropLoad u p l.strand) l.loadId) (pastWord .disarm u.cur)))

/-- R26, R29, R77, R116, R143, R255: arm traps E.ENGINE where the strand has no load to arm and E.CFGLOAD where its load has failed, waits for
the load and for the other strands, then traps E.CFGKIND or E.CFGOP on the first word that R143 refuses and E.ENGINE on a running stream, and
else starts every strand of the new pattern at its entry, with row 0 next, nothing to be armed, its slice engines idle, and accumulators,
weights, v and k registers and the scratchpads outside the scratch records as they were. -/
def Obligations.ArmSwitchesPattern : Prop :=
  ∀ (a : Reg) (s : State) (p k : Nat) (x y : Panel), Strands (.arm a) s p k x → (stitchBefore s).panel? p = some y →
    (∀ va, (y.strand k).failed = some va → exec (.arm a) s =
      .next (noteIssue (raise (dropLoad (stitchBefore s) p k) ⟨.cfgLoad, va, none⟩))) ∧
    ((y.strand k).failed = none →
    (y.load = none → Traps (.arm a) s .engine (wordOfForm (.arm a))) ∧
    (∀ l, y.load = some l → l.strand ≠ k → Traps (.arm a) s .engine (wordOfForm (.arm a))) ∧
    (∀ l, y.load = some l → l.strand = k →
      (l.state ≠ .loaded ∨ (∃ j, j < 4 ∧ j ≠ k ∧ (y.strand j).finished = false)) → WaitsStitched (.arm a) s (s.g a)) ∧
    (∀ l img, y.load = some l → l.strand = k → l.state = .loaded → l.image = some img →
      (∀ j, j < 4 → j ≠ k → (y.strand j).finished = true) →
      (∀ f, armCheck img = some f →
        f.cause = (if (f.word.extractLsb' 37 3).toNat ≠ 0 ∧ (f.word.extractLsb' 37 3).toNat ≠ kindOf f.elem then .cfgKind else .cfgOp) ∧
        exec (.arm a) s = .next (noteIssue (raiseAt (discardEntries (dropLoad (stitchBefore s) p k) l.loadId)
          ⟨f.cause, BitVec.ofNat 64 f.word.toNat, none⟩ (armWhere img y.index (issuerNo (.seq p k)) k f)))) ∧
      (armCheck img = none → streamRuns y → Traps (.arm a) s .engine (wordOfForm (.arm a))) ∧
      (armCheck img = none → anyRunning y = false → img.strands ≤ 4 → Ends (.arm a) s fun t =>
        (∀ j, j < img.strands → (t.thread (.seq p j)).status = .running ∧
          (t.thread (.seq p j)).pc = l.addr + BitVec.ofNat 64 (img.entry.getD j 0) ∧
          (t.thread (.seq p j)).get 3#5 = l.addr ∧ (t.thread (.seq p j)).get 4#5 = BitVec.ofNat 64 j ∧
          (t.thread (.seq p j)).dseq = ((stitchBefore s).thread (.seq p j)).dseq) ∧
        (∀ j, img.strands ≤ j → j < 4 → (t.thread (.seq p j)).status = .finished) ∧
        (∀ j, j < 4 → t.thread (.slice p j) = { Thread.clear with ctx := y.ctx }) ∧
        (∀ q, q ≠ p → t.panel? q = (stitchBefore s).panel? q) ∧
        ∃ z, t.panel? p = some z ∧ z.image = img ∧ z.imageAddr = l.addr ∧ z.load = none ∧ z.row = 0 ∧ z.tacks = [] ∧
          z.agPending = Vector.replicate 16 0 ∧
          (∀ j, j < img.strands → (z.strand j).log = [] ∧ (z.strand j).queue = [] ∧ (z.strand j).loadAddr = none ∧
            (z.strand j).sliceArgs = none) ∧
          (∀ n, (z.tile n).acc = (y.tile n).acc ∧ (z.tile n).weights = (y.tile n).weights ∧ (z.tile n).wscale = (y.tile n).wscale ∧
            (z.tile n).fa = (y.tile n).fa ∧ (z.tile n).fb = (y.tile n).fb ∧ (z.tile n).v = (y.tile n).v ∧ (z.tile n).k = (y.tile n).k ∧
            (z.tile n).lines = (y.tile n).lines ∧ (z.tile n).pool = (y.tile n).pool) ∧
          (∀ n b, Memory.wf (y.tile n).scratch = true →
            (∀ r ∈ img.scratch, ¬ (r.1 = n ∧ r.2.1 ≤ b ∧ b < r.2.1 + r.2.2.length)) →
            readCell (z.tile n).scratch b = readCell (y.tile n).scratch b) ∧
          ∀ rs r, img.scratch = rs ++ [r] → Memory.wf (y.tile r.1).scratch = true →
            readBytes (z.tile r.1).scratch r.2.1 r.2.2.length = r.2.2)))

/-- R218, R222: sspec loads its stream slot, idle, with nothing fetched; sgo starts every slot of its mask from its first element, its queues
empty; sstop ends every running one, the beats of an in-stream that wait discarded and counted by ev19, and leaves any other as it is; each
acts in one step, and traps what its rule refuses, with no slot changed. That an absent spec entry is E.ILLEGAL before a running slot is
E.ENGINE is the model's choice (log 52). -/
def Obligations.StreamFormsComplete : Prop :=
  (∀ (stream : BitVec 4) (ag : BitVec 2) (a : Reg) (entry : BitVec 11) (disp : BitVec 32) (s : State) (p k : Nat) (x : Panel),
    let i := Instr.sspec stream ag a entry disp
    Strands i s p k x →
    (x.image.specs.length ≤ entry.toNat → Traps i s .illegal (wordOfForm i)) ∧
    (∀ sp, x.image.specs[entry.toNat]? = some sp →
      (∀ sl, x.slot? k stream.toNat = some sl → sl.state = .running → Traps i s .engine (wordOfForm i)) ∧
      ((∀ sl, x.slot? k stream.toNat = some sl → sl.state ≠ .running) → k < 4 → Ends i s fun t =>
        unmarked t.cur = unmarked (pastWord i s.cur) ∧ (∀ q, q ≠ p → t.panel? q = s.panel? q) ∧
        t.mem = s.mem ∧ t.contexts = s.contexts ∧
        ∃ y, t.panel? p = some y ∧ y.slot? k stream.toNat =
            some ⟨sp, ag.toNat, s.g a + BitVec.ofInt 64 disp.toInt, .idle, [], [], [], [], pathNumber x.image entry.toNat, []⟩ ∧
          (∀ n, (y.tile n).queue k stream.toNat = []) ∧
          (∀ j q, j < 4 → ¬ (j = k ∧ q = stream.toNat) → y.slot? j q = x.slot? j q)))) ∧
  (∀ (a : Reg) (s : State) (p k : Nat) (x z : Panel), Strands (.sgo a) s p k x → (stitchBefore s).panel? p = some z →
    (65536 ≤ (s.g a).toNat → Traps (.sgo a) s .engine (wordOfForm (.sgo a))) ∧
    ((s.g a).toNat < 65536 →
      (∀ t, sgoCheck s x k (wordOfForm (.sgo a)) (maskSlots (s.g a)) = some t →
        exec (.sgo a) s = .next (raise (noteIssue s) t)) ∧
      (sgoCheck s x k (wordOfForm (.sgo a)) (maskSlots (s.g a)) = none → k < 4 → Ends (.sgo a) s fun t =>
        unmarked t.cur = unmarked (pastWord (.sgo a) (stitchBefore s).cur) ∧ t.contexts = (stitchBefore s).contexts ∧
        t.mem = (stitchBefore s).mem ∧ (∀ q, q ≠ p → t.panel? q = (stitchBefore s).panel? q) ∧
        ∃ y, t.panel? p = some y ∧
          (∀ q, q < 16 → (s.g a).getLsbD q = true → (∃ sl, z.slot? k q = some sl ∧ y.slot? k q = some { sl with
              state := .running, fetched := [], moved := [], parts := [], fault := [], past := [] }) ∧
            ∀ n, (y.tile n).queue k q = []) ∧
          (∀ j q, j < 4 → q < 16 → ¬ (j = k ∧ (s.g a).getLsbD q = true) → y.slot? j q = z.slot? j q ∧
            ∀ n, (y.tile n).queue j q = (z.tile n).queue j q)))) ∧
  (∀ (a : Reg) (s : State) (p k : Nat) (x z : Panel), Strands (.sstop a) s p k x → (stitchBefore s).panel? p = some z →
    (65536 ≤ (s.g a).toNat → Traps (.sstop a) s .engine (wordOfForm (.sstop a))) ∧
    ((s.g a).toNat < 65536 → k < 4 → Ends (.sstop a) s fun t =>
      unmarked t.cur = unmarked (pastWord (.sstop a) (stitchBefore s).cur) ∧ t.contexts = (stitchBefore s).contexts ∧
      t.mem = (stitchBefore s).mem ∧ (∀ q, q ≠ p → t.panel? q = (stitchBefore s).panel? q) ∧
      ∃ y, t.panel? p = some y ∧
        (∀ q sl, q < 16 → (s.g a).getLsbD q = true → z.slot? k q = some sl → sl.state = .running →
          y.slot? k q = some { sl with state := .ended, parts := [], fault := [], past := [] } ∧
          ∀ n, (y.tile n).queue k q = if sl.spec.dirOut then (z.tile n).queue k q else []) ∧
        (∀ j q, j < 4 → q < 16 → ¬ (j = k ∧ (s.g a).getLsbD q = true ∧ ∃ sl, z.slot? k q = some sl ∧ sl.state = .running) →
          y.slot? j q = z.slot? j q ∧ ∀ n, (y.tile n).queue j q = (z.tile n).queue j q) ∧
        ∀ c : Fin 4, (z.counters[c]).event = some 19 →
          y.counters[c] = (discardedBeats z k (s.g a)).foldl (fun c n => c.add 19 n) z.counters[c]))

/-- R29, R160, R253, R256, R257, R262: slice starts the strand's engine with its queue emptied, or stops it; cpost stalls on a full queue, and
else, after the stitch it implies, appends to it, or is dropped while a restart replays; cond removes the head, raises a poisoned one, or waits. -/
def Obligations.SliceQueueForms : Prop :=
  (∀ (a b : Reg) (s : State) (p k : Nat) (x y : Panel), Strands (.slice a b) s p k x → k < 4 →
    (stitchBefore s).panel? p = some y →
    let cleared (args : Option (Word × Word)) : State := (stitchBefore s).setPanel p (withStrand y k fun st => { st with
      queue := [], taken := 0, skip := 0, sliceArgs := args, sliceStop := args.isNone })
    (s.g a ≠ 0#64 → inSlice x (s.g a) = false → Traps (.slice a b) s .engine (wordOfForm (.slice a b))) ∧
    (s.g a ≠ 0#64 → inSlice x (s.g a) = true → Leaves (.slice a b) s
      (((cleared (some (s.g a, s.g b))).unask (· == .slice p k)).setThread (.slice p k) (sliceThread x k (s.g a) (s.g b)))
      (pastWord (.slice a b) (stitchBefore s).cur)) ∧
    (s.g a = 0#64 → Leaves (.slice a b) s
      (((cleared none).unask (· == .slice p k)).setThread (.slice p k) { s.thread (.slice p k) with status := .idle })
      (pastWord (.slice a b) (stitchBefore s).cur))) ∧
  (∀ (a : Reg) (s : State) (p k : Nat) (x y : Panel), Issues (.cpost a) s → s.focus = .slice p k → s.panel? p = some x →
    (stitchPanel s p).panel? p = some y →
    let u := stitchPanel s p
    ((x.strand k).skip = 0 → 16 ≤ (x.strand k).queue.length → RunsTo (.cpost a) s s.cur) ∧
    (0 < (x.strand k).skip ∨ (x.strand k).queue.length < 16 →
      (0 < (y.strand k).skip → Leaves (.cpost a) s (u.setPanel p (withStrand y k fun st => { st with skip := st.skip - 1 }))
        (pastWord (.cpost a) u.cur)) ∧
      ((y.strand k).skip = 0 → Leaves (.cpost a) s
        (u.setPanel p (withStrand y k fun st => { st with queue := st.queue ++ [.value (s.g a)] })) (pastWord (.cpost a) u.cur)))) ∧
  (∀ (a b : Reg) (s : State) (p k : Nat) (x y : Panel), Strands (.cond a b) s p k x → (stitchBefore s).panel? p = some y →
    let u := stitchBefore s
    ((y.strand k).queue = [] → WaitsStitched (.cond a b) s (s.g b)) ∧
    (∀ v q, (y.strand k).queue = .value v :: q → Leaves (.cond a b) s
      (u.setPanel p (withStrand y k fun st => { st with queue := q, taken := st.taken + 1 }))
      (pastWord (.cond a b) (u.cur.put a v))) ∧
    (∀ t q, (y.strand k).queue = .poisoned t :: q → exec (.cond a b) s = .next (noteIssue (raisePoison
      (u.setPanel p (withStrand y k fun st => { st with queue := q, taken := st.taken + 1 })) t))))

/-- R232, R250, R258: tack puts a tack on its way, tkwait takes a pending one or waits, commit stitches, mxhint notes a
ramp-up; a channel above 15 and a hint above 65,535 trap E.ENGINE. That a tack sent in a held cycle of a wait is due two fabric cycles later is
the model's choice (log 26). -/
def Obligations.TackCommitForms : Prop :=
  (∀ (a : Reg) (s : State) (p k : Nat) (x y : Panel), Strands (.tack a) s p k x → (stitchBefore s).panel? p = some y →
    (15 < (s.g a).toNat → Traps (.tack a) s .engine (wordOfForm (.tack a))) ∧
    ((s.g a).toNat ≤ 15 → waitClamped s p x = false → Leaves (.tack a) s
      ((stitchBefore s).setPanel p { y with tacks := y.tacks ++ [⟨(s.g a).toNat, x.live + 1, false⟩] })
      (pastWord (.tack a) (stitchBefore s).cur)) ∧
    ((s.g a).toNat ≤ 15 → waitClamped s p x = true → Leaves (.tack a) s
      ((stitchBefore s).setPanel p { y with tacks := y.tacks ++ [⟨(s.g a).toNat, s.cycle + 2, true⟩] })
      (pastWord (.tack a) (stitchBefore s).cur))) ∧
  (∀ (a b : Reg) (s : State) (p k : Nat) (x y : Panel), Strands (.tkwait a b) s p k x → (stitchBefore s).panel? p = some y →
    (15 < (s.g a).toNat → Traps (.tkwait a b) s .engine (wordOfForm (.tkwait a b))) ∧
    (∀ h : (s.g a).toNat < 16,
      (y.agPending[(s.g a).toNat] = 0 → WaitsStitched (.tkwait a b) s (s.g b)) ∧
      (y.agPending[(s.g a).toNat] ≠ 0 → Leaves (.tkwait a b) s
        ((stitchBefore s).setPanel p { y with
          agPending := y.agPending.set (s.g a).toNat (y.agPending[(s.g a).toNat] - 1) h })
        (pastWord (.tkwait a b) (stitchBefore s).cur)))) ∧
  (∀ (s : State), Issues .commit s → Leaves .commit s (stitchBefore s) (pastWord .commit (stitchBefore s).cur)) ∧
  (∀ (a : Reg) (s : State) (p k : Nat) (x y : Panel), Strands (.mxhint a) s p k x → (stitchBefore s).panel? p = some y →
    (65535 < (s.g a).toNat → Traps (.mxhint a) s .engine (wordOfForm (.mxhint a))) ∧
    ((s.g a).toNat ≤ 65535 → Leaves (.mxhint a) s
      ((stitchBefore s).setPanel p { y with hint := y.hint ++ [y.live - 1 + ((s.g a).toNat - 8)] })
      (pastWord (.mxhint a) (stitchBefore s).cur)))

/-- R117, R120: a strand that arrives at gbar or gbar.m acts as fence.dev (R108) and its arrival is held. Where it is the last one, and a strand
asked for the merge, the entries that the task's strands have logged leave the determinism log and are applied at their homes in R117's order;
then every arrival is released, and the strand drops its clean bytes and goes on. Any other waits, or traps E.WAITBOUND with a timeout of 0. A
merge applies the task's entries sorted by address, issuer, strand and sequence, each by the arithmetic of R176. -/
def Obligations.GarmentBarriers : Prop :=
  (∀ (i : Instr) (c : Reg) (s : State) (p k : Nat) (x : Panel) (e : TaskEntry), (i = .gbar c ∨ i = .gbarM c) → Strands i s p k x →
    let u := countFor (fenceFor (publishPanel s p) s.focus .dev) s.focus 42 1
    FMap.get? u.tasks x.entry = some e →
    let held : TaskEntry := { e with
      gbarArrived := ((x.index, k) :: e.gbarArrived).dedup, gbarMerge := e.gbarMerge || decide (i = .gbarM c) }
    let a := withTask u x.entry held
    ((∀ z ∈ garmentStrands a x.entry, z ∈ held.gbarArrived) →
      let v := if held.gbarMerge then merge a x.entry else a
      Ends i s fun t => t.cur.wait = s.cur.wait ∧ t.cur.pc = s.cur.pc + 4#64 ∧ (∀ r, t.g r = s.g r) ∧
        t.mem = v.mem ∧ t.homeQ = v.homeQ ∧ t.dlog = v.dlog ∧ t.contexts = v.contexts ∧
        (held.gbarMerge = true → ∀ h, ∀ d ∈ FMap.getD t.dlog h [], d.entry ≠ x.entry) ∧
        (∀ y n, t.panel? p = some y → (y.tile n).lines = []) ∧
        FMap.get? t.tasks x.entry = (FMap.get? v.tasks x.entry).map fun e => { e with gbarArrived := [], gbarMerge := false }) ∧
    ((∃ z ∈ garmentStrands a x.entry, z ∉ held.gbarArrived) →
      let stays (t : State) : Prop := t.mem = a.mem ∧ t.homeQ = a.homeQ ∧ t.dlog = a.dlog ∧ t.contexts = a.contexts ∧
        FMap.get? t.tasks x.entry = some held
      (s.g c ≠ 0#64 → Ends i s fun t => t.cur.wait = some ⟨i, s.cycle, some (s.g c).toNat, true⟩ ∧ t.cur.pc = s.cur.pc ∧
        (∀ r, t.g r = s.g r) ∧ stays t) ∧
      (s.g c = 0#64 → ∃ u, exec i s = .next (raise (noteIssue u) ⟨.waitBound, 0#64, none⟩) ∧ stays u ∧
        u.cur.wait = some ⟨i, s.cycle, some 0, true⟩))) ∧
  (∀ (s : State) (entry : Nat), ∃ l : List DEntry,
    l.Perm ((s.dlog.flatMap (·.2)).filter fun d => d.entry == entry) ∧
    l.Pairwise (fun a b => a.addr < b.addr ∨ (a.addr = b.addr ∧ (a.issuer < b.issuer ∨ (a.issuer = b.issuer ∧
      (a.strand < b.strand ∨ (a.strand = b.strand ∧ a.seq ≤ b.seq)))))) ∧
    merge s entry = { l.foldl applyEntry s with
      dlog := mapVals (fun _ l => l.filter fun d => d.entry != entry) (l.foldl applyEntry s).dlog }) ∧
  (∀ (s : State) (d : DEntry), d.kind ≤ 8 →
    let n := if d.wide then 8 else 4
    let h := flushSlice s (sliceOf d.addr)
    applyEntry s d = writeHomeNow h d.dom (taskId h d.entry) d.addr
      (toBytes n (amoRule d.kind n (ofBytes (homeBytes h d.dom d.addr n)) (d.operand.toNat % 2 ^ (8 * n)) 0)) (entryUnit h d))

/-! ## Phase words -/

/-- R17, R140: a phase word whose predicate does not hold on its tile changes nothing. -/
def Obligations.PhaseWordsNullified : Prop :=
  ∀ (i : Instr) (pr : Pred) (s : State) (p n : Nat) (x : Panel), predOf i = some pr → s.focus = .tile p n →
    s.panel? p = some x → predHolds pr (x.tile n) = false → exec i s = .next s

/-- R235-R242: every VX form that writes a v register writes each lane as its rule states, the lanes outside its mask kept
where the mask applies; vcmp writes its k register, and with d[4] the condition bit of the next live cycle; vmov moves the
input latch in and a register out; nothing else changes. -/
def Obligations.VxWordsComplete : Prop :=
  (∀ (i : Instr) (f : VF) (masked : Bool) (g : Nat → W32) (s : State) (p n : Nat) (x : Panel), TileWord i s p n x → i.wf = true →
    vxRule (fun r k => lane (getV (x.tile n).v r) k) (getV (x.tile n).v) (getK (x.tile n).k) i = some (f, masked, g) →
      ∃ v, PanelEnds i s p (x.setTile n { x.tile n with v := v }) ∧
        (∀ r, r ≠ f.d → getV v r = getV (x.tile n).v r) ∧
        ∀ k, k < 16 → lane (getV v f.d) k =
          if masked = true ∧ (getK (x.tile n).k f.k).getLsbD k = false then lane (getV (x.tile n).v f.d) k else g k) ∧
  (∀ (pr : Pred) (f : VF) (s : State) (p n : Nat) (x : Panel), TileWord (.vcmp pr f) s p n x → ∃ ks : Vector (BitVec 16) 8,
    let hit (j : Nat) : Bool := (getK (x.tile n).k f.k).getLsbD j &&
      vcmpRule f (lane (getV (x.tile n).v f.a) j) (lane (getV (x.tile n).v f.b) j)
    PanelEnds (.vcmp pr f) s p (x.setTile n { x.tile n with
      k := ks
      condNext := if f.d.getLsbD 4 then some ((List.range 16).any hit) else (x.tile n).condNext }) ∧
    (∀ j : Nat, j < 16 → f.d.toNat % 8 ≠ 0 → (getK ks (f.d.setWidth 3)).getLsbD j = hit j) ∧
    (∀ r, r ≠ f.d.setWidth 3 → getK ks r = getK (x.tile n).k r)) ∧
  (∀ (pr : Pred) (f : VF) (s : State) (p n : Nat) (x : Panel), TileWord (.vmovIn pr f) s p n x → ∃ v,
    PanelEnds (.vmovIn pr f) s p (x.setTile n { x.tile n with v := v }) ∧
    (∀ r, r ≠ f.d → getV v r = getV (x.tile n).v r) ∧
    ∀ k, k < 16 → lane (getV v f.d) k =
      if (getK (x.tile n).k f.k).getLsbD k = false then lane (getV (x.tile n).v f.d) k
      else if ((x.tile n).inp[1]).bubble then 0#32 else lane ((x.tile n).inp[1]).data k) ∧
  (∀ (pr : Pred) (f : VF) (s : State) (p n : Nat) (x : Panel), TileWord (.vmovOut pr f) s p n x →
    PanelEnds (.vmovOut pr f) s p (x.setTile n (latched (x.tile n) 1 ⟨getV (x.tile n).v f.a, 0#32, false⟩)))

/-- R228-R234: the MX words complete: weights, scales and formats loaded, intervals issued, accumulators zeroed, read to the
output latch with busy in the scale lane, saved to the strand's log and loaded from its view. -/
def Obligations.MxWordsComplete : Prop :=
  (∀ pr s p n x, TileWord (.mxNop pr) s p n x → exec (.mxNop pr) s = .next s) ∧
  (∀ pr (c : BitVec 4) s p n x, TileWord (.mxLd pr c) s p n x → ((x.tile n).inp[0]).bubble = false →
    PanelEnds (.mxLd pr c) s p (x.setTile n { x.tile n with
      weights := (x.tile n).weights.set c.toNat ((x.tile n).inp[0]).data c.isLt
      wscale := (x.tile n).wscale.set c.toNat ((x.tile n).inp[0]).scale c.isLt })) ∧
  (∀ pr s p n x, TileWord (.mxScl pr) s p n x → ((x.tile n).inp[0]).bubble = false →
    PanelEnds (.mxScl pr) s p (x.setTile n { x.tile n with
      wscale := Vector.ofFn fun c : Fin 16 => lane ((x.tile n).inp[0]).data c.val })) ∧
  (∀ pr fa fb s p n x, TileWord (.mxFmt pr fa fb) s p n x →
    PanelEnds (.mxFmt pr fa fb) s p (x.setTile n { x.tile n with fa := fa, fb := fb })) ∧
  (∀ pr a r s p n x, TileWord (.mxMm pr a r) s p n x →
    PanelEnds (.mxMm pr a r) s p (x.setTile n (intervalIssued (x.tile n) a r ((x.tile n).inp[0])))) ∧
  (∀ pr a r (j : BitVec 4) s p n x, TileWord (.mxMmg pr a r j) s p n x →
    PanelEnds (.mxMmg pr a r j) s p
      (x.setTile n (intervalIssued (x.tile n) a r ((x.tile n).oplatch[j.toNat]'(j.isLt))))) ∧
  (∀ pr mask s p n x, TileWord (.mxAcz pr mask) s p n x →
    ∃ tl, PanelEnds (.mxAcz pr mask) s p (x.setTile n tl) ∧ { tl with acc := (x.tile n).acc } = x.tile n ∧
      ∀ a r, tl.accRow a r = if mask.getLsbD a.toNat then 0 else (x.tile n).accRow a r) ∧
  (∀ pr a r w s p n x, TileWord (.mxAcrd pr a r w) s p n x →
    PanelEnds (.mxAcrd pr a r w) s p (x.setTile n (latched (x.tile n) 0
      ⟨(x.tile n).accRow a r, if (x.tile n).pipe.any (fun v => v.acc == a) then 1#32 else 0#32, false⟩))) ∧
  (∀ pr a r (i : BitVec 12) s p n x, TileWord (.mxAcsv pr a r i) s p n x →
    logSize ((x.tile n).log (rowStrand x)) + 64 ≤ x.image.logmax.getD (rowStrand x) 0 →
    PanelEnds (.mxAcsv pr a r i) s p (x.setTile n (scratchLogged (x.tile n) (rowStrand x) n
      [(64 * i.toNat, toBytes 64 ((x.tile n).accRow a r).toNat)]))) ∧
  (∀ pr a r (i : BitVec 12) s p n x, TileWord (.mxAcld pr a r i) s p n x → badIn (x.tile n).bad (64 * i.toNat) 64 = none →
    ∃ tl, PanelEnds (.mxAcld pr a r i) s p (x.setTile n tl) ∧ { tl with acc := (x.tile n).acc } = x.tile n ∧
      ∀ a' r', tl.accRow a' r' = if a' = a ∧ r' = r then rowRegister ((x.tile n).view n (rowStrand x) (64 * i.toNat) 64)
        else (x.tile n).accRow a' r')

/-- The scratch-tagged address of an offset of tile n's scratchpad in its panel (R159). -/
def scratchTagged (x : Panel) (n off : Nat) : Word := BitVec.ofNat 64 (2 ^ 63 + tileIndex x n * 2 ^ 18 + off)

/-- Lane k of a gather or scatter, whose accesses of `al` bytes are aligned to `al`, raises the cause at the offset (R245, R246). -/
def laneRaises (x : Panel) (al base : Nat) (v : Lanes) (k : Nat) : Option (Cause × Nat) :=
  let off := base + (lane v k).toNat % 2 ^ 18
  if off % al ≠ 0 then some (.align, off)
  else if (lane v k).toNat / 2 ^ 18 % 64 ≠ 0 ∨ scratchSize x < off + al then some (.perm, off)
  else none

/-- R118, R243-R247: the LS words complete on rows inside the scratchpad; a row or a lane outside it is the fabric fault E.PERM with the
scratch-tagged address of the row or lane (the model's choice of its value, log 28), a misaligned lane E.ALIGN, the first such lane in lane
order. -/
def Obligations.LsWordsComplete : Prop :=
  (∀ pr idx ctr sh s p n x, TileWord (.lsRd pr idx ctr sh) s p n x →
    let off := lsOffset (x.tile n) idx ctr sh
    (off < scratchSize x → badIn (x.tile n).bad off 64 = none → PanelEnds (.lsRd pr idx ctr sh) s p
      (x.setTile n (latched (x.tile n) 2 ⟨rowRegister ((x.tile n).view n (rowStrand x) off 64), 0#32, false⟩))) ∧
    (scratchSize x ≤ off → exec (.lsRd pr idx ctr sh) s = .next (fabricFault s p
      ⟨n, 2, none, ⟨.perm, scratchTagged x n off, none⟩, false, none⟩))) ∧
  (∀ pr idx ctr sh op s p n x, scratchSize x ≤ lsOffset (x.tile n) idx ctr sh → ∀ i,
    (i = .lsWr pr idx ctr sh ∨ i = .lsUpd pr idx ctr sh op) → TileWord i s p n x → exec i s = .next (fabricFault s p
      ⟨n, 2, none, ⟨.perm, scratchTagged x n (lsOffset (x.tile n) idx ctr sh), none⟩, false, none⟩)) ∧
  (∀ pr (vd vi : Reg) base s p n x (k : Nat) c off i al,
    ((i = .lsG pr vi base ∧ al = 64) ∨ (i = .lsS pr vd vi base ∧ al = 4)) → TileWord i s p n x → k < 16 →
    laneRaises x al (64 * base.toNat) (getV (x.tile n).v vi) k = some (c, off) →
    (∀ j, j < k → laneRaises x al (64 * base.toNat) (getV (x.tile n).v vi) j = none) →
      exec i s = .next (fabricFault s p ⟨n, 2, none, ⟨c, scratchTagged x n off, none⟩, false, none⟩)) ∧
  (∀ pr idx ctr sh s p n x, TileWord (.lsWr pr idx ctr sh) s p n x → lsOffset (x.tile n) idx ctr sh < scratchSize x →
    (((x.tile n).inp[2]).bubble = true → exec (.lsWr pr idx ctr sh) s = .next s) ∧
    (((x.tile n).inp[2]).bubble = false →
      logSize ((x.tile n).log (rowStrand x)) + 64 ≤ x.image.logmax.getD (rowStrand x) 0 →
      PanelEnds (.lsWr pr idx ctr sh) s p (x.setTile n (scratchLogged (x.tile n) (rowStrand x) n
        [(lsOffset (x.tile n) idx ctr sh, toBytes 64 ((x.tile n).inp[2]).data.toNat)])))) ∧
  (∀ pr (vi : Reg) base s p n x, TileWord (.lsG pr vi base) s p n x →
    let v := getV (x.tile n).v vi
    let offs := (List.range 16).map fun k => 64 * base.toNat + (lane v k).toNat % 2 ^ 18
    (∀ k, k < 16 → laneRaises x 64 (64 * base.toNat) v k = none) →
      PanelEnds (.lsG pr vi base) s p (x.setTile n { x.tile n with
        gathers := (x.tile n).gathers ++ [⟨rowStrand x, offs,
          (List.range 16).map fun k => (lane v k).extractLsb' 24 8, 0, 0⟩] })) ∧
  (∀ pr (vd vi : Reg) base s p n x, TileWord (.lsS pr vd vi base) s p n x →
    let v := getV (x.tile n).v vi
    (∀ k, k < 16 → laneRaises x 4 (64 * base.toNat) v k = none) →
    logSize ((x.tile n).log (rowStrand x)) + 128 ≤ x.image.logmax.getD (rowStrand x) 0 →
      PanelEnds (.lsS pr vd vi base) s p (x.setTile n (scratchLogged (x.tile n) (rowStrand x) n
        ((List.range 16).map fun k => (64 * base.toNat + (lane v k).toNat % 2 ^ 18,
          toBytes 4 (lane (getV (x.tile n).v vd) k).toNat))))) ∧
  (∀ pr idx wd s p n x, TileWord (.lsFe pr idx wd) s p n x →
    PanelEnds (.lsFe pr idx wd) s p (x.setTile n { x.tile n with
      empties := ((8 * idx.toNat + wd.toNat) :: (x.tile n).empties).dedup })) ∧
  (∀ pr idx ctr sh op s p n x, TileWord (.lsUpd pr idx ctr sh op) s p n x →
    let off := lsOffset (x.tile n) idx ctr sh
    let old := readBytes (x.tile n).scratch off 64
    off < scratchSize x → (((x.tile n).inp[2]).bubble = true → exec (.lsUpd pr idx ctr sh op) s = .next s) ∧
    (((x.tile n).inp[2]).bubble = false → badIn (x.tile n).bad off 64 = none →
    logSize ((x.tile n).log (rowStrand x)) + 64 ≤ x.image.logmax.getD (rowStrand x) 0 →
      PanelEnds (.lsUpd pr idx ctr sh op) s p (x.setTile n { (x.tile n).addLog (rowStrand x) (.undo off old x.live) with
        scratch := writeBytes (x.tile n).scratch off (toBytes 64 (ofLanes fun k =>
          updOp op.toNat (lane (rowRegister old) k) (lane ((x.tile n).inp[2]).data k)).toNat) })))

/-- R215, R225-R227: a route of sources that are no streams delivers its beats to the neighbours' edges and the elements'
inputs; from a stream it pops the beat that waits; ease sets the depths to come; hold keeps a presented beat. -/
def Obligations.XbWordsComplete : Prop :=
  (∀ pr (sa : BitVec 4) (oa : BitVec 8) (sb : BitVec 4) (ob : BitVec 8) (q : BitVec 4) s p n x,
    let i := Instr.xbRoute pr sa oa sb ob q
    TileWord i s p n x → oa.getLsbD 7 = false → ob.getLsbD 7 = false →
    (sa ≠ 7#4 → sb ≠ 7#4 → (sa = 15#4 ∨ sa.toNat ≤ 8) → (sb = 15#4 ∨ sb.toNat ≤ 8) →
      PanelEnds i s p (routed x n (sourceBeat (x.tile n) sa) (sourceBeat (x.tile n) sb) oa ob)) ∧
    (∀ b, sa = 7#4 → sb = 15#4 → ob = 0#8 → streamHead x (rowStrand x) q.toNat n = .beat b →
      PanelEnds i s p (routed (popStream x (rowStrand x) q.toNat n) n b Beat.bubbleBeat oa 0#8)) ∧
    (∀ e, sa = 7#4 → streamHead x (rowStrand x) q.toNat n = .fault e →
      exec i s = .next (fabricFault s p ⟨n, 3, some q.toNat, e, false, none⟩))) ∧
  (∀ pr sn se ss sw mx vx ls s p n x, TileWord (.xbEase pr sn se ss sw mx vx ls) s p n x → ∃ es : Vector Ease 7,
    PanelEnds (.xbEase pr sn se ss sw mx vx ls) s p (x.setTile n { x.tile n with ease := es }) ∧
    ∀ k : Fin 7, (es[k]).depth = ((x.tile n).ease[k]).depth ∧ (es[k]).queue = ((x.tile n).ease[k]).queue ∧
      (es[k]).next = ([sn, se, ss, sw, mx, vx, ls].getD k.val 0#4).toNat) ∧
  (∀ pr (src q : BitVec 4) s p n x, TileWord (.xbHold pr src q) s p n x →
    (src.toNat < 7 → PanelEnds (.xbHold pr src q) s p (x.setTile n { x.tile n with hold := presented (x.tile n) src.toNat })) ∧
    (∀ b, src = 7#4 → streamHead x (rowStrand x) q.toNat n = .beat b →
      let y := popStream x (rowStrand x) q.toNat n
      PanelEnds (.xbHold pr src q) s p (y.setTile n { y.tile n with hold := b })))

/-- R248-R252: the TK words complete: counters and the link set, a chain's trip counted, tacks sent and taken, the schedule
of the next turn chosen, the stitch of the live cycle asked for. -/
def Obligations.TkWordsComplete : Prop :=
  (∀ pr s p n x, TileWord (.tkNop pr) s p n x → exec (.tkNop pr) s = .next s) ∧
  (∀ pr (c : BitVec 2) (field : BitVec 3) (v : BitVec 24) s p n x, TileWord (.tkCnt pr c field v) s p n x →
    (field.toNat < 3 → ∃ cs : Vector TkCounter 4,
      PanelEnds (.tkCnt pr c field v) s p (x.setTile n { x.tile n with counters := cs }) ∧
      (∀ k : Fin 4, k.val ≠ c.toNat → cs[k] = (x.tile n).counters[k]) ∧
      cs[c.toNat]'(c.isLt) =
        (let old := (x.tile n).counters[c.toNat]'(c.isLt)
        if field.toNat = 0 then { old with start := v } else if field.toNat = 1 then { old with bound := v }
        else { old with step := v.setWidth 16 })) ∧
    (field.toNat = 3 → PanelEnds (.tkCnt pr c field v) s p (x.setTile n { x.tile n with
      chainLen := v.toNat / 2 ^ 22 + 1, startCh := v.toNat / 2 ^ 18 % 16, doneCh := v.toNat / 2 ^ 14 % 16 }))) ∧
  (∀ pr s p n x, TileWord (.tkCntTick pr) s p n x →
    ((x.tile n).running = false → exec (.tkCntTick pr) s = .next (s.setPanel p x)) ∧
    ((x.tile n).running = true →
      let r := tickFrom (List.range (x.tile n).chainLen) (x.tile n)
      (r.2 = false → PanelEnds (.tkCntTick pr) s p (x.setTile n r.1)) ∧
      (r.2 = true → PanelEnds (.tkCntTick pr) s p { x.setTile n r.1 with
        tacks := x.tacks ++ [⟨r.1.doneCh % 16, x.live + 2, false⟩] }))) ∧
  (∀ pr (ch : BitVec 4) s p n x, TileWord (.tkSend pr ch) s p n x →
    PanelEnds (.tkSend pr ch) s p { x with tacks := x.tacks ++ [⟨ch.toNat, x.live + 2, false⟩] }) ∧
  (∀ pr (ch : BitVec 4) w s p n x, TileWord (.tkWait pr ch w) s p n x →
    PanelEnds (.tkWait pr ch w) s p (x.setTile n { x.tile n with
      pending := (x.tile n).pending.set ch.toNat ((x.tile n).pending[ch.toNat]'(ch.isLt) - 1) ch.isLt })) ∧
  (∀ pr (src : BitVec 2) w s p n x, TileWord (.tkSel pr src w) s p n x →
    let chosen (y : Panel) (b : Bool) : Prop := Ends (.tkSel pr src w) s fun t => outside t = outside s ∧
      t.cores = s.cores ∧ (∀ q, q ≠ p → t.panel? q = s.panel? q) ∧
      (t.panel? p).map uncounted = some (uncounted { y with nextB := b }) ∧
      t.thread (.seq p (rowStrand x)) = (s.thread (.seq p (rowStrand x))).sign b ∧
      ∀ r, r ≠ .seq p (rowStrand x) → t.thread r = s.thread r
    (∀ v q, src = 0#2 → (x.strand (rowStrand x)).queue = .value v :: q →
      chosen (withStrand x (rowStrand x) fun st => { st with queue := q, taken := st.taken + 1 }) (v.getLsbD 0)) ∧
    (src = 1#2 → chosen x (x.tile n).cond) ∧ (src = 2#2 → chosen x false) ∧ (src = 3#2 → chosen x true)) ∧
  (∀ pr s p n x, TileWord (.tkStitch pr) s p n x → PanelEnds (.tkStitch pr) s p { x with stitch := true })

/-! ## Steps of the device -/

/-- R99, R110, R112, R182, R268, R291, R299: the steps of engine commands: a node step waits for its descriptor and else runs, its answer
kept until the command goes on after it; a command begins with the whole of its read phase, one read a step; a part of a copy is read and
then written; a bobbin unit writes the lines of its oldest command; a finished command whose earlier writes have all applied writes its
completion value, by the home queue of its address, and leaves, and one whose writes still wait stays; a failed one leaves with its
fault bit or its cause offered; a copy to a peer waits for every answer (R344), and one to a link that is down fails. The model's choices: a
node step of one read, its script run again (log 77); the flits of a part of a copy (log 106); what a copy does at a link that is down
(log 14). -/
def Obligations.CommandSteps : Prop :=
  (∀ n s c, FMap.get? s.quilts n = some c → c.failed = none → c.heldFault = false →
    (c.stage = 0 → mayBegin s n c = false → exec (.nodeStep n) s = .next s) ∧
    (∀ u d r, c.stage = 0 → mayBegin s n c = true → (c.script = [] → quiltWord s c = .ok (u, d)) → (c.script ≠ [] → u = s ∧ d = c) →
      let kept : QuiltCmd := { d with
        pages := r.c.pages, data := r.c.data, reserved := r.c.reserved, pool := r.c.pool, incs := r.c.incs }
      (qRun u n d true qDry = (.ok (), r) →
        exec (.nodeStep n) s = .next (withQuilt r.base n { kept with stage := 1, script := [] })) ∧
      (∀ bs, qRun u n d true qDry = (.error (.taken bs), r) →
        exec (.nodeStep n) s = .next (withQuilt r.base n { kept with script := d.script ++ [bs] })) ∧
      (∀ k, qRun u n d true qDry = (.error (.code k), r) →
        exec (.nodeStep n) s = .next (withQuilt r.base n { kept with failed := some k }))) ∧
    (∀ r, c.stage = 1 → qRun s n c false qProgram = (.ok (), r) →
      exec (.nodeStep n) s = .next (withQuilt s n { r.c with stage := 2, script := [] })) ∧
    (∀ r bs, c.stage = 1 → qRun s n c false qProgram = (.error (.taken bs), r) →
      exec (.nodeStep n) s = .next (withQuilt r.s n { c with
        pages := r.c.pages, data := r.c.data, reserved := r.c.reserved, pool := r.c.pool, incs := r.c.incs
        script := c.script ++ [bs] })) ∧
    (∀ r k, c.stage = 1 → qRun s n c false qProgram = (.error (.code k), r) →
      exec (.nodeStep n) s = .next (withQuilt s n { c with failed := some k })) ∧
    (c.stage ≠ 2 → exec (.quiltCommandComplete n) s = .next s) ∧
    (∀ pa dom, c.stage = 2 → c.record ≠ 0#64 → c.record.getLsbD 63 = false → c.heldRecord = false → c.cw = some (pa, dom) →
      Ends (.quiltCommandComplete n) s fun t => FMap.get? t.quilts n = none ∧ t.mem = s.mem ∧
        t.homeQ = (pushHome s dom c.task pa (quiltDone c.code c.word) (cmdWriter s c.party c.uid)).homeQ ∧ t.contexts = s.contexts)) ∧
  (∀ n s c k, FMap.get? s.quilts n = some c → c.heldFault = false → c.failed = some k → c.record = 0#64 →
    let u := { s with quilts := FMap.erase s.quilts n }
    exec (.quiltCommandComplete n) s =
      .next (offerEngine u c.ctx c.task ⟨.quilt, BitVec.ofNat 64 k, none⟩ 4 (issuerNo c.party) none)) ∧
  (∀ n s c, FMap.get? s.press n = some c → c.heldFault = false → earlier s n c = [] → c.failed = none →
    (writesWait s c = true → exec (.pressCommandComplete n) s = .next s) ∧
    (pressDone c = false → exec (.pressCommandComplete n) s = .next s) ∧
    (writesWait s c = false → pressDone c = true → c.record = 0#64 → Ends (.pressCommandComplete n) s fun t =>
      FMap.get? t.press n = none ∧ t.mem = s.mem ∧ t.homeQ = s.homeQ ∧ t.contexts = s.contexts)) ∧
  (∀ c n k s cmd rest, CopyHead s c n cmd rest →
    (∀ u bs, k < copyParts cmd → cmd.readParts.any (fun r => r.1 == k) = false → cmd.wroteParts.contains k = false →
      (cmd.src + BitVec.ofNat 64 (partRange cmd k).1).getLsbD 63 = false →
      engReadN s (engReq c cmd.priv .read 5) (cmd.src + BitVec.ofNat 64 (partRange cmd k).1) (partRange cmd k).2 = .ok (u, bs) →
      exec (.engineRead (.copy c n) k) s = .next (setHead u c n { cmd with readParts := cmd.readParts ++ [(k, bs)] })) ∧
    (∀ u bs, cmd.readParts.find? (fun r => r.1 == k) = some (k, bs) → checkCw s c cmd = .ok u →
      let wrote := { cmd with
        cwChecked := true, readParts := cmd.readParts.filter fun r => r.1 != k, wroteParts := k :: cmd.wroteParts }
      let a := cmd.dst + BitVec.ofNat 64 (partRange cmd k).1
      (∀ v, cmd.peer = 0 → a.getLsbD 63 = false →
        engWriteN u (engReq c cmd.priv .write 5) cmd.task (cmdWriter u cmd.party cmd.uid) a bs = .ok v →
        exec (.engineWrite (.copy c n) k) s = .next (countCmd
          (setHead v c n { wrote with ranges := cmd.ranges ++ regionRanges u c 2 a.toNat (a.toNat + bs.length) })
          cmd.party cmd.uid 61 bs.length)) ∧
      (cmd.peer ≠ 0 → linkUp u cmd.peer = true →
        let fs := payloadFlits c n a.toNat bs
        exec (.engineWrite (.copy c n) k) s = .next (countCmd
          (sendFlits (setHead u c n { wrote with unanswered := cmd.unanswered + fs.length }) (cmd.peer - 1) fs)
          cmd.party cmd.uid 61 bs.length)) ∧
      (cmd.peer ≠ 0 → linkUp u cmd.peer = false → exec (.engineWrite (.copy c n) k) s =
        .next (setHead u c n { cmd with cwChecked := true, failed := true }))) ∧
    ((cmd.wroteParts.length < copyParts cmd ∨ cmd.unanswered ≠ 0 ∨ waitsIn s cmd.ranges = true) →
      exec (.completionWordWrite (.copy c n)) s = .next s) ∧
    (copyParts cmd ≤ cmd.wroteParts.length → cmd.unanswered = 0 → waitsIn s cmd.ranges = false →
      let popped (t : State) : Prop :=
        chanOf t c n = ⟨rest, (chanOf s c n).fault⟩ ∧ t.mem = s.mem
      (cmd.cw = false → Ends (.completionWordWrite (.copy c n)) s fun t => popped t ∧ t.homeQ = s.homeQ) ∧
      (∀ u, cmd.cw = true → cmd.cwaddr.getLsbD 63 = false →
        engWriteN s (engReq c cmd.priv .write 5) cmd.task (cmdWriter s cmd.party cmd.uid) cmd.cwaddr (toBytes 8 cmd.value.toNat) = .ok u →
        exec (.completionWordWrite (.copy c n)) s = .next (countCmd (popChan u c n false) cmd.party cmd.uid 63 1)))) ∧
  (∀ c n s cmd rest, (chanOf s c n).queue = cmd :: rest → cmd.failed = true → cmd.unanswered = 0 →
    exec (.completionWordWrite (.copy c n)) s = .next (offerEngine (popChan s c n true) c cmd.task
      ⟨.engine, BitVec.ofNat 64 n, none⟩ 5 (issuerNo cmd.party) none)) ∧
  (∀ p k s c q m ms, FMap.get? s.bobbin p = some (c :: q) → c.parts = m :: ms → Ends (.engineWrite (.bobbin p) k) s fun t =>
    let u := pushHome s m.dom c.task m.pa m.bytes (cmdWriter s p c.uid)
    t.homeQ = u.homeQ ∧ t.mem = u.mem ∧
      t.contexts = s.contexts ∧ t.threads = s.threads ∧
      FMap.getD t.bobbin p [] = if ms = [] ∧ c.scratch = none then q else { c with parts := ms } :: q) ∧
  (∀ n k s, exec (.engineRead (.quilt n) k) s = exec (.nodeStep n) s ∧ exec (.engineWrite (.quilt n) k) s = exec (.nodeStep n) s ∧
    exec (.completionWordWrite (.quilt n)) s = exec (.quiltCommandComplete n) s ∧
    exec (.completionWordWrite (.press n)) s = exec (.pressCommandComplete n) s)

/-- The present row of a panel executes in this fabric cycle (R17, R31, R224): no heat, publish, `tkwait`, fault, switch, clamp or one-shot
breakpoint holds it, it is the panel's turn, it executes in one part (R31), and none of its words and none of its gathers faults. -/
structure RowGoes (u : State) (p : Nat) (y : Panel) : Prop where
  free : y.faulted = [] ∧ isHot u y = false ∧ y.publishHold = 0 ∧ tkwaits u p = false ∧ y.switching = 0
  turn : inPhase u y = true
  whole : y.half = none ∧ laterTiles u y = []
  noClamp : rowHolds u y (rowWordsOf u p y) = []
  noBreak : tbreakAt u p { y with rowRun := some (rowRuns u p y) } = none
  noFault : gatherFaults y = [] ∧
    (runTiles p (rowWordsOf u p y) (List.range y.ntiles) (u.setPanel p { y with rowRun := some (rowRuns u p y) }) []).2 = []

/-- The live cycle of a row is over (R17, R28, R98, R213, R214): outside the panel the state is that after the row's words, and so are the
registers of its tiles; the next row follows, at the end of a turn under the schedule chosen; each thread may issue a word. -/
def RowDone (u : State) (p : Nat) (y : Panel) (t : State) : Prop :=
  let w := (runTiles p (rowWordsOf u p y) (List.range y.ntiles) (u.setPanel p { y with rowRun := some (rowRuns u p y) }) []).1
  outside t = outside w ∧ t.threads = w.threads ∧ t.cores = w.cores ∧ (∀ q, q ≠ p → t.panel? q = w.panel? q) ∧
  ∀ z, w.panel? p = some z → ∃ a, t.panel? p = some a ∧ a.live = z.live + 1 ∧ a.holds = [] ∧ a.skips = [] ∧ a.tok = u.cycle + 1 ∧
    a.half = none ∧ a.rowAt = (u.cycle + 1, z.row) ∧
    a.row = (if z.row + 1 < z.image.wheel then z.row + 1 else 0) ∧
    a.schedB = (if z.row + 1 < z.image.wheel then z.schedB else z.nextB) ∧
    (z.image.wheel ≤ z.row + 1 → z.nextB ≠ z.schedB → a.switching = 2) ∧
    ∀ n, (a.tile n).v = (z.tile n).v ∧ (a.tile n).k = (z.tile n).k ∧ (a.tile n).acc = (z.tile n).acc ∧
      (a.tile n).scratch = (z.tile n).scratch ∧ (a.tile n).logs = (z.tile n).logs ∧ (a.tile n).pool = (z.tile n).pool

/-- R228, R232, R245, R250, R259: the steps of the array, of tacks and of a publish: a due interval adds its row, a due gather
entry is written, ramps run and the row that a ramp-up held executes, a due tack raises every count or is the fault E.ENGINE of a
count above 255, the last held cycle of a publish ends it, a publish search ends. -/
def Obligations.ArraySteps : Prop :=
  (∀ p n s x v rest out, s.panel? p = some x → (x.tile n).pipe = v :: rest → v.left = 0 → (∀ w ∈ rest, w.left ≠ 0) →
    v.out = some out → ∃ tl, exec (.intervalComplete p n) s = .next (s.setPanel p (x.setTile n tl)) ∧ tl.pipe = rest ∧
      { tl with pipe := (x.tile n).pipe, acc := (x.tile n).acc } = x.tile n ∧
      (∀ k, k < 16 → lane (tl.accRow v.acc v.row) k = f32add 0 (lane ((x.tile n).accRow v.acc v.row) k) (out.getD k 0#32)) ∧
      ∀ a r, ¬ (a = v.acc ∧ r = v.row) → tl.accRow a r = (x.tile n).accRow a r) ∧
  (∀ p n s x g, s.panel? p = some x → (x.tile n).gathers = [g] → g.done + 2 ≤ g.age → g.done < 16 →
    ∃ tl, PanelEnds (.gatherEntryWrite p n) s p (x.setTile n tl) ∧
      tl.gathers = (if g.done = 15 then [] else [{ g with done := g.done + 1 }]) ∧ tl.scratch = (x.tile n).scratch ∧
      ∀ k : Fin 16, tl.oplatch[k] = if k.val = g.done then
        ⟨rowRegister ((x.tile n).view n g.strand (g.offs.getD g.done 0) 64),
          BitVec.ofNat 32 ((g.scales.getD g.done 0#8).toNat * 0x01010101), false⟩ else (x.tile n).oplatch[k]) ∧
  (∀ p n s x, s.panel? p = some x →
    (64 ≤ (x.tile n).quiet → 0 < (x.tile n).rampDown →
      PanelEnds (.rampDown p n) s p (x.setTile n { x.tile n with rampDown := 0 })) ∧
    ((x.tile n).quiet < 64 ∨ (x.tile n).rampDown = 0 → PanelEnds (.rampDown p n) s p x)) ∧
  (∀ p s x, s.panel? p = some x →
    ((∀ h ∈ x.hint, x.live < h) → PanelEnds (.mxhintRampStart p) s p x) ∧
    (∀ h, x.hint.filter (fun k => decide (k ≤ x.live)) = [h] → ∃ y, PanelEnds (.mxhintRampStart p) s p y ∧ y.live = x.live ∧
      y.hint = x.hint.filter (fun k => decide (x.live < k)) ∧
      ∀ n, n < x.ntiles → (y.tile n).rampTo = if idleAt x (x.tile n) h then h + 8 else (x.tile n).rampTo)) ∧
  (∀ p ch s x f, s.panel? p = some x → x.faulted = [] → x.tacks.find? (fun f => f.ch == ch && tackDue s.cycle x.live f) = some f →
    ch < 16 →
    (tackOverflow x ch = none → ∃ y, exec (.tackArrive p ch) s = .next (s.setPanel p y) ∧ TackRaised x y ch ∧
      y.tacks = x.tacks.erase f) ∧
    (∀ n, tackOverflow x ch = some n → exec (.tackArrive p ch) s = .next (fabricFault
      (s.setPanel p { x with tacks := f :: x.tacks.erase f }) p ⟨n, 4, none, ⟨.engine, 0#64, none⟩, true, none⟩))) ∧
  (∀ p s x, s.panel? p = some x → canAdvance s p x = true → x.publishHold = 1 → x.faulted = [] →
    (let y := { x with lastAdv := s.cycle + 1 }
    tkwaits (s.setPanel p y) p = false → begunHolds (s.setPanel p y) p y = [] → (∀ h ∈ x.holds, h.isFault = true ∨ h.found = true) →
      PanelEnds (.publishDone p) s p { y with publishHold := 0 })) ∧
  (∀ p s x, s.panel? p = some x → PanelEnds (.publishSearchDone p) s p { x with
    holds := x.holds.map fun h => if h.cause = .search then { h with left := 0 } else h }) ∧
  (∀ p s x, s.panel? p = some x →
    (rampOver x = true → ∃ t, exec (.rampUpDone p) s = .next t ∧ exec (.wheelAdvance p) s = .next t) ∧
    (rampOver x = false → exec (.rampUpDone p) s = .next s) ∧
    ∀ y, rampOver x = true → canAdvance s p x = true →
      let u := settlePanelDue (s.setPanel p { x with lastAdv := s.cycle + 1 }) p
      u.panel? p = some y → RowGoes u p y → Ends (.rampUpDone p) s (RowDone u p y))

/-- R17, R28, R77, R101, R213, R220, R223, R254: the steps of a panel: it takes one cycle where it may advance, and a cycle that no hold and
no fault stops executes the words of its row, tile by tile in one order (the model's choice, log 1), and ends with the next row and one live
cycle more; a beat is read by
aligned parts and arrives in its queue, one in a cycle of its AG tile; a load ends loaded or failed; a placed panel is armed and
prepared, and its strands start. -/
def Obligations.PanelSteps : Prop :=
  (∀ p s x, s.panel? p = some x → canAdvance s p x = false → exec (.wheelAdvance p) s = .next s) ∧
  (∀ p s x y, s.panel? p = some x → canAdvance s p x = true →
    let u := settlePanelDue (s.setPanel p { x with lastAdv := s.cycle + 1 }) p
    u.panel? p = some y →
    (y.switching = 0 → RowGoes u p y → Ends (.wheelAdvance p) s (RowDone u p y)) ∧
    (y.faulted = [] → isHot u y = false → y.publishHold = 0 → tkwaits u p = false → inPhase u y = true →
      0 < y.switching → gatherHolds y u.cycle = [] → gatherFaults y = [] → Ends (.wheelAdvance p) s fun t =>
        (t.panel? p).map uncounted = some (uncounted (endLive u.cycle { y with switching := y.switching - 1, holds := [] } [])))) ∧
  (∀ i run s p n x, wordRun i = some run → TileWord i s p n x →
    (∀ u, run s p n = .ok u → exec i s = .next u) ∧ (∀ f, run s p n = .error f → exec i s = .next (fabricFault s p f))) ∧
  (∀ p n q k s x sl, let i := q / 16 % 4
    s.panel? p = some x → x.slot? i (q % 16) = some sl → canFetch x i (q % 16) n sl = true →
    (∀ u bs pas, readElems s p n i (blockOf x n) sl (onePart sl (elemsLeft x sl n)) = .ok (u, bs, pas) →
      exec (.engineRead (.stream p n q) k) s =
        .next (u.modPanel p fun y => y.setSlot i (q % 16) (partsTaken sl n (onePart sl (elemsLeft x sl n)) bs pas))) ∧
    (agFree x s.cycle n = true → elemsLeft x sl n ≠ [] → ∀ e,
      readElems s p n i (blockOf x n) sl (elemsLeft x sl n) = .error e → exec (.streamBeatArrive p n q) s =
        .next (s.setPanel p (x.setSlot i (q % 16) { sl with fault := FMap.set sl.fault n e }))) ∧
    (agFree x s.cycle n = false → exec (.streamBeatArrive p n q) s = .next s) ∧
    ∀ v y sl' w lane, agFree x s.cycle n = true → BeatRead s p n q x sl v → v.panel? p = some y → y.slot? i (q % 16) = some sl' →
      scaleLane v y.uid sl.spec (partOf sl' n).2.2 = .ok (w, lane) → Ends (.streamBeatArrive p n q) s fun t => t.mem = w.mem ∧
        ∃ z sl'', t.panel? p = some z ∧ z.slot? i (q % 16) = some sl'' ∧ sl''.spec = sl.spec ∧
          (z.tile n).queue i (q % 16) = (y.tile n).queue i (q % 16) ++ [beatOf (partOf sl' n).2.1 lane] ∧
          FMap.getD sl''.fetched n 0 = FMap.getD sl.fetched n 0 + 1 ∧ FMap.get? sl''.parts n = none ∧
          agFree z s.cycle n = false) ∧
  (∀ p s x l, s.panel? p = some x → x.load = some l → l.state = .reading →
    (∀ u y img, readImage s x.ctx (loadPriv s x) l.addr = .ok (u, img) → loadFits x img = true →
      ((rectBlocks x.bx x.byy img.width img.height).all fun b => decide (img.entries ≤ freeEntries u b)) = true →
      u.panel? p = some y → Ends (.loadComplete p) s fun t => ∃ z, t.panel? p = some z ∧
        z.load = some { l with state := .loaded, image := some img } ∧ t.threads = u.threads ∧ t.mem = u.mem) ∧
    (readImage s x.ctx (loadPriv s x) l.addr = .error .bad → x.state ≠ .loading →
      exec (.loadComplete p) s = .next (s.setPanel p
        ({ x with load := none }.setStrand l.strand { x.strand l.strand with failed := some l.addr })))) ∧
  (∀ p s x l img, s.panel? p = some x → x.state = .loading → x.load = some l → l.state = .loaded → l.image = some img →
    armCheck img = none → Ends (.placementArm p) s fun t => t.threads = s.threads ∧ t.contexts = s.contexts ∧
      ∃ y, t.panel? p = some y ∧ y.image = img ∧ y.load = none ∧ y.state = .preparing ∧ y.prep = s.cycle + 256) ∧
  (∀ p s x t, s.panel? p = some x → x.state = .preparing → FMap.get? s.tasks x.entry = some t → t.frozen = none →
    (s.cycle < x.prep → exec (.preparationComplete p) s = .next s) ∧
    (x.prep ≤ s.cycle → x.image.strands ≤ 4 → Ends (.preparationComplete p) s fun u =>
      (∃ y, u.panel? p = some y ∧ y.state = .live) ∧
      (∀ j, j < x.image.strands → (u.thread (.seq p j)).status = .running ∧
        (u.thread (.seq p j)).pc = x.imageAddr + BitVec.ofNat 64 (x.image.entry.getD j 0)) ∧
      ∀ q, q ≠ p → u.panel? q = s.panel? q))

/-- R22, R23, R36-R39, R193, R202: the steps of tasks: a task with no dependence left is ready with the present age; the Marker
admits a task only in a cycle whose number is a multiple of 32, a service-core task onto its thread; a garment that is over
frees its panels; a task's end counts it done; a pass of a fitting run ends ready for the next; a replay begins, is refused, a pending one
then to begin, or ends. That a replay begins or is refused in a step of its own is the model's choice (log 107), and so is that one of a killed
context, or of one being reset, ends there with fail set and starts no pending one (log 135). -/
def Obligations.TaskSteps : Prop :=
  (∀ e s t, FMap.get? s.tasks e = some t →
    (t.state = .waiting → t.deps = [] →
      exec (.taskReady e) s = .next (withTask s e { t with state := .ready, age := s.cycle, bypass := 0 })) ∧
    (t.deps ≠ [] → Ends (.taskReady e) s fun u => FMap.get? u.tasks e = some t ∧ u.threads = s.threads)) ∧
  (∀ s, s.cycle % 32 ≠ 0 → exec .markerStep s = .next s) ∧
  (∀ s e t n, s.cycle % 32 = 0 → s.blocked = none → (s.tasks.filter fun c => c.2.state == .barred) = [] →
    readyList s = [(e, t)] → FMap.get? s.tasks e = some t → place s t = some (.thread n) → t.record.gpmask = 0#64 →
    t.frozen = none → Ends .markerStep s fun u =>
      (u.thread (.core n)).status = .running ∧ (u.thread (.core n)).pc = t.record.image.headD 0#64 ∧
      (u.thread (.core n)).priv = .user ∧ (u.thread (.core n)).get 5#5 = t.record.args ∧
      (u.thread (.core n)).get 31#5 = t.record.addr ∧
      ∃ t', FMap.get? u.tasks e = some t' ∧ t'.state = .running ∧ t'.thread = some n) ∧
  (∀ e s t, FMap.get? s.tasks e = some t →
    (garmentOver s t = true → t.fit = none → Ends (.garmentDone e) s fun u =>
      (∀ p ∈ t.panels, u.panel? p = none) ∧ (∀ f ∈ u.frames, f.entry ≠ e) ∧
      ∃ t', FMap.get? u.tasks e = some t' ∧ t'.panels = [] ∧ t'.state = .running) ∧
    (garmentOver s t = false → exec (.garmentDone e) s = .next s) ∧
    (runOver s t = true → morePasses t = false → Ends (.taskEnd e) s fun u =>
      ∃ t', FMap.get? u.tasks e = some t' ∧ t'.state = .done ∧ t'.thread = none ∧ t'.gen = t.gen) ∧
    (runOver s t = false → exec (.taskEnd e) s = .next s ∧ exec (.fittingPassEnd e) s = .next s) ∧
    (∀ f, runOver s t = true → morePasses t = true →
      let v := cleanContext (recordCore (mergeTask s e) e t) t.ctx
      (FMap.get? v.tasks e).bind (·.fit) = some f → Ends (.fittingPassEnd e) s fun u =>
        ∃ t', FMap.get? u.tasks e = some t' ∧ t'.thread = none ∧
          (f.overflow = false → t'.state = .ready ∧ t'.fit.map (·.pass) = some (f.pass + 1)) ∧
          (f.overflow = true → t'.state = .done ∧ t'.fit.map (·.pass) = some f.pass))) ∧
  (∀ c s, let r := (s.ctxt c).greplay
    r.busy = true →
    (r.begun = false → ((s.ctxt c).killed = true ∨ inFlr s c = true) → exec (.replayBegin c) s =
      .next (s.setCtxt c { s.ctxt c with greplay := { r with
        pend := false, busy := false, begun := false, fail := true, failing := false } })) ∧
    (∀ u pol es, r.begun = false → (s.ctxt c).killed = false → inFlr s c = false →
      readGraph s c r.running.toNat = some (u, pol, es) → exec (.replayBegin c) s =
      .next (submitGraph c es [] (u.setCtxt c { u.ctxt c with greplay := { r with begun := true, policy := pol } }))) ∧
    (r.begun = false → (s.ctxt c).killed = false → inFlr s c = false → readGraph s c r.running.toNat = none →
      (r.pend = false → exec (.replayBegin c) s = .next (s.setCtxt c { s.ctxt c with greplay := { r with
        bad := true, busy := false, begun := false, fail := r.fail || r.failing, failing := false } })) ∧
      (r.pend = true → exec (.replayBegin c) s = .next (s.setCtxt c { s.ctxt c with greplay := { r with
        bad := true, pend := false, running := r.pendGraph, begun := false, policy := 0, fail := r.fail || r.failing
        failing := false } }))) ∧
    (r.begun = true → replayGoes s c = true → exec (.replayEnd c) s = .next s) ∧
    (r.begun = true → replayGoes s c = false → r.pend = false → exec (.replayEnd c) s =
      .next (s.setCtxt c { s.ctxt c with greplay := { r with
        busy := false, begun := false, fail := r.fail || r.failing, failing := false } })) ∧
    (r.begun = true → replayGoes s c = false → r.pend = true → exec (.replayEnd c) s =
      .next (s.setCtxt c { s.ctxt c with greplay := { r with
        pend := false, running := r.pendGraph, begun := false, policy := 0, fail := r.fail || r.failing, failing := false } })))

/-- R80, R84, R92, R99, R311, R327: the steps of memory: a drain moves a line's dirty bytes to its home queue, those of one seal domain as one
update, and keeps them clean; an apply performs a queue's head: an update leaves its sectors in the tiers dirty in the L2 and free of the poison
that it ends, a read or `amo` is answered; a fill sets a core's line from the home, an evict drops it, its dirty sectors written back; a
walk's entry is held where its checks pass, and nothing changes where they fail. The model's choices: the fills, dirty sectors and
evictions of the L2 (log 31), which fetches nothing of its own accord (log 87), and a failing walk that changes nothing (log 97). -/
def Obligations.MemorySteps : Prop :=
  (∀ p n line s x, s.panel? p = some x →
    (dirtyOf (x.tile n) line = [] → exec (.drain p n line) s = .next s) ∧
    (dirtyOf (x.tile n) line ≠ [] → Ends (.drain p n line) s fun t => t.mem = s.mem ∧
      FMap.getD t.homeQ (sliceOf (line * 256)) [] = FMap.getD s.homeQ (sliceOf (line * 256)) [] ++
        ((dirtyOf (x.tile n) line).map (·.2.2)).dedup.map (fun d =>
          .update (drained x.uid (taskId s x.entry) (((dirtyOf (x.tile n) line).filter fun c => c.2.2 == d).map fun c => (c.1, c.2.1)) d)) ∧
      ∃ y, t.panel? p = some y ∧ dirtyOf (y.tile n) line = [] ∧
        ∀ c ∈ dirtyOf (x.tile n) line, (FMap.get? (y.tile n).lines c.1).isSome = true)) ∧
  (∀ h s, FMap.getD s.homeQ h [] = [] → exec (.apply h) s = .next s) ∧
  (∀ h s u q, FMap.getD s.homeQ h [] = .update u :: q → s.tasks = [] → Memory.wf s.mem = true →
    (∀ c ∈ u.cells, sealFits s u.dom (sectorOf c.1) = true ∧ givesUp s (.update u) (lineOf c.1) = false) →
    Ends (.apply h) s fun t => FMap.getD t.homeQ h [] = q ∧
      (∀ a, readCell t.mem a = ((u.cells.reverse.find? fun c => c.1 == a).map (·.2)).getD (readCell s.mem a)) ∧
      (∀ sec, sec ∈ t.poison ↔ sec ∈ s.poison ∧ sec ∉ u.cures) ∧ t.l2 = s.l2 ∧
      (u.past = false → ∀ c ∈ u.cells, cacheable s (lineOf c.1) = true → isDirty t.l2Dirty (sectorOf c.1) = true) ∧
      ((u.past = true ∨ ∀ c ∈ u.cells, cacheable s (lineOf c.1) = false) → t.l2Dirty = s.l2Dirty) ∧
      t.contexts = s.contexts ∧ t.threads = s.threads) ∧
  (∀ h s a q r, FMap.getD s.homeQ h [] = .ask a :: q → s.tasks = [] → FMap.get? s.asked a.party = some r → r.id = a.id →
    badSector s a.pa a.n = none → (∀ l ∈ linesOf a.pa a.n, givesUp s (.ask a) l = false) →
    (∀ i, i < a.n → sealFits s a.dom (sectorOf (a.pa + i)) = true) →
    Ends (.apply h) s fun t => FMap.getD t.homeQ h [] = q ∧
      FMap.get? t.asked a.party = some { r with reply := some (homeBytes s a.dom a.pa a.n, none) } ∧
      (a.amo = none → t.mem = s.mem) ∧
      (∀ kind v want, a.amo = some (kind, v, want) → t.mem = writeCells s.mem (cellsAt a.pa (toBytes a.n
        (amoResult kind a.n (ofBytes (homeBytes s a.dom a.pa a.n)) v want)))) ∧
      t.contexts = s.contexts ∧ t.threads = s.threads) ∧
  (∀ n line s,
    (cacheable s line = true → ∀ c, (s.core? n).lastCtx = some c →
      let u := askLine s (.core n) c line
      exec (.fill (.core n) line) s =
        .next (u.setCore n { u.core? n with l1 := fillCells (u.core? n).l1 (lineCells s c line) }) ∧
      (∀ d, frtFind s (line * 256) = none → (∀ i, i < 8 → fillDom s c (8 * line + i) = d) → otherDomain s d line = false →
        u.mem = s.mem ∧ u.homeQ = s.homeQ ∧ (u.core? n).l1 = (s.core? n).l1 ∧
        ∀ sec, sec ∈ u.l2 ↔ sec ∈ s.l2 ∨ sec / 8 = line)) ∧
    (cacheable s line = false → ∀ u, exec (.fill u line) s = .next s) ∧
    Ends (.evict (.core n) line) s fun t => t.mem = s.mem ∧ t.homeQ = s.homeQ ∧
      (t.core? n).l1 = (s.core? n).l1.filter fun c => lineOf c.1 != line) ∧
  (∀ line s, exec (.fill .l2 line) s = .next s ∧
    (FMap.get? s.sides line = none → Ends (.evict .l2 line) s fun t =>
      t.mem = s.mem ∧ t.homeQ = s.homeQ ∧ (∀ sec, sec ∈ t.l2 ↔ sec ∈ s.l2 ∧ sec / 8 ≠ line) ∧
      ∀ sec, isDirty t.l2Dirty sec = (isDirty s.l2Dirty sec && decide (sec / 8 ≠ line)))) ∧
  (∀ unit ctx priv acc va s,
    (∀ u tg, translate s ⟨some unit, ctx, privOf priv, acc, 0, 0, 0, 0, 0⟩ va = .ok (u, tg) →
      exec (.pageWalk unit ctx priv acc va) s = .next u) ∧
    (∀ t, translate s ⟨some unit, ctx, privOf priv, acc, 0, 0, 0, 0, 0⟩ va = .error t →
      exec (.pageWalk unit ctx priv acc va) s = .next s))

/-- R30, R99, R321, R328-R334: the ends of waits, trap entry, pre-emption and the freeze: a wait whose test holds completes its form, one whose
test traps raises that trap, an expired one traps E.WAITBOUND; a thread whose read or `amo` its home has answered goes on; a due fault
enters its handler, a request has its outcome in `c.preempt`; a garment that freezes stops its panels, then waits for what they wait for, then
freezes them, and its readout queues it again. The model's choices: E.PREEMPT due at the next boundary (log 33), and of the freeze its faults
withdrawn and what it waits for (logs 40, 90, 91). -/
def Obligations.WaitAndTrapSteps : Prop :=
  (∀ p s, (s.thread p).wait = none →
    exec (.waitTimeout p) s = .next s ∧ (FMap.get? s.asked p = none → exec (.waitSatisfied p) s = .next s) ∧
    ∀ q, FMap.get? s.asked p = some q →
      ((takesAnswer s p = false ∨ q.reply = none) → exec (.waitSatisfied p) s = .next s) ∧
      (takesAnswer s p = true →
        let u := { s with focus := p, asked := FMap.erase s.asked p }
        (∀ bs, q.reply = some (bs, none) → exec (.waitSatisfied p) s =
          .next { commitShadow q.instr (retire q.instr (takeReply u q (q.bytes bs))) with focus := s.focus }) ∧
        (∀ bs sec, q.reply = some (bs, some sec) → exec (.waitSatisfied p) s =
          .next { raise u ⟨.ecc, BitVec.ofNat 64 (32 * sec), none⟩ with focus := s.focus }))) ∧
  (∀ n s q sz d a off bs, (s.thread (.core n)).wait = none → FMap.get? s.asked (.core n) = some q → q.instr = .ld sz d a off →
    takesAnswer s (.core n) = true → q.reply = some (bs, none) → NoTrip (.ld sz d a off) (s.thread (.core n)) →
    Ends (.waitSatisfied (.core n)) s fun t => t.focus = s.focus ∧ t.mem = s.mem ∧ FMap.get? t.asked (.core n) = none ∧
      t.thread (.core n) = pastWord (.ld sz d a off) ((s.thread (.core n)).put d (extend (q.bytes bs) true)) ∧
      ∀ r, r ≠ .core n → t.thread r = s.thread r) ∧
  (∀ p s w, WaitsAt s p w →
    let v := waitView s p w
    let back (u : State) : Host.Outcome State Fault Refusal := .next { u with focus := s.focus }
    (waitPoll v w.instr = none → exec (.waitSatisfied p) s = .next s ∧
      exec (.waitTimeout p) s = if waitExpired s w then
        back (raise (keepArrival v w) ⟨.waitBound, BitVec.ofNat 64 (w.timeout.getD 0), none⟩) else .next s) ∧
    (∀ u, waitPoll v w.instr = some (.ok u) → exec (.waitSatisfied p) s =
      back (if w.arrived then retire w.instr u else commitShadow w.instr (retire w.instr u))) ∧
    (∀ t, waitPoll v w.instr = some (.trap t) → exec (.waitSatisfied p) s = back (raise (keepArrival v w) t))) ∧
  (∀ p k s a b since bound x, k < 4 → WaitsAt s (.seq p k) ⟨.cond a b, since, bound, false⟩ →
    let v := waitView s (.seq p k) ⟨.cond a b, since, bound, false⟩
    v.panel? p = some x →
      ((x.strand k).queue = [] → exec (.waitSatisfied (.seq p k)) s = .next s) ∧
      (∀ val q, (x.strand k).queue = .value val :: q → NoTrip (.cond a b) (v.thread (.seq p k)) →
        Ends (.waitSatisfied (.seq p k)) s fun t => t.focus = s.focus ∧ t.mem = v.mem ∧
          t.thread (.seq p k) = pastWord (.cond a b) ((v.thread (.seq p k)).put a val) ∧
          ∀ y, t.panel? p = some y → (y.strand k).queue = q ∧ (y.strand k).taken = (x.strand k).taken + 1)) ∧
  (∀ p k s a b since bound x, WaitsAt s (.seq p k) ⟨.tkwait a b, since, bound, false⟩ →
    let v := waitView s (.seq p k) ⟨.tkwait a b, since, bound, false⟩
    v.panel? p = some x → ∀ ch : Fin 16, ((v.thread (.seq p k)).get a).toNat = ch.val →
      (x.agPending[ch] = 0 → exec (.waitSatisfied (.seq p k)) s = .next s) ∧
      (x.agPending[ch] ≠ 0 → NoTrip (.tkwait a b) (v.thread (.seq p k)) →
        Ends (.waitSatisfied (.seq p k)) s fun t => t.focus = s.focus ∧ t.mem = v.mem ∧
          t.thread (.seq p k) = pastWord (.tkwait a b) (v.thread (.seq p k)) ∧
          ∀ y, t.panel? p = some y → y.agPending[ch] = x.agPending[ch] - 1)) ∧
  (∀ n s a b since, WaitsAt s (.core n) ⟨.tickwait a b, since, none, false⟩ → NoTrip (.tickwait a b) (s.thread (.core n)) →
    (((s.thread (.core n)).get b).toNat ≤ s.tick.toNat → Ends (.waitSatisfied (.core n)) s fun t => t.focus = s.focus ∧
      t.thread (.core n) = pastWord (.tickwait a b) { (s.thread (.core n)).put a
        (BitVec.ofNat 64 (s.tick.toNat - ((s.thread (.core n)).get b).toNat)) with wait := none } ∧
      (∀ q, q ≠ .core n → t.thread q = s.thread q) ∧ t.mem = s.mem ∧ t.contexts = s.contexts) ∧
    (s.tick.toNat < ((s.thread (.core n)).get b).toNat → exec (.waitSatisfied (.core n)) s = .next s)) ∧
  (∀ n s d a off since bound o, WaitsAt s (.core n) ⟨.ldsync d a off, since, some bound, false⟩ →
    scratchLoc { s with focus := .core n } (.core n) (ruleAddr { s with focus := .core n } a off 8) 8 = some (.core n o) →
    (ruleAddr { s with focus := .core n } a off 8).toNat % 8 = 0 →
    isFull { s with focus := .core n } (.core n) (.core n o) = false →
      (s.cycle - since < bound → exec (.waitTimeout (.core n)) s = .next s) ∧
      (bound ≤ s.cycle - since → ∃ u, exec (.waitTimeout (.core n)) s = .next { u with focus := s.focus } ∧
        u = raise (waitView s (.core n) ⟨.ldsync d a off, since, some bound, false⟩)
          ⟨.waitBound, BitVec.ofNat 64 bound, none⟩)) ∧
  (∀ c n s f, FaultDue s c n f → Ends (.trapEntry c) s fun t =>
    (t.ctxt c).trappc = (s.thread (.core n)).pc ∧ (t.ctxt c).trapval = f.val ∧ (t.ctxt c).delivery = none ∧
    (t.ctxt c).trapcause.getLsbD 63 = true ∧ (t.ctxt c).handling = some (f, n) ∧
    (t.thread (.core n)).priv = .supervisor ∧
    (t.thread (.core n)).pc = BitVec.ofNat 64 ((s.ctxt c).tvec.toNat / 2 ^ 8 % 2 ^ 47 * 2 ^ 8) ∧
    (t.thread (.core n)).get 31#5 = (s.thread (.core n)).tscratch ∧
    (t.thread (.core n)).tscratch = (s.thread (.core n)).get 31#5 ∧
    (∀ d, d ≠ c → t.ctxt d = s.ctxt d) ∧ t.mem = s.mem) ∧
  (∀ c s, (s.ctxt c).delivery = none → exec (.trapEntry c) s = .next s) ∧
  (∀ c v s, (findTask s (v.setWidth 32) = none → exec (.preemptRequest c v) s = .next (s.setCtxt c { s.ctxt c with
      preempt := BitVec.ofNat 64 (2 ^ 60 + v.toNat % 2 ^ 32) })) ∧
    (∀ e t, findTask s (v.setWidth 32) = some (e, t) → t.ctx = c → t.state = .running → t.record.nonPreempt = true →
      Ends (.preemptRequest c v) s fun u => (u.ctxt c).preempt = BitVec.ofNat 64 (2 ^ 62 + v.toNat % 2 ^ 32) ∧
        FMap.get? u.tasks e = some { t with deferred := true }) ∧
    (∀ e t n, findTask s (v.setWidth 32) = some (e, t) → t.ctx = c → t.state = .running → t.record.nonPreempt = false →
      t.fit = none → t.thread = some n → (s.ctxt c).tvec.getLsbD 0 = true → (s.ctxt c).trapcause.getLsbD 63 = false →
      (s.ctxt c).faultQ = [] → (s.ctxt c).delivery = none → Ends (.preemptRequest c v) s fun u =>
        (u.ctxt c).preempt = BitVec.ofNat 64 (2 ^ 63 + v.toNat % 2 ^ 32) ∧
        ∃ f, (u.ctxt c).delivery = some (f, n) ∧ f.cause = .preempt ∧ f.val = 0#64)) ∧
  (∀ e s t, FMap.get? s.tasks e = some t →
    (t.wantFreeze = false → exec (.freeze e) s = .next s ∧ exec (.readoutComplete e) s = .next s) ∧
    (handled s t.ctx (taskId s e) = true → exec (.freeze e) s = .next s) ∧
    (t.wantFreeze = true → t.state = .running → handled s t.ctx (taskId s e) = false →
      (t.panels.any fun p => ((s.panel? p).map fun x => x.state == .frozen).getD false) = false →
      (allStopped s t.panels = false →
        exec (.freeze e) s = .next (t.panels.foldl stopPanel (withdrawFaults s t.ctx (stopsFault (taskId s e))))) ∧
      (allStopped s t.panels = true → (landing s t.panels = true ∨ asking s t.panels = true) → exec (.freeze e) s = .next s) ∧
      (allStopped s t.panels = true → landing s t.panels = false → asking s t.panels = false →
        (t.panels.any fun p => isHeld s (.seq p 0)) = false →
        let v := t.panels.foldl freezePanel (withdrawFaults s t.ctx (replayed (taskId s e)))
        ∀ u, devWrite v t.ctx (slotAddr (v.ctxt t.ctx) t.saveSlot) (slotHeader v e t 1) = some u → exec (.freeze e) s = .next u)) ∧
    (∀ u v, t.wantFreeze = true → t.state = .running → allFrozen s t = true → badReadout s t = false →
      writeSlot t.ctx (t.panels.zip ((panelOffsets s t.panels 256).map (slotAddr (s.ctxt t.ctx) t.saveSlot + ·))) s = some u →
      devWrite (slotWritten u t.ctx (slotAddr (s.ctxt t.ctx) t.saveSlot) (garmentBytes s e)) t.ctx
        (slotAddr (s.ctxt t.ctx) t.saveSlot + 8) [2#8] = some v →
      exec (.readoutComplete e) s = .next (requeueFrozen v e t)))

/-- R33, R99, R345: a fabric cycle advances the cycle count by one and the tick clock by one, or by none or two in one of 1,024
cycles while a correction is owed, and the beat that waits for a path moves in a frame slot of its path; the four messages of a
measurement record its times, and the last one gives the correction owed and the lock; a master sends a Sync and its Follow_Up with the
departure of the Sync, and answers a Delay_Req with its arrival. That the master is the link of the last Sync, and that a correction is paid
at its fastest rate, is the model's choice (log 96). -/
def Obligations.ClockSteps : Prop :=
  (∀ s, Ends .tick s fun t => t.cycle = s.cycle + 1 ∧ t.mem = s.mem ∧ t.threads = s.threads ∧ t.contexts = s.contexts ∧
    (s.clock.owed = 0 → t.tick = s.tick + 1#64 ∧ t.clock = s.clock) ∧
    (s.cycle + 1 < s.clock.lastFix + 1024 → t.tick = s.tick + 1#64 ∧ t.clock = s.clock) ∧
    (s.clock.lastFix + 1024 ≤ s.cycle + 1 → 0 < s.clock.owed → t.tick = s.tick + 2#64 ∧ t.clock.owed = s.clock.owed - 1) ∧
    (s.clock.lastFix + 1024 ≤ s.cycle + 1 → s.clock.owed < 0 → t.tick = s.tick ∧ t.clock.owed = s.clock.owed + 1)) ∧
  (∀ s, (∀ c ∈ s.threads, c.2.wait = none) →
    (∀ f p x i b u, s.frames.filter (fun f => f.slot == s.cycle % 256 && !f.half) = [f] →
      (taskPanels s f.entry)[f.panel]? = some p → s.panel? p = some x → pathSender x f.path = some (i, b) →
      receivePath s x b = .taken u → Ends .tick s fun t => t.panels = (sentBeat u p i b).panels) ∧
    ((∀ f ∈ s.frames, f.slot ≠ s.cycle % 256) → Ends .tick s fun t => t.panels = s.panels)) ∧
  (∀ l s, clockHears s l = true →
    (Ends (.sync ⟨l, false⟩) s fun t => t.clock = { s.clock with
      master := some l, t1 := none, t2 := some s.tick.toNat, t3 := none, t4 := none } ∧
      { t with clock := s.clock, links := s.links } = s) ∧
    (∀ t1, s.clock.master = some l → s.clock.t2.isSome = true → Ends (.followUp ⟨l, false⟩ t1) s fun t =>
      t.clock = { s.clock with t1 := some t1 } ∧ { t with clock := s.clock, links := s.links } = s) ∧
    (s.clock.master = some l → s.clock.t1.isSome = true → Ends (.delayReq ⟨l, true⟩) s fun t =>
      t.clock = { s.clock with t3 := some s.tick.toNat } ∧ { t with clock := s.clock, links := s.links } = s ∧
      sentOver s t l = [.delayReq])) ∧
  (∀ l s, clockHears s l = false → Ends (.sync ⟨l, false⟩) s fun t => t.clock = s.clock ∧ { t with links := s.links } = s) ∧
  (∀ l t4 s t1 t2 t3, clockHears s l = true → s.clock.master = some l → s.clock.t1 = some t1 → s.clock.t2 = some t2 →
    s.clock.t3 = some t3 → Ends (.delayResp l t4) s fun t =>
      let off : Int := (((t2 : Int) - t1) - ((t4 : Int) - t3)) / 2
      t.clock.owed = -off ∧ t.clock.lock = decide (-8 ≤ off ∧ off ≤ 8) ∧ t.clock.lastSync = s.cycle ∧ t.tick = s.tick ∧
      { t with clock := s.clock, links := s.links } = s) ∧
  (∀ l t1 s k, FMap.get? s.links l = some k → k.up = true → s.clock.master ≠ some l →
    (Ends (.sync ⟨l, true⟩) s fun t => { t with links := s.links } = s ∧ sentOver s t l = [.sync] ∧
      (FMap.get? t.links l).bind (·.syncAt) = some s.tick.toNat) ∧
    (∀ d, k.syncAt = some d → Ends (.followUp ⟨l, true⟩ t1) s fun t => { t with links := s.links } = s ∧
      sentOver s t l = [.followUp d] ∧ (FMap.get? t.links l).bind (·.syncAt) = none) ∧
    (k.syncAt = none → exec (.followUp ⟨l, true⟩ t1) s = .next s) ∧
    (Ends (.delayReq ⟨l, false⟩) s fun t => { t with links := s.links } = s ∧ sentOver s t l = [.delayResp s.tick.toNat]))

/-- R340-R343, R348, R352-R354: the host's accesses and the life of a context: a closed window, and without IDE that of a TDI in RUN, answers
unsupported, an open one reads and writes the context's memory; a function-level reset kills the context, and ends once its commands
have; firmware enables and disables contexts, whose memory, maps and format ranges are as at reset and of which no task or panel is left; a
cold reset leaves the state of R352. The model's choices: what a reset or a disable clears of a context (logs 99, 101), the format range table
cleared whole (log 127), the rollback compare (log 128). -/
def Obligations.HostAndContextSteps : Prop :=
  (∀ c ide off n bs s, (windowOpen s c = false ∨ (ide = false ∧ c + 1 ∈ s.tdiRun)) →
    exec (.hostWindowRead ⟨c, ide⟩ off n) s = .next { s with outbox := s.outbox ++ [.unsupported] } ∧
    exec (.hostWindowWrite ⟨c, ide⟩ off bs) s = .next { s with outbox := s.outbox ++ [.unsupported] }) ∧
  (∀ c ide off s, windowOpen s c = true → (ide = true ∨ c + 1 ∉ s.tdiRun) →
    let va := windowVa s c off
    (∀ n u pa, 0 < n → va % 65536 + n ≤ 65536 → windowPage s c .read va = .at_ u pa → poisoned u pa n = false →
      Ends (.hostWindowRead ⟨c, ide⟩ off n) s fun t => t.outbox = s.outbox ++ [.data (readHomeLong u 0 pa n).2] ∧
        t.mem = (readHomeLong u 0 pa n).1.mem) ∧
    (∀ n, 0 < n → va % 65536 + n ≤ 65536 → windowPage s c .read va = .sealed → Ends (.hostWindowRead ⟨c, ide⟩ off n) s fun t =>
      t.outbox = s.outbox ++ [.data (List.replicate n 0xFF#8)] ∧ (t.ctxt c).sloga = BitVec.ofNat 64 (va % 2 ^ 55) ∧
        (t.ctxt c).slogn.toNat = min (2 ^ 32 - 1) ((s.ctxt c).slogn.toNat + 1) ∧ t.mem = s.mem) ∧
    (∀ bs u pa, bs ≠ [] → va % 65536 + bs.length ≤ 65536 → windowPage s c .write va = .at_ u pa →
      exec (.hostWindowWrite ⟨c, ide⟩ off bs) s = .next (writeHomeNow u 0 0 pa bs none))) ∧
  (∀ c s, c < 64 → Ends (.flr c) s fun t => (t.ctxt c).cstat.getLsbD 62 = true ∧ (t.ctxt c).killed = true ∧
    (t.ctxt c).faultQ = [] ∧ (t.ctxt c).delivery = none) ∧
  (∀ c s, let units := unitsOf (s.ctxt c).groups (s.ctxt c).ranges
    let retired (t : State) : Prop := t.ctxt c = Context.clear ∧ (∀ e ∈ t.tlb, e.ctx ≠ c) ∧ c ∉ t.spdm.sessions ∧
      (∀ e ∈ t.tasks, e.2.ctx ≠ c) ∧ (∀ x ∈ t.panels, x.2.ctx ≠ c) ∧ (∀ l ∈ t.loads, l.2.ctx ≠ c) ∧
      (∀ j, ((othersUp s c).any fun x => x.groups.contains j) = false → j ∉ t.hbmMode) ∧ (∀ k, (t.core? k).lastCtx ≠ some c) ∧
      ∀ a, units.contains (a / 2 ^ 29) = true → readCell t.mem a = 0#8
    ((s.ctxt c).cstat.getLsbD 62 = false ∨ engineBusy s c = true → exec (.flrComplete c) s = .next s) ∧
    ((s.ctxt c).cstat.getLsbD 62 = true → engineBusy s c = false → Ends (.flrComplete c) s retired) ∧
    ((s.ctxt c).cstat.getLsbD 63 = false → exec (.contextDisable c) s = .next s) ∧
    ((s.ctxt c).cstat.getLsbD 63 = true → (s.ctxt c).killed = true → engineBusy s c = false →
      Ends (.contextDisable c) s retired)) ∧
  (∀ k s, (mayEnable s k = false → exec (.contextEnable k) s = .next s) ∧
    (mayEnable s k = true → Ends (.contextEnable k) s fun t => (t.ctxt k.ctx).cstat.getLsbD 63 = true ∧
      (t.ctxt k.ctx).scmap = k.threads ∧ (t.ctxt k.ctx).groups = k.groups ∧ (t.ctxt k.ctx).ranges = k.ranges ∧
      (t.thread (.core k.runtime)).pc = k.entry ∧ (t.thread (.core k.runtime)).priv = .supervisor ∧
      (t.thread (.core k.runtime)).status = .running ∧ (t.thread (.core k.runtime)).ctx = k.ctx ∧
      (s.homeQ = [] → ∀ c, c ≠ k.ctx → t.ctxt c = s.ctxt c) ∧ t.frt = [] ∧
      (∀ j, ((othersUp s k.ctx).any fun x => x.groups.contains j) = false → j ∉ t.hbmMode) ∧
      ∀ a, (unitsOf k.groups k.ranges).contains (a / 2 ^ 29) = true → readCell t.mem a = 0#8)) ∧
  (∀ k s, Ends (.coldReset k) s fun t => t.mem = [] ∧ t.contexts = State.reset.contexts ∧ t.threads = State.reset.threads ∧
    ((k.verified = false ∨ k.rollback < s.rollback) → t.hostUp = false ∧ t.links = [] ∧ t.rollback = s.rollback) ∧
    (k.verified = true → s.rollback ≤ k.rollback → t.failedBlocks = k.failed ∧ t.rollback = k.rollback ∧
      (∀ d n, (d, n) ∈ t.mailbox ↔ d < 4 ∧ n = dieFailed k.failed d ∧ 72 < n) ∧ ∀ l, l < 12 →
      ((FMap.get? t.links l).map (·.up)).getD false = k.linksUp.contains l))

/-- R198, R200, R267, R326, R336-R338, R340, R344-R349: the steps of links, keys, check bits, heat, chalk and the debug unit: what each changes,
and that it changes nothing else. A flit that fails its check is counted in ev82 and ev83 and does nothing; a payload flit in the link's window
is applied and acknowledged, another refused, an answer reaches the copy that waits for it; a snapshot with `c.chalkbase` on writes the
128-byte record of a block, and is discarded with it off. The model's choices: the counters of an event of no unit (logs 17, 95), the draws
of SPDM (log 19), the window of a link and its flits (log 106), the rekey at 2^32 flits (log 102), refresh (log 103), the chalk record
(logs 69, 70), the errors that nothing checks (log 18). -/
def Obligations.PlatformSteps : Prop :=
  (∀ l s k, FMap.get? s.links l = some k →
    let heard := { s with links := FMap.set s.links l (k.carry []) }
    (∀ f auth ok, k.up = false → exec (.flitReceive l f auth ok) s = .next s) ∧
    (∀ f ok, k.up = true → let replayed := { s with links := FMap.set s.links l { k with replays := k.replays + 1 } }
      Ends (.flitReceive l f ok false) s (CrcFailed replayed) ∧ Ends (.flitReceive l f false ok) s (CrcFailed replayed)) ∧
    (∀ c ch addr bs, k.up = true →
      (k.window.1 ≤ addr → addr + bs.length ≤ k.window.2 → bs.length ≤ 64 → exec (.flitReceive l (.payload c ch addr bs) true true) s =
        .next (sendFlit (writeHomeNow heard k.dom 0 addr bs none) l (.ack c ch))) ∧
      (¬ (k.window.1 ≤ addr ∧ addr + bs.length ≤ k.window.2 ∧ bs.length ≤ 64) →
        exec (.flitReceive l (.payload c ch addr bs) true true) s = .next (sendFlit heard l (.refusal c ch)))) ∧
    (∀ c ch cmd q f, k.up = true → (chanOf s c ch).queue = cmd :: q → (f = .ack c ch ∨ f = .refusal c ch) →
      (cmd.peer = l + 1 → cmd.unanswered ≠ 0 → exec (.flitReceive l f true true) s = .next (setHead heard c ch { cmd with
        unanswered := cmd.unanswered - 1, failed := cmd.failed || decide (f = .refusal c ch)
        heldFault := cmd.heldFault && !decide (f = .refusal c ch) })) ∧
      (¬ (cmd.peer = l + 1 ∧ cmd.unanswered ≠ 0) → exec (.flitReceive l f true true) s = .next heard)) ∧
    (∀ t1, k.up = true → exec (.flitReceive l .sync true true) s = exec (.sync ⟨l, false⟩) s ∧
      exec (.flitReceive l (.followUp t1) true true) s = exec (.followUp ⟨l, false⟩ t1) s ∧
      exec (.flitReceive l .delayReq true true) s = exec (.delayReq ⟨l, false⟩) s ∧
      exec (.flitReceive l (.delayResp t1) true true) s = exec (.delayResp l t1) s) ∧
    (Ends (.linkDown l) s fun t => { t with links := s.links, contexts := s.contexts, clock := s.clock } = s ∧
      FMap.get? t.links l = some { k with up := false, syncAt := none } ∧
      (∀ m, m ≠ l → FMap.get? t.links m = FMap.get? s.links m) ∧
      (∀ c, { t.ctxt c with chans := (s.ctxt c).chans } = s.ctxt c) ∧
      (∀ c n, (∀ cmd q, (chanOf s c n).queue = cmd :: q → ¬ unsent (l + 1) cmd) → chanOf t c n = chanOf s c n) ∧
      (∀ c n cmd q, (chanOf s c n).queue = cmd :: q → unsent (l + 1) cmd → chanOf t c n =
        ⟨{ cmd with failed := true, heldFault := false, unanswered := 0 } :: q, (chanOf s c n).fault⟩) ∧
      t.clock = if t.links.any fun q => q.2.up then s.clock else { s.clock with lock := true, owed := 0, master := none }) ∧
    exec (.linkRekey l) s = .next { s with
      links := FMap.set s.links l (if 2 ^ 32 ≤ k.flits then { k with flits := 0, key := k.key + 1 } else k) }) ∧
  (∀ i session nonce n s, (i = .cert ∧ session = none ∨ i = .chal ⟨session, nonce⟩ ∨ i = .meas ⟨session, n⟩) →
    ((∃ c, session = some c ∧ c ∉ s.spdm.sessions) → exec i s = .next s) ∧
    ((∀ c, session = some c → c ∈ s.spdm.sessions) → Ends i s fun t => { t with spdm := s.spdm, fresh := s.fresh } = s ∧
      ∃ r, t.spdm = { s.spdm with responses := s.spdm.responses ++ [r] } ∧ r.session = session ∧
        r.devid = (if i = .cert then [devidValue] else []) ∧
        r.digest = if i = .meas ⟨session, n⟩ ∧ n ≠ 0 then s.spdm.blocks[n - 1]? else none)) ∧
  (∀ c s, Ends (.keyEx c) s fun t => { t with spdm := s.spdm, fresh := s.fresh } = s ∧ t.spdm.blocks = s.spdm.blocks ∧
    (∃ r, t.spdm.responses = s.spdm.responses ++ [r]) ∧ ∀ d, d ∈ t.spdm.sessions ↔ d = c ∨ d ∈ s.spdm.sessions) ∧
  (∀ c (dom : BitVec 6) s,
    (s.spdm.sessions.contains c = true → dom ≠ 0#6 → ctxDomain s c = dom.toNat → Ends (.sealKeyInstall c dom) s fun t =>
      FMap.get? t.keys dom.toNat = some c ∧ FMap.getD t.epochs dom.toNat 0 = FMap.getD s.epochs dom.toNat 0 + 1 ∧
      t.ctxt c = { s.ctxt c with cstat := (s.ctxt c).cstat ||| 0x2000000000000000#64 } ∧ (∀ d, d ≠ c → t.ctxt d = s.ctxt d) ∧
      { t with keys := s.keys, epochs := s.epochs, contexts := s.contexts } = s) ∧
    (s.spdm.sessions.contains c = false ∨ dom = 0#6 ∨ ctxDomain s c ≠ dom.toNat → exec (.sealKeyInstall c dom) s = .next s)) ∧
  (∀ vf run s, Ends (.tdispRequest vf run) s fun t => (vf ∈ t.tdiRun ↔ run = true) ∧ { t with tdiRun := s.tdiRun } = s ∧
    ∀ w, w ≠ vf → (w ∈ t.tdiRun ↔ w ∈ s.tdiRun)) ∧
  (∀ b s, exec (.thermalClamp b) s = .next { s with hot := (b :: s.hot).dedup } ∧
    exec (.thermalRelease b) s = .next { s with hot := s.hot.filter fun k => k != b }) ∧
  (∀ st pc s, exec (.selfRefresh st pc) s = .next { s with selfRefresh := ((st, pc) :: s.selfRefresh).dedup } ∧
    Ends (.refreshCycle st pc) s fun t => OnlyCounts { s with selfRefresh := s.selfRefresh.filter fun q => q != (st, pc) } t) ∧
  (∀ pa s, Ends (.uncorrectableError (.sector pa)) s fun t => OnlyCounts { s with poison := (sectorOf pa :: s.poison).dedup } t) ∧
  (∀ u base s, Ends (.uncorrectableError (.tlbEntry u base)) s
    (OnlyCounts { s with tlb := s.tlb.filter fun w => w.unit != u || w.base != base })) ∧
  (∀ page s, exec (.uncorrectableError (.hostPage page true)) s = .next { s with hostBad := (page :: s.hostBad).dedup } ∧
    exec (.uncorrectableError (.hostPage page false)) s = .next { s with hostBad := s.hostBad.filter fun k => k != page }) ∧
  (∀ p n off s x, s.panel? p = some x → n < x.ntiles →
    PanelEnds (.uncorrectableError (.scratchWord p n off)) s p
      (x.setTile n { x.tile n with bad := (off / 8 :: (x.tile n).bad).dedup })) ∧
  (∀ u s, Ends (.secdedCorrection u) s (OnlyCounts s)) ∧
  (∀ c s, ((s.panels.any fun q => q.2.ctx == c && q.2.state != .frozen && chalkMet s q.2) = false →
      exec (.chalkFire c) s = .next s) ∧
    ((s.panels.any fun q => q.2.ctx == c && q.2.state != .frozen && chalkMet s q.2) = true → Ends (.chalkFire c) s fun t =>
      t.ctxt c = { s.ctxt c with chalkFired := (s.ctxt c).chalkFired ++ [s.cycle + 4] } ∧ (∀ d, d ≠ c → t.ctxt d = s.ctxt d) ∧
      (∀ p, t.panel? p = (s.panel? p).map fun x => if x.ctx = c then { x with chalk := none, chalkHit := false } else x) ∧
      { t with contexts := s.contexts, panels := s.panels } = s)) ∧
  (∀ c s, ((∀ k ∈ (s.ctxt c).chalkFired, s.cycle < k) → exec (.chalkLatch c) s = .next s) ∧
    ((∃ k ∈ (s.ctxt c).chalkFired, k ≤ s.cycle) →
      let v := s.setCtxt c { s.ctxt c with chalkFired := (s.ctxt c).chalkFired.drop 1 }
      ((s.ctxt c).chalkbase.getLsbD 0 = false → exec (.chalkLatch c) s = .next v) ∧
      ((s.ctxt c).chalkbase.getLsbD 0 = true → Ends (.chalkLatch c) s fun t => t.threads = s.threads) ∧
      ∀ p x b u, (s.ctxt c).chalkbase.getLsbD 0 = true →
        (s.panels.filter fun q => q.2.ctx == c && q.2.state != .frozen) = [(p, x)] → x.blocks = [b] → x.holds = [] →
        x.publishHold = 0 → x.faulted = [] → tkwaits s p = false → isHot s x = false →
        (∀ k ∈ x.counters.toList, ∀ e, k.event = some e → openEvents.contains e = false) →
        engWriteN v (engReq c .supervisor .write 7) 0 (some (.panel x.uid))
          (((s.ctxt c).chalkbase &&& 0x007FFFFFFFFF0000#64) + BitVec.ofNat 64 (128 * b)) (snapshotRecord s p x) = .ok u →
        exec (.chalkLatch c) s = .next u)) ∧
  (∀ n s, isHeld s (.core n) = true → s.holdAll = false → Ends (.henidContinue (.continue_ (.core n))) s fun t =>
    isHeld t (.core n) = false ∧ t.mem = s.mem ∧ t.contexts = s.contexts ∧ t.unplaced = [] ∧
    (t.thread (.core n)).pc = (s.thread (.core n)).pc) ∧
  (∀ n k i pc id p e row s, ∀ on : Bool,
    exec (.henidContinue (.breakCore n pc)) s = .next { s with breaks := ((.core n, pc) :: s.breaks).dedup } ∧
    exec (.henidContinue (.breakStrand id k i pc)) s = .next { s with breaks := ((.strand id k i, pc) :: s.breaks).dedup } ∧
    exec (.henidContinue (.tbreak p n e row)) s =
      .next { s with tbreaks := ((p, n, e.kind.toNat - 1, row) :: s.tbreaks).dedup } ∧
    exec (.henidContinue (.holdAll on)) s = .next { s with holdAll := on } ∧
    exec (.henidContinue (.launched id)) s = .next { s with henidTasks := (id :: s.henidTasks).dedup }) ∧
  (∀ c va bs s u, bs ≠ [] → va.toNat % 65536 + bs.length ≤ 65536 → devWrite s c va.toNat bs = some u →
    exec (.henidContinue (.load c va bs)) s = .next u) ∧
  (∀ c id s u, exec (.preemptRequest c (BitVec.setWidth 64 id)) s = .next u →
    ((∀ e t, findTask u id = some (e, t) → t.ctx ≠ c ∨ t.wantFreeze = false) → exec (.henidContinue (.preempt c id)) s = .next u) ∧
    (∀ e t, findTask u id = some (e, t) → t.ctx = c → t.wantFreeze = true →
      exec (.henidContinue (.preempt c id)) s = .next { u with unplaced := (id :: u.unplaced).dedup }))

/-! ## The step, decoding, reset -/

/-- R98, R99, R128, R139, R165: where the party at the head of the agenda may run, stands at no breakpoint, and its bytes decode to
an instruction, the step is that instruction's, or for a step that leaves its read or `amo` in the home queue, where it makes one, that; a word of no
assigned form, and a fetch that fails, are the forms that trap. That a step is that of the head of an agenda, and that an empty one takes up the
steps of the fabric cycle in one order, is the model's choice (logs 1, 115). -/
def Obligations.StepRunsDecoded : Prop :=
  (∀ s p rest, s.agenda = .party p :: rest →
    let u := { s with agenda := rest, focus := p }
    mayRun u p = true → atBreak u p = false →
      (∀ v i, fetchAt u p u.cur.pc = .ok (v, .instr i) → step s = exec i (v.setCur { v.cur with passed := false })) ∧
      (∀ v w, fetchAt u p u.cur.pc = .ok (v, .unassigned w) →
        step s = exec (.unassignedOpcode w) (v.setCur { v.cur with passed := false })) ∧
      (∀ t, fetchAt u p u.cur.pc = .error t → step s = exec .fetchFault u)) ∧
  (∀ s p rest, s.agenda = .queued p :: rest →
    let u := { s with agenda := rest, focus := p }
    mayRun u p = true → atBreak u p = false → ∀ v i, fetchAt u p u.cur.pc = .ok (v, .instr i) →
      let w := v.setCur { v.cur with passed := false }
      (askIssue i w = none → step s = exec i w) ∧ ∀ t, askIssue i w = some t → step s = .next t) ∧
  (∀ s p pc w v, fetchWordAt s p pc = .ok (v, w) → isLongFirst w = false →
    (∀ i, decodeWord w = some i → fetchAt s p pc = .ok (v, .instr i)) ∧
    (decodeWord w = none → fetchAt s p pc = .ok (v, .unassigned w))) ∧
  (∀ s i rest, s.agenda = .event i :: rest → isEvent i = true → step s = exec i { s with agenda := rest }) ∧
  (∀ s, s.agenda = [] → step s = .next { s with agenda := cycleSteps s })

/-- R128-R142: words of every family, written out from their encodings, decode to the instructions they stand for. -/
def Obligations.DecodeWords : Prop :=
  decodeWord 0x04642800#32 = some (.add 3 4 5) ∧ decodeWord 0x48C28003#32 = some (.ld .w 6 2 3) ∧
  decodeWord 0x7C864FFB#32 = some (.bcc .lt 3 4 0xFFB#12) ∧ decodeWord 0x84000003#32 = some .eret ∧
  decodeWord 0x44050027#32 = some (.cset 5 0x0027#16) ∧ decodeWord 0xC080029B#32 = some (.amoAdd true 0 5 6) ∧
  decodeWord 0xC1003214#32 = some (.bdraw 3 4 5) ∧ decodeWord 0xC1423214#32 = some (.qapp 3 4 5) ∧
  decodeWord 0xC1803214#32 = some (.prcopy 3 4 5) ∧ decodeWord 0xC2066000#32 = some (.sgo 6) ∧
  decodeWord 0xC2120000#32 = some .commit ∧ decodeLong 0xFC0E0001#32 0x23456789#32 = some (.movi 7 0x123456789#49) ∧
  decodePhase 0x2500400000#40 = some (.mxAcrd .always 0 0 true) ∧
  decodePhase 0x6000148000#40 = some (.lsRd .always 5 1 0) ∧ decodePhase 0xA500000000#40 = some (.tkStitch .always)

/-- R128-R142: every well-formed instruction's words decode to it again, with every operand at every value of its fields. -/
def Obligations.DecodeInvertsEncode : Prop :=
  ∀ i : Instr, i.wf = true →
    match i.encode with
    | .w32 w => decodeWord w = some i
    | .w64 a b => decodeLong a b = some i
    | .w40 w => decodePhase w = some i
    | .none => True

/-- R1, R77, R97, R352-R354: the state after reset: memory lists nothing and is canonical, no context is enabled, no panel is
placed, no task, no queued update, no translation, no poison, no seal; the security core's thread is at machine privilege, and no thread runs.
The model's choices: the state is that after the boot's last step (log 2), that thread is `.core 32` (log 4), its firmware is outside the
model, so it idles (log 30), no translation is held (log 11), host memory lists nothing (log 10), every other thread is idle (log 5). -/
def Obligations.ResetState : Prop :=
  let s := State.reset
  Memory.wf s.mem = true ∧ s.mem = [] ∧ s.homeQ = [] ∧ s.panels = [] ∧ s.tasks = [] ∧ s.tlb = [] ∧ s.poison = [] ∧
    s.seals = [] ∧ s.keys = [] ∧ s.dlog = [] ∧ s.tick = 0#64 ∧ s.hbmMode = [] ∧
    (∀ c, (s.ctxt c).cstat = 0#64 ∧ (s.ctxt c).ptroot = 0#64 ∧ (s.ctxt c).tvec = 0#64 ∧ (s.ctxt c).trapcause = 0#64) ∧
    (s.thread (.core 32)).priv = .machine ∧
    ∀ p, (s.thread p).status = .idle

/-- R99: every step keeps memory in its canonical form: addresses strictly rising, no entry equal to what an unlisted address
reads as. -/
def Obligations.MemoryStaysCanonical : Prop :=
  ∀ s t : State, Memory.wf s.mem = true → step s = .next t → Memory.wf t.mem = true
end

