-- ==== Sys2Proof/Laws/Maps.lean ====
section
/-! SUPPORT. Reading a finite map after a write. -/

namespace Sys2Proof

variable {κ α : Type} [DecidableEq κ]

@[simp] theorem get_nil (k : κ) : FMap.get? ([] : FMap κ α) k = none := rfl

@[simp] theorem get_set_same (m : FMap κ α) (k : κ) (v : α) : FMap.get? (FMap.set m k v) k = some v := by
  induction m with
  | nil => simp [FMap.set, FMap.get?]
  | cons c l ih =>
    obtain ⟨k', v'⟩ := c
    by_cases h : k' = k <;> simp [FMap.set, FMap.get?, h, ih]

theorem get_set_other (m : FMap κ α) {k j : κ} (v : α) (h : j ≠ k) : FMap.get? (FMap.set m k v) j = FMap.get? m j := by
  induction m with
  | nil => simp [FMap.set, FMap.get?, Ne.symm h]
  | cons c l ih =>
    obtain ⟨k', v'⟩ := c
    by_cases hk : k' = k
    · subst hk; simp [FMap.set, FMap.get?, Ne.symm h]
    · by_cases hj : k' = j
      · subst hj; simp [FMap.set, FMap.get?, hk]
      · simp [FMap.set, FMap.get?, hk, hj, ih]

theorem get_set (m : FMap κ α) (k j : κ) (v : α) :
    FMap.get? (FMap.set m k v) j = if j = k then some v else FMap.get? m j := by
  by_cases h : j = k
  · subst h; simp
  · simp [h, get_set_other m v h]

@[simp] theorem getD_set_same (m : FMap κ α) (k : κ) (v d : α) : FMap.getD (FMap.set m k v) k d = v := by
  simp [FMap.getD]

theorem getD_set (m : FMap κ α) (k j : κ) (v d : α) :
    FMap.getD (FMap.set m k v) j d = if j = k then v else FMap.getD m j d := by
  by_cases h : j = k
  · subst h; simp
  · simp [FMap.getD, get_set, h]

@[simp] theorem set_set (m : FMap κ α) (k : κ) (v w : α) : FMap.set (FMap.set m k v) k w = FMap.set m k w := by
  induction m with
  | nil => simp [FMap.set]
  | cons c l ih =>
    obtain ⟨k', v'⟩ := c
    by_cases h : k' = k <;> simp [FMap.set, h, ih]

@[simp] theorem get_erase_same (m : FMap κ α) (k : κ) : FMap.get? (FMap.erase m k) k = none := by
  induction m with
  | nil => rfl
  | cons c l ih =>
    obtain ⟨k', v'⟩ := c
    by_cases h : k' = k <;> simp [FMap.erase, FMap.get?, h, ih]

theorem get_erase_other (m : FMap κ α) {k j : κ} (h : j ≠ k) : FMap.get? (FMap.erase m k) j = FMap.get? m j := by
  induction m with
  | nil => rfl
  | cons c l ih =>
    obtain ⟨k', v'⟩ := c
    by_cases hk : k' = k
    · subst hk; simp [FMap.erase, FMap.get?, ih, Ne.symm h]
    · by_cases hj : k' = j
      · subst hj; simp [FMap.erase, FMap.get?, hk]
      · simp [FMap.erase, FMap.get?, hk, hj, ih]

end Sys2Proof
end

