-- ==== Sys2Proof/Laws/State.lean ====
section
/-! SUPPORT. What each named update of the state leaves in every field, and what reads give after it. -/

namespace Sys2Proof.Machine

open Sys2Proof

@[simp] theorem setThread_focus (s : State) (p : Party) (x : Thread) : (s.setThread p x).focus = s.focus := rfl
@[simp] theorem setThread_agenda (s : State) (p : Party) (x : Thread) : (s.setThread p x).agenda = s.agenda := rfl
@[simp] theorem setThread_fresh (s : State) (p : Party) (x : Thread) : (s.setThread p x).fresh = s.fresh := rfl
@[simp] theorem setThread_nextId (s : State) (p : Party) (x : Thread) : (s.setThread p x).nextId = s.nextId := rfl
@[simp] theorem setThread_contexts (s : State) (p : Party) (x : Thread) : (s.setThread p x).contexts = s.contexts := rfl
@[simp] theorem setThread_panels (s : State) (p : Party) (x : Thread) : (s.setThread p x).panels = s.panels := rfl
@[simp] theorem setThread_tasks (s : State) (p : Party) (x : Thread) : (s.setThread p x).tasks = s.tasks := rfl
@[simp] theorem setThread_gens (s : State) (p : Party) (x : Thread) : (s.setThread p x).gens = s.gens := rfl
@[simp] theorem setThread_blocked (s : State) (p : Party) (x : Thread) : (s.setThread p x).blocked = s.blocked := rfl
@[simp] theorem setThread_frames (s : State) (p : Party) (x : Thread) : (s.setThread p x).frames = s.frames := rfl
@[simp] theorem setThread_tables (s : State) (p : Party) (x : Thread) : (s.setThread p x).tables = s.tables := rfl
@[simp] theorem setThread_loads (s : State) (p : Party) (x : Thread) : (s.setThread p x).loads = s.loads := rfl
@[simp] theorem setThread_mem (s : State) (p : Party) (x : Thread) : (s.setThread p x).mem = s.mem := rfl
@[simp] theorem setThread_homeQ (s : State) (p : Party) (x : Thread) : (s.setThread p x).homeQ = s.homeQ := rfl
@[simp] theorem setThread_asked (s : State) (p : Party) (x : Thread) : (s.setThread p x).asked = s.asked := rfl
@[simp] theorem setThread_dlog (s : State) (p : Party) (x : Thread) : (s.setThread p x).dlog = s.dlog := rfl
@[simp] theorem setThread_poison (s : State) (p : Party) (x : Thread) : (s.setThread p x).poison = s.poison := rfl
@[simp] theorem setThread_seals (s : State) (p : Party) (x : Thread) : (s.setThread p x).seals = s.seals := rfl
@[simp] theorem setThread_sides (s : State) (p : Party) (x : Thread) : (s.setThread p x).sides = s.sides := rfl
@[simp] theorem setThread_l2 (s : State) (p : Party) (x : Thread) : (s.setThread p x).l2 = s.l2 := rfl
@[simp] theorem setThread_l2Dom (s : State) (p : Party) (x : Thread) : (s.setThread p x).l2Dom = s.l2Dom := rfl
@[simp] theorem setThread_l2Dirty (s : State) (p : Party) (x : Thread) : (s.setThread p x).l2Dirty = s.l2Dirty := rfl
@[simp] theorem setThread_frt (s : State) (p : Party) (x : Thread) : (s.setThread p x).frt = s.frt := rfl
@[simp] theorem setThread_hbmMode (s : State) (p : Party) (x : Thread) : (s.setThread p x).hbmMode = s.hbmMode := rfl
@[simp] theorem setThread_hbmMc (s : State) (p : Party) (x : Thread) : (s.setThread p x).hbmMc = s.hbmMc := rfl
@[simp] theorem setThread_hbmMp (s : State) (p : Party) (x : Thread) : (s.setThread p x).hbmMp = s.hbmMp := rfl
@[simp] theorem setThread_tlb (s : State) (p : Party) (x : Thread) : (s.setThread p x).tlb = s.tlb := rfl
@[simp] theorem setThread_icache (s : State) (p : Party) (x : Thread) : (s.setThread p x).icache = s.icache := rfl
@[simp] theorem setThread_cores (s : State) (p : Party) (x : Thread) : (s.setThread p x).cores = s.cores := rfl
@[simp] theorem setThread_cycle (s : State) (p : Party) (x : Thread) : (s.setThread p x).cycle = s.cycle := rfl
@[simp] theorem setThread_tick (s : State) (p : Party) (x : Thread) : (s.setThread p x).tick = s.tick := rfl
@[simp] theorem setThread_clock (s : State) (p : Party) (x : Thread) : (s.setThread p x).clock = s.clock := rfl
@[simp] theorem setThread_failedBlocks (s : State) (p : Party) (x : Thread) : (s.setThread p x).failedBlocks = s.failedBlocks := rfl
@[simp] theorem setThread_mailbox (s : State) (p : Party) (x : Thread) : (s.setThread p x).mailbox = s.mailbox := rfl
@[simp] theorem setThread_rollback (s : State) (p : Party) (x : Thread) : (s.setThread p x).rollback = s.rollback := rfl
@[simp] theorem setThread_links (s : State) (p : Party) (x : Thread) : (s.setThread p x).links = s.links := rfl
@[simp] theorem setThread_press (s : State) (p : Party) (x : Thread) : (s.setThread p x).press = s.press := rfl
@[simp] theorem setThread_quilts (s : State) (p : Party) (x : Thread) : (s.setThread p x).quilts = s.quilts := rfl
@[simp] theorem setThread_bobbin (s : State) (p : Party) (x : Thread) : (s.setThread p x).bobbin = s.bobbin := rfl
@[simp] theorem setThread_hot (s : State) (p : Party) (x : Thread) : (s.setThread p x).hot = s.hot := rfl
@[simp] theorem setThread_selfRefresh (s : State) (p : Party) (x : Thread) : (s.setThread p x).selfRefresh = s.selfRefresh := rfl
@[simp] theorem setThread_spdm (s : State) (p : Party) (x : Thread) : (s.setThread p x).spdm = s.spdm := rfl
@[simp] theorem setThread_keys (s : State) (p : Party) (x : Thread) : (s.setThread p x).keys = s.keys := rfl
@[simp] theorem setThread_epochs (s : State) (p : Party) (x : Thread) : (s.setThread p x).epochs = s.epochs := rfl
@[simp] theorem setThread_tdiRun (s : State) (p : Party) (x : Thread) : (s.setThread p x).tdiRun = s.tdiRun := rfl
@[simp] theorem setThread_hostUp (s : State) (p : Party) (x : Thread) : (s.setThread p x).hostUp = s.hostUp := rfl
@[simp] theorem setThread_hostBad (s : State) (p : Party) (x : Thread) : (s.setThread p x).hostBad = s.hostBad := rfl
@[simp] theorem setThread_verified (s : State) (p : Party) (x : Thread) : (s.setThread p x).verified = s.verified := rfl
@[simp] theorem setThread_ports (s : State) (p : Party) (x : Thread) : (s.setThread p x).ports = s.ports := rfl
@[simp] theorem setThread_outbox (s : State) (p : Party) (x : Thread) : (s.setThread p x).outbox = s.outbox := rfl
@[simp] theorem setThread_debugHolds (s : State) (p : Party) (x : Thread) : (s.setThread p x).debugHolds = s.debugHolds := rfl
@[simp] theorem setThread_breaks (s : State) (p : Party) (x : Thread) : (s.setThread p x).breaks = s.breaks := rfl
@[simp] theorem setThread_tbreaks (s : State) (p : Party) (x : Thread) : (s.setThread p x).tbreaks = s.tbreaks := rfl
@[simp] theorem setThread_holdAll (s : State) (p : Party) (x : Thread) : (s.setThread p x).holdAll = s.holdAll := rfl
@[simp] theorem setThread_henidTasks (s : State) (p : Party) (x : Thread) : (s.setThread p x).henidTasks = s.henidTasks := rfl
@[simp] theorem setThread_unplaced (s : State) (p : Party) (x : Thread) : (s.setThread p x).unplaced = s.unplaced := rfl

@[simp] theorem setPanel_focus (s : State) (p : Nat) (x : Panel) : (s.setPanel p x).focus = s.focus := rfl
@[simp] theorem setPanel_agenda (s : State) (p : Nat) (x : Panel) : (s.setPanel p x).agenda = s.agenda := rfl
@[simp] theorem setPanel_fresh (s : State) (p : Nat) (x : Panel) : (s.setPanel p x).fresh = s.fresh := rfl
@[simp] theorem setPanel_nextId (s : State) (p : Nat) (x : Panel) : (s.setPanel p x).nextId = s.nextId := rfl
@[simp] theorem setPanel_threads (s : State) (p : Nat) (x : Panel) : (s.setPanel p x).threads = s.threads := rfl
@[simp] theorem setPanel_contexts (s : State) (p : Nat) (x : Panel) : (s.setPanel p x).contexts = s.contexts := rfl
@[simp] theorem setPanel_tasks (s : State) (p : Nat) (x : Panel) : (s.setPanel p x).tasks = s.tasks := rfl
@[simp] theorem setPanel_gens (s : State) (p : Nat) (x : Panel) : (s.setPanel p x).gens = s.gens := rfl
@[simp] theorem setPanel_blocked (s : State) (p : Nat) (x : Panel) : (s.setPanel p x).blocked = s.blocked := rfl
@[simp] theorem setPanel_frames (s : State) (p : Nat) (x : Panel) : (s.setPanel p x).frames = s.frames := rfl
@[simp] theorem setPanel_tables (s : State) (p : Nat) (x : Panel) : (s.setPanel p x).tables = s.tables := rfl
@[simp] theorem setPanel_loads (s : State) (p : Nat) (x : Panel) : (s.setPanel p x).loads = s.loads := rfl
@[simp] theorem setPanel_mem (s : State) (p : Nat) (x : Panel) : (s.setPanel p x).mem = s.mem := rfl
@[simp] theorem setPanel_homeQ (s : State) (p : Nat) (x : Panel) : (s.setPanel p x).homeQ = s.homeQ := rfl
@[simp] theorem setPanel_asked (s : State) (p : Nat) (x : Panel) : (s.setPanel p x).asked = s.asked := rfl
@[simp] theorem setPanel_dlog (s : State) (p : Nat) (x : Panel) : (s.setPanel p x).dlog = s.dlog := rfl
@[simp] theorem setPanel_poison (s : State) (p : Nat) (x : Panel) : (s.setPanel p x).poison = s.poison := rfl
@[simp] theorem setPanel_seals (s : State) (p : Nat) (x : Panel) : (s.setPanel p x).seals = s.seals := rfl
@[simp] theorem setPanel_sides (s : State) (p : Nat) (x : Panel) : (s.setPanel p x).sides = s.sides := rfl
@[simp] theorem setPanel_l2 (s : State) (p : Nat) (x : Panel) : (s.setPanel p x).l2 = s.l2 := rfl
@[simp] theorem setPanel_l2Dom (s : State) (p : Nat) (x : Panel) : (s.setPanel p x).l2Dom = s.l2Dom := rfl
@[simp] theorem setPanel_l2Dirty (s : State) (p : Nat) (x : Panel) : (s.setPanel p x).l2Dirty = s.l2Dirty := rfl
@[simp] theorem setPanel_frt (s : State) (p : Nat) (x : Panel) : (s.setPanel p x).frt = s.frt := rfl
@[simp] theorem setPanel_hbmMode (s : State) (p : Nat) (x : Panel) : (s.setPanel p x).hbmMode = s.hbmMode := rfl
@[simp] theorem setPanel_hbmMc (s : State) (p : Nat) (x : Panel) : (s.setPanel p x).hbmMc = s.hbmMc := rfl
@[simp] theorem setPanel_hbmMp (s : State) (p : Nat) (x : Panel) : (s.setPanel p x).hbmMp = s.hbmMp := rfl
@[simp] theorem setPanel_tlb (s : State) (p : Nat) (x : Panel) : (s.setPanel p x).tlb = s.tlb := rfl
@[simp] theorem setPanel_icache (s : State) (p : Nat) (x : Panel) : (s.setPanel p x).icache = s.icache := rfl
@[simp] theorem setPanel_cores (s : State) (p : Nat) (x : Panel) : (s.setPanel p x).cores = s.cores := rfl
@[simp] theorem setPanel_cycle (s : State) (p : Nat) (x : Panel) : (s.setPanel p x).cycle = s.cycle := rfl
@[simp] theorem setPanel_tick (s : State) (p : Nat) (x : Panel) : (s.setPanel p x).tick = s.tick := rfl
@[simp] theorem setPanel_clock (s : State) (p : Nat) (x : Panel) : (s.setPanel p x).clock = s.clock := rfl
@[simp] theorem setPanel_failedBlocks (s : State) (p : Nat) (x : Panel) : (s.setPanel p x).failedBlocks = s.failedBlocks := rfl
@[simp] theorem setPanel_mailbox (s : State) (p : Nat) (x : Panel) : (s.setPanel p x).mailbox = s.mailbox := rfl
@[simp] theorem setPanel_rollback (s : State) (p : Nat) (x : Panel) : (s.setPanel p x).rollback = s.rollback := rfl
@[simp] theorem setPanel_links (s : State) (p : Nat) (x : Panel) : (s.setPanel p x).links = s.links := rfl
@[simp] theorem setPanel_press (s : State) (p : Nat) (x : Panel) : (s.setPanel p x).press = s.press := rfl
@[simp] theorem setPanel_quilts (s : State) (p : Nat) (x : Panel) : (s.setPanel p x).quilts = s.quilts := rfl
@[simp] theorem setPanel_bobbin (s : State) (p : Nat) (x : Panel) : (s.setPanel p x).bobbin = s.bobbin := rfl
@[simp] theorem setPanel_hot (s : State) (p : Nat) (x : Panel) : (s.setPanel p x).hot = s.hot := rfl
@[simp] theorem setPanel_selfRefresh (s : State) (p : Nat) (x : Panel) : (s.setPanel p x).selfRefresh = s.selfRefresh := rfl
@[simp] theorem setPanel_spdm (s : State) (p : Nat) (x : Panel) : (s.setPanel p x).spdm = s.spdm := rfl
@[simp] theorem setPanel_keys (s : State) (p : Nat) (x : Panel) : (s.setPanel p x).keys = s.keys := rfl
@[simp] theorem setPanel_epochs (s : State) (p : Nat) (x : Panel) : (s.setPanel p x).epochs = s.epochs := rfl
@[simp] theorem setPanel_tdiRun (s : State) (p : Nat) (x : Panel) : (s.setPanel p x).tdiRun = s.tdiRun := rfl
@[simp] theorem setPanel_hostUp (s : State) (p : Nat) (x : Panel) : (s.setPanel p x).hostUp = s.hostUp := rfl
@[simp] theorem setPanel_hostBad (s : State) (p : Nat) (x : Panel) : (s.setPanel p x).hostBad = s.hostBad := rfl
@[simp] theorem setPanel_verified (s : State) (p : Nat) (x : Panel) : (s.setPanel p x).verified = s.verified := rfl
@[simp] theorem setPanel_ports (s : State) (p : Nat) (x : Panel) : (s.setPanel p x).ports = s.ports := rfl
@[simp] theorem setPanel_outbox (s : State) (p : Nat) (x : Panel) : (s.setPanel p x).outbox = s.outbox := rfl
@[simp] theorem setPanel_debugHolds (s : State) (p : Nat) (x : Panel) : (s.setPanel p x).debugHolds = s.debugHolds := rfl
@[simp] theorem setPanel_breaks (s : State) (p : Nat) (x : Panel) : (s.setPanel p x).breaks = s.breaks := rfl
@[simp] theorem setPanel_tbreaks (s : State) (p : Nat) (x : Panel) : (s.setPanel p x).tbreaks = s.tbreaks := rfl
@[simp] theorem setPanel_holdAll (s : State) (p : Nat) (x : Panel) : (s.setPanel p x).holdAll = s.holdAll := rfl
@[simp] theorem setPanel_henidTasks (s : State) (p : Nat) (x : Panel) : (s.setPanel p x).henidTasks = s.henidTasks := rfl
@[simp] theorem setPanel_unplaced (s : State) (p : Nat) (x : Panel) : (s.setPanel p x).unplaced = s.unplaced := rfl

@[simp] theorem setCore_focus (s : State) (c : Nat) (x : Core) : (s.setCore c x).focus = s.focus := rfl
@[simp] theorem setCore_agenda (s : State) (c : Nat) (x : Core) : (s.setCore c x).agenda = s.agenda := rfl
@[simp] theorem setCore_fresh (s : State) (c : Nat) (x : Core) : (s.setCore c x).fresh = s.fresh := rfl
@[simp] theorem setCore_nextId (s : State) (c : Nat) (x : Core) : (s.setCore c x).nextId = s.nextId := rfl
@[simp] theorem setCore_threads (s : State) (c : Nat) (x : Core) : (s.setCore c x).threads = s.threads := rfl
@[simp] theorem setCore_contexts (s : State) (c : Nat) (x : Core) : (s.setCore c x).contexts = s.contexts := rfl
@[simp] theorem setCore_panels (s : State) (c : Nat) (x : Core) : (s.setCore c x).panels = s.panels := rfl
@[simp] theorem setCore_tasks (s : State) (c : Nat) (x : Core) : (s.setCore c x).tasks = s.tasks := rfl
@[simp] theorem setCore_gens (s : State) (c : Nat) (x : Core) : (s.setCore c x).gens = s.gens := rfl
@[simp] theorem setCore_blocked (s : State) (c : Nat) (x : Core) : (s.setCore c x).blocked = s.blocked := rfl
@[simp] theorem setCore_frames (s : State) (c : Nat) (x : Core) : (s.setCore c x).frames = s.frames := rfl
@[simp] theorem setCore_tables (s : State) (c : Nat) (x : Core) : (s.setCore c x).tables = s.tables := rfl
@[simp] theorem setCore_loads (s : State) (c : Nat) (x : Core) : (s.setCore c x).loads = s.loads := rfl
@[simp] theorem setCore_mem (s : State) (c : Nat) (x : Core) : (s.setCore c x).mem = s.mem := rfl
@[simp] theorem setCore_homeQ (s : State) (c : Nat) (x : Core) : (s.setCore c x).homeQ = s.homeQ := rfl
@[simp] theorem setCore_asked (s : State) (c : Nat) (x : Core) : (s.setCore c x).asked = s.asked := rfl
@[simp] theorem setCore_dlog (s : State) (c : Nat) (x : Core) : (s.setCore c x).dlog = s.dlog := rfl
@[simp] theorem setCore_poison (s : State) (c : Nat) (x : Core) : (s.setCore c x).poison = s.poison := rfl
@[simp] theorem setCore_seals (s : State) (c : Nat) (x : Core) : (s.setCore c x).seals = s.seals := rfl
@[simp] theorem setCore_sides (s : State) (c : Nat) (x : Core) : (s.setCore c x).sides = s.sides := rfl
@[simp] theorem setCore_l2 (s : State) (c : Nat) (x : Core) : (s.setCore c x).l2 = s.l2 := rfl
@[simp] theorem setCore_l2Dom (s : State) (c : Nat) (x : Core) : (s.setCore c x).l2Dom = s.l2Dom := rfl
@[simp] theorem setCore_l2Dirty (s : State) (c : Nat) (x : Core) : (s.setCore c x).l2Dirty = s.l2Dirty := rfl
@[simp] theorem setCore_frt (s : State) (c : Nat) (x : Core) : (s.setCore c x).frt = s.frt := rfl
@[simp] theorem setCore_hbmMode (s : State) (c : Nat) (x : Core) : (s.setCore c x).hbmMode = s.hbmMode := rfl
@[simp] theorem setCore_hbmMc (s : State) (c : Nat) (x : Core) : (s.setCore c x).hbmMc = s.hbmMc := rfl
@[simp] theorem setCore_hbmMp (s : State) (c : Nat) (x : Core) : (s.setCore c x).hbmMp = s.hbmMp := rfl
@[simp] theorem setCore_tlb (s : State) (c : Nat) (x : Core) : (s.setCore c x).tlb = s.tlb := rfl
@[simp] theorem setCore_icache (s : State) (c : Nat) (x : Core) : (s.setCore c x).icache = s.icache := rfl
@[simp] theorem setCore_cycle (s : State) (c : Nat) (x : Core) : (s.setCore c x).cycle = s.cycle := rfl
@[simp] theorem setCore_tick (s : State) (c : Nat) (x : Core) : (s.setCore c x).tick = s.tick := rfl
@[simp] theorem setCore_clock (s : State) (c : Nat) (x : Core) : (s.setCore c x).clock = s.clock := rfl
@[simp] theorem setCore_failedBlocks (s : State) (c : Nat) (x : Core) : (s.setCore c x).failedBlocks = s.failedBlocks := rfl
@[simp] theorem setCore_mailbox (s : State) (c : Nat) (x : Core) : (s.setCore c x).mailbox = s.mailbox := rfl
@[simp] theorem setCore_rollback (s : State) (c : Nat) (x : Core) : (s.setCore c x).rollback = s.rollback := rfl
@[simp] theorem setCore_links (s : State) (c : Nat) (x : Core) : (s.setCore c x).links = s.links := rfl
@[simp] theorem setCore_press (s : State) (c : Nat) (x : Core) : (s.setCore c x).press = s.press := rfl
@[simp] theorem setCore_quilts (s : State) (c : Nat) (x : Core) : (s.setCore c x).quilts = s.quilts := rfl
@[simp] theorem setCore_bobbin (s : State) (c : Nat) (x : Core) : (s.setCore c x).bobbin = s.bobbin := rfl
@[simp] theorem setCore_hot (s : State) (c : Nat) (x : Core) : (s.setCore c x).hot = s.hot := rfl
@[simp] theorem setCore_selfRefresh (s : State) (c : Nat) (x : Core) : (s.setCore c x).selfRefresh = s.selfRefresh := rfl
@[simp] theorem setCore_spdm (s : State) (c : Nat) (x : Core) : (s.setCore c x).spdm = s.spdm := rfl
@[simp] theorem setCore_keys (s : State) (c : Nat) (x : Core) : (s.setCore c x).keys = s.keys := rfl
@[simp] theorem setCore_epochs (s : State) (c : Nat) (x : Core) : (s.setCore c x).epochs = s.epochs := rfl
@[simp] theorem setCore_tdiRun (s : State) (c : Nat) (x : Core) : (s.setCore c x).tdiRun = s.tdiRun := rfl
@[simp] theorem setCore_hostUp (s : State) (c : Nat) (x : Core) : (s.setCore c x).hostUp = s.hostUp := rfl
@[simp] theorem setCore_hostBad (s : State) (c : Nat) (x : Core) : (s.setCore c x).hostBad = s.hostBad := rfl
@[simp] theorem setCore_verified (s : State) (c : Nat) (x : Core) : (s.setCore c x).verified = s.verified := rfl
@[simp] theorem setCore_ports (s : State) (c : Nat) (x : Core) : (s.setCore c x).ports = s.ports := rfl
@[simp] theorem setCore_outbox (s : State) (c : Nat) (x : Core) : (s.setCore c x).outbox = s.outbox := rfl
@[simp] theorem setCore_debugHolds (s : State) (c : Nat) (x : Core) : (s.setCore c x).debugHolds = s.debugHolds := rfl
@[simp] theorem setCore_breaks (s : State) (c : Nat) (x : Core) : (s.setCore c x).breaks = s.breaks := rfl
@[simp] theorem setCore_tbreaks (s : State) (c : Nat) (x : Core) : (s.setCore c x).tbreaks = s.tbreaks := rfl
@[simp] theorem setCore_holdAll (s : State) (c : Nat) (x : Core) : (s.setCore c x).holdAll = s.holdAll := rfl
@[simp] theorem setCore_henidTasks (s : State) (c : Nat) (x : Core) : (s.setCore c x).henidTasks = s.henidTasks := rfl
@[simp] theorem setCore_unplaced (s : State) (c : Nat) (x : Core) : (s.setCore c x).unplaced = s.unplaced := rfl

@[simp] theorem setCtxt_focus (s : State) (c : Nat) (x : Context) : (s.setCtxt c x).focus = s.focus := rfl
@[simp] theorem setCtxt_agenda (s : State) (c : Nat) (x : Context) : (s.setCtxt c x).agenda = s.agenda := rfl
@[simp] theorem setCtxt_fresh (s : State) (c : Nat) (x : Context) : (s.setCtxt c x).fresh = s.fresh := rfl
@[simp] theorem setCtxt_nextId (s : State) (c : Nat) (x : Context) : (s.setCtxt c x).nextId = s.nextId := rfl
@[simp] theorem setCtxt_threads (s : State) (c : Nat) (x : Context) : (s.setCtxt c x).threads = s.threads := rfl
@[simp] theorem setCtxt_panels (s : State) (c : Nat) (x : Context) : (s.setCtxt c x).panels = s.panels := rfl
@[simp] theorem setCtxt_tasks (s : State) (c : Nat) (x : Context) : (s.setCtxt c x).tasks = s.tasks := rfl
@[simp] theorem setCtxt_gens (s : State) (c : Nat) (x : Context) : (s.setCtxt c x).gens = s.gens := rfl
@[simp] theorem setCtxt_blocked (s : State) (c : Nat) (x : Context) : (s.setCtxt c x).blocked = s.blocked := rfl
@[simp] theorem setCtxt_frames (s : State) (c : Nat) (x : Context) : (s.setCtxt c x).frames = s.frames := rfl
@[simp] theorem setCtxt_tables (s : State) (c : Nat) (x : Context) : (s.setCtxt c x).tables = s.tables := rfl
@[simp] theorem setCtxt_loads (s : State) (c : Nat) (x : Context) : (s.setCtxt c x).loads = s.loads := rfl
@[simp] theorem setCtxt_mem (s : State) (c : Nat) (x : Context) : (s.setCtxt c x).mem = s.mem := rfl
@[simp] theorem setCtxt_homeQ (s : State) (c : Nat) (x : Context) : (s.setCtxt c x).homeQ = s.homeQ := rfl
@[simp] theorem setCtxt_asked (s : State) (c : Nat) (x : Context) : (s.setCtxt c x).asked = s.asked := rfl
@[simp] theorem setCtxt_dlog (s : State) (c : Nat) (x : Context) : (s.setCtxt c x).dlog = s.dlog := rfl
@[simp] theorem setCtxt_poison (s : State) (c : Nat) (x : Context) : (s.setCtxt c x).poison = s.poison := rfl
@[simp] theorem setCtxt_seals (s : State) (c : Nat) (x : Context) : (s.setCtxt c x).seals = s.seals := rfl
@[simp] theorem setCtxt_sides (s : State) (c : Nat) (x : Context) : (s.setCtxt c x).sides = s.sides := rfl
@[simp] theorem setCtxt_l2 (s : State) (c : Nat) (x : Context) : (s.setCtxt c x).l2 = s.l2 := rfl
@[simp] theorem setCtxt_l2Dom (s : State) (c : Nat) (x : Context) : (s.setCtxt c x).l2Dom = s.l2Dom := rfl
@[simp] theorem setCtxt_l2Dirty (s : State) (c : Nat) (x : Context) : (s.setCtxt c x).l2Dirty = s.l2Dirty := rfl
@[simp] theorem setCtxt_frt (s : State) (c : Nat) (x : Context) : (s.setCtxt c x).frt = s.frt := rfl
@[simp] theorem setCtxt_hbmMode (s : State) (c : Nat) (x : Context) : (s.setCtxt c x).hbmMode = s.hbmMode := rfl
@[simp] theorem setCtxt_hbmMc (s : State) (c : Nat) (x : Context) : (s.setCtxt c x).hbmMc = s.hbmMc := rfl
@[simp] theorem setCtxt_hbmMp (s : State) (c : Nat) (x : Context) : (s.setCtxt c x).hbmMp = s.hbmMp := rfl
@[simp] theorem setCtxt_tlb (s : State) (c : Nat) (x : Context) : (s.setCtxt c x).tlb = s.tlb := rfl
@[simp] theorem setCtxt_icache (s : State) (c : Nat) (x : Context) : (s.setCtxt c x).icache = s.icache := rfl
@[simp] theorem setCtxt_cores (s : State) (c : Nat) (x : Context) : (s.setCtxt c x).cores = s.cores := rfl
@[simp] theorem setCtxt_cycle (s : State) (c : Nat) (x : Context) : (s.setCtxt c x).cycle = s.cycle := rfl
@[simp] theorem setCtxt_tick (s : State) (c : Nat) (x : Context) : (s.setCtxt c x).tick = s.tick := rfl
@[simp] theorem setCtxt_clock (s : State) (c : Nat) (x : Context) : (s.setCtxt c x).clock = s.clock := rfl
@[simp] theorem setCtxt_failedBlocks (s : State) (c : Nat) (x : Context) : (s.setCtxt c x).failedBlocks = s.failedBlocks := rfl
@[simp] theorem setCtxt_mailbox (s : State) (c : Nat) (x : Context) : (s.setCtxt c x).mailbox = s.mailbox := rfl
@[simp] theorem setCtxt_rollback (s : State) (c : Nat) (x : Context) : (s.setCtxt c x).rollback = s.rollback := rfl
@[simp] theorem setCtxt_links (s : State) (c : Nat) (x : Context) : (s.setCtxt c x).links = s.links := rfl
@[simp] theorem setCtxt_press (s : State) (c : Nat) (x : Context) : (s.setCtxt c x).press = s.press := rfl
@[simp] theorem setCtxt_quilts (s : State) (c : Nat) (x : Context) : (s.setCtxt c x).quilts = s.quilts := rfl
@[simp] theorem setCtxt_bobbin (s : State) (c : Nat) (x : Context) : (s.setCtxt c x).bobbin = s.bobbin := rfl
@[simp] theorem setCtxt_hot (s : State) (c : Nat) (x : Context) : (s.setCtxt c x).hot = s.hot := rfl
@[simp] theorem setCtxt_selfRefresh (s : State) (c : Nat) (x : Context) : (s.setCtxt c x).selfRefresh = s.selfRefresh := rfl
@[simp] theorem setCtxt_spdm (s : State) (c : Nat) (x : Context) : (s.setCtxt c x).spdm = s.spdm := rfl
@[simp] theorem setCtxt_keys (s : State) (c : Nat) (x : Context) : (s.setCtxt c x).keys = s.keys := rfl
@[simp] theorem setCtxt_epochs (s : State) (c : Nat) (x : Context) : (s.setCtxt c x).epochs = s.epochs := rfl
@[simp] theorem setCtxt_tdiRun (s : State) (c : Nat) (x : Context) : (s.setCtxt c x).tdiRun = s.tdiRun := rfl
@[simp] theorem setCtxt_hostUp (s : State) (c : Nat) (x : Context) : (s.setCtxt c x).hostUp = s.hostUp := rfl
@[simp] theorem setCtxt_hostBad (s : State) (c : Nat) (x : Context) : (s.setCtxt c x).hostBad = s.hostBad := rfl
@[simp] theorem setCtxt_verified (s : State) (c : Nat) (x : Context) : (s.setCtxt c x).verified = s.verified := rfl
@[simp] theorem setCtxt_ports (s : State) (c : Nat) (x : Context) : (s.setCtxt c x).ports = s.ports := rfl
@[simp] theorem setCtxt_outbox (s : State) (c : Nat) (x : Context) : (s.setCtxt c x).outbox = s.outbox := rfl
@[simp] theorem setCtxt_debugHolds (s : State) (c : Nat) (x : Context) : (s.setCtxt c x).debugHolds = s.debugHolds := rfl
@[simp] theorem setCtxt_breaks (s : State) (c : Nat) (x : Context) : (s.setCtxt c x).breaks = s.breaks := rfl
@[simp] theorem setCtxt_tbreaks (s : State) (c : Nat) (x : Context) : (s.setCtxt c x).tbreaks = s.tbreaks := rfl
@[simp] theorem setCtxt_holdAll (s : State) (c : Nat) (x : Context) : (s.setCtxt c x).holdAll = s.holdAll := rfl
@[simp] theorem setCtxt_henidTasks (s : State) (c : Nat) (x : Context) : (s.setCtxt c x).henidTasks = s.henidTasks := rfl
@[simp] theorem setCtxt_unplaced (s : State) (c : Nat) (x : Context) : (s.setCtxt c x).unplaced = s.unplaced := rfl

/-! ## Reads after a named update -/

@[simp] theorem thread_setThread (s : State) (p : Party) (t : Thread) : (s.setThread p t).thread p = t := by
  simp [State.thread, State.setThread]

theorem thread_setThread_other (s : State) {p q : Party} (t : Thread) (h : q ≠ p) :
    (s.setThread p t).thread q = s.thread q := by
  simp [State.thread, State.setThread, getD_set, h]

@[simp] theorem thread_setPanel (s : State) (p : Nat) (x : Panel) (q : Party) : (s.setPanel p x).thread q = s.thread q := rfl
@[simp] theorem thread_setCore (s : State) (c : Nat) (x : Core) (q : Party) : (s.setCore c x).thread q = s.thread q := rfl
@[simp] theorem thread_setCtxt (s : State) (c : Nat) (x : Context) (q : Party) : (s.setCtxt c x).thread q = s.thread q := rfl
@[simp] theorem panel_setThread (s : State) (p : Party) (t : Thread) (q : Nat) : (s.setThread p t).panel? q = s.panel? q := rfl
@[simp] theorem panel_setCore (s : State) (c : Nat) (x : Core) (q : Nat) : (s.setCore c x).panel? q = s.panel? q := rfl
@[simp] theorem panel_setCtxt (s : State) (c : Nat) (x : Context) (q : Nat) : (s.setCtxt c x).panel? q = s.panel? q := rfl
@[simp] theorem core_setThread (s : State) (p : Party) (t : Thread) (c : Nat) : (s.setThread p t).core? c = s.core? c := rfl
@[simp] theorem core_setPanel (s : State) (p : Nat) (x : Panel) (c : Nat) : (s.setPanel p x).core? c = s.core? c := rfl
@[simp] theorem core_setCtxt (s : State) (n : Nat) (x : Context) (c : Nat) : (s.setCtxt n x).core? c = s.core? c := rfl
@[simp] theorem ctxt_setThread (s : State) (p : Party) (t : Thread) (c : Nat) : (s.setThread p t).ctxt c = s.ctxt c := rfl
@[simp] theorem ctxt_setPanel (s : State) (p : Nat) (x : Panel) (c : Nat) : (s.setPanel p x).ctxt c = s.ctxt c := rfl
@[simp] theorem ctxt_setCore (s : State) (n : Nat) (x : Core) (c : Nat) : (s.setCore n x).ctxt c = s.ctxt c := rfl

@[simp] theorem ctxt_setCtxt (s : State) (c : Nat) (x : Context) : (s.setCtxt c x).ctxt c = x := by
  simp [State.ctxt, State.setCtxt]

theorem ctxt_setCtxt_other (s : State) {c d : Nat} (x : Context) (h : d ≠ c) : (s.setCtxt c x).ctxt d = s.ctxt d := by
  simp [State.ctxt, State.setCtxt, getD_set, h]

@[simp] theorem setCtxt_setCtxt (s : State) (c : Nat) (x y : Context) : (s.setCtxt c x).setCtxt c y = s.setCtxt c y := by
  simp [State.setCtxt]

@[simp] theorem setPanel_setPanel (s : State) (p : Nat) (x y : Panel) : (s.setPanel p x).setPanel p y = s.setPanel p y := by
  simp [State.setPanel]

@[simp] theorem setThread_setThread (s : State) (p : Party) (x y : Thread) :
    (s.setThread p x).setThread p y = s.setThread p y := by
  simp [State.setThread]

@[simp] theorem panel_setPanel (s : State) (p : Nat) (x : Panel) : (s.setPanel p x).panel? p = some x := by
  simp [State.panel?, State.setPanel]

theorem panel_setPanel_other (s : State) {p q : Nat} (x : Panel) (h : q ≠ p) : (s.setPanel p x).panel? q = s.panel? q := by
  simp [State.panel?, State.setPanel, get_set, h]

@[simp] theorem core_setCore (s : State) (c : Nat) (x : Core) : (s.setCore c x).core? c = x := by
  simp [State.core?, State.setCore]

theorem core_setCore_other (s : State) {c d : Nat} (x : Core) (h : d ≠ c) : (s.setCore c x).core? d = s.core? d := by
  simp [State.core?, State.setCore, getD_set, h]

@[simp] theorem cur_setCur (s : State) (t : Thread) : (s.setCur t).cur = t := by simp [State.cur, State.setCur]

theorem setCur_eq (s : State) (t : Thread) : s.setCur t = s.setThread s.focus t := rfl

/-! ## Registers (R123, R124) -/

@[simp] theorem get_zero (t : Thread) : t.get 0#5 = 0#64 := rfl

theorem get_put (t : Thread) (d x : Reg) (v : Word) :
    (t.put d v).get x = if x = d ∧ d ≠ 0#5 then v else t.get x := by
  by_cases hd : d = 0#5
  · simp [Thread.put, hd]
  · by_cases hx : x = d
    · subst hx; simp [Thread.put, Thread.get, hd]
    · have : d.toNat ≠ x.toNat := fun h => hx (BitVec.eq_of_toNat_eq h.symm)
      by_cases h0 : x = 0#5
      · subst h0; simp [Thread.get, Ne.symm hd]
      · simp [Thread.put, Thread.get, hd, hx, h0, this]

@[simp] theorem g_setG_same (s : State) (d : Reg) (v : Word) (h : d ≠ 0#5) : (s.setG d v).g d = v := by
  simp [State.g, State.setG, get_put, h]

end Sys2Proof.Machine
end

