-- ==== Sys2Proof/Laws/Issue.lean ====
section
/-! SUPPORT. What issuing and retiring an instruction does: everything but the running thread and event counters stays. -/

namespace Sys2Proof

open Machine

/-! ## Nothing but the running thread and counters changes -/

theorem elsewhere_refl (s : State) : Elsewhere s s := ⟨rfl, fun _ _ => rfl, fun _ => rfl, fun _ => rfl⟩

theorem elsewhere_focus {s t : State} (h : Elsewhere s t) : t.focus = s.focus := by
  have := congrArg State.focus h.rest; exact this

theorem elsewhere_trans {s t u : State} (h : Elsewhere s t) (k : Elsewhere t u) : Elsewhere s u :=
  ⟨k.rest.trans h.rest, fun p hp => (k.threads p (elsewhere_focus h ▸ hp)).trans (h.threads p hp),
    fun p => (k.panels p).trans (h.panels p), fun c => (k.cores c).trans (h.cores c)⟩

theorem elsewhere_mem {s t : State} (h : Elsewhere s t) : t.mem = s.mem := by
  have := congrArg State.mem h.rest; exact this
theorem elsewhere_contexts {s t : State} (h : Elsewhere s t) : t.contexts = s.contexts := by
  have := congrArg State.contexts h.rest; exact this

/-- A byte of memory reads as before. -/
theorem elsewhere_homeByte {s t : State} (h : Elsewhere s t) (dom pa : Nat) : homeByte t dom pa = homeByte s dom pa := by
  have hm := elsewhere_mem h
  have hs : t.seals = s.seals := by have := congrArg State.seals h.rest; exact this
  have he : t.epochs = s.epochs := by have := congrArg State.epochs h.rest; exact this
  unfold homeByte sectorView sealFits epochOf
  rw [hm, hs, he]

theorem elsewhere_setCur (s : State) (t : Thread) : Elsewhere s (s.setCur t) :=
  ⟨rfl, fun p hp => by simp [setCur_eq, thread_setThread_other _ _ hp], fun _ => rfl, fun _ => rfl⟩

@[simp] theorem uncounted_count (x : Panel) (ev n : Nat) : uncounted (x.count ev n) = uncounted x := rfl

theorem elsewhere_countPanel (s : State) (p ev n : Nat) : Elsewhere s (s.modPanel p fun y => y.count ev n) := by
  unfold State.modPanel
  split
  · next x hx =>
    refine ⟨rfl, fun _ _ => rfl, fun q => ?_, fun _ => rfl⟩
    by_cases h : q = p
    · subst h; simp [hx]
    · rw [panel_setPanel_other _ _ h]
  · exact elsewhere_refl s

/-- Counting an event changes nothing else. -/
theorem elsewhere_countFor (s : State) (p : Party) (ev n : Nat) : Elsewhere s (countFor s p ev n) := by
  unfold countFor
  split
  · next c =>
    refine ⟨rfl, fun _ _ => rfl, fun _ => rfl, fun d => ?_⟩
    by_cases h : d = c / 2
    · subst h; simp [uncountedCore]
    · rw [core_setCore_other _ _ h]
  all_goals exact elsewhere_countPanel ..

@[simp] theorem thread_countFor (s : State) (p q : Party) (ev n : Nat) : (countFor s p ev n).thread q = s.thread q := by
  unfold countFor State.modPanel; split <;> (try split) <;> rfl

@[simp] theorem focus_countFor (s : State) (p : Party) (ev n : Nat) : (countFor s p ev n).focus = s.focus := by
  unfold countFor State.modPanel; split <;> (try split) <;> rfl

@[simp] theorem cur_countFor (s : State) (p : Party) (ev n : Nat) : (countFor s p ev n).cur = s.cur := by
  simp [State.cur]

/-! ## Issue -/

/-- The mark of the live cycle and ev88 are all that issuing leaves (R198, R263). -/
theorem noteIssue_elsewhere (s : State) : Elsewhere s (noteIssue s) ∧ unmarked (noteIssue s).cur = unmarked s.cur := by
  unfold noteIssue
  split
  · next p i hf =>
    split
    · next x hx =>
      refine ⟨⟨rfl, fun q hq => ?_, fun q => ?_, fun _ => rfl⟩, ?_⟩
      · simp [setCur_eq, thread_setThread_other _ _ hq]
      · by_cases h : q = p
        · subst h; simp [hx]
        · rw [panel_setPanel_other _ _ h]; rfl
      · simp [State.cur, setCur_eq, unmarked]
    · exact ⟨elsewhere_refl s, rfl⟩
  · exact ⟨elsewhere_refl s, rfl⟩

theorem slot_mod (t : Thread) (i : Nat) : t.slot i = t.slot (i % 4) := by
  simp [Thread.slot]

/-- A word at which no active slot ends ends no trip (R168). -/
theorem tripEnds_none (as : List Word) (is : List Nat) (t : Thread) (n : Nat)
    (h : ∀ j, j < 4 → (t.slot j).active = true → as.contains (t.slot j).lstop = false) :
    tripEnds as is t n = (t, n, none) := by
  induction is with
  | nil => rfl
  | cons i is ih =>
    have := h (i % 4) (Nat.mod_lt _ (by decide))
    rw [← slot_mod] at this
    unfold tripEnds
    by_cases ha : (t.slot i).active <;> simp_all

/-- A form that transfers no control and ends no trip moves the pc to the next word (R163, R168). -/
theorem retire_plain (i : Instr) (s : State)
    (h : NoTrip i s.cur) :
    Elsewhere s (retire i s) ∧ (retire i s).cur = pastWord i s.cur := by
  unfold retire
  simp only
  split
  · exact ⟨elsewhere_setCur s _, by simp [pastWord]⟩
  · rw [tripEnds_none]
    · exact ⟨elsewhere_trans (elsewhere_setCur s _) (elsewhere_countFor _ _ _ _), by simp [pastWord]⟩
    · exact h

/-- An instruction that passes line 2 and 3 of R139 runs its body. -/
theorem issueCheck_none {i : Instr} {s : State} (h1 : mayIssue s.focus i = true)
    (h2 : needsSupervisor i = true → partyPriv s s.focus ≠ .user) : issueCheck i s = none := by
  unfold issueCheck
  by_cases h : needsSupervisor i = true
  · simp [h1, h2 h]
  · simp [h1, h]

theorem issue_eq {i : Instr} {s : State} (h : MayIssue i s) (body : State → Res) :
    issue i s body = finishRes i s (body s) := by
  simp [issue, issueCheck_none h.form h.priv, h.stitches]

/-- Taking the commit shadow changes nothing else (R261). -/
theorem takeShadow_elsewhere (s : State) (p : Nat) : Elsewhere s (takeShadow s p) ∧ (takeShadow s p).cur = s.cur := by
  unfold takeShadow State.modPanel
  split
  · next x hx =>
    refine ⟨⟨rfl, fun _ _ => rfl, fun q => ?_, fun _ => rfl⟩, rfl⟩
    by_cases h : q = p
    · subst h; simp [hx, uncounted]
    · rw [panel_setPanel_other _ _ h]
  · exact ⟨elsewhere_refl s, rfl⟩

/-- The commit shadow is all that a commit-after form adds (R160). -/
theorem commitShadow_elsewhere (i : Instr) (s : State) :
    Elsewhere s (commitShadow i s) ∧ (commitShadow i s).cur = s.cur := by
  unfold commitShadow
  split
  · split
    · exact takeShadow_elsewhere ..
    · exact ⟨elsewhere_refl s, rfl⟩
  · split
    · exact takeShadow_elsewhere ..
    · exact ⟨elsewhere_refl s, rfl⟩
  · exact ⟨elsewhere_refl s, rfl⟩

/-- A form whose body answers a state goes on to the next word from it. -/
theorem finish_ok (i : Instr) (s u : State)
    (h : NoTrip i u.cur) :
    ∃ t, finishRes i s (.ok u) = .next t ∧ Elsewhere u t ∧ unmarked t.cur = unmarked (pastWord i u.cur) := by
  obtain ⟨h1, h2⟩ := retire_plain i u h
  obtain ⟨h3, h4⟩ := noteIssue_elsewhere (retire i u)
  obtain ⟨h5, h6⟩ := commitShadow_elsewhere i (noteIssue (retire i u))
  exact ⟨_, rfl, elsewhere_trans h1 (elsewhere_trans h3 h5), by rw [h6, h4, h2]⟩

@[simp] theorem slot_put (t : Thread) (d : Reg) (v : Word) (n : Nat) : (t.put d v).slot n = t.slot n := by
  unfold Thread.put; split <;> rfl
@[simp] theorem pc_put (t : Thread) (d : Reg) (v : Word) : (t.put d v).pc = t.pc := by
  unfold Thread.put; split <;> rfl

/-- A form whose whole effect is a register. -/
theorem setting_runs {i : Instr} {s : State} (h : Issues i s) (d : Reg) (v : Word) :
    ∃ t, (issue i s fun s => .ok (s.setG d v)) = .next t ∧ Elsewhere s t ∧
      unmarked t.cur = unmarked (pastWord i (s.cur.put d v)) := by
  rw [issue_eq h.toMayIssue]
  obtain ⟨t, h1, h2, h3⟩ := finish_ok i s (s.setG d v) (by simpa [State.setG, NoTrip] using h.noTrip)
  exact ⟨t, h1, elsewhere_trans (elsewhere_setCur s _) h2, by simpa [State.setG] using h3⟩

/-- A form that jumps leaves everything but the thread and counters as its body left it. -/
theorem finish_jump (i : Instr) (s u : State) (pc : Word) :
    ∃ t, finishRes i s (.jump u pc) = .next t ∧ Elsewhere u t ∧ unmarked t.cur = unmarked { u.cur with pc := pc } := by
  obtain ⟨h3, h4⟩ := noteIssue_elsewhere (jumpTo u pc)
  exact ⟨_, rfl, elsewhere_trans (elsewhere_setCur u _) h3, by rw [h4]; simp [jumpTo]⟩

/-- A form whose body sets the state itself. -/
theorem finish_set (i : Instr) (s u : State) :
    ∃ t, finishRes i s (.set u) = .next t ∧ Elsewhere u t ∧ unmarked t.cur = unmarked u.cur := by
  obtain ⟨h3, h4⟩ := noteIssue_elsewhere u
  exact ⟨_, rfl, h3, h4⟩

/-! ## From a meaning to its statement -/

/-- A form that may issue and whose body answers a state leaves that state, its thread past the word. -/
theorem leaves_ok {i : Instr} {s u : State} (hi : MayIssue i s) (body : State → Res) (he : exec i s = issue i s body)
    (hb : body s = .ok u) (hn : NoTrip i u.cur) : Leaves i s u (pastWord i u.cur) := by
  rw [issue_eq hi, hb] at he
  obtain ⟨t, h1, h2, h3⟩ := finish_ok i s u hn
  exact ⟨t, by rw [he, h1], h2, h3⟩

/-- A form whose body jumps leaves its state, the thread at the target. -/
theorem leaves_jump {i : Instr} {s u : State} {pc : Word} (hi : MayIssue i s) (body : State → Res)
    (he : exec i s = issue i s body) (hb : body s = .jump u pc) : Leaves i s u { u.cur with pc := pc } := by
  rw [issue_eq hi, hb] at he
  obtain ⟨t, h1, h2, h3⟩ := finish_jump i s u pc
  exact ⟨t, by rw [he, h1], h2, h3⟩

/-- A form whose body sets the state leaves it. -/
theorem leaves_set {i : Instr} {s u : State} (hi : MayIssue i s) (body : State → Res) (he : exec i s = issue i s body)
    (hb : body s = .set u) : Leaves i s u u.cur := by
  rw [issue_eq hi, hb] at he
  obtain ⟨t, h1, h2, h3⟩ := finish_set i s u
  exact ⟨t, by rw [he, h1], h2, h3⟩

/-- A form whose body waits leaves its state, the thread in its wait. -/
theorem leaves_wait {i : Instr} {s u : State} {timeout : Option Nat} {arrived : Bool} (hi : MayIssue i s)
    (body : State → Res) (he : exec i s = issue i s body) (hb : body s = .wait u timeout arrived) :
    Leaves i s u { u.cur with wait := some ⟨i, s.cycle, timeout, arrived⟩ } := by
  rw [issue_eq hi, hb] at he
  let v := u.setCur { u.cur with wait := some ⟨i, s.cycle, timeout, arrived⟩ }
  have h0 : Elsewhere u v := elsewhere_setCur u _
  have hv : v.cur = { u.cur with wait := some ⟨i, s.cycle, timeout, arrived⟩ } := cur_setCur u _
  obtain ⟨h1, h2⟩ := noteIssue_elsewhere v
  obtain ⟨h3, h4⟩ := commitShadow_elsewhere i (noteIssue v)
  have h5 := elsewhere_countFor (if arrived then commitShadow i (noteIssue v) else noteIssue v) s.focus 91 1
  refine ⟨_, he, ?_, ?_⟩
  · refine elsewhere_trans h0 (elsewhere_trans ?_ h5)
    split
    · exact elsewhere_trans h1 h3
    · exact h1
  · rw [cur_countFor]
    split
    · rw [h4, h2, hv]
    · rw [h2, hv]

/-- A form whose body traps ends in that trap alone. -/
theorem ends_trap {i : Instr} {s : State} {t : Trap} (hi : MayIssue i s) (body : State → Res)
    (he : exec i s = issue i s body) (hb : body s = .trap t) : exec i s = .next (raise (noteIssue s) t) := by
  rw [issue_eq hi, hb] at he
  exact he

/-- A form that leaves a state which differs in the thread alone runs to that thread. -/
theorem runs_of_leaves {i : Instr} {s u : State} {th : Thread} (h : Leaves i s u th) (hu : Elsewhere s u) :
    RunsTo i s th := by
  obtain ⟨t, h1, h2, h3⟩ := h
  exact ⟨t, h1, elsewhere_trans hu h2, h3⟩

end Sys2Proof
end

