-- ==== Sys2Proof/Tests/Slice0.lean ====
section
/-! SUPPORT. Tests: terms that the well-formedness check refuses, words written out from the spec's encodings, one-step
results worked by hand from the rules, and for every statement states and operands that meet its hypotheses. -/

namespace Sys2Proof.Tests

set_option Elab.async false

open Machine

/-! ## Terms that the check refuses -/

/-- Operand fields of a VX word, all zero. -/
def vf0 : VF := ⟨0, 0, 0, 0, 0, 0, 0⟩

/-- R132: no zero-extending load of 8 bytes. -/
theorem test_wf_ldz_d : (Instr.ldZ .d 1 2 0).wf = false := by decide
theorem test_wf_ldsz_d : (Instr.ldSZ .d 1 2 0).wf = false := by decide
/-- R211: `vop` takes no reserved opcode, no register form of `vmov`, no condition bit. -/
theorem test_wf_vop : (Instr.vop 0x1F 0).wf = false ∧ (Instr.vop 0x18 4).wf = false ∧ (Instr.vop 0x0B 0x20000000).wf = false := by
  decide
/-- R229: a clear of no accumulator; R231: formats of two width classes, an integer format. -/
theorem test_wf_mx : (Instr.mxAcz .always 0).wf = false ∧ (Instr.mxFmt .always 0x00 0x02).wf = false ∧
    (Instr.mxFmt .always 0x06 0x06).wf = false := by decide
/-- R143, R235: fields a VX form does not read, a refused type, a rounding mode on integers, a format above 0x18. -/
theorem test_wf_vx : (Instr.vadd .always { vf0 with c := 1 }).wf = false ∧ (Instr.vadd .always { vf0 with aux := 3 }).wf = false ∧
    (Instr.vmul .always { vf0 with aux := 1, rnd := 1 }).wf = false ∧ (Instr.vexp2 .always { vf0 with b := 1 }).wf = false ∧
    (Instr.vcvt .always { vf0 with aux := 0x19 }).wf = false ∧ (Instr.vshr .always vf0).wf = false := by decide
theorem test_wf_vx_reductions : (Instr.vred .always { vf0 with aux := 12 }).wf = false ∧
    (Instr.vcmp .always { vf0 with d := 8 }).wf = false ∧ (Instr.vpack .always { vf0 with aux := 23 }).wf = false ∧
    (Instr.vmovIn .always { vf0 with aux := 1, a := 1 }).wf = false ∧ (Instr.vminmax .always vf0).wf = false := by decide
/-- R243: no counter 5; R225: an output in both groups, no connection with an output, a source above 8. -/
theorem test_wf_ls_xb : (Instr.lsRd .always 0 5 0).wf = false ∧ (Instr.xbRoute .always 0 1 1 1 0).wf = false ∧
    (Instr.xbRoute .always 15 1 15 0 0).wf = false ∧ (Instr.xbRoute .always 9 0 15 0 0).wf = false ∧
    (Instr.xbHold .always 8 0).wf = false := by decide
/-- R248, R251: a step of 0, a reserved field, a wait count on a source other than the queue. -/
theorem test_wf_tk : (Instr.tkCnt .always 0 2 0).wf = false ∧ (Instr.tkCnt .always 0 4 0).wf = false ∧
    (Instr.tkSel .always 1 1).wf = false := by decide

/-! ## Words written out from the encodings of spec/09 and spec/10 -/

/-- R129: opcode 000001, d 00011, a 00100, b 00101, funct 0. -/
theorem test_decode_add : decodeWord 0b000001_00011_00100_00101_00000000000#32 = some (.add 3 4 5) := by decide
theorem test_decode_lea : decodeWord 0x046428DB#32 = some (.lea 3 4 5 3) := by decide
theorem test_decode_cmpi : decodeWord 0x2D244064#32 = some (.cmpi .ltu 9 4 0x064#12) := by decide
theorem test_decode_loads : decodeWord 0x48C28003#32 = some (.ld .w 6 2 3) := by decide
theorem test_decode_branches : decodeWord 0x7C864FFB#32 = some (.bcc .lt 3 4 0xFFB#12) ∧
    decodeWord 0x7D52A008#32 = some (.bcc .geu 9 10 8#12) ∧ decodeWord 0x78010000#32 = some (.jalr 0 1 0) := by decide
theorem test_decode_system : decodeWord 0x84000000#32 = some .nop ∧ decodeWord 0x84000001#32 = some .fin ∧
    decodeWord 0x84000003#32 = some .eret ∧ decodeWord 0x44050027#32 = some (.cset 5 0x27#16) ∧
    decodeWord 0x841F0005#32 = some (.ctxsave 31) := by decide
theorem test_decode_sync : decodeWord 0xC004530E#32 = some (.acq .dev .d 5 6) := by decide
theorem test_decode_amo : decodeWord 0xC080029B#32 = some (.amoAdd true 0 5 6) := by decide
theorem test_decode_engines : decodeWord 0xC1003214#32 = some (.bdraw 3 4 5) ∧ decodeWord 0xC1423214#32 = some (.qapp 3 4 5) ∧
    decodeWord 0xC144331C#32 = some (.qdesc 3 6 7) ∧ decodeWord 0xC1801234#32 ≠ none ∧
    decodeWord 0xC1803214#32 = some (.prcopy 3 4 5) ∧ decodeWord 0xC1883214#32 = some (.prxor 3 4 5) := by decide
theorem test_decode_fabric : decodeWord 0xC2066000#32 = some (.sgo 6) ∧ decodeWord 0xC2120000#32 = some .commit ∧
    decodeWord 0xC2107400#32 = some (.tkwait 7 8) ∧ decodeWord 0xC2164000#32 = some (.cpost 4) := by decide
theorem test_decode_long : decodeLong 0xFC0E0001#32 0x23456789#32 = some (.movi 7 0x123456789#49) ∧
    decodeLong 0xFC860000#32 0x06110C00#32 = some (.vop 3 0x06110C00#30) := by decide
/-- R140-R142: an MX, a VX, an LS, an XB and a TK word. -/
theorem test_decode_phase : decodePhase 0x2200000000#40 = some (.mxMm .always 0 0) ∧
    decodePhase 0x2500400000#40 = some (.mxAcrd .always 0 0 true) ∧
    decodePhase 0x4306110C00#40 = some (.vfma .always ⟨3, 1, 2, 3, 0, 0, 0⟩) ∧
    decodePhase 0x6000148000#40 = some (.lsRd .always 5 1 0) ∧
    decodePhase 0x801C40C084#40 = some (.xbRoute .always 7 0x10 3 0x02 1) ∧
    decodePhase 0xA10400FFFF#40 = some (.tkCnt .always 0 2 0xFFFF#24) ∧
    decodePhase 0xA500000000#40 = some (.tkStitch .always) := by decide
/-- R128, R143: a word with a nonzero bit that its form does not read is unassigned. -/
theorem test_decode_refuses : decodeWord 0x84200003#32 = none ∧ decodePhase 0x6000028000#40 = none := by decide

/-! ## States for the statements -/

/-- The party's word stands at 0x40000 of context 0, whose page its unit's TLB holds, readable, writable, executable, marked. -/
def held (s : State) (unit : Nat) : State := { s with tlb := [⟨unit, 0, 0x40000, 3, 0x4033F#64⟩], agenda := [] }

/-- A service-core thread of context 0 at supervisor privilege, its memory zero. -/
def wCore : State := held (placeBytes State.reset (.core 0) []) 512
/-- The same at user privilege. -/
def wUser : State := wCore.setCur { wCore.cur with priv := .user }
/-- The same at machine privilege. -/
def wMach : State := wCore.setCur { wCore.cur with priv := .machine }
/-- A sequencer thread of a live panel. -/
def wSeq : State := held (placeBytes State.reset (.seq 0 0) []) 0
/-- The slice engine of the same strand. -/
def wSlice : State := held (placeBytes State.reset (.slice 0 0) []) 0
/-- Tile 0 of that panel, about to run a phase word. -/
def wTile : State := { wSeq with focus := .tile 0 0 }

/-- A state with a register of the running thread set. -/
def reg (s : State) (r : Reg) (v : Word) : State := s.setCur (s.cur.put r v)
/-- A state with the running thread's slots in a loop. -/
def looping (s : State) (j : Nat) (h : LoopSlot) : State := s.setCur (s.cur.setSlot j h)
/-- A state with context 0 changed. -/
def ctx0 (s : State) (f : Context → Context) : State := s.setCtxt 0 (f (s.ctxt 0))
/-- A state with panel 0 changed. -/
def pan0 (s : State) (f : Panel → Panel) : State := s.modPanel 0 f
/-- A state with a tile of panel 0 changed. -/
def tile0 (s : State) (f : Tile → Tile) : State := s.modPanel 0 fun x => x.setTile 0 (f (x.tile 0))
/-- The panel of `wSeq` and its like. -/
def pan (s : State) : Panel := (s.panel? 0).getD (placedPanel 0 [])
/-- Bytes of context 0's page. -/
def bytesAt (s : State) (pa : Nat) (bs : List Byte) : State := { s with mem := writeBytes s.mem pa bs }

/-- The result of a computation that may trap holds and meets a condition. -/
def okWith {α β : Type} (r : Except β α) (f : α → Bool) : Bool := match r with | .ok a => f a | .error _ => false
/-- A computation traps with a cause. -/
def trapWith {α : Type} (r : Except Trap α) (c : Cause) : Bool := match r with | .ok _ => false | .error t => t.cause == c
/-- An optional value is there and meets a condition. -/
def someWith {α : Type} (r : Option α) (f : α → Bool) : Bool := match r with | some a => f a | none => false

/-- No active slot ends at the word, as a test. -/
def noTripB (i : Instr) (t : Thread) : Bool :=
  (List.range 4).all fun n => !(t.slot n).active || !(tripAddrs i t.pc).contains (t.slot n).lstop
/-- A form may be issued, as a test. -/
def mayIssueB (i : Instr) (s : State) : Bool :=
  mayIssue s.focus i && (!needsSupervisor i || partyPriv s s.focus != .user) && !stitchWaits i s
/-- A form may be issued and ends no trip, as a test. -/
def issuesB (i : Instr) (s : State) : Bool := mayIssueB i s && noTripB i s.cur

theorem mayIssue_of {i : Instr} {s : State} (h : mayIssueB i s = true) : MayIssue i s := by
  simp only [mayIssueB, Bool.and_eq_true, Bool.or_eq_true, Bool.not_eq_true', bne_iff_ne, ne_eq] at h
  exact ⟨h.1.1, fun k => h.1.2.resolve_left (by simp [k]), h.2⟩

theorem noTrip_of {i : Instr} {t : Thread} (h : noTripB i t = true) : NoTrip i t := by
  intro n hn ha
  have := List.all_eq_true.1 h n (List.mem_range.2 hn)
  simpa [ha] using this

theorem issues_of {i : Instr} {s : State} (h : issuesB i s = true) : Issues i s := by
  simp only [issuesB, Bool.and_eq_true] at h
  exact ⟨mayIssue_of h.1, noTrip_of h.2⟩

theorem strands_of {i : Instr} {s : State} {p k : Nat} {x : Panel}
    (h : (issuesB i s && s.focus == .seq p k && s.panel? p == some x) = true) : Strands i s p k x := by
  simp only [Bool.and_eq_true, beq_iff_eq] at h
  exact ⟨issues_of h.1.1, h.1.2, h.2⟩

/-- A tile runs the word, as a test. -/
def tileWordB (i : Instr) (s : State) (p n : Nat) (x : Panel) : Bool :=
  s.focus == .tile p n && s.panel? p == some x && someWith (predOf i) (fun q => predHolds q (x.tile n)) &&
    (clampOf x n 0 s.cycle i).isNone

theorem tileWord_of {i : Instr} {s : State} {p n : Nat} {x : Panel} (h : tileWordB i s p n x = true) : TileWord i s p n x := by
  simp only [tileWordB, Bool.and_eq_true, beq_iff_eq, Option.isNone_iff_eq_none] at h
  obtain ⟨⟨⟨h1, h2⟩, h3⟩, h4⟩ := h
  refine ⟨h1, h2, ?_, h4⟩
  cases hp : predOf i with
  | none => rw [hp] at h3; simp [someWith] at h3
  | some q => rw [hp] at h3; exact ⟨q, rfl, h3⟩

/-- A row executes in this cycle, as a test. -/
def rowGoesB (u : State) (p : Nat) (y : Panel) : Bool :=
  let r := some (rowRuns u p y)
  y.faulted.isEmpty && !isHot u y && y.publishHold == 0 && !tkwaits u p && y.switching == 0 && inPhase u y &&
    y.half.isNone && (laterTiles u y).isEmpty && (gatherFaults y).isEmpty && (rowHolds u y (rowWordsOf u p y)).isEmpty && (tbreakAt u p { y with rowRun := r }).isNone &&
    (runTiles p (rowWordsOf u p y) (List.range y.ntiles) (u.setPanel p { y with rowRun := r }) []).2.isEmpty

theorem rowGoes_of {u : State} {p : Nat} {y : Panel} (h : rowGoesB u p y = true) : RowGoes u p y := by
  simp only [rowGoesB, Bool.and_eq_true, Bool.not_eq_true', beq_iff_eq, List.isEmpty_iff, Option.isNone_iff_eq_none] at h
  obtain ⟨⟨⟨⟨⟨⟨⟨⟨⟨⟨⟨h1, h2⟩, h3⟩, h4⟩, h5⟩, h6⟩, a⟩, b⟩, c⟩, h7⟩, h8⟩, h9⟩ := h
  exact ⟨⟨h1, h2, h3, h4, h5⟩, h6, ⟨a, b⟩, h7, h8, c, h9⟩

theorem waitsAt_of {s : State} {p : Party} {w : Wait}
    (h : ((s.thread p).wait == some w && !isStill s p && (s.thread p).status == .running && (!w.stitches || !stitchBarred s p)) = true) :
    WaitsAt s p w := by
  simp only [Bool.and_eq_true, Bool.or_eq_true, beq_iff_eq, Bool.not_eq_true'] at h
  exact ⟨h.1.1.1, h.1.1.2, h.1.2, h.2⟩

theorem deliverable_of {s : State} {n : Nat}
    (h : (s.focus == .core n && partyPriv s (.core n) != .machine && (s.ctxt (partyCtx s (.core n))).tvec.getLsbD 0 &&
      !(s.ctxt (partyCtx s (.core n))).trapcause.getLsbD 63 && (s.ctxt (partyCtx s (.core n))).faultQ.isEmpty &&
      (s.ctxt (partyCtx s (.core n))).delivery.isNone) = true) : Deliverable s n := by
  simp only [Bool.and_eq_true, beq_iff_eq, Bool.not_eq_true', bne_iff_ne, ne_eq, List.isEmpty_iff,
    Option.isNone_iff_eq_none] at h
  obtain ⟨⟨⟨⟨⟨h1, h2⟩, h3⟩, h4⟩, h5⟩, h6⟩ := h
  exact ⟨h1, h2, h3, h4, h5, h6⟩

/-- A user thread whose context has its vector on at 0x41000. -/
def wTrap : State := ctx0 wUser fun x => { x with tvec := 0x41001#64 }
/-- That thread under its handler. -/
def wHandler : State := raise wTrap ⟨.align, 5#64, none⟩
/-- A thread that waits at a `tlbinv`. -/
def wTlbWait : State := wCore.setCur { wCore.cur with wait := some ⟨.tlbinv 4 5, 0, none, true⟩ }
/-- A thread at a saved image of zeros. -/
def wSaved : State := reg wCore 4 0x40000#64

/-- Slot 0 in a loop of the one word at 0x40000 with trips left; `exits`: a `loopw`. -/
def inLoop (left : Word) (exits : Bool) : State :=
  looping wTrap 0 ⟨0, 0, 0, left, 0x40000#64, 0x40000#64, 3#64, false, false, false, true, exits⟩
def tripTwo : State := inLoop 2#64 false
def tripOne : State := inLoop 1#64 false
def tripOut : State := inLoop 1#64 true

/-- Bytes at 0x40010 and two barrier words at 0x40020 and 0x40028, in a page of a service core. -/
def wData : State := bytesAt (bytesAt wCore 0x40010 (toBytes 8 0xFFEEDDCCBBAA9988)) 0x40020 (toBytes 8 0x20001 ++ toBytes 8 0x20000)
/-- A sequencer whose log holds its 1,024 words. -/
def wLogFull : State := reg (pan0 wSeq fun x => seqLogged x 0 (.scratch 0 0 (List.replicate 8192 0#8) false)) 4 0x40008#64
/-- A service core with its scratch word 0 empty. -/
def wEmpty : State := wCore.setCore 0 { wCore.core? 0 with empties := [0] }
/-- A thread with 16 bound regions of object 0. -/
def wBound : State := reg (wCore.setCur { wCore.cur with bound := List.replicate 16 ⟨0, 1, 0⟩ }) 5 8#64

/-- The page of `wData` as a page of logged atomics (R116). -/
def wDet : State := { wData with tlb := [⟨512, 0, 0x40000, 3, 0x4037F#64⟩] }
/-- A copy template of 8 bytes at 0x40040: source and destination 0x40010 and 0x40018. -/
def wTpl : State := reg (bytesAt wData 0x40040
  (toBytes 8 0x40010 ++ toBytes 8 0x40018 ++ toBytes 4 8 ++ toBytes 4 0 ++ List.replicate 40 0#8)) 5 0x40040#64
/-- The same from another source, and for a peer. -/
def wTplOf (src peer : Nat) : State := reg (bytesAt wData 0x40040
  (toBytes 8 src ++ toBytes 8 0x40018 ++ toBytes 4 8 ++ toBytes 4 (256 * peer) ++ List.replicate 40 0#8)) 5 0x40040#64
/-- The record of a task of service-core code at 0x40000, open or not. -/
def wRec (opened : Bool) : TaskRec :=
  ⟨0x40040#64, 7#64, 0, 0, 8, 2, 2, false, opened, [], 0, 0, [0x40000#64, 0, 0, 0, 0, 0, 0, 0]⟩
/-- A service core of a context with a quota of 16 entries. -/
def wQuota : State := ctx0 wCore fun x => { x with cstat := x.cstat ||| 0x1000000000#64 }
/-- An open task in entry 0. -/
def wOpen : State := addTask wQuota 0 0 (wRec true) .user false
/-- A plan of one pass into the page of 0x40000. -/
def wPlan : Fitting := ⟨1, 0x40000#64, 1, List.replicate 8 (List.replicate 4 (0, 0)), 0, [], [], [], false, [], [], []⟩
/-- A fitting task that is over, and one that is not. -/
def wFit (st : TaskState) : State := modTask wOpen 0 fun t => { t with fit := some wPlan, state := st }
/-- A context with an aperture window: its device page held for channel 0, its template loaded. -/
def wAperture : State := { ctx0 wData fun x => { x with templates := [(0, ⟨0x40010#64, 0x40018#64, 8, false, 0, 0, 0, 0, 0⟩)] } with
  tlb := [⟨512, 0, 0x40000, 3, 0x4033F#64⟩, ⟨512, 0, 0x90000, 3, 0xF001000033F#64⟩] }
/-- Host memory at 0xA0000, whose page answers with an error status, and at 0xB0000. -/
def wHost : State := { wCore with
  hostBad := [2 ^ 35], tlb := [⟨512, 0, 0x40000, 3, 0x4033F#64⟩, ⟨512, 0, 0xA0000, 3, 0x800000000033F#64⟩, ⟨512, 0, 0xB0000, 3, 0x800000001033F#64⟩] }
/-- A sequencer whose present row reserves bank 0. -/
def wReserve : State := pan0 wSeq fun x => { x with rowAt := (1, 0), image := { x.image with reserve := [(0, 0, 0)] } }
/-- The same with a `.s` store to that bank in its log. -/
def wBarred : State := pan0 wReserve fun x => seqLogged x 0 (.scratch 0 0 (toBytes 8 5) true)
/-- A barrier word's address in g5 and a timeout in g6. -/
def wBar (a tmo : Nat) : State := reg (reg wData 5 (BitVec.ofNat 64 a)) 6 (BitVec.ofNat 64 tmo)
/-- The word at the home after the release of a `bar`. -/
def barWord (s : State) (f : Word → Bool) : Bool :=
  okWith (translate s (partyReq s s.focus .amo) (s.g 5)) fun r =>
    paKind r.1 r.2.pa != .device && !hostFails r.1 r.2.pa && okWith (homeRead (barRelease r.1 5) r.2.dom r.2.pa 8) fun q =>
      f (wordOf q.2) && Memory.wf q.1.mem && noTripB (.bar .dev 4 5 6) q.1.cur
/-- A page of logged atomics whose log is full; one of a sequencer. -/
def wDetFull : State := { reg wDet 4 0x40010#64 with dlog := [(sliceOf 0x40010, List.replicate 4096 ⟨0x40010, 4096, 0, 0, 0, true, 0, 0, 0⟩)] }
def wDetSeq : State := reg { wSeq with tlb := [⟨0, 0, 0x40000, 3, 0x4037F#64⟩] } 4 0x40010#64
/-- A tagged region full of counted events. -/
def wCounted : State := wCore.setCore 0 { wCore.core? 0 with counters := Vector.replicate 4 ⟨some 62, 0, 9, true⟩ }
def wCountedSeq : State := pan0 wSeq fun x => { x with counters := Vector.replicate 4 ⟨some 62, 0, 9, true⟩ }
/-- An aperture whose channel 0 holds 16 copies; one whose template writes to an address. -/
def wApTo (dst : Nat) : State := reg (ctx0 wAperture fun x =>
  { x with templates := [(0, ⟨0x40010#64, BitVec.ofNat 64 dst, 8, false, 0, 0, 0, 0, 0⟩)] }) 4 0x90000#64
/-- A panel with a load of its own image: being read, or done. -/
def wLoad (st : LoadState) : State :=
  pan0 wSeq fun x => { x with load := some ⟨0x40000#64, st, some (placedImage (List.replicate 5 0)), 7, 0, false⟩ }
/-- A strand whose load of the image at 0x40000 has failed. -/
def wFailed : State := pan0 wSeq fun x => x.setStrand 0 { x.strand 0 with failed := some 0x40000#64 }
/-- A loaded image with a word that R143 refuses; a load of another strand; an image with a scratch record. -/
def wImage (img : Image) (k : Nat) : State := pan0 wSeq fun x => { x with load := some ⟨0x40000#64, .loaded, some img, 7, k, false⟩ }
def wBadWord : State := wImage (placedImage [0x6000000000]) 0
def wOthers : State := wImage (placedImage []) 1
def wScratchLoad : State := wImage { placedImage [] with scratch := [(0, 64, [1#8, 2#8])] } 0
/-- A tile with 4 in lane 1 and 2^18 in lane 2 of v2. -/
def wLanes : State := tile0 wTile fun t => { t with v := putV t.v 2 (ofLanes fun k => if k = 1 then 4 else if k = 2 then 0x40000 else 0) }
/-- An input stream spec of one beat for tile 0. -/
def wSpec : StreamSpec := ⟨4, 1, false, 0x00, 0xFF, [16], [4]⟩
/-- A slot of that stream, its base the page of 0x40000. -/
def wSlot (st : StreamState) : StreamSlot := ⟨wSpec, 0, 0x40000#64, st, [], [], [], [], 0, []⟩
/-- A panel with that spec in its image, and a slot of it idle or running. -/
def wStream (st : StreamState) : State := reg (pan0 wSeq fun x =>
  { x with image := { x.image with specs := [wSpec] } }.setSlot 0 0 (wSlot st)) 4 1#64
/-- A strand whose queue holds entries. -/
def wQueue (q : List CondEntry) (skip : Nat) (s : State) : State :=
  pan0 s fun x => x.setStrand 0 { x.strand 0 with queue := q, skip := skip }
/-- A strand of a garment of one task in entry 0, of one strand or two. -/
def wGarment (two : Bool) : State :=
  let s := modTask (addTask wSeq 0 0 (wRec false) .user false) 0 fun t => { t with state := .running, panels := [0], admitted := true }
  if two then pan0 s fun x => { x.setStrand 1 Strand.clear with image := { x.image with strands := 2 } } else s

/-- An open task and a plan of one pass at 0x40100, its buffer the page at 0x40000. -/
def wPlanned : State := reg (bytesAt wOpen 0x40100 (toBytes 8 1 ++ toBytes 8 0x40000 ++ toBytes 2 1 ++ List.replicate 238 0#8)) 4 0x40100#64

/-- The header of an image of one block, one row and one strand, with zero words. -/
def imgBytes : List Byte := toBytes 4 0x3149504B ++ toBytes 4 1 ++ [1, 1, 1, 1, 0, 0, 0, 0] ++ toBytes 4 1 ++ List.replicate 20 0 ++
  toBytes 2 64 ++ List.replicate 22 0 ++ toBytes 4 256 ++ toBytes 4 320 ++ toBytes 4 0x400 ++ toBytes 4 64 ++
  List.replicate 48 0 ++ toBytes 4 0x400 ++ List.replicate 124 0
/-- A panel whose block has no phase-table entry free. -/
def wNoRoom : State := reg (bytesAt { wSeq with tables := [(0, [⟨1, List.range 32, some 0, 0⟩])] } 0x42000 imgBytes) 4 0x42000#64
/-- A panel clamped in a wait for a tack, with one pending in its lead AG tile. -/
def wClamped : State := pan0 wSeq fun x =>
  { x with holds := [⟨.tackWait, 0, .tk, 0, 0⟩], agPending := x.agPending.set 0 1 }
/-- A tile with a beat at every input latch. -/
def wBeat : State := tile0 wTile fun t =>
  { t with inp := Vector.replicate 5 ⟨0x3F800000#512, 7#32, false⟩, quiet := 0 }
/-- A panel whose scratchpads lose 64 KiB to the L1. -/
def wSmall : State := pan0 wTile fun x => { x with image := { x.image with l1 := 4 } }
/-- A stream of the row's strand: a beat that waits, or a fault of its read. -/
def wHead (bad : Bool) : State := pan0 wTile fun x =>
  let x := { x with image := { x.image with specs := [wSpec] } }
  if bad then x.setSlot 0 0 ⟨wSpec, 0, 0x40000#64, .running, [], [], [], [(0, ⟨.perm, 0, none⟩)], 0, []⟩
  else (x.setSlot 0 0 ⟨wSpec, 0, 0x40000#64, .running, [], [], [], [], 0, []⟩).setTile 0 ((x.tile 0).setQueue 0 0 [⟨7#512, 0, false⟩])
/-- A tile whose chain of one counter is at its last trip. -/
def wChain : State := tile0 wTile fun t => { t with running := true }
/-- A tile with a tack pending on channel 1. -/
def wPend : State := tile0 wTile fun t => { t with pending := t.pending.set 1 1 }

/-- A descriptor at 0x40200 with its pool at 0x40400 (R269, R270). -/
def wQuiltMem : State := bytesAt (bytesAt wCore 0x40200
  ([1, 4, 2, 0] ++ toBytes 4 0 ++ toBytes 2 1 ++ List.replicate 14 0 ++ toBytes 8 0x40300 ++ toBytes 8 0x40400)) 0x40400
  (toBytes 8 9 ++ toBytes 8 0x40000 ++ toBytes 8 1 ++ toBytes 8 0x40600)
/-- A quilt command `qinit` on that descriptor. -/
def wQCmd : QuiltCmd := quiltAccepted wCore 0 0x40200#64 0 0
/-- Quilt commands: an earlier one of the descriptor under way, or one past its read phase, done, or failed. -/
def wQuilts (n : Nat) : State := { wQuiltMem with quilts := match n with
  | 0 => [(1, { wQCmd with stage := 1 }), (2, wQCmd)]
  | 1 => [(2, { wQCmd with stage := 1 })]
  | 2 => [(2, { wQCmd with stage := 2, record := 0x40018#64, cw := some (0x40018, 0) })]
  | _ => [(2, { wQCmd with failed := some 0x45 })] }
/-- The command `qinit` in its node steps, with the answers of those that it has run. -/
def wNode (script : List (List Byte)) : QuiltCmd := { wQCmd with stage := 1, script := script }
/-- The bytes of the descriptor and of the pool's first node. -/
def wDesc : List Byte := readBytes wQuiltMem.mem 0x40200 256
def wPool : List Byte := readBytes wQuiltMem.mem 0x40400 256
def wNodes (script : List (List Byte)) : State := withQuilt wQuiltMem 2 (wNode script)
/-- The command `qinit` in its read phase, with the answers of its reads so far. -/
def wRead (script : List (List Byte)) : QuiltCmd := { wQCmd with script := script }
def wReadsQ (script : List (List Byte)) : State := withQuilt wQuiltMem 2 (wRead script)
/-- A press command whose plan has no span left, or one. -/
def wPCmd (done : Bool) : PressCmd :=
  { pressAccepted wCore 0 0 0 0 with plan := some ⟨if done then 0 else 1, [], [], 0, none, ⟨[], [], []⟩, []⟩ }
def wPresses (done : Bool) : State := { wCore with press := [(2, wPCmd done)] }
/-- A press command of one span at 0x40000, where an update waits. -/
def wPWait : PressCmd :=
  { pressAccepted wCore 0 0 0 0 with plan := some ⟨1, List.replicate 16 (0x40000, 0), [], 0, none, ⟨[], [], []⟩, []⟩ }
def wPressWaits : State := { pushHome wCore 0 0 0x40010 [7#8] none with press := [(2, wPWait)] }
/-- A copy of 8 bytes from 0x40010 to 0x40018 with what it has read. -/
def wCmd (rs : List (Nat × List Byte)) : Copy :=
  ⟨0x40010#64, 0x40018#64, 8, 0, false, 0, 0, .core 0, 0, .user, 0, rs, [], [], false, false, false, 0⟩
def wCopies (rs : List (Nat × List Byte)) : State := setChan wData 0 0 ⟨[wCmd rs], false⟩
/-- A copy to device 1 over a link that is up or down, and one that waits for an answer. -/
def wPeer (up : Bool) : State :=
  { setChan wData 0 0 ⟨[{ wCmd [(0, toBytes 8 5)] with peer := 2 }], false⟩ with links := [(1, ⟨up, (0, 0), 0, 0, 0, 0, [], none⟩)] }
def wAsked : Copy := { wCmd [] with peer := 2, wroteParts := [0], unanswered := 1 }
/-- A copy that has written its part and has a completion word; one that has failed. -/
def wWroteCw : Copy := { wCmd [] with wroteParts := [0], cw := true, cwaddr := 0x40038#64, value := 9#64, cwChecked := true }
def wFailedCopy : Copy := { wCmd [] with failed := true }
/-- A bobbin unit with the last line of a command. -/
def wBobbin : State := { wData with bobbin := [(.core 0, [⟨0, 0, 0, [⟨0x40010, toBytes 8 3, false, 0⟩], none⟩])] }
def wApFull (c : Copy) : State := setChan wAperture 0 0 ⟨List.replicate 16 c, false⟩
/-- A tile with an interval due. -/
def wPipe : State := tile0 wTile fun t => { t with pipe := [⟨7, 15, some (List.replicate 16 0x3F800000#32), 0⟩] }
/-- A tile with the last entry of a gather due. -/
def wGather : State := tile0 wTile fun t => { t with gathers := [⟨0, List.replicate 16 64, List.replicate 16 0x7F#8, 15, 17⟩] }
/-- A quiet tile with ramp-down to run, and a hint that is due. -/
def wRamp : State := pan0 (tile0 wTile fun t => { t with rampDown := 8 }) fun x => { x with hint := [0] }
/-- A tack of channel 3 that is due, on counts of 0 and of 255. -/
def wTack : State := pan0 wTile fun x => { x with tacks := [⟨3, 0, false⟩] }
def wTackFull : State := tile0 wTack fun t => { t with pending := t.pending.set 3 255 }
/-- A panel in the last cycle of a publish; in a ramp-up that is over. -/
def wPublish : State := pan0 wTile fun x => { x with publishHold := 1 }
def wRampEnd : State := pan0 wTile fun x => { x with holds := [⟨.rampUp, 0, .mx, 0, 0⟩] }
/-- A panel held by a publish search. -/
def wSearch : State := pan0 wTile fun x => { x with holds := [⟨.search, 0, .ls, 0, 8⟩] }
/-- A panel that is killed, one in a schedule switch, one whose row no strand owns. -/
def wStopped : State := pan0 wSeq fun x => { x with state := .killed }
def wSwitch : State := pan0 wSeq fun x => { x with switching := 2 }
def wUnowned : State := pan0 wSeq fun x => { x with image := { x.image with rows := [0#32] } }
/-- A panel of one row with a `vidx` word for tile 0, its schedule B chosen or not; the same at the end of a ramp-up. -/
def wIdx : BitVec 40 := match (Instr.vidx .always { vf0 with d := 3 }).encode with | .w40 w => w | _ => 0
def wRow (b : Bool) : State := pan0 wSeq fun x =>
  { x with nextB := b, image := { x.image with phases := [0, 0, wIdx] } }
def wRampRow : State := pan0 (wRow false) fun x => { x with holds := [⟨.rampUp, 0, .mx, 0, 0⟩] }
/-- A panel's state in its next cycle, as what is due has acted. -/
def due (s : State) : State := settlePanelDue (s.setPanel 0 { pan s with lastAdv := s.cycle + 1 }) 0
/-- A panel whose AG tile has read a beat in this cycle; one whose stream reads an unmapped page. -/
def wTaken : State := pan0 (wStream .running) fun x => { x with agLast := [(0, (wStream .running).cycle)] }
def wLost : State := pan0 (wStream .running) fun x => x.setSlot 0 0 { wSlot .running with base := 0x90000#64 }
/-- A panel that loads the image at 0x42000. -/
def wReads : State := pan0 (bytesAt wSeq 0x42000 imgBytes) fun x => { x with load := some ⟨0x42000#64, .reading, none, 7, 0, false⟩ }
/-- A placed panel with its image loaded; one in its preparation. -/
def wPlacing : State := pan0 (wLoad .loaded) fun x => { x with state := .loading }
def wPrep : State := { pan0 (wGarment false) fun x =>
  { x with state := .preparing, prep := 256, image := { x.image with entry := [0x400] } } with cycle := 256 }
/-- A thread of a task under a fitting run. -/
def wUnderFit : State := (wFit .running).setCur { (wFit .running).cur with task := taskId (wFit .running) 0 }
/-- A task that waits, one ready for thread 0, a garment that is over. -/
def wWaiting : State := addTask wQuota 0 0 (wRec false) .user false
def wReady : State :=
  ctx0 ((modTask wWaiting 0 fun t => { t with state := .ready }).setThread (.core 0) Thread.clear) fun x =>
    { x with scmap := 1#32, runtime := none }
def wOver : State := pan0 (modTask (wGarment false) 0 fun t => { t with record := { t.record with npanels := 1 } }) fun x =>
  x.setStrand 0 { x.strand 0 with finished := true }
/-- A garment that a request may freeze, its slot's page mapped. -/
def wUnfrozen : State := ctx0 (bytesAt (wGarment false) 0x30000 (toBytes 8 0x5033F)) fun x => { x with save := 0x101#64, tvec := 0x41001#64 }
/-- A task's run on thread 0, under a fitting run of a number of passes. -/
def wRun (st : ThreadStatus) (passes : Nat) : State :=
  (modTask wWaiting 0 fun t => { t with state := .running, thread := some 0, fit := some { wPlan with passes := passes } }).setThread
    (.core 0) { wCore.cur with status := st }
/-- A fitting run with a queued write of a page that its buffer has no room for. -/
def wOverrun : State := pushHome (wRun .finished 2) 0 (taskId (wRun .finished 2) 0) 0x40010 [7#8] none
/-- A replay of graph 1 of the table at 0x43000, of one task; its table enabled or not; begun or not. -/
def wReplay (on begun : Bool) : State :=
  ctx0 (bytesAt (bytesAt (bytesAt wQuota 0x43010 (toBytes 8 0x43040)) 0x43040 (toBytes 8 1)) 0x43080
    (toBytes 8 0x43100 ++ List.replicate 8 0xFF#8 ++ List.replicate 125 0 ++ [1#8])) fun x => { x with
      gtab := if on then 0x43001#64 else 0, greplay := { x.greplay with busy := true, running := 1, graph := 1, begun := begun } }

/-- A replay that is over and has failed, with another one pending. -/
def wPending : State := ctx0 (wReplay true true) fun x =>
  { x with greplay := { x.greplay with pend := true, pendGraph := 5, failing := true } }
/-- A replay to begin in a context that is killed; one that is refused with another pending. -/
def wReplayOff : State := ctx0 (wReplay true false) fun x => { x with killed := true }
def wRefused : State := ctx0 (wReplay false false) fun x => { x with greplay := { x.greplay with pend := true, pendGraph := 5 } }
/-- A tile whose L1 holds dirty bytes of line 0x400 of two seal domains; an update queued; one that writes a whole sector past the L2; a
service core with a line of its own. -/
def wDirty : State := tile0 wSeq fun t =>
  { t with pool := [(0x40010, 7#8, 0), (0x40011, 8#8, 5)], lines := [(0x40010, 7#8)] }
def wPast : State := { wCore with
  poison := [0x2000, 0x2001], homeQ := [(sliceOf 0x40000, [.update ⟨cellsAt 0x40000 (List.replicate 32 3#8), 0, 0, true, [0x2000], none⟩])] }
def wQueued : State := pushHome wCore 0 0 0x40010 [7#8] none
def wFill : State := wCore.setCore 0 { wCore.core? 0 with lastCtx := some 0, l1 := [(0x40010, 7#8)] }
/-- A thread that waits for tick `n`; at `ldsync` with a timeout of 6 in cycle `n`. -/
def wTick (n : Nat) : State := (reg wCore 4 (BitVec.ofNat 64 n)).setCur
  { (reg wCore 4 (BitVec.ofNat 64 n)).cur with wait := some ⟨.tickwait 3 4, 0, none, false⟩ }
def wSyncWait (n : Nat) : State := { wEmpty.setCur { wEmpty.cur with wait := some ⟨.ldsync 3 4 0, 0, some 6, false⟩ } with cycle := n }
/-- A fault due for the thread; a task on thread 0 that may be pre-empted or not. -/
def wDue : State := ctx0 wTrap fun x => { x with
  delivery := some (⟨.align, 5, none, 0, 0, 0, 0, some (.core 0), .nothing, none, false⟩, 0) }
def wPreempt (non : Bool) : State := modTask (addTask wTrap 0 0 { wRec false with nonPreempt := non } .user false) 0 fun t =>
  { t with state := .running, thread := some 0 }
/-- A wait for a beat's value or a tack at a sequencer; one at a scratch word with an uncorrectable error. -/
def plainWait (i : Instr) : Wait := ⟨i, 0, none, false⟩
def seqWait (i : Instr) (s : State) : State := s.setCur { s.cur with wait := some (plainWait i) }
def wSyncBad : State := (wSyncWait 5).setCore 0 { (wSyncWait 5).core? 0 with bad := [0], empties := [] }
/-- A load and an `amo` that wait in their home queue; the load answered, with poison or none; a held thread. -/
def asks (i : Instr) : State := (askIssue i (reg wData 4 0x40010#64)).getD wData
def wAsk (i : Instr) : Asked := (FMap.get? (asks i).asked (.core 0)).getD ⟨0, i, (0, 0), [], 0, false, none⟩
def wReply (i : Instr) (bad : Option Nat) : Asked := { wAsk i with reply := some (homeBytes wData 0 0x40000 32, bad) }
def answered (i : Instr) (bad : Option Nat) : State := { asks i with asked := [(.core 0, wReply i bad)] }
/-- A garment to freeze into slot 0 at 0, one that a copy still writes into, one that is frozen, with no tile to read out. -/
def wFreezing : State := ctx0 (modTask (bytesAt (wGarment false) 0x30000 (toBytes 8 0x5033F)) 0 fun t => { t with wantFreeze := true })
  fun x => { x with save := 1#64, slots := [(0, 0)] }
def wStopping : State := pan0 wFreezing fun x => { x with state := .stopping }
def wLanding : State := setChan wStopping 0 0
  ⟨[{ wCmd [] with dst := 0x8000000000000000#64, party := .seq 0 0 }], false⟩
def wAsking : State := { wStopping with asked := [(.seq 0 0, wReply (.ld .d 3 4 0) none)] }
def wFrozen : State := pan0 wFreezing fun x => { x with state := .frozen, image := { x.image with width := 0, strands := 0 } }
/-- A link that is up and a measurement begun on it. -/
def wSync : State := { wCore with
  links := [(1, ⟨true, (0, 0), 0, 0, 0, 0, [], none⟩)], clock := ⟨false, true, some 1, some 100, some 120, some 130, none, 0, 0, 0⟩ }
/-- A link of a device whose clock follows no other, a Sync sent. -/
def wMaster : State := { wCore with links := [(1, ⟨true, (0, 0), 0, 0, 0, 0, [], some 77⟩)] }
/-- A strand with a beat for its path's frame slot, its receiver the panel itself. -/
def wPath : State := { pan0 (wGarment false) fun x =>
  (x.setStrand 0 { x.strand 0 with sending := [⟨0, 0, 0, 0, ⟨9, 0, false⟩⟩] }).setSlot 0 0
    ⟨⟨4, 1, false, 0xC0, 0xFF, [16], [4]⟩, 0, 0, .running, [], [], [], [], 0, []⟩ with frames := [⟨0, 0, 0, 0, false⟩] }
/-- An open host window; its page sealed; a context under reset; a killed context. -/
def wWindow : State := ctx0 wData fun x => { x with hwin := 1 }
def wSealedPage : State := { wWindow with mem := writeBytes wWindow.mem 0x30020 (toBytes 8 (0x4033F + 5 * 2 ^ 54)), tlb := [] }
def wFlr : State := ctx0 wCore fun x => { x with cstat := x.cstat ||| 0x4000000000000000#64, killed := true }
def wKilled : State := ctx0 wCore fun x => { x with killed := true }
/-- What firmware writes to enable context 0 on threads 0 and 1, and at a cold reset. -/
def wConfig : ContextConfig := ⟨0, 16, 0, 3#32, 1, 0x1000#64, [0, 127], []⟩
def wBoot : BootConfig := ⟨true, 1, 2, 5, [], [], [1, 11], [], false⟩
/-- A link with a window of 64 bytes; a context of seal domain 5 with a session. -/
def wLk (out : List Flit) : Link := ⟨true, (0x40000, 0x40040), 0, 0, 0, 0, out, none⟩
def wLink : State := { wCore with links := [(1, wLk [])] }
/-- The same with a copy that waits for an answer over it. -/
def wAnswer : State := { setChan wLink 0 0 ⟨[wAsked], false⟩ with clock := { wLink.clock with lock := false } }
def wSession : State := { (ctx0 wCore fun x => { x with cstat := x.cstat ||| 0x0005000000000000#64 }) with spdm := ⟨[0], [], [1#256, 2#256, 3#256, 4#256]⟩ }
/-- A panel with a trigger met, a trigger fired, a held thread. -/
def wChalk : State := pan0 wSeq fun x => { x with chalk := some (.onTick 0) }
def wFired : State := ctx0 wCore fun x => { x with chalkFired := [4] }
/-- A snapshot that is due, its records at 0x40000. -/
def wSnap : State := { ctx0 wSeq fun x => { x with chalkFired := [4], chalkbase := 0x40001#64 } with cycle := 4 }
def wHold : State := { wCore with debugHolds := [(.core 0, 0)] }
/-- A load placed to be fetched, its address in the same page. -/
def wFetchLd : State := reg (bytesAt wCore 0x40000 (toBytes 4 (Instr.ld .d 3 4 0).firstWord.toNat)) 4 0x40010#64
/-- An add placed to be fetched. -/
def wAdd : State := { placeBytes State.reset (.core 0) (toBytes 4 0x04642800) with tlb := [⟨512, 0, 0x40000, 3, 0x4033F#64⟩] }

/-! ## Values worked in the spec -/

/-- One `vcvt` lane from FP32: destination, rounding code, saturation bit. -/
def cv (dst : BitVec 5) (rnd : BitVec 2) (sat : BitVec 3) (x : W32) : W32 := cvtLane ⟨0, 0, 0, 0x10, sat, dst, rnd⟩ x 0
/-- 05_numbers_notes, conversions at the edges (R56). -/
theorem test_vcvt_floats : cv 0x0B 0 0 0x43FA0000#32 = 0x7E#32 ∧ cv 0x0C 0 0 0x4788B800#32 = 0x7C#32 ∧
    cv 0x0C 0 1 0x4788B800#32 = 0x7B#32 ∧ cv 0x0C 3 0 0x4788B800#32 = 0x7B#32 ∧ cv 0x0C 0 0 0x36800000#32 = 0#32 ∧
    cv 0x0C 1 0 0x36800000#32 = 1#32 ∧ cv 0x0C 0 0 0xB7000000#32 = 0x80#32 ∧ cv 0x08 0 0 0x7FC00000#32 = 0#32 := by
  decide +kernel
/-- 05_numbers_notes (R57, R58). -/
theorem test_vcvt_integers : cv 0x02 0 0 0x43960000#32 = 0x7F#32 ∧ cv 0x02 3 0 0xC06CCCCD#32 = 0xFD#32 ∧
    cv 0x02 2 0 0xC06CCCCD#32 = 0xFC#32 ∧ cv 0x11 0 0 0x3E99999A#32 = 0x7D#32 := by decide +kernel
/-- 05_numbers_notes, `vexp2` by hand (R68). -/
theorem test_vexp2 : vexp2Lane 0x40400000#32 = 0x41000000#32 ∧ vexp2Lane 0xBF000000#32 = 0x3F3504F3#32 ∧
    vexp2Lane 0xC3150000#32 = 1#32 ∧ vexp2Lane 0xC3160000#32 = 0#32 := by decide +kernel
/-- 05_numbers_notes, a K4 block's byte 0x7B under four scale bytes, read as FP32 (R48, R53). -/
theorem test_k4 : [0x21, 0x5F, 0xA0, 0xE2].map (fun sb => (convert 0x10 0 false 0 (elemVal 0x12 sb 0xB),
      convert 0x10 0 false 0 (elemVal 0x12 sb 7))) =
    [(0xC1200000, 0x41600000), (0xBF400000, 0x40400000), (0xBF000000, 0x41000000), (0xC1400000, 0x42400000)] := by
  decide +kernel
/-- R189's example: dimension 1 at index 5 in the float form. -/
theorem test_bdraw : drawVal { Spool.reset with seeds := [0, 0x12345678#32] } 1 5#32 true = 0x3E48D158#32 := by decide +kernel

/-- A `cset` of the format range table acts as its write step; a number before it is no step. -/
theorem witness_csetStep (v : Word) : CsetStep 0 0x0300 v (.frtWrite 0 0 v) := Or.inr (Or.inl ⟨by decide, by decide, rfl⟩)

/-! ## One step each -/

/-- The state after one step of the word `w`. -/
def afterStep (s : State) (w : Nat) (p : State → Bool) : Bool :=
  match step (s.withFetchWord 32 w) with
  | .next t => p t
  | _ => false
/-- A register of the core's thread holds a value. -/
def holds (r : Reg) (v : Word) (t : State) : Bool := (t.thread (.core 0)).get r == v
/-- R161's example: `lea g3, g4, g5, 3`. -/
theorem test_step_lea : afterStep (reg (reg wCore 4 0x1000#64) 5 3#64) 0x046428DB (holds 3 0x1018#64) = true := by decide +kernel
/-- R162's example: `cmpi.ltu g9, g4, 100`. -/
theorem test_step_cmpi : afterStep (reg wCore 4 99#64) 0x2D244064 (holds 9 1#64) = true ∧
    afterStep (reg wCore 4 0xFFFFFFFFFFFFFFFF#64) 0x2D244064 (holds 9 0#64) = true := by decide +kernel
/-- R175's example: `amo.add.d g0, g5, g6` adds to the 8 bytes at g5 in memory. -/
theorem test_step_amo : afterStep (reg (reg wData 5 0x40010#64) 6 1#64) 0xC080029B (fun t =>
    readBytes t.mem 0x40010 8 == toBytes 8 0xFFEEDDCCBBAA9989) = true := by decide +kernel

/-! ## States and operands that meet the hypotheses of the statements -/

/-- An add that wraps, a division by 0, an immediate. -/
theorem witness_ArithmeticResults : aluRule (reg (reg wCore 4 0xFFFFFFFFFFFFFFFF#64) 5 2#64).g (.add 3 4 5) = some (3,
    1#64) ∧ Issues (.add 3 4 5) (reg (reg wCore 4 0xFFFFFFFFFFFFFFFF#64) 5 2#64) ∧ aluRule wSeq.g (.div 3 4 0) = some (3,
    0xFFFFFFFFFFFFFFFF#64) ∧ Issues (.div 3 4 0) wSeq ∧ immediateRule wUser.g (.addi 0 4 0x8000#16) = some (0,
    0xFFFFFFFFFFFF8000#64) ∧ Issues (.addi 0 4 0x8000#16) wUser := by
  and_intros <;> first
    | decide +kernel
    | exact issues_of (by decide +kernel)

/-- A branch back, a call, a taken and an untaken condition, a misaligned jump. -/
theorem witness_FlowFormsComplete : (flowRule wCore (.br 0x3FFFFFF#26)).isSome = true ∧ MayIssue (.br 0x3FFFFFF#26) wCore ∧
    transfers wCore (.br 0x3FFFFFF#26) = true ∧ (flowRule wCore (.jal 2#26)).isSome = true ∧ (flowRule wCore (.jalr 1 0
    4#16)).isSome = true ∧ MayIssue (.jalr 1 0 4#16) wCore ∧ (flowRule (reg wCore 4 5#64) (.bcc .gtu 4 0 1#12)).isSome = true ∧
    transfers (reg wCore 4 5#64) (.bcc .gtu 4 0 1#12) = true ∧ (flowRule (reg wCore 4 5#64) (.bcc .eq 4 0 1#12)).isSome = true
    ∧ transfers (reg wCore 4 5#64) (.bcc .eq 4 0 1#12) = false ∧ Issues (.bcc .eq 4 0 1#12) (reg wCore 4 5#64) ∧ MayIssue
    (.jalr 1 0 2#16) wCore ∧ (wCore.g 0 + BitVec.ofInt 64 (2#16).toInt).toNat % 4 ≠ 0 := by
  and_intros <;> first
    | decide +kernel
    | exact mayIssue_of (by decide +kernel)
    | exact issues_of (by decide +kernel)

/-- A count above its bound, a count equal to it, a count of 0; a `loopw` of no bound and of one. -/
theorem witness_LoopFormsEnter : MayIssue (.loop 0 4 3 5) (reg wCore 4 6#64) ∧ loopRefused (5#24) true (loopLimits (reg
    wCore 4 6#64) 0 3 ((reg wCore 4 6#64).g 4) true) ∧ ¬ loopRefused (5#24) true (loopLimits (reg wCore 4 5#64) 0 3 ((reg wCore
    4 5#64).g 4) true) ∧ ¬ loopRefused (5#24) true (loopLimits wCore 3 3 (wCore.g 4) true) ∧ MayIssue (.loopw 1 3 0) wCore ∧
    loopRefused (0#24) false (loopLimits wCore 1 3 0 false) ∧ ¬ loopRefused (1#24) false (loopLimits wCore 1 3 1 false) := by
  and_intros <;> first
    | decide +kernel
    | exact mayIssue_of (by decide +kernel)

/-- The last word of a loop with two trips left, of one with its last trip, and of a `loopw` out of trips. -/
theorem witness_TripEnds : (plainRule tripTwo .nop).isSome = true ∧ mayIssue tripTwo.focus .nop = true ∧ tripTwo.cur.order
    = [] ++ 0 :: [1, 2, 3] ∧ endsAt .nop tripTwo.cur 0 = true ∧ 2 ≤ (tripTwo.cur.slot 0).left.toNat ∧ (plainRule tripOne
    .nop).isSome = true ∧ tripOne.cur.order = [] ++ 0 :: [1, 2, 3] ∧ endsAt .nop tripOne.cur 0 = true ∧ (tripOne.cur.slot
    0).left.toNat ≤ 1 ∧ (tripOne.cur.slot 0).exits = false ∧ (∀ k ∈ [1, 2, 3], k % 4 ≠ 0 ∧ endsAt .nop tripOne.cur k = false) ∧
    (plainRule tripOut .nop).isSome = true ∧ tripOut.cur.order = [] ++ 0 :: [1, 2, 3] ∧ endsAt .nop tripOut.cur 0 = true ∧
    (tripOut.cur.slot 0).exits = true := by
  and_intros <;> decide +kernel

/-- A condition that fails, a slot that is inactive, a slot that is left. -/
theorem witness_LexitLeavesLoops : MayIssue (.lexit .ne 0 0 0) wCore ∧ ruleHolds .ne (wCore.g 0) (wCore.g 0) = false ∧
    NoTrip (.lexit .ne 0 0 0) wCore.cur ∧ ruleHolds .eq (wCore.g 0) (wCore.g 0) = true ∧ (wCore.cur.slot 0).active = false ∧
    ruleHolds .eq (tripTwo.g 0) (tripTwo.g 0) = true ∧ (tripTwo.cur.slot 0).active = true := by
  and_intros <;> first
    | decide +kernel
    | exact mayIssue_of (by decide +kernel)
    | exact noTrip_of (by decide +kernel)

/-- A service core, and a strand with nothing to load. -/
theorem witness_FinEndsThread : wCore.focus = .core 0 ∧ wSeq.focus = .seq 0 0 ∧ wSeq.panel? 0 = some (pan wSeq) ∧ ((pan
    wSeq).strand 0).failed = none ∧ stitchBarred wSeq (.seq 0 0) = false := by
  and_intros <;> decide +kernel

/-- A fabric command on a service core; `eret` at user; a `commit` in a row that bars it. -/
theorem witness_IssueRefused : isControl (.sgo 3) = true ∧ mayIssue wCore.focus (.sgo 3) = false ∧ isControl .eret = true ∧
    mayIssue wUser.focus .eret = true ∧ needsSupervisor .eret = true ∧ partyPriv wUser wUser.focus = .user ∧
    isControl .commit = true ∧ mayIssue wBarred.focus .commit = true ∧ needsSupervisor .commit = false ∧ stitchWaits .commit wBarred = true := by
  and_intros <;> decide +kernel

/-- A user thread whose context has its vector on. -/
theorem witness_OwnFaultEntersHandler : Deliverable wTrap 0 := by
  exact deliverable_of (by decide +kernel)

/-- The same thread, its pc on no mapped page. -/
theorem witness_TrapFormsEnterHandler : Deliverable wTrap 0 ∧ partyPriv wTrap (.core 0) = .user ∧ (fetchTrap (wTrap.setCur
    { wTrap.cur with pc := 0x90000#64 }) (.core 0) 0x90000#64).isSome = true ∧ wCore.focus = .core 0 ∧ MayIssue (.trap 4) wCore
    ∧ NoTrip (.trap 4) wCore.cur ∧ partyPriv wCore (.core 0) = .supervisor := by
  and_intros <;> first
    | decide +kernel
    | exact deliverable_of (by decide +kernel)
    | exact mayIssue_of (by decide +kernel)
    | exact noTrip_of (by decide +kernel)

/-- A handler of the thread's own fault, `c.fact` not written. -/
theorem witness_EretReturns : someWith (wHandler.ctxt 0).handling (fun h => h.2 == 0 && h.1.party == some (.core 0) &&
    h.1.cause != .preempt) = true ∧ wHandler.focus = .core 0 ∧ partyPriv wHandler (.core 0) ≠ .user ∧ ((wHandler.ctxt 0).killed
    = false ∧ (wHandler.ctxt 0).voided = false) ∧ (wHandler.ctxt 0).faultQ = [] ∧ (wHandler.ctxt 0).fact = none := by
  and_intros <;> decide +kernel

/-- An invalidation of every page, and its completion. -/
theorem witness_TlbinvInvalidates : Issues (.tlbinv 4 5) wCore ∧ (wTlbWait.thread (.core 0)).wait = some ⟨.tlbinv 4 5, 0,
    none, true⟩ ∧ NoTrip (.tlbinv 4 5) (wTlbWait.thread (.core 0)) := by
  and_intros <;> first
    | decide +kernel
    | exact issues_of (by decide +kernel)
    | exact noTrip_of (by decide +kernel)

/-- An aligned area that is writable; the same area read back; a malformed image. -/
theorem witness_SwitchingImages : Issues (.ctxsave 4) (reg wCore 4 0x40000#64) ∧ okWith (storeParts (reg wCore 4
    0x40000#64) (.core 0) 32 0x40000#64 (saveImage wCore.cur (wCore.ctxt 0) (wCore.cur.get 31))) (fun u => u.focus == .core 0
    && noTripB (.ctxsave 4) u.cur) = true ∧ Issues (.ctxload 4) wSaved ∧ okWith (loadParts wSaved (.core 0) 32 (wSaved.g 4))
    (fun r => r.1.focus == .core 0 && someWith (imgThread r.1.cur r.2 (inHandler r.1) r.1.fresh) (noTripB (.ctxload 4))) = true
    ∧ okWith (loadParts (bytesAt (reg wCore 4 0x40000#64) 0x40198 [1#8]) (.core 0) 32 0x40000#64) (fun r => (imgThread r.1.cur
    r.2 (inHandler r.1) r.1.fresh).isNone) = true := by
  and_intros <;> first
    | decide +kernel
    | exact issues_of (by decide +kernel)

/-- A register of user privilege at its last number, one of supervisor privilege at both, a number in no table. -/
theorem witness_CgetReadsRegisters : Issues (.cget 3 0x25FF) wUser ∧ cgetRule wUser 0x25FF = some (0#64, false) ∧ cgetRule
    wUser 0x0000 = some (0x50C0482042006001#64, false) ∧ Issues (.cget 3 0x0030) wCore ∧ cgetRule wCore 0x0030 = some
    (0x10001#64, true) ∧ partyPriv wCore wCore.focus ≠ .user ∧ cgetRule wUser 0x0020 = some (0#64, true) ∧ partyPriv wUser
    wUser.focus = .user ∧ cgetRule wUser 0x0031 = none ∧ cgetRule wUser 0x1600 = none := by
  and_intros <;> first
    | decide +kernel
    | exact issues_of (by decide +kernel)

/-- A write of a context's register, of an ignored one, of a step of its own, above its privilege, in no table. -/
theorem witness_CsetWritesRegisters : Issues (.cset 4 0x0028) (reg wCore 4 0x50001#64) ∧ csetAllowed (reg wCore 4
    0x50001#64) (csetAt 0x0028) = true ∧ (csetRule (reg wCore 4 0x50001#64) 0x0028 ((reg wCore 4 0x50001#64).g 4)).isSome =
    true ∧ csetRule wUser 0x0026 0 = some wUser ∧ csetAllowed wMach (csetAt 0x0300) = true ∧
    ((match execFrtWrite 0 0 (wMach.g 4) wMach with | .next u => u.focus == wMach.focus && noTripB (.cset 4 0x0300) u.cur | _ => false) = true)
    ∧ (cgetRule wCore 0x0300).isSome = true ∧ csetAllowed wCore (csetAt 0x0300) = false ∧ (cgetRule wUser 0x0200).isSome = true
    ∧ csetAllowed wUser (csetAt 0x0200) = false ∧ cgetRule wCore 0x0330 = none := by
  and_intros <;> first
    | decide +kernel
    | exact issues_of (by decide +kernel)

/-- An entry of the format range table at its last number; a context under no reset and under one. -/
theorem witness_RegisterWriteSteps : 15 < 16 ∧ (wCore.ctxt 0).cstat.getLsbD 62 = false ∧ ((ctx0 wCore fun x => { x with
    cstat := 0x4000000000000000#64 }).ctxt 0).cstat.getLsbD 62 = true ∧ partyCtx wCore (.core 0) ≠ 1 ∧ cgetRule wCore 0x0031 =
    none ∧ supervisorMay wCore 0 (csetAt 0x0300) = false ∧ partyCtx wCore (.core 0) = 0 ∧ supervisorMay wCore 0 (csetAt 0x0028)
    = true ∧ (csetRule { wCore with focus := .core 0 } 0x0028 1#64).isSome = true ∧ supervisorMay wCore 0 (csetAt 0x002A) =
    true ∧ 0 + 1 ∉ wCore.tdiRun ∧ 0 + 1 ∈ ({ wCore with tdiRun := [1] } : State).tdiRun := by
  and_intros <;> decide +kernel

/-- Canonical memory, masks under their layout; a mode and both masks at their first and last numbers. -/
theorem witness_HbmMapWriteKeepsLocations : Memory.wf wCore.mem = true ∧ (0x0800 ≤ (0x0800#16).toNat ∧ (0x087F#16).toNat ≤
    0x087F) ∧ (0x1000 ≤ (0x1000#16).toNat ∧ (0x15FF#16).toNat ≤ 0x15FF) ∧ (0x2000 ≤ (0x2000#16).toNat ∧ (0x25FF#16).toNat ≤
    0x25FF) ∧ (∀ e ∈ wCore.hbmMc, e.2 &&& 0x000FFFFFFFFFC000#64 = e.2) := by
  and_intros <;> decide +kernel

/-- A load that no page maps, a misaligned one, one that reads. -/
theorem witness_LoadsComplete : loadForm (.ld .w 3 4 0) = some (4, 3, 4, 0, true) ∧ Issues (.ld .w 3 4 0) wCore ∧ trapWith
    (translate wCore (partyReq wCore wCore.focus .read) (ruleAddr wCore 4 0 4)) .xlate = true ∧ Issues (.ld .w 3 4 0) (reg
    wCore 4 0x40002#64) ∧ okWith (translate (reg wCore 4 0x40002#64) (partyReq wCore wCore.focus .read) 0x40002#64) (fun r =>
    r.2.pa == 0x40002) = true ∧ (ruleAddr (reg wCore 4 0x40002#64) 4 0 4).toNat % 4 ≠ 0 ∧ Issues (.ldZ .h 3 4 0x3FFF) (reg
    wData 4 0x40012#64) ∧ okWith (translate (reg wData 4 0x40012#64) (partyReq wCore wCore.focus .read) 0x40010#64) (fun r =>
    paKind r.1 r.2.pa == .first && okWith (readFor r.1 wCore.focus r.2 2) (fun q => q.2 == [0x88#8, 0x99#8])) = true ∧ Issues
    (.ld .h 3 4 0x3FFF) (reg wData 4 0x40012#64) ∧ okWith (translate (reg wHost 4 0xA0000#64) (partyReq wHost wHost.focus
    .read) 0xA0000#64) (fun r => hostFails r.1 r.2.pa) = true ∧ okWith (translate (reg wHost 4 0xB0000#64) (partyReq wHost
    wHost.focus .read) 0xB0000#64) (fun r => !hostFails r.1 r.2.pa && paKind r.1 r.2.pa == .host) = true := by
  and_intros <;> first
    | decide +kernel
    | exact issues_of (by decide +kernel)

/-- The same load with its translation held, nothing queued, no poison, at a service core and at a sequencer. -/
theorem witness_LoadFrame : loadForm (.ld .d 3 4 0) = some (8, 3, 4, 0, true) ∧ Issues (.ld .d 3 4 0) (reg wData 4
    0x40010#64) ∧ (okWith (translate (reg wData 4 0x40010#64) (partyReq wCore wCore.focus .read) 0x40010#64) (fun r => decide
    (r.1 = reg wData 4 0x40010#64 ∧ r.2.pa = 0x40010 ∧ paKind wData r.2.pa = .first)) = true) ∧ FMap.getD wData.homeQ (sliceOf
    0x40010) [] = [] ∧ wData.poison = [] ∧ wData.sides = [] ∧ wData.focus = .core 0 ∧ (∀ k ∈ List.range 32, FMap.get? (wData.core? 0).l1 (0x40010
    / 32 * 32 + k) = none) ∧ Issues (.ld .d 3 4 0) (reg wSeq 4 0x40010#64) ∧ okWith (translate (reg wSeq 4 0x40010#64)
    (partyReq wSeq wSeq.focus .read) 0x40010#64) (fun r => decide (r.1 = reg wSeq 4 0x40010#64)) = true := by
  and_intros <;> first
    | decide +kernel
    | exact issues_of (by decide +kernel)

/-- A store that no page maps, a misaligned one, one of a sequencer with room and with a full log, one of a service core. -/
theorem witness_StoresComplete : Issues (.st .d 3 4 0) wCore ∧ trapWith (translate wCore (partyReq wCore wCore.focus
    .write) (ruleAddr wCore 4 0 8)) .xlate = true ∧ okWith (translate (reg wCore 4 0x40004#64) (partyReq wCore wCore.focus
    .write) 0x40004#64) (fun _ => true) = true ∧ (ruleAddr (reg wCore 4 0x40004#64) 4 0 8).toNat % 8 ≠ 0 ∧ Issues (.st .d 3 4
    0) (reg wSeq 4 0x40008#64) ∧ okWith (translate (reg wSeq 4 0x40008#64) (partyReq wSeq wSeq.focus .write) 0x40008#64) (fun r
    => paKind r.1 r.2.pa == .first && decide (logSize ((pan r.1).strand 0).log + wordsTouched [⟨r.2.pa, toBytes 8 0, r.2.wt,
    r.2.dom⟩] ≤ 1024)) = true ∧ okWith (translate wLogFull (partyReq wLogFull wLogFull.focus .write) (wLogFull.g 4)) (fun r =>
    decide (1024 < logSize ((pan r.1).strand 0).log + wordsTouched [⟨r.2.pa, toBytes 8 0, r.2.wt, r.2.dom⟩])) = true ∧ Issues
    (.st .d 3 4 0) wLogFull ∧ Issues (.st .d 3 4 0) (reg wCore 4 0x40008#64) ∧ okWith (translate (reg wCore 4 0x40008#64)
    (partyReq wCore wCore.focus .write) 0x40008#64) (fun r => paKind r.1 r.2.pa != .device) = true := by
  and_intros <;> first
    | decide +kernel
    | exact issues_of (by decide +kernel)

/-- Bytes across a sector's end. -/
theorem witness_HomeWriteReadsBack : Memory.wf wCore.mem = true ∧ (∀ h ∈ slicesOf 0x4001E 4, FMap.getD wCore.homeQ h [] = []) ∧
    wCore.tasks = [] ∧ (∀ k ∈ List.range 4, sealFits wCore 0 (sectorOf (0x4001E + k)) = true ∧
      otherDomain wCore 0 (lineOf (0x4001E + k)) = false) := by
  and_intros <;> decide +kernel

/-- A load past the scratch, a misaligned one, one inside; the stores of a service core and of a sequencer. -/
theorem witness_ScratchFormsComplete : scratchLoadForm (.ldS .w 3 4 0) = some (4, 3, 4, 0, true) ∧ Issues (.ldS .w 3 4 0)
    (reg wCore 4 0x8000000001000000#64) ∧ scratchLoc (reg wCore 4 0x1000000#64) wCore.focus (ruleAddr (reg wCore 4
    0x1000000#64) 4 0 4) 4 = none ∧ scratchLoc (reg wCore 4 2#64) wCore.focus (ruleAddr (reg wCore 4 2#64) 4 0 4) 4 = some
    (.core 0 2) ∧ (ruleAddr (reg wCore 4 2#64) 4 0 4).toNat % 4 ≠ 0 ∧ scratchLoc wCore wCore.focus (ruleAddr wCore 4 0 4) 4 =
    some (.core 0 0) ∧ scratchEcc wCore wCore.focus (.core 0 0) 4 = none ∧ Issues (.ldS .w 3 4 0) wCore ∧ scratchStoreForm
    (.stfill 3 4 0) = some (8, 3, 4, 0, true) ∧ Issues (.stfill 3 4 0) wCore ∧ scratchLoc wCore wCore.focus (ruleAddr wCore 4 0
    8) 8 = some (.core 0 0) ∧ scratchLoc wSeq wSeq.focus (ruleAddr wSeq 4 0 8) 8 = some (.tile 0 0) ∧ logSize ((pan
    wSeq).strand 0).log + logSpan 0 8 ≤ 1024 ∧ Issues (.stfill 3 4 0) wSeq ∧ bankReserved wReserve wReserve.focus (.tile 0 0) 4
    = true ∧ bankReserved wSeq wSeq.focus (.tile 0 0) 4 = false ∧ scratchLoc wReserve wReserve.focus (ruleAddr wReserve 4 0 4)
    4 = some (.tile 0 0) ∧ Issues (.ldS .w 3 4 0) wReserve := by
  and_intros <;> first
    | decide +kernel
    | exact issues_of (by decide +kernel)

/-- A full word and an empty one; a word that holds the value and one that does not; a pin and none. -/
theorem witness_WaitFormsComplete : Issues (.ldsync 3 4 0) wCore ∧ scratchLoc wCore wCore.focus (ruleAddr wCore 4 0 8) 8 =
    some (.core 0 0) ∧ isFull wCore wCore.focus (.core 0 0) = true ∧ scratchEcc wCore wCore.focus (.core 0 0) 8 = none ∧ isFull
    wEmpty wEmpty.focus (.core 0 0) = false ∧ Issues (.ldsync 3 4 0) wEmpty ∧ Issues (.ldsyncE 3 4 0) wCore ∧ Issues (.ldsyncE
    3 4 0) wEmpty ∧ wCore.focus = .core 0 ∧ Issues (.waitw 3 4 5) (reg wData 4 0x40018#64) ∧ okWith (translate (reg wData 4
    0x40018#64) (partyReq wData wData.focus .read) 0x40018#64) (fun r => paKind r.1 r.2.pa == .first && okWith (homeRead r.1
    r.2.dom r.2.pa 8) (fun q => wordOf (overlayMem (ownLog q.1 wData.focus) r.2.pa q.2) == 0#64 && noTripB (.waitw 3 4 5)
    q.1.cur)) = true ∧ okWith (translate (reg wData 4 0x40010#64) (partyReq wData wData.focus .read) 0x40010#64) (fun r =>
    okWith (homeRead r.1 r.2.dom r.2.pa 8) (fun q => wordOf (overlayMem (ownLog q.1 wData.focus) r.2.pa q.2) != 0#64)) = true ∧
    Issues (.waitw 3 4 5) (reg wData 4 0x40010#64) ∧ Issues (.pinwait 3 4 5) (reg wCore 4 0xC000000000000000#64) ∧ partyTagged
    wCore wCore.focus 0xC000000000000000#64 0 = some (.core 0 0) ∧ Issues (.pinwait 3 4 5) (reg (reg wCore 4
    0xC000000000000000#64) 3 1#64) ∧ (partyTagged wCore wCore.focus 0xC000000000000000#64 512).isSome = true ∧ (pinsOf wCore
    wCore.focus (.core 0 0)).contains 0 = false ∧ Issues (.ldsync 3 4 0) wReserve ∧ bankReserved wReserve wReserve.focus (.tile
    0 0) 8 = true ∧ scratchLoc wReserve wReserve.focus (ruleAddr wReserve 4 0 8) 8 = some (.tile 0 0) ∧ partyTagged wCore
    wCore.focus 0xC00000000007FE00#64 0 = some (.core 0 523776) ∧ Issues (.pinwait 3 4 5) (reg (reg wCore 4
    0xC00000000007FE00#64) 3 2#64) ∧ locSize wCore wCore.focus (.core 0 523776) < 523776 + 512 * 1 + 512 ∧ ((reg wCore 3
    2#64).g 3).getLsbD 1 = true := by
  and_intros <;> first
    | decide +kernel
    | exact issues_of (by decide +kernel)

/-- A prefetch of no page, a page that is mapped. -/
theorem witness_CacheFormsComplete : Issues (.prefetch 4 0) wCore ∧ Issues .invalI wCore ∧ okWith (translate (reg wCore 4
    0x40000#64) (partyReq wCore wCore.focus .read) 0x40000#64) (fun _ => true) = true ∧ Issues (.clean 4 0) (reg wCore 4
    0x40000#64) ∧ Issues (.flush 4 0) (reg wCore 4 0x40000#64) ∧ Issues (.inval 4 0) (reg wCore 4 0x40000#64) := by
  and_intros <;> first
    | decide +kernel
    | exact issues_of (by decide +kernel)

/-- 64 aligned bytes of a page, lanes on a page, one lane, an operation. -/
theorem witness_VectorFormsComplete : Issues (.vld 3 4 0) (reg wData 4 0x40000#64) ∧ (ruleAddr (reg wData 4 0x40000#64) 4 0
    64).toNat < 2 ^ 63 ∧ okWith (accessTarget (reg wData 4 0x40000#64) wData.focus .read 0x40000#64 64) (fun r => paKind r.1
    r.2.pa != .device && okWith (readFor r.1 wData.focus r.2 64) (fun _ => true)) = true ∧ Issues (.vst 3 4 0) (reg wData 4
    0x40000#64) ∧ okWith (accessTarget (reg wData 4 0x40000#64) wData.focus .write 0x40000#64 64) (fun r => okWith (writeFor
    r.1 wData.focus r.2 (toBytes 64 0)) (fun _ => true)) = true ∧ Issues (.vgather 3 4 5) (reg wData 4 0x40010#64) ∧ okWith
    (laneTargets (reg wData 4 0x40010#64) .read (laneAddrs (reg wData 4 0x40010#64) 4 5)) (fun r => okWith (readLanes r.1 r.2)
    (fun _ => true)) = true ∧ Issues (.vscatter 3 4 5) (reg wData 4 0x40010#64) ∧ okWith (laneTargets (reg wData 4 0x40010#64)
    .write (laneAddrs (reg wData 4 0x40010#64) 4 5)) (fun r => okWith (writeLanes r.1 (r.2.zip (laneIds.map fun i => lane (getV
    wData.cur.z 3) i))) (fun _ => true)) = true ∧ Issues (.vmovg 3 4 5) wCore ∧ Issues (.vmovz 3 4 5) (reg wCore 5 15#64) ∧
    Issues (.vop 0 0) wCore ∧ (Instr.vop 0 0).wf = true ∧ 2 ^ 63 ≤ (ruleAddr (reg wCore 4 0xC000000000000000#64) 4 0 64).toNat
    ∧ Issues (.vld 3 4 0) (reg wCore 4 0xC000000000000000#64) ∧ Issues (.vst 3 4 0) (reg wCore 4 0xC000000000000000#64) ∧
    partyTagged wCore (.core 0) 0xC000000000000000#64 64 = some (.core 0 0) ∧ scratchEcc wCore (.core 0) (.core 0 0) 64 = none
    ∧ (partyTagged wCore (.core 0) 0xC000000000000008#64 64).isSome = true ∧ partyTagged wCore (.core 0) 0xC00000000007FFE0#64
    64 = none := by
  and_intros <;> first
    | decide +kernel
    | exact issues_of (by decide +kernel)

/-- A region of no byte and one of 2^36; a misaligned object, a full table, room; a page for acq and rel. -/
theorem witness_ConsistencyFormsComplete : Issues (.bind 4 5 6) wCore ∧ (wCore.g 5).toNat = 0 ∧ Issues (.bind 4 5 6) (reg
    wCore 5 0x1000000000#64) ∧ ((reg wCore 5 0x1000000000#64).g 5).toNat ≤ 2 ^ 36 ∧ wCore.cur.bound.length < 16 ∧ ((reg (reg
    wCore 5 8#64) 6 4#64).g 6).toNat % 8 ≠ 0 ∧ Issues (.bind 4 5 6) (reg (reg wCore 5 8#64) 6 4#64) ∧ 16 ≤
    wBound.cur.bound.length ∧ Issues (.bind 4 5 6) wBound ∧ Issues (.unbind 6) wBound ∧ Issues (.acq .dev .d 4 5) (reg wData 5
    0x40010#64) ∧ okWith (accessTarget (reg wData 5 0x40010#64) wData.focus .read 0x40010#64 8) (fun r => paKind r.1 r.2.pa !=
    .device && okWith (homeRead (countFor (acquireDrop r.1 0x40010#64) wData.focus 39 1) r.2.dom r.2.pa 8) (fun _ => true)) =
    true ∧ Issues (.rel .dev .d 4 5) (reg wData 5 0x40010#64) ∧ okWith (accessTarget (reg wData 5 0x40010#64) wData.focus
    .write 0x40010#64 8) (fun r => okWith (writeFor (releaseRanges r.1 wData.focus (boundLines r.1 wData.focus 0x40010#64))
    wData.focus r.2 (toBytes 8 0)) (fun _ => true)) = true ∧ Issues (.fence .sys) wCore ∧ Issues (.fence .sys) wSeq ∧ NoTrip
    (.fence .sys) (fenceFor (stitchPanel wSeq 0) wSeq.focus .sys).cur ∧ Issues (.rel .dev .d 4 5) (reg wSeq 5 0x40010#64) ∧
    (okWith (accessTarget (reg wSeq 5 0x40010#64) wSeq.focus .write 0x40010#64 8) (fun r => paKind r.1 r.2.pa != .device && (let w := releaseRanges (stitchPanel r.1 0) wSeq.focus (boundLines (stitchPanel r.1 0) wSeq.focus 0x40010#64); noTripB (.rel .dev .d 4 5) (touch (pushHome w r.2.dom (partyTask w wSeq.focus) r.2.pa (toBytes 8 0) (writerOf w wSeq.focus)) wSeq.focus r.2.pa).cur)) = true)
    ∧ Issues (.acq .dev .d 4 5) (reg wCore 5 0x40004#64) ∧ ((reg wCore 5 0x40004#64).g 5).toNat < 2 ^ 63 ∧
    ((reg wCore 5 0x40004#64).g 5).toNat % 8 ≠ 0 ∧ Issues (.acq .tile .d 4 5) (reg wReserve 5 0x8000000000000000#64) ∧
    partyTagged wReserve wReserve.focus 0x8000000000000000#64 8 = some (.tile 0 0) ∧
    bankReserved wReserve wReserve.focus (.tile 0 0) 8 = true := by
  and_intros <;> first
    | decide +kernel
    | exact issues_of (by decide +kernel)
    | exact noTrip_of (by decide +kernel)

/-- A barrier word that expects none, the last of two arrivals, the first of two; a tick reached, one ahead, one too far. -/
theorem witness_BarrierAndTimeForms : Issues (.bar .dev 4 5 6) (wBar 0x40018 0) ∧ (((wBar 0x40018 0).g 5).toNat < 2 ^ 63 ∧
    ((wBar 0x40018 0).g 5).toNat % 8 = 0) ∧ barWord (wBar 0x40018 0) (fun w => w == 0#64) = true ∧ Issues (.bar .dev 4 5 6)
    (wBar 0x40020 0) ∧ barWord (wBar 0x40020 0) (fun w => w == 0x20001#64) = true ∧ Issues (.bar .dev 4 5 6) (wBar 0x40028 9) ∧
    barWord (wBar 0x40028 9) (fun w => w == 0x20000#64) = true ∧ Issues (.tickget 3) wCore ∧ Issues (.tickwait 3 4) (reg wCore
    4 0x10000000001#64) ∧ wCore.tick.toNat + 2 ^ 40 < ((reg wCore 4 0x10000000001#64).g 4).toNat ∧ (wCore.g 4).toNat ≤
    wCore.tick.toNat ∧ Issues (.tickwait 3 4) wCore ∧ (wCore.tick.toNat < ((reg wCore 4 0x10000000000#64).g 4).toNat ∧ ((reg
    wCore 4 0x10000000000#64).g 4).toNat ≤ wCore.tick.toNat + 2 ^ 40) ∧ Issues (.tickwait 3 4) (reg wCore 4 0x10000000000#64)
    := by
  and_intros <;> first
    | decide +kernel
    | exact issues_of (by decide +kernel)

/-- An add at an aligned word of the first tier. -/
theorem witness_AtomicsAtHome : amoForm (.amoAdd true 3 4 5) = some (0, 8, 3, 4, 5) ∧ Issues (.amoAdd true 3 4 5) (reg
    wData 4 0x40010#64) ∧ amoAddressOk (0x40010#64) 8 ∧
    (okWith (translate (reg wData 4 0x40010#64) (partyReq wData wData.focus .amo) 0x40010#64) (fun r => paKind r.1 r.2.pa == .first && !r.2.det && (let u := amoDrain (stitchBefore r.1) wData.focus (lineOf r.2.pa); !poisoned u r.2.pa 8 && noTripB (.amoAdd true 3 4 5) u.cur)) = true)
    := by
  and_intros <;> first
    | decide +kernel
    | exact issues_of (by decide +kernel)

/-- A tagged address, a misaligned one, a page of logged atomics with a destination and without. -/
theorem witness_AtomicsRefusedOrLogged : amoForm (.amoCas false 3 4 5) = some (7, 4, 3, 4, 5) ∧ Issues (.amoCas false 3 4
    5) (reg wCore 4 0x8000000000000000#64) ∧ 2 ^ 63 ≤ ((reg wCore 4 0x8000000000000000#64).g 4).toNat ∧ ((reg wCore 4
    0x40002#64).g 4).toNat % 4 ≠ 0 ∧ okWith (translate (reg wDet 4 0x40010#64) (partyReq wDet wDet.focus .amo) 0x40010#64) (fun
    r => r.2.det && paKind r.1 r.2.pa == .first) = true ∧ Issues (.amoAdd true 0 4 5) (reg wDet 4 0x40010#64) ∧ (FMap.getD
    wDet.dlog (sliceOf 0x40010) []).length < 4096 ∧ okWith (translate (reg wAperture 4 0x90000#64) (partyReq wAperture
    wAperture.focus .amo) 0x90000#64) (fun r => paKind r.1 r.2.pa == .device) = true ∧ okWith (translate (reg wHost 4
    0xA0000#64) (partyReq wHost wHost.focus .amo) 0xA0000#64) (fun r => hostFails r.1 r.2.pa) = true ∧ okWith (translate (reg
    wHost 4 0xB0000#64) (partyReq wHost wHost.focus .amo) 0xB0000#64) (fun r => paKind r.1 r.2.pa == .host && !hostFails r.1
    r.2.pa) = true ∧ 4096 ≤ (FMap.getD wDetFull.dlog (sliceOf 0x40010) []).length ∧ okWith (translate wDetFull (partyReq
    wDetFull wDetFull.focus .amo) (wDetFull.g 4)) (fun r => r.2.det && r.2.pa == 0x40010) = true ∧ Issues (.amoAdd true 0 4 5)
    wDetFull ∧ issuerOf wSeq.focus = some (0, 0) ∧ issuerOf wCore.focus = some (4096, 0) ∧ Issues (.amoAdd true 0 4 5) wDetSeq
    ∧ okWith (translate wDetSeq (partyReq wDetSeq wDetSeq.focus .amo) (wDetSeq.g 4)) (fun r => r.2.det) = true := by
  and_intros <;> first
    | decide +kernel
    | exact issues_of (by decide +kernel)

/-- A slot of 256, a misaligned record, a record of no page, one that keeps the rules, one of length 0, one of a peer read at user, one of a core
without a thread of the context; a sequencer. -/
theorem witness_BttplLoadsTemplate : Issues (.bttpl 4 5) wTpl ∧ 255 < ((reg wTpl 4 256#64).g
    4).toNat ∧ ((reg wTpl 5 0x40020#64).g 5).toNat % 64 ≠ 0 ∧ okWith (engReadN wTpl (engReq 0 .supervisor .read 5) 0x40040#64
    64) (fun r => someWith (templateOf r.2) fun t => !isCoreTag t.src && !isCoreTag t.dst && !isCoreTag t.cwaddr && t.peer == 0) =
    true ∧ trapWith (engReadN (stitchBefore wCore) (engReq 0 .supervisor .read 5) 0x90000#64 64) .xlate = true ∧ okWith (engReadN
    (stitchBefore (wTplOf 0x40010 2)) (engReq 0 .user .read 5) 0x40040#64 64) (fun r => someWith (templateOf r.2) fun t => t.peer == 2) = true ∧
    okWith (engReadN (stitchBefore (wTplOf 0xC000000300000000 0)) (engReq 0 .supervisor .read 5) 0x40040#64 64) (fun r =>
    someWith (templateOf r.2) fun t => isCoreTag t.src && !(r.1.ctxt 0).scmap.getLsbD 6 && !(r.1.ctxt 0).scmap.getLsbD 7) = true ∧
    Issues (.bttpl 4 5) wSeq ∧ okWith (engReadN wTpl (engReq 0 .supervisor .read 5) 0x40000#64 64) (fun r => (templateOf
    r.2).isNone) = true := by
  and_intros <;> first
    | decide +kernel
    | exact issues_of (by decide +kernel)

/-- Stores of index 0 and of a slot never loaded to channel 0 of the context's aperture, on a channel with room and on a full one, ranges that
overlap, a refused address, a destination in scratch; a load of its status. -/
theorem witness_ApertureFormsComplete : stitchWaits (.apertureStore 3 4 0) (reg wAperture 4 0x90000#64) = false ∧ Issues (.st .d 3 4 0) (reg wAperture 4 0x90000#64) ∧ (ruleAddr (reg wAperture 4
    0x90000#64) 4 0 8).toNat % 8 = 0 ∧
    (okWith (translate (reg wAperture 4 0x90000#64) (partyReq wAperture wAperture.focus .write) 0x90000#64) (fun r => paKind r.1 r.2.pa == .device && (pageOf r.2.pa).isNone && decide (apertureOf r.2.pa = some (0, 8 * 0)) && someWith (FMap.get? ((stitchBefore r.1).ctxt 0).templates 0) fun t => (let c := copyAccepted (stitchBefore r.1) t 0; !c.src.getLsbD 63 && !c.dst.getLsbD 63 && !c.cw && !rangesOverlap c.peer c.src c.dst c.length && decide ((chanOf (stitchBefore r.1) 0 0).queue.length < 16))) = true)
    ∧ Issues (.ld .d 3 4 0) (reg wAperture 4 0x90000#64) ∧ okWith (translate (reg wAperture 4 0x90000#64) (partyReq wAperture
    wAperture.focus .read) 0x90000#64) (fun r => decide (apertureOf r.2.pa = some (0, 8 * 0))) = true ∧ FMap.get?
    (wAperture.ctxt 0).templates (((reg wAperture 3 7#64).g 3).toNat % 2 ^ 8) = none ∧ ((reg wAperture 3 0x100#64).g 3).toNat /
    2 ^ 8 % 2 ^ 8 ≠ 0 ∧ 16 ≤ (chanOf (wApFull (wCmd [])) 0 0).queue.length ∧ rangesOverlap 0 0x40010#64 0x40014#64 8 = true ∧
    copyScratch wAperture 0 (.core 0) 0 0xC00000000007FFFC#64 8 = none ∧ (0xC00000000007FFFC#64).getLsbD 63 = true ∧
    (copyScratch wAperture 0 (.core 0) 0 0xC000000000000000#64 8).isSome = true := by
  and_intros <;> first
    | decide +kernel
    | exact issues_of (by decide +kernel)

/-- Select bits outside 4:0 and 8, and inside; a page for the images; a malformed image; modes 1 and 2. -/
theorem witness_BobbinFormsComplete : Issues (.bdraw 3 4 5) wCore ∧ (reg wCore 5 0x20#64).g 5 &&& 0xFFFFFFFFFFFFFEE0#64 ≠
    0#64 ∧ (reg wCore 5 0x11F#64).g 5 &&& 0xFFFFFFFFFFFFFEE0#64 = 0#64 ∧ Issues (.bseed 3 4) wCore ∧ Issues (.bmode 3) wCore ∧
    1 < ((reg wCore 3 2#64).g 3).toNat ∧ ((reg wCore 3 1#64).g 3).toNat ≤ 1 ∧ Issues (.bdrawv 3 4 5) (reg wCore 3 0x40000#64) ∧
    okWith (bobbinParts { partyReq wCore wCore.focus .write with unit := none } 2 (reg wCore 3 0x40000#64) 0x40000#64
    (drawBytes wCore.cur.spool 0 0#32 false)) (fun r => r.2.length == 1) = true ∧ okWith (bobbinParts { partyReq wCore
    wCore.focus .write with unit := none } 19 (reg wCore 3 0x40000#64) 0x40000#64 (spoolImage wCore.cur.spool)) (fun r =>
    r.2.length == 17) = true ∧ Issues (.bspool 3) (reg wCore 3 0x40000#64) ∧ okWith (engReadN (finishBobbin (reg wCore 3
    0x40000#64)) { partyReq wCore wCore.focus .read with unit := none } 0x40000#64 4352) (fun r => (spoolOfImage r.2).isSome) =
    true ∧ okWith (engReadN (finishBobbin (bytesAt wCore 0x41080 [2#8])) { partyReq wCore wCore.focus .read with unit := none }
    0x40000#64 4352) (fun r => (spoolOfImage r.2).isNone) = true ∧ Issues (.bspsave 3) (reg wCore 3 0x40000#64) := by
  and_intros <;> first
    | decide +kernel
    | exact issues_of (by decide +kernel)

/-- A quilt form and a press form that every check passes, and one that a check refuses. -/
theorem witness_EngineFormsAccept : (quiltForm (.qapp 4 5 6)).isSome = true ∧ Issues (.qapp 4 5 6) wCore ∧ firstFailing
    (quiltChecks wCore (.qapp 4 5 6) 0 0 0 64 64 false) = none ∧ firstFailing (quiltChecks wCore (.qapp 4 5 6) 0x80#64 0 0 64
    64 false) = some (.align, 0x80#64) ∧ pressForm (.prxor 4 5 6) = some (4, 4, 5, 6) ∧ Issues (.prxor 4 5 6) wSeq ∧
    firstFailing (pressChecks wSeq (.prxor 4 5 6) 0 0 0) = none ∧ firstFailing (pressChecks wSeq (.prxor 4 5 6) 0 16#64 0) =
    some (.align, 16#64) := by
  and_intros <;> first
    | decide +kernel
    | exact issues_of (by decide +kernel)

/-- A misaligned record, a record in a context of no quota and of one; an open task; parameters 63 and 64. -/
theorem witness_TaskFormsComplete : Issues (.tsub 3 4) (reg wQuota 4 0x40040#64) ∧ ((reg wQuota 4 0x40020#64).g 4).toNat %
    64 ≠ 0 ∧ trapWith (ownRead (stitchBefore wQuota) 0#64 128) .xlate = true ∧ okWith (ownRead (stitchBefore wQuota) 0x40040#64
    128) (fun r => (parseTask 0x40040#64 r.2).isSome && decide (entriesUsed r.1 0 < quotaOf r.1 0) && decide (lowestFree r.1 =
    some 0)) = true ∧ okWith (ownRead (stitchBefore wCore) 0x40040#64 128) (fun r => decide (quotaOf r.1 0 ≤ entriesUsed r.1
    0)) = true ∧ okWith (ownRead (stitchBefore (bytesAt wQuota 0x40048 [9#8])) 0x40040#64 128) (fun r => (parseTask 0x40040#64
    r.2).isNone) = true ∧ Issues (.tdep 3 4 5) wOpen ∧ openTask wOpen (wOpen.g 3) = none ∧ someWith (openTask (reg wOpen 3
    0x2000#64) 0x2000#64) (fun z => z.1 == 0 && z.2.ndeps == 0) = true ∧ Issues (.tdep 3 4 0) (reg wOpen 3 0x2000#64) ∧ okWith
    (depWord (stitchBefore (reg wOpen 3 0x2000#64)) (engReq 0 .supervisor .read 3) 0x40010#64) (fun r => (FMap.get? r.1.tasks
    0).isSome) = true ∧ (FMap.get? (stitchBefore wOpen).tasks 0).isSome = true ∧ (∃ t ∈ wOpen.tasks, t.2.ndeps < 8) ∧ someWith
    (openTask (reg (modTask wOpen 0 fun t => { t with ndeps := 8 }) 3 0x2000#64) 0x2000#64) (fun z => decide (8 ≤ z.2.ndeps)) =
    true ∧ trapWith (depWord (stitchBefore (reg wOpen 3 0x2000#64)) (engReq 0 .supervisor .read 3) 0x90000#64) .xlate = true ∧ Issues (.gpset 3 4 5) (reg (reg wCore 4 63#64) 5 255#64) ∧ ((reg wCore 4 63#64).g 4).toNat ≤ 63 ∧ 63 < ((reg wCore 4
    64#64).g 4).toNat ∧ ((reg wCore 5 255#64).g 5).toNat ≤ 255 ∧ 255 < ((reg wCore 5 256#64).g 5).toNat ∧ Issues (.gpget 3 4 5)
    wCore := by
  and_intros <;> first
    | decide +kernel
    | exact issues_of (by decide +kernel)

/-- Counters 3 and 4, events 95 and 96; fitting tasks that are over and not, a plan in a page; the chalk forms. -/
theorem witness_CounterFormsComplete : Issues (.pmsel 3 4 5) (reg (reg wCore 3 3#64) 4 95#64) ∧ (¬ (3 < ((reg wCore 3
    3#64).g 3).toNat ∨ 95 < ((reg wCore 4 95#64).g 4).toNat ∨ badQualifier 95 0#64 = true ∨ underFit wCore wCore.focus = true))
    ∧ 3 < ((reg wCore 3 4#64).g 3).toNat ∧ 95 < ((reg wCore 4 96#64).g 4).toNat ∧ ((∀ x, partyPanel wCore.focus = some x →
    (wCore.panel? x).isSome = true)) ∧ Issues (.pmrd 3 4) wCore ∧ (wCore.g 4).toNat < 4 ∧ Issues (.pmclr 3) wCore ∧ underFit
    wCore wCore.focus = false ∧ Issues (.fitbeg 3 4) (reg wPlanned 3 0x2000#64) ∧ openTask (reg wPlanned 3 0x2000#64) 0#64 =
    none ∧ someWith (openTask (reg wPlanned 3 0x2000#64) 0x2000#64) (fun z => z.2.fit.isNone) = true ∧ okWith (ownRead (reg
    wPlanned 3 0x2000#64) 0x40100#64 256) (fun r => someWith (parsePlan r.2) fun f => okWith (bufferPages (engReq 0 .supervisor
    .write (partyReq r.1 r.1.focus .write).src) f.buffer (List.range f.pages) r.1) fun q => (FMap.get? q.1.tasks 0).isSome) =
    true ∧ Issues (.fitend 3) (wFit .done) ∧ fitTask (wFit .done) 0#64 = none ∧ namesPast (wFit .done) 0#64 = false ∧
    fitTask { wCore with gens := [(0, 3)] } 0x2000#64 = none ∧ namesPast { wCore with gens := [(0, 3)] } 0x2000#64 = true ∧ someWith (fitTask (wFit .done) 0x2000#64) (fun
    z => z.2.state.isOver) = true ∧ someWith (fitTask (wFit .running) 0x2000#64) (fun z => !z.2.state.isOver) = true ∧ Issues
    (.fitstat 3 4 5) (reg (wFit .done) 4 0x2000#64) ∧ someWith (fitTask (wFit .done) 0x2000#64) (fun z => someWith z.2.fit fun
    f => (fitItem z.2 f 0).isSome && (fitItem z.2 f 32).isNone) = true ∧ Issues (.chalk 3 4) wCore ∧ 4 < ((reg wCore 3 5#64).g
    3).toNat ∧ partyPriv wUser wUser.focus = .user ∧ Issues (.chalk 3 4) wUser ∧ (wCore.g 3) = 0#64 ∧ partyPriv wCore
    wCore.focus ≠ .user ∧ (reg wCore 3 4#64).g 3 = 4#64 ∧ underFit wUnderFit wUnderFit.focus = true ∧ Issues (.pmsel 3 4 5)
    wUnderFit ∧ Issues (.pmclr 3) wUnderFit ∧ Issues (.pmclr 3) wCounted ∧ ((reg wCounted 3 1#64).g 3).getLsbD 0 = true ∧ ((reg
    wCounted 3 1#64).g 3).getLsbD 1 = false ∧ (selection wCounted 1).1 ≠ some 88 ∧ okWith (ownRead (bytesAt (reg wPlanned 3
    0x2000#64) 0x40101 [1#8]) 0x40100#64 256) (fun r => decide (planBreaks r.2)) = true ∧ openTask (reg wPlanned 3 0x2000#64)
    0x2000#64 ≠ none := by
  and_intros <;> first
    | decide +kernel
    | exact issues_of (by decide +kernel)

/-- No load with room and without, a load under way, a failed one. -/
theorem witness_LdpatDisarmComplete : Strands (.ldpat 4) (reg wSeq 4 0x40000#64) 0 0 (pan wSeq) ∧ (pan wSeq).load = none ∧
    lacksRoom wSeq (pan wSeq) 0x40000#64 = false ∧ (stitchBefore (reg wSeq 4 0x40000#64)).panel? 0 = some (pan (stitchBefore
    (reg wSeq 4 0x40000#64))) ∧ lacksRoom wNoRoom (pan wNoRoom) 0x42000#64 = true ∧ Strands (.ldpat 4) wNoRoom 0 0 (pan
    wNoRoom) ∧ Strands (.ldpat 4) (wLoad .reading) 0 0 (pan (wLoad .reading)) ∧ Strands (.ldpat 4) wFailed 0 0 (pan wFailed) ∧
    ((pan wFailed).strand 0).failed = some 0x40000#64 ∧ ((pan (wLoad .reading)).strand 0).failed = none ∧ (pan (wLoad
    .reading)).load.isSome = true ∧ Strands .disarm wSeq 0 0 (pan wSeq) ∧ Strands .disarm (wLoad .loaded) 0 0 (pan (wLoad
    .loaded)) ∧ (stitchBefore (wLoad .loaded)).panel? 0 = some (pan (stitchBefore (wLoad .loaded))) := by
  and_intros <;> first
    | decide +kernel
    | exact strands_of (by decide +kernel)

/-- No load, a failed one, one under way, one done. -/
theorem witness_ArmSwitchesPattern : Strands (.arm 4) wSeq 0 0 (pan wSeq) ∧ (pan (stitchBefore wSeq)).load = none ∧ Strands
    (.arm 4) wFailed 0 0 (pan wFailed) ∧ (stitchBefore wFailed).panel? 0 = some (pan (stitchBefore wFailed)) ∧ ((pan
    (stitchBefore wFailed)).strand 0).failed = some 0x40000#64 ∧ ((pan (stitchBefore (wLoad .reading))).strand 0).failed = none
    ∧ Strands (.arm 4) (wLoad .reading) 0 0 (pan (wLoad .reading)) ∧ (stitchBefore (wLoad .reading)).panel? 0 = some (pan
    (stitchBefore (wLoad .reading))) ∧ Strands (.arm 4) (wLoad .loaded) 0 0 (pan (wLoad .loaded)) ∧ someWith (pan (stitchBefore
    (wLoad .loaded))).load (fun l => l.state == .loaded && someWith l.image fun m => (armCheck m).isNone && decide (m.strands ≤
    4)) = true ∧ (∀ j ∈ ([1, 2, 3] : List Nat), ((pan (stitchBefore (wLoad .loaded))).strand j).finished = true) ∧ anyRunning
    (pan (stitchBefore (wLoad .loaded))) = false ∧ anyRunning (pan (wStream .running)) = true ∧ Strands (.arm 4) wBadWord 0 0
    (pan wBadWord) ∧ someWith (pan (stitchBefore wBadWord)).load (fun l => l.state == .loaded && l.strand == 0 && someWith
    l.image fun m => (armCheck m).isSome) = true ∧ Strands (.arm 4) wOthers 0 0 (pan wOthers) ∧ someWith (pan (stitchBefore
    wOthers)).load (fun l => l.strand != 0) = true ∧ someWith (pan (stitchBefore wScratchLoad)).load (fun l => someWith l.image
    fun m => m.scratch == [(0, 64, [1#8, 2#8])]) = true ∧ Memory.wf ((pan (stitchBefore wScratchLoad)).tile 0).scratch = true ∧
    Strands (.arm 4) wScratchLoad 0 0 (pan wScratchLoad) := by
  and_intros <;> first
    | decide +kernel
    | exact strands_of (by decide +kernel)

/-- An entry of the table and one past it, an idle slot and a running one, and that after the stitch; masks 1 and 65,536. -/
theorem witness_StreamFormsComplete : Strands (.sspec 0 0 4 0 0) (wStream .idle) 0 0 (pan (wStream .idle)) ∧ (pan (wStream
    .idle)).image.specs[0]? = some wSpec ∧ someWith ((pan (wStream .idle)).slot? 0 0) (fun sl => sl.state == .idle) = true ∧
    (pan (wStream .idle)).image.specs.length ≤ 1 ∧ someWith ((pan (wStream .running)).slot? 0 0) (fun sl => sl.state ==
    .running) = true ∧ Strands (.sspec 0 0 4 0 0) (wStream .running) 0 0 (pan (wStream .running)) ∧ Strands (.sgo 4) (wStream
    .idle) 0 0 (pan (wStream .idle)) ∧ sgoCheck (wStream .idle) (pan (wStream .idle)) 0 (wordOfForm (.sgo 4)) (maskSlots 1#64)
    = none ∧ 65536 ≤ ((reg wSeq 4 0x10000#64).g 4).toNat ∧ (sgoCheck (wStream .running) (pan (wStream .running)) 0 (wordOfForm
    (.sgo 4)) (maskSlots 1#64)).isSome = true ∧ Strands (.sgo 4) (wStream .running) 0 0 (pan (wStream .running)) ∧ Strands
    (.sstop 4) (wStream .running) 0 0 (pan (wStream .running)) ∧ ((wStream .running).g 4).toNat < 65536 ∧
    (stitchBefore (wStream .idle)).panel? 0 = some (pan (stitchBefore (wStream .idle))) ∧
    (stitchBefore (wStream .running)).panel? 0 = some (pan (stitchBefore (wStream .running))) ∧
    someWith ((pan (stitchBefore (wStream .running))).slot? 0 0) (fun sl => sl.state == .running) = true ∧ 65536 ≤ ((reg wSeq 4
    0x10000#64).g 4).toNat ∧ Strands (.sstop 4) (reg wSeq 4 0x10000#64) 0 0 (pan wSeq) := by
  and_intros <;> first
    | decide +kernel
    | exact strands_of (by decide +kernel)

/-- A slice inside the image and outside it, a stop; a queue with room, a full one, a restart; an empty queue, a value, a poisoned entry. -/
theorem witness_SliceQueueForms : Strands (.slice 4 5) wSeq 0 0 (pan wSeq) ∧ inSlice (pan wSeq) 0x40000#64 = true ∧ inSlice
    (pan wSeq) 0x40040#64 = false ∧ wSeq.g 4 = 0#64 ∧ Strands (.slice 4 5) (reg wSeq 4 0x40000#64) 0 0 (pan wSeq) ∧ Issues
    (.cpost 4) (wQueue [] 1 wSlice) ∧ (stitchPanel (wQueue [] 1 wSlice) 0).panel? 0 = some (pan (stitchPanel (wQueue [] 1
    wSlice) 0)) ∧ ((pan (stitchPanel (wQueue [] 1 wSlice) 0)).strand 0).skip = 1 ∧ (wQueue [] 1 wSlice).focus = .slice 0 0 ∧ 0
    < ((pan (wQueue [] 1 wSlice)).strand 0).skip ∧ 16 ≤ ((pan (wQueue (List.replicate 16 (.value 0)) 0 wSlice)).strand
    0).queue.length ∧ ((pan (wQueue (List.replicate 15 (.value 0)) 0 wSlice)).strand 0).queue.length < 16 ∧ Strands (.cond 4 5)
    (wQueue [] 0 wSeq) 0 0 (pan (wQueue [] 0 wSeq)) ∧ ((pan (stitchBefore (wQueue [] 0 wSeq))).strand 0).queue = [] ∧ ((pan
    (stitchBefore (wQueue [.value 7] 0 wSeq))).strand 0).queue = [.value 7#64] ∧ ((pan (stitchBefore (wQueue [.poisoned ⟨.ecc,
    0, none⟩] 0 wSeq))).strand 0).queue = [.poisoned ⟨.ecc, 0#64, none⟩] := by
  and_intros <;> first
    | decide +kernel
    | exact strands_of (by decide +kernel)
    | exact issues_of (by decide +kernel)

/-- Channels 15 and 16, a live cycle and one clamped in a wait; a pending tack and none; hints of 65,535 and 65,536. -/
theorem witness_TackCommitForms : Strands (.tack 4) (reg wSeq 4 15#64) 0 0 (pan wSeq) ∧ waitClamped wSeq 0 (pan wSeq) =
    false ∧ 15 < ((reg wSeq 4 16#64).g 4).toNat ∧ waitClamped wClamped 0 (pan wClamped) = true ∧ Strands (.tack 4) wClamped 0 0
    (pan wClamped) ∧ Strands (.tkwait 4 5) wClamped 0 0 (pan wClamped) ∧ (pan (stitchBefore wSeq)).agPending[0] = 0 ∧ (pan
    (stitchBefore wClamped)).agPending[0] ≠ 0 ∧ Strands (.tkwait 4 5) wSeq 0 0 (pan wSeq) ∧ Issues .commit wSeq ∧ Strands
    (.mxhint 4) (reg wSeq 4 0xFFFF#64) 0 0 (pan wSeq) ∧ 65535 < ((reg wSeq 4 0x10000#64).g 4).toNat := by
  and_intros <;> first
    | decide +kernel
    | exact strands_of (by decide +kernel)
    | exact issues_of (by decide +kernel)

/-- The state of a garment at an arrival of its first strand, after the arrival's fence. -/
def fenced (two : Bool) : State :=
  countFor (fenceFor (publishPanel (wGarment two) 0) (wGarment two).focus .dev) (wGarment two).focus 42 1

/-- A garment of one strand, and one of two whose other strand has not arrived; a timeout of 0 and one of 9; an entry of the log. -/
theorem witness_GarmentBarriers : Strands (.gbar 4) (wGarment false) 0 0 (pan (wGarment false)) ∧ (FMap.get? (fenced
    false).tasks (pan (wGarment false)).entry).isSome = true ∧ garmentStrands (fenced false) 0 = [(0, 0)] ∧ Strands (.gbarM
    4) (wGarment false) 0 0 (pan (wGarment false)) ∧ Strands (.gbarM
    4) (reg (wGarment true) 4 9#64) 0 0 (pan (wGarment true)) ∧ (FMap.get? (fenced true).tasks 0).isSome = true ∧ garmentStrands
    (fenced true) 0 = [(0, 0), (0, 1)] ∧ (∀ t ∈ (fenced true).tasks, t.2.gbarArrived = []) ∧ (reg
    (wGarment true) 4 9#64).g 4 ≠ 0#64 ∧ (wGarment true).g 4 = 0#64 ∧ Strands (.gbar 4) (wGarment true) 0 0 (pan (wGarment true)) ∧
    (wDetFull.dlog.all fun c => c.2.all fun d => decide (d.kind ≤ 8)) = true := by
  and_intros <;> first
    | decide +kernel
    | exact strands_of (by decide +kernel)

/-- A word under a condition bit that is clear. -/
theorem witness_PhaseWordsNullified : predOf (.mxAcz .ifSet 1) = some .ifSet ∧ wTile.focus = .tile 0 0 ∧ wTile.panel? 0 =
    some (pan wTile) ∧ predHolds .ifSet ((pan wTile).tile 0) = false := by
  and_intros <;> decide +kernel

/-- A masked sum, a compare to a mask register and the condition bit, the moves of the latches. -/
theorem witness_VxWordsComplete : TileWord (.vadd .always { vf0 with d := 3, a := 1, b := 2, k := 1 }) wTile 0 0 (pan
    wTile) ∧ (Instr.vadd .always { vf0 with d := 3, a := 1, b := 2, k := 1 }).wf = true ∧ (vxRule (fun r k => lane (getV ((pan
    wTile).tile 0).v r) k) (getV ((pan wTile).tile 0).v) (getK ((pan wTile).tile 0).k) (.vadd .always vf0)).isSome = true ∧
    TileWord (.vcmp .always { vf0 with d := 0x11 }) wTile 0 0 (pan wTile) ∧ TileWord (.vmovIn .always { vf0 with aux := 1 })
    wTile 0 0 (pan wTile) ∧ TileWord (.vmovOut .always { vf0 with aux := 2 }) wTile 0 0 (pan wTile) := by
  and_intros <;> first
    | decide +kernel
    | exact tileWord_of (by decide +kernel)

/-- A beat and a bubble at the input, a log with room, a row with no error. -/
theorem witness_MxWordsComplete : TileWord (.mxNop .always) wTile 0 0 (pan wTile) ∧ TileWord (.mxLd .always 15) wBeat 0 0
    (pan wBeat) ∧ (((pan wBeat).tile 0).inp[0]).bubble = false ∧ TileWord (.mxScl .always) wBeat 0 0 (pan wBeat) ∧ TileWord
    (.mxFmt .always 0 1) wTile 0 0 (pan wTile) ∧ TileWord (.mxMm .always 7 15) wBeat 0 0 (pan wBeat) ∧ TileWord (.mxMmg .always
    7 15 15) wBeat 0 0 (pan wBeat) ∧ TileWord (.mxAcz .always 0x80) wTile 0 0 (pan wTile) ∧ TileWord (.mxAcrd .always 7 15
    true) wTile 0 0 (pan wTile) ∧ TileWord (.mxAcsv .always 7 15 5) wTile 0 0 (pan wTile) ∧ logSize (((pan wTile).tile 0).log
    (rowStrand (pan wTile))) + 64 ≤ (pan wTile).image.logmax.getD (rowStrand (pan wTile)) 0 ∧ TileWord (.mxAcld .always 7 15 5)
    wTile 0 0 (pan wTile) ∧ badIn ((pan wTile).tile 0).bad (64 * 5) 64 = none := by
  and_intros <;> first
    | decide +kernel
    | exact tileWord_of (by decide +kernel)

/-- The last row of the scratchpad and the first past it; a beat to write; lanes of a gather and a scatter. -/
theorem witness_LsWordsComplete : TileWord (.lsRd .always 0xFFF 4 0) wTile 0 0 (pan wTile) ∧ lsOffset ((pan wTile).tile 0)
    0xFFF 4 0 < scratchSize (pan wTile) ∧ badIn ((pan wTile).tile 0).bad (lsOffset ((pan wTile).tile 0) 0xFFF 4 0) 64 = none ∧
    scratchSize (pan wSmall) ≤ lsOffset ((pan wSmall).tile 0) 0xFFF 4 0 ∧ TileWord (.lsRd .always 0xFFF 4 0) wSmall 0 0 (pan
    wSmall) ∧ TileWord (.lsWr .always 1 4 0) wBeat 0 0 (pan wBeat) ∧ (((pan wBeat).tile 0).inp[2]).bubble = false ∧ (((pan
    wTile).tile 0).inp[2]).bubble = true ∧ TileWord (.lsG .always 0 1) wTile 0 0 (pan wTile) ∧ TileWord (.lsS .always 1 0 1)
    wTile 0 0 (pan wTile) ∧ (∀ k ∈ List.range 16, (64 * (1#12).toNat + (lane (getV ((pan wTile).tile 0).v 0) k).toNat % 2 ^ 18)
    % 64 = 0) ∧ (∀ k ∈ List.range 16, badIn ((pan wTile).tile 0).bad (64 + (lane (getV ((pan wTile).tile 0).v 0) k).toNat % 2 ^ 18) 64 =
    none) ∧ logSize (((pan wTile).tile 0).log (rowStrand (pan wTile))) + 128 ≤ (pan wTile).image.logmax.getD (rowStrand
    (pan wTile)) 0 ∧ TileWord (.lsFe .always 1 7) wTile 0 0 (pan wTile) ∧ TileWord (.lsUpd .always 1 4 0 0) wBeat 0 0 (pan
    wBeat) ∧ TileWord (.lsG .always 2 1) wLanes 0 0 (pan wLanes) ∧ TileWord (.lsS .always 1 2 1) wLanes 0 0 (pan wLanes) ∧
    laneRaises (pan wLanes) 64 64 (getV ((pan wLanes).tile 0).v 2) 0 = none ∧ laneRaises (pan wLanes) 64 64 (getV ((pan
    wLanes).tile 0).v 2) 1 = some (.align, 68) ∧ laneRaises (pan wLanes) 4 64 (getV ((pan wLanes).tile 0).v 2) 2 = some (.perm,
    64) ∧ laneRaises (pan wLanes) 4 64 (getV ((pan wLanes).tile 0).v 2) 1 = none ∧ TileWord (.lsUpd .always 1 4 0 0) wTile 0 0
    (pan wTile) ∧ TileWord (.lsUpd .always 0xFFF 4 0 0) wSmall 0 0 (pan wSmall) ∧ TileWord (.lsWr .always 0xFFF 4 0) wSmall 0 0
    (pan wSmall) := by
  and_intros <;> first
    | decide +kernel
    | exact tileWord_of (by decide +kernel)

/-- Sources that are no streams, a stream with a beat and one with a fault, every ease depth, a hold. -/
theorem witness_XbWordsComplete : TileWord (.xbRoute .always 0 2 8 4 0) wTile 0 0 (pan wTile) ∧ (2#8).getLsbD 7 = false ∧
    TileWord (.xbRoute .always 7 0x10 15 0 0) (wHead false) 0 0 (pan (wHead false)) ∧
    (someWith (some (streamHead (pan (wHead false)) (rowStrand (pan (wHead false))) 0 0)) (fun h => match h with | .beat b => !b.bubble | _ => false) = true)
    ∧ TileWord (.xbRoute .always 7 0x10 15 0 0) (wHead true) 0 0 (pan (wHead true)) ∧
    (someWith (some (streamHead (pan (wHead true)) (rowStrand (pan (wHead true))) 0 0)) (fun h => match h with | .fault _ => true | _ => false) = true)
    ∧ TileWord (.xbEase .always 1 2 3 4 5 6 7) wTile 0 0 (pan wTile) ∧ TileWord (.xbHold .always 6 0) wTile 0 0 (pan wTile) ∧
    TileWord (.xbHold .always 7 0) (wHead false) 0 0 (pan (wHead false)) := by
  and_intros <;> first
    | decide +kernel
    | exact tileWord_of (by decide +kernel)

/-- A field of a counter and the link, a chain at rest, running, and at its last trip; every source of the schedule. -/
theorem witness_TkWordsComplete : TileWord (.tkNop .always) wTile 0 0 (pan wTile) ∧ TileWord (.tkCnt .always 3 2 0xFFFF)
    wTile 0 0 (pan wTile) ∧ TileWord (.tkCnt .always 0 3 0xC00000) wTile 0 0 (pan wTile) ∧ TileWord (.tkCntTick .always) wTile
    0 0 (pan wTile) ∧ ((pan wTile).tile 0).running = false ∧ ((pan wChain).tile 0).running = true ∧ (tickFrom (List.range ((pan
    wChain).tile 0).chainLen) ((pan wChain).tile 0)).2 = true ∧ TileWord (.tkCntTick .always) wChain 0 0 (pan wChain) ∧
    TileWord (.tkSend .always 15) wTile 0 0 (pan wTile) ∧ TileWord (.tkWait .always 1 0) wPend 0 0 (pan wPend) ∧ TileWord
    (.tkSel .always 0 0) (wQueue [.value 1] 0 wTile) 0 0 (pan (wQueue [.value 1] 0 wTile)) ∧ ((pan (wQueue [.value 1] 0
    wTile)).strand (rowStrand (pan (wQueue [.value 1] 0 wTile)))).queue = [.value 1#64] ∧ TileWord (.tkSel .always 3 0) wTile 0
    0 (pan wTile) ∧ TileWord (.tkStitch .always) wTile 0 0 (pan wTile) := by
  and_intros <;> first
    | decide +kernel
    | exact tileWord_of (by decide +kernel)

/-- A quilt command not begun behind another of its descriptor; one whose read phase takes a read, is over, and fails; one whose node step is taken,
one that goes through, one that fails; one done with a completion word, a failed one; a press command not done, done, and one whose write waits; a
copy to read, to write here and to a peer over a link that is up and one that is down, to complete with and without a word, unanswered, one with a
write that waits, and failed; a line of a bobbin unit. -/
theorem witness_CommandSteps : FMap.get? (wQuilts 0).quilts 2 = some wQCmd ∧ wQCmd.failed = none ∧ wQCmd.heldFault = false
    ∧ wQCmd.stage = 0 ∧ mayBegin (wQuilts 0) 2 wQCmd = false ∧ FMap.get? (wReadsQ []).quilts 2 = some (wRead []) ∧
    mayBegin (wReadsQ []) 2 (wRead []) = true ∧ okWith (quiltWord (wReadsQ []) (wRead [])) (fun r => decide (r.2 = wRead [])) = true ∧
    ((match qRun (wReadsQ []) 2 (wRead []) true qDry with | (.error (.taken bs), _) => bs == wDesc | _ => false) = true) ∧
    FMap.get? (wReadsQ [wDesc, [], wPool, []]).quilts 2 = some (wRead [wDesc, [], wPool, []]) ∧
    mayBegin (wReadsQ [wDesc, [], wPool, []]) 2 (wRead [wDesc, [], wPool, []]) = true ∧
    ((match qRun (wReadsQ [wDesc, [], wPool, []]) 2 (wRead [wDesc, [], wPool, []]) true qDry with | (.ok _, _) => true | _ => false) = true) ∧
    ((match qRun (wReadsQ [List.replicate 256 0]) 2 (wRead [List.replicate 256 0]) true qDry with
      | (.error (.code k), _) => k == 0x40 | _ => false) = true) ∧
    FMap.get? (wNodes []).quilts 2 = some (wNode []) ∧
    ((match qRun (wNodes []) 2 (wNode []) false qProgram with | (.error (.taken bs), _) => bs == wDesc | _ => false) = true) ∧
    FMap.get? (wNodes [wDesc, [], wPool, []]).quilts 2 = some (wNode [wDesc, [], wPool, []]) ∧
    ((match qRun (wNodes [wDesc, [], wPool, []]) 2 (wNode [wDesc, [], wPool, []]) false qProgram with | (.ok _, _) => true | _ => false) = true)
    ∧ ((match qRun (wNodes [List.replicate 256 0]) 2 (wNode [List.replicate 256 0]) false qProgram with
      | (.error (.code k), _) => k == 0x40 | _ => false) = true)
    ∧ FMap.get? (wQuilts 2).quilts 2 = some { wQCmd with stage := 2, record := 0x40018#64, cw := some (0x40018, 0) } ∧
    (0x40018#64).getLsbD 63 = false ∧ FMap.get? (wQuilts 3).quilts 2 = some { wQCmd with failed := some 0x45 } ∧ FMap.get?
    (wPresses false).press 2 = some (wPCmd false) ∧ earlier (wPresses false) 2 (wPCmd false) = [] ∧ pressDone (wPCmd false) =
    false ∧ pressDone (wPCmd true) = true ∧ writesWait (wPresses true) (wPCmd true) = false ∧
    FMap.get? (wPresses true).press 2 = some (wPCmd true) ∧ (wPCmd true).record = 0#64
    ∧ (wPCmd true).failed = none ∧ (wPCmd true).heldFault = false ∧ FMap.get? wPressWaits.press 2 = some wPWait ∧
    writesWait wPressWaits wPWait = true ∧ (chanOf (wCopies []) 0 0).queue = [wCmd []] ∧ ((wCmd
    []).heldFault = false ∧ (wCmd []).failed = false) ∧ 0 < copyParts (wCmd []) ∧ okWith (engReadN (wCopies []) (engReq 0 .user
    .read 5) 0x40010#64 8) (fun r => r.2 == toBytes 8 0xFFEEDDCCBBAA9988) = true ∧ partRange (wCmd []) 0 = (0, 8) ∧ (wCmd [(0,
    toBytes 8 5)]).readParts.find? (fun r => r.1 == 0) = some (0, toBytes 8 5) ∧ okWith (checkCw (wCopies [(0, toBytes 8 5)]) 0
    (wCmd [(0, toBytes 8 5)])) (fun u => okWith (engWriteN u (engReq 0 .user .write 5) 0 (cmdWriter u (.core 0) 0) 0x40018#64 (toBytes 8 5)) fun _ =>
    true) = true ∧ (wCmd []).wroteParts.length < copyParts (wCmd []) ∧ copyParts { wCmd [] with wroteParts := [0] } ≤ 1 ∧
    waitsIn (wCopies []) [] = false ∧ waitsIn wPressWaits [(0x40010, 0x40018)] = true ∧
    okWith (checkCw (wPeer true) 0 { wCmd [(0, toBytes 8 5)] with peer := 2 }) (fun u => linkUp u 2) = true ∧ okWith (checkCw
    (wPeer false) 0 { wCmd [(0, toBytes 8 5)] with peer := 2 }) (fun u => !linkUp u 2) = true ∧ wAsked.unanswered ≠ 0 ∧ okWith
    (engWriteN (setHead (wCopies []) 0 0 wWroteCw) (engReq 0 .user .write 5) 0 (cmdWriter (wCopies []) (.core 0) 0) wWroteCw.cwaddr
    (toBytes 8 9)) (fun _ => true) = true ∧ wWroteCw.cw = true ∧ wWroteCw.cwaddr.getLsbD 63 = false ∧ waitsIn (wCopies []) wWroteCw.ranges = false ∧
    wFailedCopy.failed = true ∧
    wFailedCopy.unanswered = 0 ∧ FMap.get? wBobbin.bobbin (.core 0) = some [⟨0, 0, 0, [⟨0x40010, toBytes 8 3, false, 0⟩], none⟩]
    := by
  and_intros <;> decide +kernel

/-- An interval due, a gather's last entry, a quiet stretch of 64, a hint that is due, a tack that is due and one of a full count, the last cycle of
a publish. -/
theorem witness_ArraySteps : ((pan wPipe).tile 0).pipe = [⟨7, 15, some (List.replicate 16 0x3F800000#32), 0⟩] ∧
    wPipe.panel? 0 = some (pan wPipe) ∧ ((pan wGather).tile 0).gathers = [⟨0, List.replicate 16 64, List.replicate 16 0x7F#8,
    15, 17⟩] ∧ 64 ≤ ((pan wRamp).tile 0).quiet ∧ 0 < ((pan wRamp).tile 0).rampDown ∧ (∃ h ∈ (pan wRamp).hint, h ≤ (pan
    wRamp).live) ∧ (∀ h ∈ (pan wTile).hint, (pan wTile).live < h) ∧ (pan wTack).faulted = [] ∧ (pan wTack).tacks.find? (fun f
    => f.ch == 3 && tackDue wTack.cycle (pan wTack).live f) = some ⟨3, 0, false⟩ ∧ tackOverflow (pan wTack) 3 = none ∧
    (tackOverflow (pan wTackFull) 3).isSome = true ∧ (pan wTackFull).tacks.find? (fun f => f.ch == 3 && tackDue wTackFull.cycle
    (pan wTackFull).live f) = some ⟨3, 0, false⟩ ∧ canAdvance wPublish 0 (pan wPublish) = true ∧ (pan wPublish).publishHold = 1
    ∧ (pan wPublish).faulted = [] ∧ tkwaits (wPublish.setPanel 0 { pan wPublish with lastAdv := wPublish.cycle + 1 }) 0 = false ∧
    begunHolds (wPublish.setPanel 0 { pan wPublish with lastAdv := wPublish.cycle + 1 }) 0 { pan wPublish with lastAdv := wPublish.cycle + 1 } = [] ∧
    (∀ h ∈ (pan wPublish).holds, h.isFault = true ∨ h.found = true) ∧ (pan wRamp).hint.filter (fun k => decide (k ≤ (pan wRamp).live)) = [0] ∧ wSearch.panel? 0 = some (pan wSearch) ∧ rampOver (pan wTile) = false ∧ rampOver (pan wRampEnd) = true ∧ rampOver
    (pan wRampRow) = true ∧ canAdvance wRampRow 0 (pan wRampRow) = true ∧ (due wRampRow).panel? 0 = some (pan (due wRampRow)) ∧
    RowGoes (due wRampRow) 0 (pan (due wRampRow)) := by
  and_intros <;> first
    | decide +kernel
    | exact rowGoes_of (by decide +kernel)

/-- A panel that may not advance, one switching its schedule, one that runs a row; a beat to fetch; an image read and a malformed one; a placed
panel armed and prepared. -/
theorem witness_PanelSteps : canAdvance wStopped 0 (pan wStopped) = false ∧ canAdvance wSwitch 0 (pan wSwitch) = true ∧
    (due wSwitch).panel? 0 = some (pan (due wSwitch)) ∧ (pan (due wSwitch)).faulted = [] ∧ isHot (due wSwitch) (pan (due
    wSwitch)) = false ∧ (pan (due wSwitch)).publishHold = 0 ∧ tkwaits (due wSwitch) 0 = false ∧ inPhase (due wSwitch) (pan (due
    wSwitch)) = true ∧ 0 < (pan (due wSwitch)).switching ∧ gatherHolds (pan (due wSwitch)) (due wSwitch).cycle = [] ∧
    gatherFaults (pan (due wSwitch)) = [] ∧ canAdvance (wRow true) 0 (pan (wRow true)) = true ∧ (due (wRow
    true)).panel? 0 = some (pan (due (wRow true))) ∧ (pan (due (wRow true))).switching = 0 ∧ RowGoes (due (wRow true)) 0 (pan
    (due (wRow true))) ∧ canAdvance wUnowned 0 (pan wUnowned) = true ∧ RowGoes (due wUnowned) 0 (pan (due wUnowned)) ∧ (pan
    (wStream .running)).slot? 0 0 = some (wSlot .running) ∧ canFetch (pan (wStream .running)) 0 0 0 (wSlot .running) = true ∧
    elemsLeft (pan (wStream .running)) (wSlot .running) 0 ≠ [] ∧ okWith (readElems (wStream .running) 0 0 0 (blockOf (pan
    (wStream .running)) 0) (wSlot .running) (onePart (wSlot .running) (elemsLeft (pan (wStream .running)) (wSlot .running) 0)))
    (fun r => r.2.1.length == 8) = true ∧ agFree (pan (wStream .running)) (wStream .running).cycle 0 = true ∧
    (okWith (readElems (wStream .running) 0 0 0 (blockOf (pan (wStream .running)) 0) (wSlot .running) (elemsLeft (pan (wStream .running)) (wSlot .running) 0)) (fun r => let v := r.1.modPanel 0 (fun y => y.setSlot 0 0 (partsTaken (wSlot .running) 0 (elemsLeft (pan (wStream .running)) (wSlot .running) 0) r.2.1 r.2.2)); someWith ((pan v).slot? 0 0) fun sl => okWith (scaleLane v (pan v).uid (wSlot .running).spec (partOf sl 0).2.2) fun _ => true) = true)
    ∧ agFree (pan wTaken) wTaken.cycle 0 = false ∧ canFetch (pan wTaken) 0 0 0 (wSlot .running) = true ∧ trapWith (readElems
    wLost 0 0 0 (blockOf (pan wLost) 0) { wSlot .running with base := 0x90000#64 } (elemsLeft (pan wLost) { wSlot .running with
    base := 0x90000#64 } 0)) .xlate = true ∧ canFetch (pan wLost) 0 0 0 { wSlot .running with base := 0x90000#64 } = true ∧
    (wordRun (.mxAcz .always 1)).isSome = true ∧ TileWord (.mxAcz .always 1) wTile 0 0 (pan wTile) ∧ someWith (pan wReads).load
    (fun l => l.state == .reading) = true ∧
    ((match readImage wReads 0 (loadPriv wReads (pan wReads)) 0x42000#64 with | .ok r => loadFits (pan wReads) r.2 && ((rectBlocks 0 0 r.2.width r.2.height).all fun b => decide (r.2.entries ≤ freeEntries r.1 b)) && (r.1.panel? 0).isSome | .error _ => false) = true)
    ∧
    ((match readImage (wLoad .reading) 0 (loadPriv (wLoad .reading) (pan (wLoad .reading))) 0x40000#64 with | .ok _ => false | .error e => e == .bad) = true)
    ∧ (pan (wLoad .reading)).state ≠ .loading ∧ (pan wPlacing).state = .loading ∧ someWith (pan wPlacing).load (fun l =>
    l.state == .loaded && someWith l.image fun m => (armCheck m).isNone) = true ∧ (pan wPrep).state = .preparing ∧ someWith
    (FMap.get? wPrep.tasks 0) (fun t => t.frozen.isNone) = true ∧ (pan wPrep).prep ≤ wPrep.cycle ∧ (pan wPrep).image.strands ≤
    4 ∧ { wPrep with cycle := 255 }.cycle < (pan wPrep).prep := by
  and_intros <;> first
    | decide +kernel
    | exact rowGoes_of (by decide +kernel)
    | exact tileWord_of (by decide +kernel)

/-- A task with no dependence and one with; a cycle that is no multiple of 32; a task to admit; a garment that is over and one that is not; a run
that is over and one that is not, with a pass to come; a replay that begins, is refused, with one pending too, goes on and ends, and one of a
killed context. -/
theorem witness_TaskSteps : someWith (FMap.get? wWaiting.tasks 0) (fun t => t.state == .waiting && t.deps.isEmpty) = true ∧
    someWith (FMap.get? (modTask wWaiting 0 fun t => { t with deps := [.task 1] }).tasks 0) (fun t => !t.deps.isEmpty) = true ∧
    { wCore with cycle := 33 }.cycle % 32 ≠ 0 ∧ wReady.cycle % 32 = 0 ∧ wReady.blocked = none ∧ (wReady.tasks.filter fun c =>
    c.2.state == .barred).isEmpty = true ∧
    (someWith (FMap.get? wReady.tasks 0) (fun t => readyList wReady == [(0, t)] && (match place wReady t with | some (.thread n) => n == 0 | _ => false) && t.record.gpmask == 0#64 && t.frozen.isNone) = true)
    ∧ someWith (FMap.get? wOver.tasks 0) (fun t => garmentOver wOver t && t.fit.isNone) = true ∧ someWith (FMap.get? (wGarment
    false).tasks 0) (fun t => !garmentOver (wGarment false) t) = true ∧ someWith (FMap.get? (wRun .finished 1).tasks 0) (fun t
    => runOver (wRun .finished 1) t && !morePasses t) = true ∧ someWith (FMap.get? (wRun .running 1).tasks 0) (fun t =>
    !runOver (wRun .running 1) t) = true ∧ someWith (FMap.get? (wRun .finished 2).tasks 0) (fun t => runOver (wRun .finished 2)
    t && morePasses t) = true ∧ someWith (FMap.get? (wRun .finished 2).tasks 0) (fun t => someWith ((FMap.get? (cleanContext
    (recordCore (mergeTask (wRun .finished 2) 0) 0 t) t.ctx).tasks 0).bind (·.fit)) fun f =>
    !f.overflow) = true ∧ someWith (FMap.get? wOverrun.tasks 0) (fun t => runOver wOverrun t && morePasses t && someWith
    ((FMap.get? (cleanContext (recordCore (mergeTask wOverrun 0) 0 t) t.ctx).tasks 0).bind (·.fit)) fun f
    => f.overflow) = true ∧ (wPending.ctxt 0).greplay.pend = true ∧ (wPending.ctxt 0).greplay.begun = true ∧ (wPending.ctxt
    0).greplay.busy = true ∧ replayGoes wPending 0 = false ∧ ((wReplay true false).ctxt 0).greplay.busy = true ∧ (readGraph
    (wReplay true false) 0 1).isSome = true ∧ ((wReplay true false).ctxt 0).greplay.begun = false ∧ ((wReplay true false).ctxt
    0).greplay.running.toNat = 1 ∧ (readGraph (wReplay false false) 0 1).isNone = true ∧ ((wReplay false false).ctxt
    0).greplay.pend = false ∧ replayGoes (wReplay true true) 0 = false ∧ ((wReplay true true).ctxt 0).greplay.begun = true ∧
    replayGoes (addTask (wReplay true true) 0 0 (wRec false) .user true) 0 = true ∧ ((wReplay true false).ctxt 0).killed = false ∧
    inFlr (wReplay true false) 0 = false ∧ (wReplayOff.ctxt 0).greplay.busy = true ∧ (wReplayOff.ctxt 0).greplay.begun = false ∧
    (wReplayOff.ctxt 0).killed = true ∧ (wRefused.ctxt 0).greplay.busy = true ∧ (wRefused.ctxt 0).greplay.begun = false ∧
    (wRefused.ctxt 0).killed = false ∧ inFlr wRefused 0 = false ∧ (wRefused.ctxt 0).greplay.pend = true ∧
    (readGraph wRefused 0 (wRefused.ctxt 0).greplay.running.toNat).isNone = true := by
  and_intros <;> decide +kernel

/-- A line with dirty bytes of two seal domains and one with none, a queue with an update, a read and an `amo` at its head and an empty one, a line
to fill and to evict in a core and in the L2, a walk that maps and one that fails. -/
theorem witness_MemorySteps : wDirty.panel? 0 = some (pan wDirty) ∧ dirtyOf ((pan wDirty).tile 0) 0x400 ≠ [] ∧ dirtyOf
    ((pan wDirty).tile 0) 0x401 = [] ∧ FMap.getD wCore.homeQ 0 [] = [] ∧ FMap.getD wQueued.homeQ (sliceOf 0x40010) [] =
    [.update ⟨[(0x40010, 7#8)], 0, 0, false, [], none⟩] ∧ wQueued.tasks = [] ∧ Memory.wf wQueued.mem = true ∧ sealFits wQueued 0 (sectorOf
    0x40010) = true ∧ givesUp wQueued (.update ⟨[(0x40010, 7#8)], 0, 0, false, [], none⟩) (lineOf 0x40010) = false ∧
    FMap.getD wPast.homeQ (sliceOf 0x40000) [] = [.update ⟨cellsAt 0x40000 (List.replicate 32 3#8), 0, 0, true, [0x2000], none⟩] ∧
    wPast.poison = [0x2000, 0x2001] ∧ (∀ c ∈ cellsAt 0x40000 (List.replicate 32 3#8), sealFits wPast 0 (sectorOf c.1) = true ∧
      givesUp wPast (.update ⟨cellsAt 0x40000 (List.replicate 32 3#8), 0, 0, true, [0x2000], none⟩) (lineOf c.1) = false) ∧
    FMap.getD (asks (.ld .d 3 4 0)).homeQ (sliceOf 0x40000) [] = [.ask ⟨1, .core 0, 0x40000, 32, 0, 0, none⟩] ∧
    (asks (.ld .d 3 4 0)).tasks = [] ∧ FMap.get? (asks (.ld .d 3 4 0)).asked (.core 0) = some (wAsk (.ld .d 3 4 0)) ∧ (wAsk (.ld .d 3 4 0)).id = 1 ∧
    badSector (asks (.ld .d 3 4 0)) 0x40000 32 = none ∧
    (∀ l ∈ linesOf 0x40000 32, givesUp (asks (.ld .d 3 4 0)) (.ask ⟨1, .core 0, 0x40000, 32, 0, 0, none⟩) l = false) ∧
    (∀ k ∈ List.range 32, sealFits (asks (.ld .d 3 4 0)) 0 (sectorOf (0x40000 + k)) = true) ∧
    FMap.getD (asks (.amoAdd true 3 4 5)).homeQ (sliceOf 0x40010) [] = [.ask ⟨1, .core 0, 0x40010, 8, 0, 0, some (0, 0, 0)⟩] ∧
    FMap.get? (asks (.amoAdd true 3 4 5)).asked (.core 0) = some (wAsk (.amoAdd true 3 4 5)) ∧ (wAsk (.amoAdd true 3 4 5)).id = 1 ∧
    badSector (asks (.amoAdd true 3 4 5)) 0x40010 8 = none ∧
    (∀ l ∈ linesOf 0x40010 8, givesUp (asks (.amoAdd true 3 4 5)) (.ask ⟨1, .core 0, 0x40010, 8, 0, 0, some (0, 0, 0)⟩) l = false) ∧
    cacheable wFill 0x400 = true ∧ (wFill.core? 0).lastCtx = some 0 ∧ cacheable wFill (0x0F0000000000 / 256) = false ∧ frtFind
    wFill (0x400 * 256) = none ∧ (∀ i ∈ List.range 8, fillDom wFill 0 (8 * 0x400 + i) = 0) ∧ otherDomain wFill 0 0x400 = false ∧
    FMap.get? wFill.sides 0x400 = none ∧ okWith (translate { wCore with tlb := [] } ⟨some 3, 0,
    privOf 0, .write, 0, 0, 0, 0, 0⟩ 0x40000#64) (fun _ => true) = true ∧ trapWith (translate wCore ⟨some 3, 0, privOf 0,
    .read, 0, 0, 0, 0, 0⟩ 0x90000#64) .xlate = true := by
  and_intros <;> decide +kernel

/-- A tick reached and one ahead; a wait within its timeout, at it, and whose test traps; a value to take and none, a tack to take and none; a
load that waits for its home, answered, answered with poison, and of a held thread; a fault due; requests on no task, on a task that is not pre-emptible, on one
that is; a garment to stop, one to freeze, one that a copy still writes into, one whose load is still to be answered, and one frozen. -/
theorem witness_WaitAndTrapSteps : WaitsAt (wTick 0) (.core 0) ⟨.tickwait 3 4, 0, none, false⟩ ∧ NoTrip (.tickwait 3 4)
    ((wTick 0).thread (.core 0)) ∧ (((wTick 0).thread (.core 0)).get 4).toNat ≤ (wTick 0).tick.toNat ∧ WaitsAt (wTick 1) (.core
    0) ⟨.tickwait 3 4, 0, none, false⟩ ∧ (wTick 1).tick.toNat < (((wTick 1).thread (.core 0)).get 4).toNat ∧ (wCore.thread
    (.core 0)).wait = none ∧ FMap.get? wCore.asked (.core 0) = none ∧ WaitsAt (wSyncWait 5) (.core 0) ⟨.ldsync 3 4 0, 0, some 6, false⟩ ∧ scratchLoc { wSyncWait 5 with
    focus := .core 0 } (.core 0) (ruleAddr { wSyncWait 5 with focus := .core 0 } 4 0 8) 8 = some (.core 0 0) ∧ (ruleAddr { wSyncWait 5 with focus := .core 0 } 4 0 8).toNat % 8 = 0 ∧ isFull {
    wSyncWait 5 with focus := .core 0 } (.core 0) (.core 0 0) = false ∧ (wSyncWait 5).cycle - 0 < 6 ∧ 6 ≤ (wSyncWait 6).cycle -
    0 ∧ someWith (wDue.ctxt 0).delivery (fun d => d.2 == 0) = true ∧ (isHeld wDue (.core 0) = false ∧ (wDue.thread (.core
    0)).priv ≠ .machine ∧ FMap.get? wDue.asked (.core 0) = none) ∧ (wCore.ctxt 0).delivery = none ∧ findTask wCore ((5#64).setWidth 32) = none ∧ someWith (findTask
    (wPreempt true) 0x2000#32) (fun z => z.1 == 0 && z.2.ctx == 0 && z.2.state == .running && z.2.record.nonPreempt) = true ∧
    someWith (findTask (wPreempt false) 0x2000#32) (fun z => z.2.ctx == 0 && z.2.state == .running && !z.2.record.nonPreempt &&
    z.2.fit.isNone && z.2.thread == some 0) = true ∧ (((wPreempt false).ctxt 0).tvec.getLsbD 0 = true ∧ ((wPreempt false).ctxt
    0).trapcause.getLsbD 63 = false ∧ ((wPreempt false).ctxt 0).faultQ = [] ∧ ((wPreempt false).ctxt 0).delivery = none) ∧
    someWith (FMap.get? (wGarment false).tasks 0) (fun t => !t.wantFreeze) = true ∧ someWith (FMap.get? wFreezing.tasks 0) (fun
    t => t.wantFreeze && t.state == .running && !handled wFreezing 0 (taskId wFreezing 0) && !allStopped wFreezing t.panels &&
    !(t.panels.any fun p => ((wFreezing.panel? p).map fun x => x.state == .frozen).getD false)) = true ∧
    someWith (FMap.get? wStopping.tasks 0) (fun t => t.wantFreeze && t.state == .running && !handled wStopping 0 (taskId wStopping 0) &&
    !(t.panels.any fun p => ((wStopping.panel? p).map fun x => x.state == .frozen).getD false) && allStopped wStopping t.panels &&
    !landing wStopping t.panels && !asking wStopping t.panels && !(t.panels.any fun p =>
    isHeld wStopping (.seq p 0)) && (let v := t.panels.foldl freezePanel (withdrawFaults wStopping 0 (replayed (taskId wStopping 0)));
      (devWrite v 0 (slotAddr (v.ctxt 0) 0) (slotHeader v 0 t 1)).isSome)) = true ∧
    someWith (FMap.get? wLanding.tasks 0) (fun t => t.wantFreeze && t.state == .running && allStopped wLanding t.panels &&
      landing wLanding t.panels) = true ∧ someWith (FMap.get? wAsking.tasks 0) (fun t => allStopped wAsking t.panels && asking wAsking t.panels) = true ∧
    someWith (FMap.get? wFrozen.tasks 0) (fun t => t.wantFreeze && t.state == .running && allFrozen
    wFrozen t && !badReadout wFrozen t && someWith (writeSlot 0 (t.panels.zip ((panelOffsets wFrozen t.panels 256).map
    (slotAddr (wFrozen.ctxt 0) 0 + ·))) wFrozen) fun u =>
      (devWrite (slotWritten u 0 (slotAddr (wFrozen.ctxt 0) 0) (garmentBytes wFrozen 0)) 0 (slotAddr (wFrozen.ctxt 0) 0 + 8) [2#8]).isSome) = true ∧
    ((asks (.ld .d 3 4 0)).thread (.core 0)).wait = none ∧ FMap.get? (asks (.ld .d 3 4 0)).asked (.core 0) = some (wAsk (.ld .d 3 4 0)) ∧
    (wAsk (.ld .d 3 4 0)).reply = none ∧ takesAnswer { asks (.ld .d 3 4 0) with debugHolds := [(.core 0, 0)] } (.core 0) = false ∧
    takesAnswer (answered (.ld .d 3 4 0) none) (.core 0) = true ∧
    (wReply (.ld .d 3 4 0) none).reply = some (homeBytes wData 0 0x40000 32, none) ∧ (wAsk (.ld .d 3 4 0)).instr = .ld .d 3 4 0 ∧
    NoTrip (.ld .d 3 4 0) ((answered (.ld .d 3 4 0) none).thread (.core 0)) ∧ takesAnswer (answered (.ld .d 3 4 0) (some 5)) (.core 0) = true ∧
    WaitsAt wSyncBad (.core 0) ⟨.ldsync 3 4 0, 0, some 6, false⟩ ∧
    ((match waitPoll (waitView wSyncBad (.core 0) ⟨.ldsync 3 4 0, 0, some 6, false⟩) (.ldsync 3 4 0) with | some (.trap t) => t.cause == .ecc | _ => false) = true) ∧
    (waitPoll (waitView (wSyncWait 5) (.core 0) ⟨.ldsync 3 4 0, 0, some 6, false⟩) (.ldsync 3 4 0)).isNone = true ∧
    ((match waitPoll (waitView (wTick 0) (.core 0) ⟨.tickwait 3 4, 0, none, false⟩) (.tickwait 3 4) with | some (.ok _) => true | _ => false) = true) ∧
    WaitsAt (seqWait (.cond 3 4) (wQueue [.value 1] 0 wSeq)) (.seq 0 0) (plainWait (.cond 3 4)) ∧
    someWith ((waitView (seqWait (.cond 3 4) (wQueue [.value 1] 0 wSeq)) (.seq 0 0) (plainWait (.cond 3 4))).panel? 0)
      (fun x => (x.strand 0).queue == [.value 1#64]) = true ∧
    NoTrip (.cond 3 4) ((waitView (seqWait (.cond 3 4) (wQueue [.value 1] 0 wSeq)) (.seq 0 0) (plainWait (.cond 3 4))).thread (.seq 0 0)) ∧
    WaitsAt (seqWait (.cond 3 4) wSeq) (.seq 0 0) (plainWait (.cond 3 4)) ∧
    someWith ((waitView (seqWait (.cond 3 4) wSeq) (.seq 0 0) (plainWait (.cond 3 4))).panel? 0) (fun x => (x.strand 0).queue == []) = true ∧
    WaitsAt (seqWait (.tkwait 3 4) wSeq) (.seq 0 0) (plainWait (.tkwait 3 4)) ∧
    ((waitView (seqWait (.tkwait 3 4) wSeq) (.seq 0 0) (plainWait (.tkwait 3 4))).thread (.seq 0 0)).get 3 = 0#64 ∧
    someWith ((waitView (seqWait (.tkwait 3 4) wSeq) (.seq 0 0) (plainWait (.tkwait 3 4))).panel? 0) (fun x => x.agPending[0] == 0) = true ∧
    WaitsAt (seqWait (.tkwait 3 4) wClamped) (.seq 0 0) (plainWait (.tkwait 3 4)) ∧
    someWith ((waitView (seqWait (.tkwait 3 4) wClamped) (.seq 0 0) (plainWait (.tkwait 3 4))).panel? 0) (fun x => x.agPending[0] == 1) = true ∧
    NoTrip (.tkwait 3 4) ((waitView (seqWait (.tkwait 3 4) wClamped) (.seq 0 0) (plainWait (.tkwait 3 4))).thread (.seq 0 0)) := by
  and_intros <;> first
    | decide +kernel
    | exact waitsAt_of (by decide +kernel)
    | exact noTrip_of (by decide +kernel)

/-- A link that is heard and one that is not, the times of a measurement, the messages of a master; a correction owed; a beat in its frame slot and
a frame with none. -/
theorem witness_ClockSteps : clockHears wSync 1 = true ∧ clockHears wCore 1 = false ∧ wSync.clock.master = some 1 ∧
    wSync.clock.t2.isSome = true ∧ wSync.clock.t1 = some 100 ∧ wSync.clock.t2 = some 120 ∧ wSync.clock.t3 = some 130 ∧
    wSync.clock.owed = 0 ∧ { wSync with cycle := 1023, clock := { wSync.clock with owed := 3 } }.clock.lastFix + 1024 ≤ 1023 +
    1 ∧ FMap.get? wMaster.links 1 = some ⟨true, (0, 0), 0, 0, 0, 0, [], some 77⟩ ∧ wMaster.clock.master ≠ some 1 ∧ ((FMap.get?
    wSync.links 1).bind (·.syncAt)) = none ∧ (∀ c ∈ wPath.threads, c.2.wait = none) ∧ wPath.frames.filter (fun f => f.slot ==
    wPath.cycle % 256 && !f.half) = [⟨0, 0, 0, 0, false⟩] ∧ (taskPanels wPath 0)[0]? = some 0 ∧ wPath.panel? 0 = some (pan
    wPath) ∧ pathSender (pan wPath) 0 = some (0, ⟨0, 0, 0, 0, ⟨9, 0, false⟩⟩) ∧
    ((match receivePath wPath (pan wPath) ⟨0, 0, 0, 0, ⟨9, 0, false⟩⟩ with | .taken _ => true | _ => false) = true) ∧ (∀ f ∈
    wCore.frames, f.slot ≠ wCore.cycle % 256) := by
  and_intros <;> decide +kernel

/-- A closed window and an open one, on a page and on a sealed one, and one of a TDI in RUN; a reset with its commands over and one with a command
left; contexts that may and may not be enabled and disabled. -/
theorem witness_HostAndContextSteps : windowOpen wCore 0 = false ∧ windowOpen wWindow 0 = true ∧ (0 : Nat) + 1 ∉
    wWindow.tdiRun ∧ (0 : Nat) + 1 ∈ ({ wWindow with tdiRun := [1] } : State).tdiRun ∧ windowVa wWindow 0 0x40010 % 65536 + 8 ≤
    65536 ∧
    ((match windowPage wWindow 0 .read 0x40010 with | .at_ u pa => pa == 0x40010 && !poisoned u pa 8 | _ => false) = true) ∧
    ((match windowPage wWindow 0 .write 0x40010 with | .at_ _ pa => pa == 0x40010 | _ => false) = true) ∧ windowPage
    wSealedPage 0 .read (windowVa wSealedPage 0 0x40010) = .sealed ∧ (wFlr.ctxt 0).cstat.getLsbD 62 = true ∧ engineBusy wFlr 0
    = false ∧ engineBusy (wCopies []) 0 = true ∧ (State.reset.ctxt 0).cstat.getLsbD 63 = false ∧ (wKilled.ctxt 0).cstat.getLsbD
    63 = true ∧ (wKilled.ctxt 0).killed = true ∧ engineBusy wKilled 0 = false ∧ mayEnable State.reset wConfig = true ∧ State.reset.homeQ = [] ∧
    ((othersUp State.reset 0).any fun x => x.groups.contains 1) = false ∧ wConfig.ctx = 0 ∧
    mayEnable wCore wConfig = false ∧ wBoot.verified = true ∧ State.reset.rollback ≤ wBoot.rollback ∧ wBoot.rollback < {
    State.reset with rollback := 6 }.rollback := by
  and_intros <;> decide +kernel

/-- A link down and up, a flit with an error, payloads outside the window and at its edge, answers to a copy that waits and to none; keys; sessions;
a fault site; triggers met; snapshots that are discarded and written; a held thread; a load. -/
theorem witness_PlatformSteps : FMap.get? wLink.links 1 = some (wLk []) ∧ (¬ ((wLk []).window.1 ≤ 0x40001 ∧ 0x40001 + 64 ≤
    (wLk []).window.2 ∧ 64 ≤ 64)) ∧ ((wLk []).window.1 ≤ 0x40000 ∧ 0x40000 + 64 ≤ (wLk []).window.2) ∧ (wLk []).up = true ∧
    FMap.get? (wPeer false).links 1 = some ⟨false, (0, 0), 0, 0, 0, 0, [], none⟩ ∧ (chanOf wAnswer 0 0).queue = [wAsked] ∧
    FMap.get? wAnswer.links 1 = some (wLk []) ∧ wAsked.peer = 1 + 1 ∧ wAsked.unanswered ≠ 0 ∧ (¬ ((wCmd []).peer = 1 + 1 ∧
    (wCmd []).unanswered ≠ 0)) ∧ wSession.spdm.sessions.contains 0 = true ∧ ctxDomain wSession 0 = 5 ∧
    wCore.spdm.sessions.contains 0 = false ∧ 0 ∈ wSession.spdm.sessions ∧ wSeq.panel? 0 = some (pan wSeq) ∧ 7 < (pan
    wSeq).ntiles ∧ (wChalk.panels.any fun q => q.2.ctx == 0 && q.2.state != .frozen && chalkMet wChalk q.2) = true ∧
    (wSeq.panels.any fun q => q.2.ctx == 0 && q.2.state != .frozen && chalkMet wSeq q.2) = false ∧ (wFired.ctxt 0).chalkFired =
    [4] ∧ (wFired.ctxt 0).chalkbase.getLsbD 0 = false ∧ isHeld wHold (.core 0) = true ∧ wHold.holdAll = false ∧ (wSnap.ctxt
    0).chalkbase.getLsbD 0 = true ∧ ((wSnap.ctxt 0).chalkFired.any fun k => decide (k ≤ wSnap.cycle)) = true ∧
    wSnap.panels.filter (fun q => q.2.ctx == 0 && q.2.state != .frozen) = [(0, pan wSnap)] ∧ (pan wSnap).blocks = [0] ∧ (pan
    wSnap).holds = [] ∧ (pan wSnap).publishHold = 0 ∧ (pan wSnap).faulted = [] ∧ tkwaits wSnap 0 = false ∧ isHot wSnap (pan
    wSnap) = false ∧ (∀ k ∈ (pan wSnap).counters.toList, k.event = none) ∧ okWith (engWriteN (wSnap.setCtxt 0 { wSnap.ctxt 0
    with chalkFired := [] }) (engReq 0 .supervisor .write 7) 0 (some (.panel (pan wSnap).uid)) 0x40000#64 (snapshotRecord wSnap 0 (pan wSnap))) (fun _ => true)
    = true ∧ ([9#8, 8#8] : List Byte) ≠ [] ∧ (0x40010#64).toNat % 65536 + 2 ≤ 65536 ∧ (devWrite wCore 0 0x40010 [9#8,
    8#8]).isSome = true ∧ (match exec (.preemptRequest 0 (BitVec.setWidth 64 (0x2000#32))) (wPreempt false) with
      | .next u => someWith (findTask u 0x2000#32) fun z => z.2.ctx == 0 && !z.2.wantFreeze | _ => false) = true ∧
    (match exec (.preemptRequest 0 (BitVec.setWidth 64 (0x2000#32))) wUnfrozen with
      | .next u => someWith (findTask u 0x2000#32) fun z => z.2.ctx == 0 && z.2.wantFreeze | _ => false) = true := by
  and_intros <;> decide +kernel

/-- The word of an add, a word of no form, no page; an empty agenda; a load that its home queue takes, an add that it does not. -/
theorem witness_StepRunsDecoded : wAdd.agenda = [.party (.core 0)] ∧ mayRun { wAdd with agenda := [] } (.core 0) = true ∧
    atBreak { wAdd with agenda := [] } (.core 0) = false ∧ okWith (fetchAt { wAdd with agenda := [] } (.core 0) 0x40000#64)
    (fun r => r.2 == .instr (.add 3 4 5)) = true ∧ okWith (fetchWordAt wAdd (.core 0) 0x40000#64) (fun r => r.2 ==
    0x04642800#32) = true ∧ isLongFirst 0x04642800#32 = false ∧ decodeWord 0x04642800#32 = some (.add 3 4 5) ∧ okWith (fetchAt
    (bytesAt wAdd 0x40000 [0#8, 0#8, 0#8, 0#8]) (.core 0) 0x40000#64) (fun r => r.2 == .unassigned 0#32) = true ∧ trapWith
    (fetchAt wAdd (.core 0) 0x90000#64) .xlate = true ∧ wCore.agenda = [] ∧ isEvent .tick = true ∧
    askIssue (.add 3 4 5) { wAdd with agenda := [] } = none ∧ mayRun { wAdd with agenda := [], focus := .core 0 } (.core 0) = true ∧
    okWith (fetchAt wFetchLd (.core 0) 0x40000#64) (fun r => r.2 == .instr (.ld .d 3 4 0) && (askIssue (.ld .d 3 4 0) r.1).isSome) = true := by
  and_intros <;> decide +kernel

/-- A well-formed instruction of each width. -/
theorem witness_DecodeInvertsEncode : (Instr.add 3 4 5).wf = true ∧ (Instr.movi 7 0x123456789#49).wf = true ∧ (Instr.mxAcz
    .always 1).wf = true := by
  and_intros <;> decide +kernel

/-- A state whose memory is canonical and that steps. -/
theorem witness_MemoryStaysCanonical : Memory.wf wAdd.mem = true ∧
    ((match step wAdd with | .next t => Memory.wf t.mem | _ => false) = true) := by
  and_intros <;> decide +kernel

end Sys2Proof.Tests
end

section
/-! SUPPORT. The canonical list of cells: what a write makes of the byte at an address, and that every write keeps the canonical form. -/

namespace Sys2Proof.Machine

open Sys2Proof

theorem cellsAbove_cons {lo a : Nat} {b : Byte} {l : Cells} :
    cellsAbove lo ((a, b) :: l) = true ↔ lo ≤ a ∧ b ≠ 0#8 ∧ cellsAbove (a + 1) l = true := by
  simp [cellsAbove, and_assoc]

/-- A lower bound of the addresses listed may be lowered. -/
theorem cellsAbove_mono {lo hi : Nat} {m : Cells} (h : cellsAbove hi m = true) (hlo : lo ≤ hi) : cellsAbove lo m = true := by
  cases m with
  | nil => rfl
  | cons c l =>
    obtain ⟨ha, hrest⟩ := cellsAbove_cons.mp h
    exact cellsAbove_cons.mpr ⟨hlo.trans ha, hrest⟩

/-- An address below all that are listed reads as zero (log 10). -/
theorem readCell_of_lt {lo a : Nat} {m : Cells} (h : cellsAbove lo m = true) (ha : a < lo) : readCell m a = 0 := by
  cases m with
  | nil => rfl
  | cons c l =>
    have : a < c.1 := ha.trans_le (cellsAbove_cons.mp h).1
    simp [readCell, this, this.ne']

/-- A write below the addresses listed puts its cell at the head. -/
theorem writeCell_cons_of_lt {a a' : Nat} (b b' : Byte) (l : Cells) (h : a < a') :
    writeCell ((a', b') :: l) a b = if b = 0#8 then (a', b') :: l else (a, b) :: (a', b') :: l := by
  simp [writeCell, h]

theorem writeCell_cons_self (a : Nat) (b b' : Byte) (l : Cells) :
    writeCell ((a, b') :: l) a b = if b = 0#8 then l else (a, b) :: l := by
  simp [writeCell]

/-- A write above the address at the head goes on behind it. -/
theorem writeCell_cons_of_gt {a a' : Nat} (b b' : Byte) (l : Cells) (h : a' < a) :
    writeCell ((a', b') :: l) a b = (a', b') :: writeCell l a b := by
  simp [writeCell, h.not_gt, h.ne]

theorem cellsAbove_writeCell {lo a : Nat} {m : Cells} (b : Byte) (h : cellsAbove lo m = true) (ha : lo ≤ a) :
    cellsAbove lo (writeCell m a b) = true := by
  induction m generalizing lo with
  | nil => by_cases hb : b = 0#8 <;> simp [writeCell, cellsAbove, hb, ha]
  | cons c l ih =>
    obtain ⟨a', b'⟩ := c
    obtain ⟨hlo, hb', hl⟩ := cellsAbove_cons.mp h
    rcases lt_trichotomy a a' with hlt | rfl | hgt
    · rw [writeCell_cons_of_lt b b' l hlt]
      split
      · exact h
      · next hb => exact cellsAbove_cons.mpr ⟨ha, hb, cellsAbove_cons.mpr ⟨hlt, hb', hl⟩⟩
    · rw [writeCell_cons_self]
      split
      · exact cellsAbove_mono hl (by omega)
      · next hb => exact cellsAbove_cons.mpr ⟨hlo, hb, hl⟩
    · rw [writeCell_cons_of_gt b b' l hgt]
      exact cellsAbove_cons.mpr ⟨hlo, hb', ih hl hgt⟩

/-- In a canonical list the cell at the head answers for its own address alone. -/
theorem readCell_cons {lo a : Nat} {b : Byte} {l : Cells} (h : cellsAbove lo ((a, b) :: l) = true) (x : Nat) :
    readCell ((a, b) :: l) x = if x = a then b else readCell l x := by
  obtain ⟨_, _, hl⟩ := cellsAbove_cons.mp h
  rcases lt_trichotomy x a with hlt | rfl | hgt
  · simp [readCell, hlt, hlt.ne, hlt.ne', readCell_of_lt hl (hlt.trans a.lt_succ_self)]
  · simp [readCell]
  · simp [readCell, hgt.not_gt, hgt.ne, hgt.ne']

/-- After a write the address reads as the byte written, every other as before. -/
theorem readCell_writeCell {lo : Nat} {m : Cells} (h : cellsAbove lo m = true) (a : Nat) (b : Byte) (x : Nat) :
    readCell (writeCell m a b) x = if x = a then b else readCell m x := by
  induction m generalizing lo with
  | nil => by_cases hb : b = 0#8 <;> simp [writeCell, readCell, hb, eq_comm]
  | cons c l ih =>
    obtain ⟨a', b'⟩ := c
    obtain ⟨_, hb', hl⟩ := cellsAbove_cons.mp h
    have hw : cellsAbove 0 (writeCell ((a', b') :: l) a b) = true :=
      cellsAbove_writeCell b (cellsAbove_mono h lo.zero_le) a.zero_le
    rcases lt_trichotomy a a' with hlt | rfl | hgt
    · rw [writeCell_cons_of_lt b b' l hlt] at hw ⊢
      by_cases hb : b = 0#8
      · have hzero : readCell ((a', b') :: l) a = 0#8 := readCell_of_lt (cellsAbove_cons.mpr ⟨le_rfl, hb', hl⟩) hlt
        by_cases hx : x = a <;> simp [hb, hx, hzero]
      · rw [if_neg hb] at hw ⊢
        exact readCell_cons hw x
    · rw [writeCell_cons_self] at hw ⊢
      rw [readCell_cons h]
      by_cases hb : b = 0#8
      · by_cases hx : x = a <;> simp [hb, hx, readCell_of_lt hl]
      · rw [if_neg hb] at hw ⊢
        rw [readCell_cons hw]
        split <;> rfl
    · rw [writeCell_cons_of_gt b b' l hgt] at hw ⊢
      rw [readCell_cons hw, readCell_cons h, ih hl]
      by_cases hx : x = a' <;> simp [hx, hgt.ne]

/-- The canonical form is kept by every write. -/
theorem wf_writeCell {m : Cells} (h : Memory.wf m = true) (a : Nat) (b : Byte) : Memory.wf (writeCell m a b) = true :=
  cellsAbove_writeCell b h a.zero_le

theorem wf_writeCells {m : Cells} (h : Memory.wf m = true) (cs : Cells) : Memory.wf (writeCells m cs) = true := by
  induction cs generalizing m with
  | nil => exact h
  | cons c cs ih => exact ih (wf_writeCell h c.1 c.2)

/-- The addresses of bytes laid out from an address upward. -/
theorem addr_of_mem_cellsAt {a : Nat} {bs : List Byte} {c : Host.Cell} (h : c ∈ cellsAt a bs) :
    ∃ k, k < bs.length ∧ c.1 = a + k := by
  induction bs generalizing a with
  | nil => simp [cellsAt] at h
  | cons b bs ih =>
    rcases List.mem_cons.mp h with rfl | h
    · exact ⟨0, by simp⟩
    · obtain ⟨k, hk, hc⟩ := ih h
      exact ⟨k + 1, by simpa using hk, by omega⟩

/-- Bytes laid out from an address upward read back there, and every other address reads as before (R1). -/
theorem readCell_writeCells_cellsAt {m : Cells} (h : Memory.wf m = true) (a : Nat) (bs : List Byte) (x : Nat) :
    readCell (writeCells m (cellsAt a bs)) x = if a ≤ x ∧ x < a + bs.length then bs.getD (x - a) 0 else readCell m x := by
  induction bs generalizing m a with
  | nil => simp [cellsAt, writeCells, show ¬(a ≤ x ∧ x < a) by omega]
  | cons b bs ih =>
    rw [cellsAt, writeCells, ih (wf_writeCell h a b), readCell_writeCell h, List.length_cons]
    rcases lt_trichotomy x a with hlt | rfl | hgt
    · simp [hlt.not_ge, hlt.ne, show ¬ a + 1 ≤ x by omega]
    · simp
    · obtain ⟨k, rfl⟩ : ∃ k, x = a + 1 + k := ⟨x - (a + 1), by omega⟩
      simp [show a + 1 + k - a = k + 1 by omega, show a + 1 + k ≠ a by omega,
        show a ≤ a + 1 + k by omega, show a + 1 + k < a + (bs.length + 1) ↔ k < bs.length by omega]

end Sys2Proof.Machine
end

section
/-! SUPPORT. What a write at the homes leaves in memory, where its slices' queues are empty and no line or sector of it changes domain. -/

namespace Sys2Proof.Machine

open Sys2Proof

/-- A fold whose every step leaves the state as it is. -/
theorem foldl_eq_self {α : Type} {f : State → α → State} {s : State} {l : List α} (h : ∀ x ∈ l, f s x = s) :
    l.foldl f s = s :=
  List.foldlRecOn l f (motive := (· = s)) rfl fun _ hb x hx => hb ▸ h x hx

/-- A slice at which nothing waits performs nothing (R99). -/
theorem flushSlice_of_empty {s : State} {h : Nat} (hq : FMap.getD s.homeQ h [] = []) : flushSlice s h = s := by
  simp [flushSlice, flushWith, hq]

/-- A request for which the L2 gives up no line is performed on the home copies alone (R80, R99). -/
theorem performAt_eq_landReq {s : State} {r : HomeReq} (h : ∀ l ∈ r.names.2, givesUp s r l = false) (n : Nat) :
    performAt n s r = landReq s r := by
  cases n with
  | zero => rfl
  | succ n => simp only [performAt]; rw [foldl_eq_self fun l hl => by simp [h l hl]]

/-- With no task in the table no page is captured (R202). -/
theorem captureFor_of_no_tasks {s : State} (h : s.tasks = []) (task : BitVec 32) (pa : Nat) : captureFor s task pa = s := by
  simp [captureFor, h]

/-- A sector written under its own domain keeps its tag and its bytes (R80). -/
theorem sealSector_of_fits {s : State} {dom sec : Nat} (h : sealFits s dom sec = true) : sealSector s dom sec = s := by
  simp [sealSector, h]

@[simp] theorem setL2Dom_mem (s : State) (dom line : Nat) : (setL2Dom s dom line).mem = s.mem := rfl

@[simp] theorem l2Written_mem (s : State) (u : Update) : (l2Written s u).mem = s.mem := by
  unfold l2Written
  split
  · rfl
  · exact List.foldlRecOn _ _ (motive := fun t : State => t.mem = s.mem) rfl fun t ht l _ => ht

@[simp] theorem releaseWords_mem (s : State) (written : Nat → Bool) : (releaseWords s written).mem = s.mem := by
  unfold releaseWords
  split <;> rfl

/-- An update whose sectors belong to its domain, with no task, writes its cells and no other byte (R99). -/
theorem landUpdate_mem {s : State} {u : Update} (ht : s.tasks = []) (hs : ∀ c ∈ u.cells, sealFits s u.dom (sectorOf c.1) = true) :
    (landUpdate s u).mem = writeCells s.mem u.cells := by
  have hcap : (u.cells.map (·.1)).foldl (fun s a => captureFor s u.task a) s = s :=
    foldl_eq_self fun a _ => captureFor_of_no_tasks ht u.task a
  have hseal : ((u.cells.map fun c => sectorOf c.1).dedup).foldl (fun s sec => sealSector s u.dom sec) s = s :=
    foldl_eq_self fun sec hsec => by
      obtain ⟨c, hc, rfl⟩ : ∃ c ∈ u.cells, sectorOf c.1 = sec := by simpa using hsec
      exact sealSector_of_fits (hs c hc)
  simp only [landUpdate, hcap, hseal, releaseWords_mem, l2Written_mem]

/-- A write at the homes, with nothing waiting there, no task, and sectors and lines of the writer's domain, writes its bytes (R80, R99). -/
theorem writeHomeNow_mem {s : State} {dom pa : Nat} {bs : List Byte} (task : BitVec 32) (w : Option Writer)
    (hq : ∀ h ∈ slicesOf pa bs.length, FMap.getD s.homeQ h [] = []) (ht : s.tasks = [])
    (hd : ∀ k, k < bs.length → sealFits s dom (sectorOf (pa + k)) = true ∧ otherDomain s dom (lineOf (pa + k)) = false) :
    (writeHomeNow s dom task pa bs w).mem = writeCells s.mem (cellsAt pa bs) := by
  have hcell : ∀ c ∈ cellsAt pa bs, sealFits s dom (sectorOf c.1) = true ∧ otherDomain s dom (lineOf c.1) = false := by
    intro c hc
    obtain ⟨k, hk, hck⟩ := addr_of_mem_cellsAt hc
    exact hck ▸ hd k hk
  have hline : ∀ l ∈ cellLines (cellsAt pa bs), otherDomain s dom l = false := by
    intro l hl
    obtain ⟨c, hc, rfl⟩ : ∃ c ∈ cellsAt pa bs, lineOf c.1 = l := by simpa [cellLines] using hl
    exact (hcell c hc).2
  unfold writeHomeNow applyUpdate perform
  rw [foldl_eq_self fun h hh => flushSlice_of_empty (hq h hh), performAt_eq_landReq]
  · exact landUpdate_mem ht fun c hc => (hcell c hc).1
  · intro l hl
    simp [givesUp, HomeReq.names, hline l hl]

end Sys2Proof.Machine
end

section
/-! PROOFS. The statements of the scope: memory at its home, the state after reset. -/

namespace Sys2Proof

open Machine

/-- Settles O20: a write at the homes is a write of its cells to the canonical list. -/
theorem homeWriteReadsBack : Obligations.HomeWriteReadsBack := by
  intro s dom task pa bs w hwf hq ht hd
  rw [writeHomeNow_mem task w hq ht hd]
  exact ⟨readCell_writeCells_cellsAt hwf pa bs, wf_writeCells hwf _⟩

/-- No thread runs after reset: the one listed and every other one are idle (log 5, log 30). -/
theorem reset_thread_idle (p : Party) : (State.reset.thread p).status = .idle := by
  by_cases h : Party.core 32 = p <;> simp [State.thread, State.reset, FMap.getD, FMap.get?, h, Thread.clear]

/-- No context is listed after reset (R352). -/
theorem reset_ctxt (c : Nat) : State.reset.ctxt c = Context.clear := rfl

/-- Settles O59, field by field of the reset state. -/
theorem resetState : Obligations.ResetState := by
  refine ⟨rfl, rfl, rfl, rfl, rfl, rfl, rfl, rfl, rfl, rfl, rfl, rfl, fun c => ?_, rfl, reset_thread_idle⟩
  rw [reset_ctxt]
  exact ⟨rfl, rfl, rfl, rfl⟩

end Sys2Proof
end

section
/-! SUPPORT. What the memory system changes (R80-R101, R311, R327): its own fields, tasks and contexts, cores, and the counters of panels.
Threads, the focus, the cycle and the clock stay. -/

namespace Sys2Proof.Machine

open Sys2Proof

theorem get_mapVals {κ α : Type} [DecidableEq κ] (f : κ → α → α) (m : FMap κ α) (k : κ) :
    FMap.get? (mapVals f m) k = (FMap.get? m k).map (f k) := by
  induction m with
  | nil => rfl
  | cons c l ih =>
    obtain ⟨k', v⟩ := c
    by_cases h : k' = k
    · subst h; simp [mapVals, FMap.get?]
    · simpa [mapVals, FMap.get?, h] using ih

/-- A task but for the dependences it has still to meet and what its fitting run records, with the pass of that run. -/
def taskCore (t : TaskEntry) : TaskEntry × Option Nat := ({ t with deps := [], fit := none }, t.fit.map (·.pass))

/-- Nothing has changed but what the memory system holds, its marks on tasks, contexts and cores, and counters of panels. -/
structure HomeFrame (s t : State) : Prop where
  rest : t = { s with
    fresh := t.fresh, contexts := t.contexts, panels := t.panels, tasks := t.tasks, mem := t.mem, homeQ := t.homeQ, asked := t.asked
    poison := t.poison, seals := t.seals, sides := t.sides, l2 := t.l2, l2Dom := t.l2Dom, l2Dirty := t.l2Dirty, tlb := t.tlb
    cores := t.cores }
  panels : ∀ p, (t.panel? p).map uncounted = (s.panel? p).map uncounted
  tasks : ∀ e, (FMap.get? t.tasks e).map taskCore = (FMap.get? s.tasks e).map taskCore

theorem HomeFrame.refl (s : State) : HomeFrame s s := ⟨rfl, fun _ => rfl, fun _ => rfl⟩

theorem HomeFrame.trans {s t u : State} (h : HomeFrame s t) (k : HomeFrame t u) : HomeFrame s u :=
  ⟨by rw [k.rest, h.rest], fun p => (k.panels p).trans (h.panels p), fun e => (k.tasks e).trans (h.tasks e)⟩

theorem HomeFrame.focus {s t : State} (h : HomeFrame s t) : t.focus = s.focus := by rw [h.rest]
theorem HomeFrame.threads {s t : State} (h : HomeFrame s t) : t.threads = s.threads := by rw [h.rest]
theorem HomeFrame.cycle {s t : State} (h : HomeFrame s t) : t.cycle = s.cycle := by rw [h.rest]
theorem HomeFrame.thread {s t : State} (h : HomeFrame s t) (p : Party) : t.thread p = s.thread p := by
  rw [State.thread, State.thread, h.threads]
theorem HomeFrame.cur {s t : State} (h : HomeFrame s t) : t.cur = s.cur := by rw [State.cur, State.cur, h.focus, h.thread]

/-- A fold of steps that keep the frame keeps it. -/
theorem HomeFrame.foldl {α : Type} {f : State → α → State} (hf : ∀ s x, HomeFrame s (f s x)) (l : List α) (s : State) :
    HomeFrame s (l.foldl f s) :=
  List.foldlRecOn l f (motive := HomeFrame s) (.refl s) fun _ h x _ => h.trans (hf _ x)

theorem HomeFrame.ite {s t u : State} {P : Prop} [Decidable P] (h : HomeFrame s t) (k : HomeFrame s u) :
    HomeFrame s (if P then t else u) := by
  split
  · exact h
  · exact k

theorem homeFrame_store (s : State) (m : Cells) (se : FMap Nat (Nat × Nat)) (po : List Nat) (d : List DirtyRun) :
    HomeFrame s { s with mem := m, seals := se, poison := po, l2Dirty := d } := ⟨rfl, fun _ => rfl, fun _ => rfl⟩

theorem homeFrame_setTasks {s : State} {ts : FMap Nat TaskEntry}
    (h : ∀ e, (FMap.get? ts e).map taskCore = (FMap.get? s.tasks e).map taskCore) : HomeFrame s { s with tasks := ts } :=
  ⟨rfl, fun _ => rfl, h⟩

/-- A task whose core stays. -/
theorem homeFrame_setTask {s : State} {e : Nat} {t t' : TaskEntry} (ht : FMap.get? s.tasks e = some t) (h : taskCore t' = taskCore t) :
    HomeFrame s { s with tasks := FMap.set s.tasks e t' } :=
  homeFrame_setTasks fun j => by
    by_cases hj : j = e
    · subst hj; simp [ht, h]
    · rw [get_set_other _ _ hj]

theorem homeFrame_setHomeQ (s : State) (q : FMap Nat (List HomeReq)) : HomeFrame s { s with homeQ := q } :=
  ⟨rfl, fun _ => rfl, fun _ => rfl⟩

theorem homeFrame_setTlb (s : State) (n : Nat) (l : List TlbEntry) : HomeFrame s { s with fresh := n, tlb := l } :=
  ⟨rfl, fun _ => rfl, fun _ => rfl⟩

/-! ## Counts, sectors, evictions -/

/-- Counters of the panels that a test selects take a change. -/
theorem homeFrame_countPanels (s : State) (sel : Panel → Bool) (f : Panel → Panel) (hf : ∀ x, uncounted (f x) = uncounted x) :
    HomeFrame s { s with panels := mapVals (fun _ x => if sel x then f x else x) s.panels } := by
  refine ⟨rfl, fun p => ?_, fun _ => rfl⟩
  simp only [State.panel?, get_mapVals, Option.map_map]
  congr 1
  funext x
  by_cases h : sel x <;> simp [h, hf]

theorem homeFrame_setCore (s : State) (c : Nat) (x : Core) : HomeFrame s (s.setCore c x) := ⟨rfl, fun _ => rfl, fun _ => rfl⟩

theorem homeFrame_countBurst (s : State) (w : Option Writer) (ev sec : Nat) : HomeFrame s (countBurst s w ev sec) := by
  unfold countBurst
  split
  split
  · exact homeFrame_setCore ..
  · simpa using homeFrame_countPanels s (fun x => x.uid == _) (fun x => { x with counters := x.counters.map _ }) fun _ => rfl
  · exact .refl s

theorem homeFrame_countWriter (s : State) (w : Option Writer) (ev n : Nat) : HomeFrame s (countWriter s w ev n) := by
  unfold countWriter
  split
  · exact homeFrame_setCore ..
  · simpa using homeFrame_countPanels s (fun x => x.uid == _) (fun x => x.count ev n) fun _ => rfl
  · exact .refl s

theorem homeFrame_countFault (s : State) (c lo len : Nat) (cause : Cause) : HomeFrame s (countFault s c lo len cause) :=
  ⟨rfl, fun _ => rfl, fun _ => rfl⟩

theorem homeFrame_setL2Dom (s : State) (dom line : Nat) : HomeFrame s (setL2Dom s dom line) := ⟨rfl, fun _ => rfl, fun _ => rfl⟩

theorem homeFrame_fillSector (w : Option Writer) (dom : Nat) (s : State) (sec : Nat) : HomeFrame s (fillSector w dom s sec) := by
  have hset : HomeFrame s (setL2Dom { s with l2 := sec :: s.l2 } dom (sec / 8)) := ⟨rfl, fun _ => rfl, fun _ => rfl⟩
  exact (hset.trans (homeFrame_countBurst ..)).ite hset |>.ite (.refl s)

theorem homeFrame_cleanRange (s : State) (lo hi : Nat) : HomeFrame s (cleanRange s lo hi) := by
  unfold cleanRange
  have h := HomeFrame.foldl (f := fun s c => countBurst s c.2 48 c.1) (fun s c => homeFrame_countBurst s c.2 48 c.1)
    ((dirtyIn s.l2Dirty lo hi).filter fun c => paKind s (32 * c.1) == .first) s
  exact h.trans ⟨rfl, fun _ => rfl, fun _ => rfl⟩

theorem homeFrame_countPoison (s : State) (line : Nat) : HomeFrame s (countPoison s line) :=
  (HomeFrame.foldl (fun s c => homeFrame_countFault s c 16 16 .ecc) _ s).ite (.refl s)

theorem homeFrame_l2Drop (s : State) (line : Nat) : HomeFrame s (l2Drop s line) := ⟨rfl, fun _ => rfl, fun _ => rfl⟩

section
variable {wr : State → Nat → Update → State} (hwr : ∀ s pa u, HomeFrame s (wr s pa u))
include hwr

theorem homeFrame_evictSideWith (s : State) (line : Nat) : HomeFrame s (evictSideWith wr s line) := by
  unfold evictSideWith
  split
  · exact .refl s
  · next sb _ =>
    have herase : HomeFrame s { s with sides := FMap.erase s.sides line } := ⟨rfl, fun _ => rfl, fun _ => rfl⟩
    dsimp only
    split
    · exact herase.ite (herase.trans (hwr ..))
    · exact herase.trans (homeFrame_countWriter ..)

theorem homeFrame_evictWith (s : State) (line : Nat) : HomeFrame s (evictWith wr s line) :=
  (homeFrame_evictSideWith hwr s line).trans <| (homeFrame_countPoison ..).trans <|
    (homeFrame_cleanRange ..).trans (homeFrame_l2Drop ..)

end

/-! ## Requests performed at the home (R99) -/

theorem homeFrame_sealSector (s : State) (dom sec : Nat) : HomeFrame s (sealSector s dom sec) := by
  unfold sealSector
  split
  · exact .refl s
  · exact homeFrame_store s _ _ s.poison s.l2Dirty

theorem homeFrame_releaseWords (s : State) (written : Nat → Bool) : HomeFrame s (releaseWords s written) := by
  unfold releaseWords
  split
  · exact .refl s
  · refine homeFrame_setTasks fun e => ?_
    have h := get_mapVals (fun _ t => { t with deps := t.deps.filter fun d => !(wordTouched written d && wordMet s d) }) s.tasks e
    exact (congrArg _ h).trans (Option.map_map ..)

theorem homeFrame_copyPage (s : State) (src dst : Nat) (tags : FMap Nat (Nat × Nat)) : HomeFrame s (copyPage s src dst tags) := by
  unfold copyPage
  exact (homeFrame_store s _ _ _ _).trans (homeFrame_releaseWords ..)

theorem homeFrame_capturePage {s : State} {entry : Nat} {e : TaskEntry} {f : Fitting} (page : Nat)
    (he : FMap.get? s.tasks entry = some e) (hf : e.fit = some f) : HomeFrame s (capturePage s entry e f page) := by
  unfold capturePage
  have hcopy := homeFrame_copyPage s (page * 65536) (f.bufferPas.getD f.captured.length 0) (bufferTags s e.ctx)
  have htask := hcopy.tasks entry
  rw [he] at htask
  obtain ⟨e', he', hcore⟩ := Option.map_eq_some_iff.mp htask
  refine hcopy.trans (homeFrame_setTask he' ?_)
  rw [hcore]
  simp only [FMap.getD, he', Option.getD_some]
  have hcore' := congrArg Prod.fst hcore
  exact Prod.ext hcore' (by simp [taskCore, hf])

theorem homeFrame_captureFor (s : State) (task : BitVec 32) (pa : Nat) : HomeFrame s (captureFor s task pa) := by
  unfold captureFor
  dsimp only
  split
  · next e he =>
    split
    · next f hf =>
      split
      · split
        · exact homeFrame_capturePage _ he hf
        · exact homeFrame_setTask he (Prod.ext rfl (by simp [taskCore, hf]))
      · exact .refl s
    · exact .refl s
  · exact .refl s

theorem homeFrame_l2Written (s : State) (u : Update) : HomeFrame s (l2Written s u) := by
  unfold l2Written
  split
  · exact .refl s
  · exact (homeFrame_store s s.mem s.seals s.poison _).trans (HomeFrame.foldl (fun s l => homeFrame_setL2Dom s u.dom l) _ _)

theorem homeFrame_landUpdate (s : State) (u : Update) : HomeFrame s (landUpdate s u) := by
  have hcapture := HomeFrame.foldl (fun s a => homeFrame_captureFor s u.task a) (u.cells.map (·.1)) s
  have hseal := HomeFrame.foldl (fun s sec => homeFrame_sealSector s u.dom sec) ((u.cells.map fun c => sectorOf c.1).dedup)
  exact hcapture.trans <| (hseal _).trans <| (homeFrame_store ..).trans <| (homeFrame_l2Written ..).trans (homeFrame_releaseWords ..)

theorem homeFrame_answerL1 (s : State) (a : HomeAsk) (bs : List Byte) : HomeFrame s (answerL1 s a bs) := by
  unfold answerL1
  split
  · exact (HomeFrame.refl s).ite (homeFrame_setCore ..)
  · exact .refl s

/-- An answer noted for the thread that waits for it. -/
def noteReply (s : State) (a : HomeAsk) (r : List Byte × Option Nat) : State :=
  match FMap.get? s.asked a.party with
  | some q => if q.id = a.id then { s with asked := FMap.set s.asked a.party { q with reply := some r } } else s
  | none => s

theorem homeFrame_noteReply (s : State) (a : HomeAsk) (r : List Byte × Option Nat) : HomeFrame s (noteReply s a r) := by
  unfold noteReply
  split
  · split
    · exact ⟨rfl, fun _ => rfl, fun _ => rfl⟩
    · exact .refl s
  · exact .refl s

theorem homeFrame_answerAsk (s : State) (a : HomeAsk) : HomeFrame s (answerAsk s a) := by
  refine HomeFrame.trans ?_ (homeFrame_noteReply _ a (homeBytes s a.dom a.pa a.n, badSector s a.pa a.n))
  split
  · exact (HomeFrame.refl s).ite (homeFrame_landUpdate ..)
  · exact (HomeFrame.refl s).ite (homeFrame_answerL1 ..)

theorem homeFrame_landReq (s : State) (r : HomeReq) : HomeFrame s (landReq s r) := by
  cases r
  · exact homeFrame_landUpdate ..
  · exact homeFrame_answerAsk ..

theorem homeFrame_flushWith {f : State → HomeReq → State} (hf : ∀ s r, HomeFrame s (f s r)) (s : State) (h : Nat) :
    HomeFrame s (flushWith f s h) := by
  unfold flushWith
  split
  · exact .refl s
  · exact (homeFrame_setHomeQ ..).trans (HomeFrame.foldl hf _ _)

theorem homeFrame_performAt (n : Nat) (s : State) (r : HomeReq) : HomeFrame s (performAt n s r) := by
  induction n generalizing s r with
  | zero => exact homeFrame_landReq s r
  | succ n ih =>
    refine HomeFrame.trans (HomeFrame.foldl (fun s l => ?_) _ s) (homeFrame_landReq ..)
    exact (homeFrame_evictWith (fun s pa u => (homeFrame_flushWith ih s _).trans (ih ..)) s l).ite (.refl s)

theorem homeFrame_perform (s : State) (r : HomeReq) : HomeFrame s (perform s r) := homeFrame_performAt ..

theorem homeFrame_flushSlice (s : State) (h : Nat) : HomeFrame s (flushSlice s h) := homeFrame_flushWith homeFrame_perform s h

theorem homeFrame_writeHomeNow (s : State) (dom : Nat) (task : BitVec 32) (pa : Nat) (bs : List Byte) (w : Option Writer) :
    HomeFrame s (writeHomeNow s dom task pa bs w) := by
  unfold writeHomeNow applyUpdate
  exact (HomeFrame.foldl homeFrame_flushSlice _ s).trans (homeFrame_perform ..)

theorem homeFrame_pushReq (s : State) (pa : Nat) (r : HomeReq) : HomeFrame s (pushReq s pa r) := ⟨rfl, fun _ => rfl, fun _ => rfl⟩

/-! ## Reads and fills (R80-R84) -/

theorem homeFrame_evictL2 (s : State) (line : Nat) : HomeFrame s (evictL2 s line) := by
  refine homeFrame_evictWith (fun s pa u => ?_) s line
  unfold writeBehind applyUpdate
  exact (homeFrame_flushSlice s _).trans (homeFrame_perform ..)

theorem homeFrame_l2Meet (s : State) (dom line : Nat) : HomeFrame s (l2Meet s dom line) := (homeFrame_evictL2 s line).ite (.refl s)

theorem homeFrame_l2Reads (s : State) (dom pa n : Nat) : HomeFrame s (l2Reads s dom pa n) :=
  HomeFrame.foldl (fun s l => homeFrame_l2Meet s dom l) _ s

theorem homeFrame_fillSide (s : State) (line : Nat) : HomeFrame s (fillSide s line) := by
  unfold fillSide
  refine (HomeFrame.refl s).ite ?_
  split
  · exact .refl s
  · exact ⟨rfl, fun _ => rfl, fun _ => rfl⟩

theorem homeFrame_fillLine (w : Option Writer) (dom : Nat) (s : State) (line : Nat) : HomeFrame s (fillLine w dom s line) := by
  unfold fillLine
  refine (HomeFrame.refl s).ite ?_
  split
  · exact .refl s
  · exact (homeFrame_fillSide s line).trans <| (HomeFrame.foldl (homeFrame_fillSector w dom) _ _).trans <|
      (homeFrame_l2Meet ..).trans (homeFrame_fillSector ..)

theorem homeFrame_l2Sector (w : Option Writer) (dom : Nat) (s : State) (sec : Nat) : HomeFrame s (l2Sector w dom s sec) :=
  have hmeet := homeFrame_l2Meet s dom (sec / 8)
  hmeet.ite (hmeet.trans ((homeFrame_fillLine ..).trans (homeFrame_fillSector ..)))

theorem homeFrame_l2Fill (s : State) (w : Option Writer) (dom pa n : Nat) : HomeFrame s (l2Fill s w dom pa n) :=
  HomeFrame.foldl (homeFrame_l2Sector w dom) _ s

theorem homeFrame_readHome (s : State) (dom pa n : Nat) : HomeFrame s (readHome s dom pa n).1 := homeFrame_flushSlice ..

/-- A read that its home answers at once. -/
theorem homeFrame_homeRead {s t : State} {dom pa n : Nat} {bs : List Byte} (h : homeRead s dom pa n = .ok (t, bs)) : HomeFrame s t := by
  unfold homeRead at h
  dsimp only at h
  split at h
  · cases h
  · cases h
    exact (homeFrame_flushSlice ..).trans (homeFrame_l2Reads ..)

/-! ## Translation (R90-R94) -/

theorem homeFrame_walkFrom (s : State) (c va : Nat) (ls : List (Nat × Nat)) (table : Nat) :
    HomeFrame s (walkFrom s c va ls table).1 := by
  induction ls generalizing s table with
  | nil => exact .refl s
  | cons l rest ih =>
    obtain ⟨level, sh⟩ := l
    have hread := homeFrame_readHome s 0 (table + 8 * (va / 2 ^ sh % 8192)) 8
    unfold walkFrom
    dsimp only
    split_ifs
    · exact hread
    · exact hread
    · exact hread
    · exact hread
    · exact hread.trans (ih ..)

theorem homeFrame_walk (s : State) (c va : Nat) : HomeFrame s (walk s c va).1 := by
  unfold walk
  dsimp only
  split_ifs
  · exact .refl s
  · exact .refl s
  · exact homeFrame_walkFrom ..

theorem homeFrame_markLeaf (s : State) (a : Nat) (e : Word) (w : Bool) : HomeFrame s (markLeaf s a e w).1 := by
  unfold markLeaf
  dsimp only
  rw [apply_ite Prod.fst]
  dsimp only
  exact (HomeFrame.refl s).ite (homeFrame_writeHomeNow ..)

theorem homeFrame_tlbInsert (s : State) (unit : Option Nat) (c va level : Nat) (e : Word) : HomeFrame s (tlbInsert s unit c va level e) := by
  unfold tlbInsert
  split
  · exact .refl s
  · dsimp only
    split
    · exact homeFrame_setTlb s s.fresh _
    · exact homeFrame_setTlb ..

theorem homeFrame_walkChecked {s t : State} {q : XReq} {va : Word} {tg : Target} (h : walkChecked s q va = .ok (t, tg)) :
    HomeFrame s t := by
  unfold walkChecked at h
  split at h
  · cases h
  · cases h
  · next u e level a hw =>
    have hwalk : HomeFrame s u := by simpa [hw] using homeFrame_walk s q.ctx va.toNat
    dsimp only at h
    split at h
    · cases h
    · cases h
      exact hwalk.trans ((homeFrame_markLeaf ..).trans (homeFrame_tlbInsert ..))

/-- A translation that passes its checks. -/
theorem homeFrame_translate {s t : State} {q : XReq} {va : Word} {tg : Target} (h : translate s q va = .ok (t, tg)) : HomeFrame s t := by
  unfold translate at h
  split_ifs at h
  split at h
  · exact homeFrame_walkChecked h
  · split_ifs at h
    · exact homeFrame_walkChecked h
    · split at h
      · cases h
      · cases h
        exact .refl s

end Sys2Proof.Machine
end

section
/-! SUPPORT. The numbers of the control registers against the rules' tables: where each is written, what a write of it leaves (R127, R205). -/

namespace Sys2Proof.Machine

open Sys2Proof

/-- A register with the number that names it (R127, R317, R37, R342). -/
def CReg.Numbered (r : CReg) (k : Nat) : Prop :=
  match r with
  | .devid => k = 0x0000
  | .party => k = 0x0001
  | .tick => k = 0x0010
  | .trapcause => k = 0x0020
  | .trappc => k = 0x0021
  | .trapval => k = 0x0022
  | .xlva => k = 0x0023
  | .xlinfo => k = 0x0024
  | .fwhere => k = 0x0025
  | .fpc => k = 0x0026
  | .fact => k = 0x0027
  | .tvec => k = 0x0028
  | .tscratch => k = 0x0029
  | .preempt => k = 0x002A
  | .save => k = 0x002B
  | .chalkbase => k = 0x002C
  | .fsum => k = 0x002D
  | .hwin => k = 0x002E
  | .gtab => k = 0x002F
  | .ptroot => k = 0x0030
  | .loopField i f => 0x0100 ≤ k ∧ k < 0x0110 ∧ i = (k - 0x0100) / 4 ∧ f = (k - 0x0100) % 4
  | .seed n => 0x0200 ≤ k ∧ k < 0x0220 ∧ n = k - 0x0200
  | .frt w n => 0x0300 ≤ k ∧ k < 0x0330 ∧ w = (k - 0x0300) / 16 ∧ n = (k - 0x0300) % 16
  | .hbmMode j => 0x0800 ≤ k ∧ k < 0x0880 ∧ j = k - 0x0800
  | .hbmMc n => 0x1000 ≤ k ∧ k < 0x1600 ∧ n = k - 0x1000
  | .hbmMp n => 0x2000 ≤ k ∧ k < 0x2600 ∧ n = k - 0x2000

/-- A register that a number names has that number. -/
theorem cregOf_numbered {n : BitVec 16} {r : CReg} (h : cregOf n = some r) : r.Numbered n.toNat := by
  unfold cregOf at h
  simp only at h
  split at h
  case h_21 => split_ifs at h <;> cases h <;> simp_all [CReg.Numbered]
  all_goals cases h; simp_all [CReg.Numbered]

/-- A number that names no register lies outside every row of the table. -/
theorem cregOf_none {n : BitVec 16} (h : cregOf n = none) : ¬ (n.toNat ≤ 0x0001 ∨ n.toNat = 0x0010 ∨
    (0x0020 ≤ n.toNat ∧ n.toNat ≤ 0x0030) ∨ (0x0100 ≤ n.toNat ∧ n.toNat < 0x0110) ∨ (0x0200 ≤ n.toNat ∧ n.toNat < 0x0220) ∨
    (0x0300 ≤ n.toNat ∧ n.toNat < 0x0330) ∨ (0x0800 ≤ n.toNat ∧ n.toNat < 0x0880) ∨ (0x1000 ≤ n.toNat ∧ n.toNat < 0x1600) ∨
    (0x2000 ≤ n.toNat ∧ n.toNat < 0x2600)) := by
  unfold cregOf at h
  simp only at h
  split at h
  case h_21 =>
    split_ifs at h
    simp only [imp_false] at *
    omega
  all_goals cases h

/-- A number that names a register is in a row of the table of reads. -/
theorem cgetRule_isSome {n : BitVec 16} {r : CReg} (h : cregOf n = some r) (s : State) : (cgetRule s n.toNat).isSome = true := by
  have hn := cregOf_numbered h
  simp only [cgetRule, apply_ite Option.isSome, Option.isSome_some, Option.isSome_none, ite_eq_left_iff]
  cases r <;> simp only [CReg.Numbered] at hn <;> intros <;> omega

/-- R127 and R87 as the rule has them at supervisor privilege. -/
theorem mayWriteAs_supervisor {n : BitVec 16} {r : CReg} (h : cregOf n = some r) (s : State) (c : Nat) :
    mayWriteAs s .supervisor c r = supervisorMay s c (csetAt n.toNat) := by
  have hn := cregOf_numbered h
  cases r <;> simp only [CReg.Numbered] at hn <;>
    simp (disch := omega) [csetAt, mayWriteAs, supervisorMay, mayMap, cregSupervisor, Priv.isSup, hn, if_pos, if_neg]

/-- The value that a write of `c.tvec` stores, as the rule has it (R318). -/
theorem writeTvec_eq (s : State) (c : Nat) (v : Word) : writeTvec s c v = s.setCtxt c (tvecWritten (s.ctxt c) v) := by
  have hthread (w : Word) : bitsOf w 3 5 = w.toNat / 8 % 32 := by simp [bitsOf, Nat.shiftRight_eq_div_pow]
  simp [writeTvec, tvecWritten, hthread]

/-- `c.fact` takes 0, 1 or 2, values above 2 being written as 2 (R322). -/
theorem factWritten_eq (v : Word) : (if 2 ≤ v.toNat then 2#2 else BitVec.ofNat 2 v.toNat) =
    if v.toNat = 0 then 0#2 else if v.toNat = 1 then 1#2 else 2#2 := by
  rcases Nat.lt_or_ge v.toNat 2 with h | h
  · interval_cases v.toNat <;> rfl
  · simp [h, show v.toNat ≠ 0 by omega, show v.toNat ≠ 1 by omega]

/-- A write of `c.fact` as the rule has it (R322). -/
theorem writeFact_eq (s : State) (c : Nat) (v : Word) : writeFact s c v = if (s.ctxt c).trapcause.getLsbD 63 then
    s.setCtxt c { s.ctxt c with fact := some (if v.toNat = 0 then 0#2 else if v.toNat = 1 then 1#2 else 2#2) } else s := by
  simp only [writeFact, factWritten_eq]

/-- The party in focus has no part in a write of `c.fact`. -/
theorem writeFact_focus (s : State) (p : Party) (c : Nat) (v : Word) :
    writeFact s c v = { writeFact { s with focus := p } c v with focus := s.focus } := by
  have hctxt : ({ s with focus := p } : State).ctxt c = s.ctxt c := rfl
  simp only [writeFact, hctxt]
  split_ifs <;> rfl

/-- The fields of a loop slot as a write leaves them (R166). -/
theorem writeLoopField_eq (s : State) (p : Party) (i f : Nat) (v : Word) :
    writeLoopField s p i f v = s.setThread p ((s.thread p).setSlot i (loopWritten ((s.thread p).slot i) f v)) := by
  unfold writeLoopField loopWritten
  split_ifs <;> simp_all

/-- The base register of an entry as the rule has it (R83). -/
theorem writeFrt_base (s : State) (n : Nat) (v : Word) :
    writeFrt s n 0 v = { s with frt := FMap.set s.frt n (frtBaseWritten s (FMap.getD s.frt n ⟨0, 0, 0⟩) v) } := by
  have hcls (w : Word) : fmtScaled (BitVec.ofNat 5 (bitsOf w 52 5)) =
      (decide (0x12 ≤ w.toNat / 2 ^ 52 % 32) && decide (w.toNat / 2 ^ 52 % 32 ≤ 0x18)) := by
    simp [fmtScaled, bitsOf, Nat.shiftRight_eq_div_pow]
  have hunit (w : Word) : bitsOf w 16 36 = w.toNat / 2 ^ 16 % 2 ^ 36 := by simp [bitsOf, Nat.shiftRight_eq_div_pow]
  simp only [writeFrt, frtBaseWritten, frtEntry, codeRangeOk, hcls, hunit, if_true, Bool.and_assoc]

/-- A write that the table gives a state for leaves it. -/
theorem cregWrite_of_rule {n : BitVec 16} {r : CReg} (h : cregOf n = some r) {s u : State} {v : Word}
    (hu : csetRule s n.toNat v = some u) : cregWrite s s.focus r v = u := by
  have hn := cregOf_numbered h
  cases r <;> simp only [CReg.Numbered] at hn <;>
    simp (disch := omega) [csetRule, hn, if_pos, if_neg, setCur_eq, State.cur] at hu <;>
    simp [cregWrite, writeTrapcause, writePtroot, writeFact_eq, writeTvec_eq, writeLoopField_eq, hn, hu]

/-- A write that the table gives a state for is the same whichever party is in focus. -/
theorem cregWrite_focus {n : BitVec 16} {r : CReg} (h : cregOf n = some r) {s u : State} {p : Party} {v : Word}
    (hu : csetRule { s with focus := p } n.toNat v = some u) : cregWrite s p r v = { u with focus := s.focus } := by
  have hw : cregWrite { s with focus := p } p r v = u := cregWrite_of_rule h hu
  rw [← hw]
  have hn := cregOf_numbered h
  cases r
  case fact => exact writeFact_focus s p _ v
  case preempt | frt | hbmMode | hbmMc | hbmMp =>
    simp only [CReg.Numbered] at hn
    simp (disch := omega) [csetRule, hn, if_pos, if_neg] at hu
  all_goals rfl

/-- A write step that the table names for a register does what the write of the register does. -/
theorem exec_of_csetStep {n : BitVec 16} {r : CReg} (h : cregOf n = some r) {s : State} {p : Party} {v : Word} {i : Instr}
    (hi : CsetStep (partyCtx s p) n v i) : exec i s = .next (cregWrite s p r v) := by
  have hn := cregOf_numbered h
  obtain ⟨hk, rfl⟩ | ⟨hlo, hhi, rfl⟩ | ⟨hk, rfl⟩ := hi
  · cases r
    case preempt => rfl
    all_goals simp only [CReg.Numbered] at hn; omega
  · cases r
    case frt w m =>
      obtain ⟨_, _, hw, hm⟩ := hn
      have hw3 : w < 3 := by omega
      rw [← hw, ← hm]
      simp only [exec, execFrtWrite, cregWrite]
      simp [hw3, hm, show w % 4 = w by omega, Nat.mod_lt]
    all_goals simp only [CReg.Numbered] at hn; omega
  · cases r
    case hbmMode | hbmMc | hbmMp => simp only [exec, execHbmMapWrite, h, cregWrite]
    all_goals simp only [CReg.Numbered] at hn; omega

/-- A register is written by a number as a `cset` at supervisor privilege of the party would write it (R312). -/
theorem exec_registerWrite {n : BitVec 16} {r : CReg} (h : cregOf n = some r) (p : Party) (c : Nat) (v : Word) (s : State) :
    exec (.registerWrite p c n v) s =
      .next (if partyCtx s p = c ∧ supervisorMay s c (csetAt n.toNat) = true then cregWrite s p r v else s) := by
  simp only [exec, execRegisterWrite, h, mayWriteAs_supervisor h]

/-- A page write of the host outside a TDI in RUN writes (R348). -/
theorem hostWrite_of_not_run {s : State} {c : Nat} (h : c + 1 ∉ s.tdiRun) (f : State → State) : hostWrite s c f = f s := by
  simp [hostWrite, h]

/-- A page write of the host to a TDI in RUN, where the write has the free value of IDE (R348, log 138). -/
theorem hostWrite_of_run {s : State} {c : Nat} (h : c + 1 ∈ s.tdiRun) (f : State → State) :
    hostWrite s c f = if Config.hostIde s.fresh then f { s with fresh := s.fresh + 1 } else { s with fresh := s.fresh + 1 } := by
  cases hd : Config.hostIde s.fresh <;> simp [hostWrite, h, State.draw, hd]

/-- A context's page register written, unless the context is under a function-level reset (R343). -/
def pageSet (s : State) (c : Nat) (g : Context → Context) : State := if inFlr s c then s else s.setCtxt c (g (s.ctxt c))

/-- GREPLAY as a write leaves it (R36). -/
theorem writeGreplay_eq (s : State) (c : Nat) (v : Word) :
    writeGreplay s c v = pageSet s c fun x => { x with greplay := greplayWritten x.greplay v } := by
  simp only [writeGreplay, pageSet, greplayWritten, Bool.not_eq_true']

/-- The list of the TDIs in RUN has no part in a page write. -/
theorem pageSet_tdiRun (s : State) (c : Nat) (g : Context → Context) (l : List Nat) :
    pageSet { s with tdiRun := l } c g = { pageSet s c g with tdiRun := l } := by
  have hflr : inFlr { s with tdiRun := l } c = inFlr s c := rfl
  cases h : inFlr s c <;> simp only [pageSet, hflr, h] <;> rfl

end Sys2Proof.Machine
end

section
/-! PROOFS. The write steps of control and page registers. -/

namespace Sys2Proof

open Machine

/-- A write of a control register named by its number (R312). -/
theorem registerWrite_steps (p : Party) (c : Nat) (n : BitVec 16) (v : Word) (s : State) :
    ((partyCtx s p ≠ c ∨ cgetRule s n.toNat = none ∨ supervisorMay s c (csetAt n.toNat) = false) →
      exec (.registerWrite p c n v) s = .next s) ∧
    (∀ u, partyCtx s p = c → supervisorMay s c (csetAt n.toNat) = true → csetRule { s with focus := p } n.toNat v = some u →
      exec (.registerWrite p c n v) s = .next { u with focus := s.focus }) ∧
    (∀ i, partyCtx s p = c → supervisorMay s c (csetAt n.toNat) = true → CsetStep c n v i →
      exec (.registerWrite p c n v) s = exec i s) := by
  cases h : cregOf n with
  | none =>
    have hk := cregOf_none h
    have hexec : exec (.registerWrite p c n v) s = .next s := by simp only [exec, execRegisterWrite, h]
    refine ⟨fun _ => hexec, fun u _ _ hu => ?_, fun i _ _ hi => ?_⟩
    · simp (disch := omega) [csetRule, if_neg] at hu
    · rcases hi with ⟨hk', _⟩ | ⟨hlo, hhi, _⟩ | ⟨hk', _⟩ <;> omega
  | some r =>
    rw [exec_registerWrite h]
    refine ⟨?_, ?_, ?_⟩
    · rintro (hc | hn | hm)
      · simp [hc]
      · have := cgetRule_isSome h s
        simp [hn] at this
      · simp [hm]
    · intro u hc hm hu
      simp [hc, hm, cregWrite_focus h hu]
    · rintro i rfl hm hi
      simp [hm, exec_of_csetStep h hi]

/-- A page write of the host outside a TDI in RUN (R343). -/
theorem hostWrite_pageSet {s : State} {c : Nat} (ht : c + 1 ∉ s.tdiRun) (g : Context → Context) :
    ((s.ctxt c).cstat.getLsbD 62 = false → hostWrite s c (pageSet · c g) = s.setCtxt c (g (s.ctxt c))) ∧
    ((s.ctxt c).cstat.getLsbD 62 = true → hostWrite s c (pageSet · c g) = s) := by
  rw [hostWrite_of_not_run ht]
  exact ⟨fun h => if_neg (by rw [inFlr, h]; decide), fun h => if_pos h⟩

/-- A page write of the host to a TDI in RUN is taken only where IDE protects it (R348, log 138). -/
theorem hostWrite_ide {s : State} {c : Nat} {i : Instr} {g : Context → Context} (h : c + 1 ∈ s.tdiRun)
    (hi : ∀ u, exec i u = .next (hostWrite u c (pageSet · c g))) :
    let u := { s with fresh := s.fresh + 1 }
    (Config.hostIde s.fresh = false → exec i s = .next u) ∧
    (Config.hostIde s.fresh = true →
      ∃ w, exec i { u with tdiRun := [] } = .next w ∧ exec i s = .next { w with tdiRun := s.tdiRun }) := by
  simp only [hi]
  refine ⟨fun hd => by simp [hostWrite_of_run h, hd], fun hd => ⟨_, rfl, ?_⟩⟩
  rw [hostWrite_of_run h, if_pos hd, hostWrite_of_not_run (by simp), ← pageSet_tdiRun]

theorem exec_fsumWrite (c : Nat) (v : Word) (s : State) : exec (.fsumWrite c v) s = .next (hostWrite s c (pageSet · c fun x => { x with
    fsum := (v &&& 0xFFFFFFFFFFFFFF00#64) ||| (x.fsum &&& 0x80#64 &&& ~~~v) ||| (x.fsum &&& 0x1F#64) })) := rfl

theorem exec_cpolWrite (c : Nat) (v : Word) (s : State) :
    exec (.cpolWrite c v) s = .next (hostWrite s c (pageSet · c fun x => { x with cpol := v.setWidth 2 })) := rfl

theorem exec_slognWrite (c : Nat) (v : Word) (s : State) :
    exec (.slognWrite c v) s = .next (hostWrite s c (pageSet · c fun x => { x with slogn := v &&& 0xFFFFFFFF#64 })) := rfl

theorem exec_greplayWrite (c : Nat) (v : Word) (s : State) : exec (.greplayWrite c v) s =
    .next (hostWrite s c (pageSet · c fun x => { x with greplay := greplayWritten x.greplay v })) := by
  simp only [exec, execGreplayWrite, writeGreplay_eq]

/-- Settles O15: each write step is the write of its register; a register named by its number goes by the table. -/
theorem registerWriteSteps : Obligations.RegisterWriteSteps := by
  refine ⟨fun _ _ _ => rfl, fun c v s => ?_, fun p slot field v s => ?_, fun n v s hn => ?_, fun n v s hn => ?_, fun n v s hn => ?_,
    registerWrite_steps, fun c v s hr ht => ?_, fun c v s hr ht => ?_, fun c v s i ht hi => ?_⟩
  · rw [← writeTvec_eq]; rfl
  · rw [← writeLoopField_eq]; rfl
  · rw [← writeFrt_base]; simp [exec, execFrtWrite, hn]
  · simp [exec, execFrtWrite, hn, writeFrt, frtEntry]
  · simp [exec, execFrtWrite, hn, writeFrt, frtEntry]
  · simp only [exec_fsumWrite, exec_cpolWrite, exec_slognWrite, exec_greplayWrite, (hostWrite_pageSet ht _).1 hr, and_self]
  · simp only [exec_fsumWrite, exec_cpolWrite, exec_slognWrite, exec_greplayWrite, (hostWrite_pageSet ht _).2 hr, and_self]
  · rcases hi with rfl | rfl | rfl | rfl
    · exact hostWrite_ide ht (exec_fsumWrite c v)
    · exact hostWrite_ide ht (exec_cpolWrite c v)
    · exact hostWrite_ide ht (exec_slognWrite c v)
    · exact hostWrite_ide ht (exec_greplayWrite c v)

end Sys2Proof
end

section
/-! SUPPORT. A phase word of the tile in focus: its predicate and its run are those of the row's tables (R17, R140). -/

namespace Sys2Proof.Machine

open Sys2Proof

/-- Every phase word runs through the one function that nullifies, clamps or executes (R140-R142). -/
theorem exec_phaseWord {i : Instr} {pr : Pred} (h : predOf i = some pr) :
    ∃ run, wordRun i = some run ∧ ∀ s, exec i s = execWord pr i run s := by
  cases i <;> cases h <;> exact ⟨_, rfl, fun _ => rfl⟩

/-- A word whose predicate does not hold on the tile in focus is nullified (R17, R140). -/
theorem execWord_nullified {pr : Pred} {i : Instr} {run : State → Nat → Nat → WRes} {s : State} {p n : Nat} {x : Panel}
    (hf : s.focus = .tile p n) (hx : s.panel? p = some x) (hp : predHolds pr (x.tile n) = false) :
    execWord pr i run s = .next s := by
  simp [execWord, hf, hx, hp]

/-- A word whose predicate holds on the tile in focus, and that begins no clamp, executes there or faults (R224). -/
theorem execWord_runs {pr : Pred} {i : Instr} {run : State → Nat → Nat → WRes} {s : State} {p n : Nat} {x : Panel}
    (hf : s.focus = .tile p n) (hx : s.panel? p = some x) (hp : predHolds pr (x.tile n) = true)
    (hc : clampOf x n 0 s.cycle i = none) :
    (∀ u, run s p n = .ok u → execWord pr i run s = .next u) ∧
    (∀ f, run s p n = .error f → execWord pr i run s = .next (fabricFault s p f)) := by
  constructor <;> intro _ hr <;> simp [execWord, hf, hx, hp, hc, hr]

/-- A word of a tile does what the table of runs has for it. -/
theorem exec_tileWord {i : Instr} {run : State → Nat → Nat → WRes} {s : State} {p n : Nat} {x : Panel}
    (hr : wordRun i = some run) (hw : TileWord i s p n x) :
    (∀ u, run s p n = .ok u → exec i s = .next u) ∧ (∀ f, run s p n = .error f → exec i s = .next (fabricFault s p f)) := by
  obtain ⟨pr, hpr, hp⟩ := hw.pred
  obtain ⟨run', hr', he⟩ := exec_phaseWord hpr
  obtain rfl : run' = run := Option.some.inj (hr'.symm.trans hr)
  rw [he]
  exact execWord_runs hw.focus hw.panel hp hw.noClamp

end Sys2Proof.Machine
end

section
/-! PROOFS. Phase words under their predicates. -/

namespace Sys2Proof

open Machine

/-- Settles O41: a phase word's meaning begins with the test of its predicate. -/
theorem phaseWordsNullified : Obligations.PhaseWordsNullified := by
  intro i pr s p n x hi hf hx hp
  obtain ⟨run, _, he⟩ := exec_phaseWord hi
  rw [he, execWord_nullified hf hx hp]

end Sys2Proof
end

section
/-! SUPPORT. What a fabric cycle and a message of the clock change (R33, R99, R345): panels, cores and clock; links and clock. -/

namespace Sys2Proof.Machine

open Sys2Proof

/-- Nothing but panels and cores has changed. -/
def PanelsCores (s t : State) : Prop := t = { s with panels := t.panels, cores := t.cores }

theorem panelsCores_refl (s : State) : PanelsCores s s := rfl

theorem panelsCores_trans {s t u : State} (h : PanelsCores s t) (k : PanelsCores t u) : PanelsCores s u := by
  unfold PanelsCores at *
  rw [k, h]

theorem panelsCores_setPanel (s : State) (p : Nat) (x : Panel) : PanelsCores s (s.setPanel p x) := rfl

theorem panelsCores_modPanel (s : State) (p : Nat) (f : Panel → Panel) : PanelsCores s (s.modPanel p f) := by
  unfold State.modPanel
  split
  · exact panelsCores_setPanel ..
  · exact panelsCores_refl s

theorem panelsCores_countFor (s : State) (p : Party) (ev n : Nat) : PanelsCores s (countFor s p ev n) := by
  unfold countFor
  split
  · rfl
  all_goals exact panelsCores_modPanel ..

/-- The cycles of waits are counted in panels and cores alone (R198). -/
theorem panelsCores_countWaits (l : List (Party × Thread)) (s : State) : PanelsCores s (countWaits l s) := by
  induction l with
  | nil => exact panelsCores_refl s
  | cons c l ih =>
    unfold countWaits
    split
    · dsimp only
      split
      · exact ih
      · exact panelsCores_trans ih (panelsCores_countFor ..)
    · exact ih

/-- Where no thread waits no wait is counted. -/
theorem countWaits_of_none {l : List (Party × Thread)} (h : ∀ c ∈ l, c.2.wait = none) (s : State) : countWaits l s = s := by
  induction l with
  | nil => rfl
  | cons c l ih =>
    obtain ⟨p, t⟩ := c
    have ht : t.wait = none := h (p, t) List.mem_cons_self
    simp [countWaits, ht, ih fun c hc => h c (List.mem_cons_of_mem _ hc)]

theorem panelsCores_sentBeat (s : State) (p i : Nat) (b : PathBeat) : PanelsCores s (sentBeat s p i b) := panelsCores_modPanel ..

/-- A beat that is taken enters a panel (R219). -/
theorem panelsCores_of_taken {s u : State} {x : Panel} {b : PathBeat} (h : receivePath s x b = .taken u) : PanelsCores s u := by
  unfold receivePath at h
  split at h
  · cases h
  · dsimp only at h
    split_ifs at h
    cases h
    exact panelsCores_setPanel ..

/-- The transfer of a frame slot moves a beat between panels (R33). -/
theorem panelsCores_moveFrame (s : State) (f : FrameSlot) : PanelsCores s (moveFrame s f) := by
  unfold moveFrame
  split
  · exact panelsCores_refl s
  · split
    · exact panelsCores_refl s
    · split
      · exact panelsCores_trans (panelsCores_sentBeat ..) (panelsCores_modPanel ..)
      · exact panelsCores_sentBeat ..
      · exact panelsCores_refl s
      · next h => exact panelsCores_trans (panelsCores_of_taken h) (panelsCores_sentBeat ..)

theorem panelsCores_moveFrames (s : State) : PanelsCores s (moveFrames s) :=
  List.foldlRecOn _ _ (motive := PanelsCores s) (panelsCores_refl s) fun _ h f _ => panelsCores_trans h (panelsCores_moveFrame _ f)

/-- A fabric cycle: panels and cores, the cycle count, the clock and its ticks (R99, R345). -/
theorem tickStep_eq (s : State) : ∃ ps cs, moveFrames (countWaits s.threads s) = { s with panels := ps, cores := cs } ∧
    tickStep s = { s with
      panels := ps, cores := cs, cycle := s.cycle + 1, clock := (clockStep s.clock (s.cycle + 1)).1
      tick := s.tick + BitVec.ofNat 64 (clockStep s.clock (s.cycle + 1)).2 } := by
  have h := panelsCores_trans (panelsCores_countWaits s.threads s) (panelsCores_moveFrames (countWaits s.threads s))
  refine ⟨_, _, h, ?_⟩
  unfold tickStep
  rw [h]

/-- The panels after a fabric cycle in which no thread waits. -/
theorem tickStep_panels {s : State} (h : ∀ c ∈ s.threads, c.2.wait = none) : (tickStep s).panels = (moveFrames s).panels := by
  obtain ⟨ps, cs, hm, ht⟩ := tickStep_eq s
  rw [countWaits_of_none h] at hm
  rw [ht, hm]

/-! ## The four messages (R345) -/

theorem carry_up (k : Link) (out : List Flit) : (k.carry out).up = k.up := by
  unfold Link.carry Link.rekey; split <;> rfl

theorem carry_out (k : Link) (out : List Flit) : (k.carry out).out = k.out ++ out := by
  unfold Link.carry Link.rekey; split <;> rfl

/-- A flit sent over a link that is up. -/
theorem sendFlit_of_up {s : State} {l : Nat} {k : Link} (h : FMap.get? s.links l = some k) (hu : k.up = true) (f : Flit) :
    sendFlit s l f = { s with links := FMap.set s.links l (k.carry [f]) } := by
  simp [sendFlit, h, hu]

/-- A flit received changes links alone, and none of them goes up or down. -/
theorem hearFlit_links (s : State) (l : Nat) :
    ∃ ls, hearFlit s l = { s with links := ls } ∧ ∀ d, disciplines { s with links := ls } d = disciplines s d := by
  unfold hearFlit
  split
  · next k hk =>
    split
    · refine ⟨_, rfl, fun d => ?_⟩
      by_cases hd : d = l
      · subst hd; simp [disciplines, isUp, hk, carry_up]
      · simp [disciplines, isUp, get_set_other _ _ hd]
    · exact ⟨s.links, rfl, fun _ => rfl⟩
  · exact ⟨s.links, rfl, fun _ => rfl⟩

/-- The flits sent over a link whose list of them has grown. -/
theorem sentOver_eq {s t : State} {l : Nat} {k k' : Link} {fs : List Flit} (h : FMap.get? s.links l = some k)
    (h' : FMap.get? t.links l = some k') (ho : k'.out = k.out ++ fs) : sentOver s t l = fs := by
  simp [sentOver, h, h', ho]

/-- A message acted on comes over a link that is up. -/
theorem link_of_hears {s : State} {l : Nat} (h : clockHears s l = true) : ∃ k, FMap.get? s.links l = some k ∧ k.up = true := by
  unfold clockHears at h
  cases hk : FMap.get? s.links l <;> simp_all

end Sys2Proof.Machine
end

section
/-! PROOFS. The steps of the clock. -/

namespace Sys2Proof

open Machine

/-- A fabric cycle's count and ticks (R99, R345). -/
theorem tick_counts (s : State) : Ends .tick s fun t => t.cycle = s.cycle + 1 ∧ t.mem = s.mem ∧ t.threads = s.threads ∧
    t.contexts = s.contexts ∧
    (s.clock.owed = 0 → t.tick = s.tick + 1#64 ∧ t.clock = s.clock) ∧
    (s.cycle + 1 < s.clock.lastFix + 1024 → t.tick = s.tick + 1#64 ∧ t.clock = s.clock) ∧
    (s.clock.lastFix + 1024 ≤ s.cycle + 1 → 0 < s.clock.owed → t.tick = s.tick + 2#64 ∧ t.clock.owed = s.clock.owed - 1) ∧
    (s.clock.lastFix + 1024 ≤ s.cycle + 1 → s.clock.owed < 0 → t.tick = s.tick ∧ t.clock.owed = s.clock.owed + 1) := by
  obtain ⟨ps, cs, _, ht⟩ := tickStep_eq s
  refine ⟨_, rfl, ?_⟩
  rw [ht]
  refine ⟨rfl, rfl, rfl, rfl, fun h => ?_, fun h => ?_, fun h ho => ?_, fun h ho => ?_⟩
  · simp [clockStep, h]
  · simp [clockStep, h]
  · simp [clockStep, h.not_gt, ho.ne', ho]
  · simp [clockStep, h.not_gt, ho.ne, ho.not_gt]

/-- The beat of a frame slot moves in its fabric cycle (R33). -/
theorem tick_frames (s : State) (h : ∀ c ∈ s.threads, c.2.wait = none) :
    (∀ f p x i b u, s.frames.filter (fun f => f.slot == s.cycle % 256 && !f.half) = [f] →
      (taskPanels s f.entry)[f.panel]? = some p → s.panel? p = some x → pathSender x f.path = some (i, b) →
      receivePath s x b = .taken u → Ends .tick s fun t => t.panels = (sentBeat u p i b).panels) ∧
    ((∀ f ∈ s.frames, f.slot ≠ s.cycle % 256) → Ends .tick s fun t => t.panels = s.panels) := by
  refine ⟨fun f p x i b u hf hp hx hb hu => ⟨tickStep s, rfl, ?_⟩, fun hf => ⟨tickStep s, rfl, ?_⟩⟩
  · refine (tickStep_panels h).trans ?_
    rw [moveFrames, hf]
    simp [moveFrame, hp, hx, hb, hu]
  · have hnone : s.frames.filter (fun f => f.slot == s.cycle % 256 && !f.half) = [] := by
      simp only [List.filter_eq_nil_iff]
      intro f hm
      simp [hf f hm]
    refine (tickStep_panels h).trans ?_
    rw [moveFrames, hnone]
    rfl

/-- A message that arrives, or is sent to the master, where the clock is disciplined (R345). -/
theorem messages_heard {l : Nat} {s : State} (hc : clockHears s l = true) :
    (Ends (.sync ⟨l, false⟩) s fun t => t.clock = { s.clock with
      master := some l, t1 := none, t2 := some s.tick.toNat, t3 := none, t4 := none } ∧
      { t with clock := s.clock, links := s.links } = s) ∧
    (∀ t1, s.clock.master = some l → s.clock.t2.isSome = true → Ends (.followUp ⟨l, false⟩ t1) s fun t =>
      t.clock = { s.clock with t1 := some t1 } ∧ { t with clock := s.clock, links := s.links } = s) ∧
    (s.clock.master = some l → s.clock.t1.isSome = true → Ends (.delayReq ⟨l, true⟩) s fun t =>
      t.clock = { s.clock with t3 := some s.tick.toNat } ∧ { t with clock := s.clock, links := s.links } = s ∧
      sentOver s t l = [.delayReq]) := by
  obtain ⟨ls, hl, hd⟩ := hearFlit_links s l
  have hdl := (hd l).trans hc
  obtain ⟨k, hk, hu⟩ := link_of_hears hc
  have hds : disciplines s l = true := hc
  refine ⟨⟨{ s with links := ls, clock := { s.clock with
      master := some l, t1 := none, t2 := some s.tick.toNat, t3 := none, t4 := none } }, ?_, rfl, rfl⟩,
    fun t1 hm h2 => ⟨{ s with links := ls, clock := { s.clock with t1 := some t1 } }, ?_, rfl, rfl⟩,
    fun hm h1 => ⟨{ s with links := FMap.set s.links l (k.carry [.delayReq]), clock := { s.clock with t3 := some s.tick.toNat } },
      ?_, rfl, rfl, sentOver_eq hk (get_set_same ..) (carry_out ..)⟩⟩
  · simp [exec, execSync, hl, syncArrives, hdl]
  · simp [exec, execFollowUp, hl, followUpArrives, hdl, hm, h2]
  · simp [exec, execDelayReq, hds, hm, h1, sendFlit_of_up hk hu]

/-- A Sync that the clock does not follow changes no clock (R345). -/
theorem sync_unheard {l : Nat} {s : State} (hc : clockHears s l = false) :
    Ends (.sync ⟨l, false⟩) s fun t => t.clock = s.clock ∧ { t with links := s.links } = s := by
  obtain ⟨ls, hl, hd⟩ := hearFlit_links s l
  have hdl := (hd l).trans hc
  refine ⟨{ s with links := ls }, ?_, rfl, rfl⟩
  simp [exec, execSync, hl, syncArrives, hdl]

/-- The last message of a measurement gives the correction owed and the lock (R345). -/
theorem delayResp_measures {l t4 : Nat} {s : State} {t1 t2 t3 : Nat} (hc : clockHears s l = true) (hm : s.clock.master = some l)
    (h1 : s.clock.t1 = some t1) (h2 : s.clock.t2 = some t2) (h3 : s.clock.t3 = some t3) :
    Ends (.delayResp l t4) s fun t =>
      let off : Int := (((t2 : Int) - t1) - ((t4 : Int) - t3)) / 2
      t.clock.owed = -off ∧ t.clock.lock = decide (-8 ≤ off ∧ off ≤ 8) ∧ t.clock.lastSync = s.cycle ∧ t.tick = s.tick ∧
      { t with clock := s.clock, links := s.links } = s := by
  obtain ⟨ls, hl, hd⟩ := hearFlit_links s l
  have hdl := (hd l).trans hc
  refine ⟨{ s with links := ls, clock := { measured s.clock (clockOffset t1 t2 t3 t4) with lastSync := s.cycle } },
    ?_, rfl, (Bool.decide_and ..).symm, rfl, rfl, rfl⟩
  simp [exec, execDelayResp, hl, delayRespArrives, hdl, hm, h1, h2, h3]

/-- What the master of a link sends (R345, log 96). -/
theorem messages_led {l t1 : Nat} {s : State} {k : Link} (hk : FMap.get? s.links l = some k) (hu : k.up = true)
    (hm : s.clock.master ≠ some l) :
    (Ends (.sync ⟨l, true⟩) s fun t => { t with links := s.links } = s ∧ sentOver s t l = [.sync] ∧
      (FMap.get? t.links l).bind (·.syncAt) = some s.tick.toNat) ∧
    (∀ d, k.syncAt = some d → Ends (.followUp ⟨l, true⟩ t1) s fun t => { t with links := s.links } = s ∧
      sentOver s t l = [.followUp d] ∧ (FMap.get? t.links l).bind (·.syncAt) = none) ∧
    (k.syncAt = none → exec (.followUp ⟨l, true⟩ t1) s = .next s) ∧
    (Ends (.delayReq ⟨l, false⟩) s fun t => { t with links := s.links } = s ∧ sentOver s t l = [.delayResp s.tick.toNat]) := by
  have hlead : leads s l = true := by simp [leads, isUp, hk, hu, hm]
  refine ⟨⟨{ s with links := FMap.set s.links l { k.carry [.sync] with syncAt := some s.tick.toNat } }, ?_, rfl,
      sentOver_eq hk (get_set_same ..) (carry_out ..), by simp⟩,
    fun d hd => ⟨{ s with links := FMap.set s.links l { k.carry [.followUp d] with syncAt := none } }, ?_, rfl,
      sentOver_eq hk (get_set_same ..) (carry_out ..), by simp⟩, fun hd => ?_, ?_⟩
  · simp [exec, execSync, hlead, sendFlit_of_up hk hu, noteSync]
  · simp [exec, execFollowUp, hlead, sendFlit_of_up hk hu, noteSync, hk, hd]
  · simp [exec, execFollowUp, hk, hd]
  · refine ⟨{ s with links := FMap.set s.links l ((k.carry []).carry [.delayResp s.tick.toNat]) }, ?_, rfl,
      sentOver_eq hk (get_set_same ..) (by simp [carry_out])⟩
    have hhear : hearFlit s l = { s with links := FMap.set s.links l (k.carry []) } := by simp [hearFlit, hk, hu]
    have hup : (k.carry []).up = true := (carry_up ..).trans hu
    have hsend := sendFlit_of_up (s := { s with links := FMap.set s.links l (k.carry []) }) (get_set_same ..) hup
      (.delayResp s.tick.toNat)
    simp [exec, execDelayReq, hhear, delayReqArrives, leads, isUp, hup, hm, hsend]

/-- Settles O53. -/
theorem clockSteps : Obligations.ClockSteps :=
  ⟨tick_counts, tick_frames, fun _ _ => messages_heard, fun _ _ => sync_unheard, fun _ _ _ _ _ _ => delayResp_measures,
    fun _ _ _ _ => messages_led⟩

end Sys2Proof
end

section
/-! SUPPORT. Wait forms at issue (R30): their address, what they leave, and what they end in where their test holds nothing. -/

namespace Sys2Proof.Machine

open Sys2Proof

/-- The address of a load or store as the rule has it (R130, R170). -/
theorem memAddr_eq_ruleAddr (s : State) (a : Reg) (off : BitVec 14) (n : Nat) : memAddr s a off n = ruleAddr s a off n := by
  simp [memAddr, ruleAddr, sext64, BitVec.signExtend, BitVec.ofInt_add, BitVec.ofInt_mul]

/-- The value of loaded bytes, zero-extended. -/
theorem extend_false (bs : List Byte) : extend bs false = BitVec.ofNat 64 (ofBytes bs) := by simp [extend]

/-- A form that leaves a state leaves any other from which that one differs in the thread and counters alone. -/
theorem leaves_of_elsewhere {i : Instr} {s u v : State} {th : Thread} (h : Leaves i s v th) (hu : Elsewhere u v) : Leaves i s u th := by
  obtain ⟨t, h1, h2, h3⟩ := h
  exact ⟨t, h1, elsewhere_trans hu h2, h3⟩

/-- A form whose body goes nowhere in this cycle leaves the state as it is. -/
theorem exec_hold {i : Instr} {s : State} (hi : MayIssue i s) (body : State → Res) (he : exec i s = issue i s body)
    (hb : body s = .hold s) : exec i s = .next s := by
  rw [he, issue_eq hi, hb, finishRes]

/-- A form whose body makes its test and has no result waits, or traps E.WAITBOUND with a timeout of 0 (R30). -/
theorem waitsFor_of_none {i : Instr} {s : State} {timeout : Word} (hi : MayIssue i s) (body : State → Res)
    (he : exec i s = issue i s body) (hb : body s = waitOr s none timeout) : WaitsFor i s timeout := by
  constructor
  · intro ht
    have h0 : timeout ≠ 0#64 := fun h => ht (by simp [h])
    exact leaves_wait hi body he (by rw [hb]; simp [waitOr, h0])
  · intro ht
    have h0 : timeout = 0#64 := BitVec.eq_of_toNat_eq ht
    exact ends_trap hi body he (by rw [hb]; simp [waitOr, h0, trapOf])

/-- A form whose body answers a state that differs in the thread and counters alone from one, leaves that one. -/
theorem leaves_ok_elsewhere {i : Instr} {s u v : State} (hi : MayIssue i s) (body : State → Res) (he : exec i s = issue i s body)
    (hb : body s = .ok v) (hu : Elsewhere u v) (hn : NoTrip i v.cur) : Leaves i s u (pastWord i v.cur) :=
  leaves_of_elsewhere (leaves_ok hi body he hb hn) hu

theorem noTrip_put {i : Instr} {t : Thread} {d : Reg} {v : Word} (h : NoTrip i t) : NoTrip i (t.put d v) := by
  simpa [NoTrip] using h

/-- A form whose body writes a register of the thread and else leaves a state. -/
theorem leaves_setG {i : Instr} {s u : State} {d : Reg} {v : Word} (hi : MayIssue i s) (body : State → Res)
    (he : exec i s = issue i s body) (hb : body s = .ok (u.setG d v)) (hn : NoTrip i u.cur) :
    Leaves i s u (pastWord i (u.cur.put d v)) := by
  simpa [State.setG] using leaves_ok_elsewhere hi body he hb (elsewhere_setCur ..) (by simpa [State.setG] using noTrip_put hn)

/-! ## ldsync (R172) -/

/-- An aligned `.s` address of the party. -/
theorem scratchAccess_ok {s : State} {a : Word} {n : Nat} {l : ScratchLoc} (hl : scratchLoc s s.focus a n = some l) (ha : a.toNat % n = 0) :
    scratchAccess s s.focus a n = .ok l := by
  simp [scratchAccess, hl, aligned, ha]

theorem exec_ldsync (d a : Reg) (off : BitVec 14) (s : State) : exec (.ldsync d a off) s =
    issue (.ldsync d a off) s fun s => waitOr s (ldsyncPoll s d a off false) (s.g d) := rfl

theorem exec_ldsyncE (d a : Reg) (off : BitVec 14) (s : State) : exec (.ldsyncE d a off) s =
    issue (.ldsyncE d a off) s fun s => match ldsyncPoll (stitchBefore s) d a off true with
      | some (.hold _) => .hold s
      | r => waitOr (stitchBefore s) r (s.g d) := rfl

/-- The test of `ldsync` and `ldsync.e` on an aligned word, outside a row that reserves its bank. -/
theorem ldsyncPoll_eq {s : State} {d a : Reg} {off : BitVec 14} {l : ScratchLoc} (e : Bool)
    (hl : scratchLoc s s.focus (ruleAddr s a off 8) 8 = some l) (ha : (ruleAddr s a off 8).toNat % 8 = 0) :
    ldsyncPoll s d a off e =
      if bankReserved s s.focus l 8 then some (.hold s)
      else if isFull s s.focus l then some (.readOk s l 8 (.ok ((if e then emptyWord s s.focus l else s).setG d
        (BitVec.ofNat 64 (ofBytes (readScratch s s.focus l 8))))))
      else none := by
  simp only [ldsyncPoll, memAddr_eq_ruleAddr, scratchAccess_ok hl ha, extend_false]

/-- `ldsync` on an aligned word (R30, R118, R172). -/
theorem ldsync_complete {d a : Reg} {off : BitVec 14} {s : State} {l : ScratchLoc} (hi : Issues (.ldsync d a off) s)
    (hl : scratchLoc s s.focus (ruleAddr s a off 8) 8 = some l) (ha : (ruleAddr s a off 8).toNat % 8 = 0) :
    (bankReserved s s.focus l 8 = true → exec (.ldsync d a off) s = .next s) ∧
    (bankReserved s s.focus l 8 = false → isFull s s.focus l = true → scratchEcc s s.focus l 8 = none → RunsTo (.ldsync d a off) s
      (pastWord (.ldsync d a off) (s.cur.put d (BitVec.ofNat 64 (ofBytes (readScratch s s.focus l 8)))))) ∧
    (bankReserved s s.focus l 8 = false → isFull s s.focus l = false → WaitsFor (.ldsync d a off) s (s.g d)) := by
  have hpoll := ldsyncPoll_eq (d := d) false hl ha
  refine ⟨fun hr => ?_, fun hr hf he => ?_, fun hr hf => ?_⟩
  · exact exec_hold hi.toMayIssue _ (exec_ldsync ..) (by simp [hpoll, hr, waitOr])
  · exact leaves_setG hi.toMayIssue _ (exec_ldsync ..) (by simp [hpoll, hr, hf, waitOr, Res.readOk, he]) hi.noTrip
  · exact waitsFor_of_none hi.toMayIssue _ (exec_ldsync ..) (by simp [hpoll, hr, hf])

/-- `ldsync.e` of a service core on an aligned word (R30, R111, R172). -/
theorem ldsyncE_complete {d a : Reg} {off : BitVec 14} {s : State} {n c o : Nat} (hi : Issues (.ldsyncE d a off) s) (hf : s.focus = .core n)
    (hl : scratchLoc s s.focus (ruleAddr s a off 8) 8 = some (.core c o)) (ha : (ruleAddr s a off 8).toNat % 8 = 0) :
    (isFull s s.focus (.core c o) = true → scratchEcc s s.focus (.core c o) 8 = none → Leaves (.ldsyncE d a off) s
      (s.setCore c { s.core? c with empties := (o / 8 :: (s.core? c).empties).dedup })
      (pastWord (.ldsyncE d a off) (s.cur.put d (BitVec.ofNat 64 (ofBytes (readScratch s s.focus (.core c o) 8)))))) ∧
    (isFull s s.focus (.core c o) = false → WaitsFor (.ldsyncE d a off) s (s.g d)) := by
  have hstitch : stitchBefore s = s := by simp [stitchBefore, hf]
  have hfree : bankReserved s s.focus (.core c o) 8 = false := rfl
  have hpoll := ldsyncPoll_eq (d := d) true hl ha
  refine ⟨fun hfull he => ?_, fun hfull => ?_⟩
  · exact leaves_setG (u := s.setCore c _) hi.toMayIssue _ (exec_ldsyncE ..)
      (by simp [hstitch, hpoll, hfree, hfull, waitOr, Res.readOk, he, emptyWord]) hi.noTrip
  · exact waitsFor_of_none hi.toMayIssue _ (exec_ldsyncE ..) (by simp [hstitch, hpoll, hfree, hfull])

/-! ## waitw (R112, R183) -/

@[simp] theorem focus_modPanel (s : State) (p : Nat) (f : Panel → Panel) : (s.modPanel p f).focus = s.focus := by
  unfold State.modPanel; split <;> rfl

@[simp] theorem thread_modPanel (s : State) (p : Nat) (f : Panel → Panel) (q : Party) : (s.modPanel p f).thread q = s.thread q := by
  unfold State.modPanel; split <;> rfl

/-- The first step of an acquire drops clean bytes alone: the thread stays (R105). -/
theorem acquireDrop_cur (s : State) (obj : Word) : (acquireDrop s obj).focus = s.focus ∧ (acquireDrop s obj).cur = s.cur := by
  unfold acquireDrop dropCleanFor dropClean
  dsimp only
  split
  · exact ⟨rfl, rfl⟩
  · split
    · exact ⟨rfl, rfl⟩
    · split
      · simp [State.cur]
      · exact ⟨rfl, rfl⟩

/-- An address is scratch-tagged from 2^63 on (R159). -/
theorem isTagged_eq (a : Word) : isTagged a = decide (2 ^ 63 ≤ a.toNat) := by
  rw [isTagged, ← BitVec.msb_eq_getLsbD_last, BitVec.msb_eq_decide]

/-- The test of `waitw` on an aligned word of memory: its bytes at the home under the strand's own log (log 47). -/
theorem waitwPoll_mem {a b : Reg} {s u v : State} {tg : Target} {bs : List Byte} (hv : (s.g b).toNat < 2 ^ 63)
    (ha : (s.g b).toNat % 8 = 0) (ht : translate s (partyReq s s.focus .read) (s.g b) = .ok (u, tg)) (hd : paKind u tg.pa ≠ .device)
    (hh : hostFails u tg.pa = false) (hr : homeRead u tg.dom tg.pa 8 = .ok (v, bs)) :
    waitwPoll s a b = if wordOf (overlayMem (ownLog v s.focus) tg.pa bs) = s.g a then some (.ok (waitwAcquire v (s.g b))) else none := by
  have htag : isTagged (s.g b) = false := by simpa [isTagged_eq] using hv
  have hframe := (homeFrame_translate ht).trans (homeFrame_homeRead hr)
  have hg : v.g a = s.g a := by rw [State.g, State.g, hframe.cur]
  simp [waitwPoll, aligned, ha, htag, ht, hd, hh, hr, hframe.focus, hg]

theorem exec_waitw (a b c : Reg) (s : State) :
    exec (.waitw a b c) s = issue (.waitw a b c) s fun s => waitOr s (waitwPoll s a b) (s.g c) := rfl

/-- `waitw` on an aligned word of memory (R30, R112, R183). -/
theorem waitw_complete {a b c : Reg} {s u v : State} {tg : Target} {bs : List Byte} (hi : Issues (.waitw a b c) s)
    (hv : (s.g b).toNat < 2 ^ 63) (ha : (s.g b).toNat % 8 = 0) (ht : translate s (partyReq s s.focus .read) (s.g b) = .ok (u, tg))
    (hd : paKind u tg.pa ≠ .device) (hh : hostFails u tg.pa = false) (hr : homeRead u tg.dom tg.pa 8 = .ok (v, bs)) :
    (wordOf (overlayMem (ownLog v s.focus) tg.pa bs) = s.g a → NoTrip (.waitw a b c) v.cur →
      Leaves (.waitw a b c) s (acquireDrop v (s.g b)) (pastWord (.waitw a b c) s.cur)) ∧
    (wordOf (overlayMem (ownLog v s.focus) tg.pa bs) ≠ s.g a → WaitsFor (.waitw a b c) s (s.g c)) := by
  have hpoll := waitwPoll_mem (a := a) hv ha ht hd hh hr
  refine ⟨fun hw hn => ?_, fun hw => ?_⟩
  · obtain ⟨hfocus, hcur⟩ := acquireDrop_cur v (s.g b)
    have h := leaves_ok_elsewhere (u := acquireDrop v (s.g b)) hi.toMayIssue _ (exec_waitw ..) (by rw [hpoll, if_pos hw]; rfl)
      (elsewhere_countFor ..) (by rwa [cur_countFor, hcur])
    rwa [cur_countFor, hcur, ((homeFrame_translate ht).trans (homeFrame_homeRead hr)).cur] at h
  · exact waitsFor_of_none hi.toMayIssue _ (exec_waitw ..) (by simp [hpoll, hw])

/-! ## pinwait (R184) -/

theorem exec_pinwait (a b c : Reg) (s : State) :
    exec (.pinwait a b c) s = issue (.pinwait a b c) s fun s => waitOr s (pinPoll s a b) (s.g c) := rfl

theorem mem_maskChunks {m : Word} {j : Nat} : j ∈ maskChunks m ↔ j < 64 ∧ m.getLsbD j = true := by simp [maskChunks]

/-- `pinwait` on an aligned chunk of scratch (R30, R184). -/
theorem pinwait_complete {a b c : Reg} {s : State} {l : ScratchLoc} (hi : Issues (.pinwait a b c) s) (ht : 2 ^ 63 ≤ (s.g b).toNat)
    (ha : (s.g b).toNat % 512 = 0) (hl : partyTagged s s.focus (s.g b) 0 = some l) :
    ((∃ j, j < 64 ∧ (s.g a).getLsbD j = true ∧ locSize s s.focus l < l.off + 512 * j + 512) →
      Traps (.pinwait a b c) s .perm (s.g b)) ∧
    ((∀ j, j < 64 → (s.g a).getLsbD j = true → l.off + 512 * j + 512 ≤ locSize s s.focus l) →
    ((∀ j, j < 64 → (s.g a).getLsbD j = true → (pinsOf s s.focus l).contains (l.off / 512 + j) = true) →
      RunsTo (.pinwait a b c) s (pastWord (.pinwait a b c) s.cur)) ∧
    ((∃ j, j < 64 ∧ (s.g a).getLsbD j = true ∧ (pinsOf s s.focus l).contains (l.off / 512 + j) = false) →
      WaitsFor (.pinwait a b c) s (s.g c))) := by
  have htag : isTagged (s.g b) = true := by simpa [isTagged_eq] using ht
  have hpoll : pinPoll s a b =
      if !(maskChunks (s.g a)).all (fun j => decide (l.off + 512 * j + 512 ≤ locSize s s.focus l)) then some (trapOf .perm (s.g b))
      else if (maskChunks (s.g a)).all fun j => (pinsOf s s.focus l).contains (l.off / 512 + j) then some (.ok s) else none := by
    simp only [pinPoll, aligned, ha, htag, hl]; rfl
  refine ⟨fun ⟨j, hj, hm, hout⟩ => ?_, fun hin => ⟨fun hpin => ?_, fun ⟨j, hj, hm, hout⟩ => ?_⟩⟩
  · have hbad : ¬ (maskChunks (s.g a)).all (fun j => decide (l.off + 512 * j + 512 ≤ locSize s s.focus l)) = true := by
      simp only [List.all_eq_true, not_forall, mem_maskChunks]
      exact ⟨j, ⟨hj, hm⟩, by simpa using hout⟩
    exact ends_trap hi.toMayIssue _ (exec_pinwait ..) (by simp [hpoll, hbad, waitOr, trapOf])
  all_goals
    have hok : (maskChunks (s.g a)).all (fun j => decide (l.off + 512 * j + 512 ≤ locSize s s.focus l)) = true := by
      simp only [List.all_eq_true, mem_maskChunks]
      exact fun j ⟨hj, hm⟩ => by simpa using hin j hj hm
  · have hpins : (maskChunks (s.g a)).all (fun j => (pinsOf s s.focus l).contains (l.off / 512 + j)) = true := by
      simp only [List.all_eq_true, mem_maskChunks]
      exact fun j ⟨hj, hm⟩ => hpin j hj hm
    exact leaves_ok hi.toMayIssue _ (exec_pinwait ..) (by rw [hpoll, if_neg (by simp [hok]), if_pos hpins]; rfl) hi.noTrip
  · have hpins : ¬ (maskChunks (s.g a)).all (fun j => (pinsOf s s.focus l).contains (l.off / 512 + j)) = true := by
      simp only [List.all_eq_true, not_forall, mem_maskChunks]
      exact ⟨j, ⟨hj, hm⟩, by rw [hout]; decide⟩
    exact waitsFor_of_none hi.toMayIssue _ (exec_pinwait ..) (by rw [hpoll, if_neg (by simp [hok]), if_neg hpins])

end Sys2Proof.Machine
end

section
/-! PROOFS. The wait forms. -/

namespace Sys2Proof

open Machine

/-- Settles O22, form by form. -/
theorem waitFormsComplete : Obligations.WaitFormsComplete :=
  ⟨fun _ _ _ _ _ => ldsync_complete, fun _ _ _ _ _ _ _ => ldsyncE_complete, fun _ _ _ _ _ _ _ _ => waitw_complete,
    fun _ _ _ _ _ => pinwait_complete⟩

end Sys2Proof
end

section
/-! SUPPORT. What a stitch changes (R99, R259): the memory system, the logs and tiles of panels, the lines that their strands have touched. -/

namespace Sys2Proof.Machine

open Sys2Proof

/-! ## Strands of a panel -/

@[simp] theorem strand_setStrand_same (x : Panel) (k : Nat) (st : Strand) : (x.setStrand k st).strand k = st := by
  simp [Panel.setStrand, Panel.strand]

theorem strand_setStrand (x : Panel) (k j : Nat) (st : Strand) :
    (x.setStrand k st).strand j = if k % 4 = j % 4 then st else x.strand j := by
  simp [Panel.setStrand, Panel.strand, Vector.getElem_set]

@[simp] theorem modPanel_some {s : State} {p : Nat} {x : Panel} (h : s.panel? p = some x) (f : Panel → Panel) :
    s.modPanel p f = s.setPanel p (f x) := by
  simp [State.modPanel, h]

theorem modPanel_none {s : State} {p : Nat} (h : s.panel? p = none) (f : Panel → Panel) : s.modPanel p f = s := by
  simp [State.modPanel, h]

/-! ## The frame of a stitch -/

/-- A panel but for its tiles, its strands' logs, its counters, its shadow and the hold of a publish. -/
structure Published (x y : Panel) : Prop where
  rest : y = { x with counters := y.counters, tiles := y.tiles, strands := y.strands, publishHold := y.publishHold, shadow := y.shadow }
  strands : ∀ k, y.strand k = { x.strand k with log := (y.strand k).log }

theorem Published.refl (x : Panel) : Published x x := ⟨rfl, fun _ => rfl⟩

theorem Published.trans {x y z : Panel} (h : Published x y) (k : Published y z) : Published x z :=
  ⟨by rw [k.rest, h.rest], fun n => by rw [k.strands, h.strands]⟩

theorem Published.image {x y : Panel} (h : Published x y) : y.image = x.image := by rw [h.rest]
theorem Published.imageAddr {x y : Panel} (h : Published x y) : y.imageAddr = x.imageAddr := by rw [h.rest]
theorem Published.ctx {x y : Panel} (h : Published x y) : y.ctx = x.ctx := by rw [h.rest]

/-- Panels of the same number before and after. -/
inductive SamePanel : Option Panel → Option Panel → Prop where
  | none : SamePanel none none
  | some {x y : Panel} (h : Published x y) : SamePanel (some x) (some y)

theorem SamePanel.refl : ∀ x, SamePanel x x
  | .none => .none
  | .some x => .some (.refl x)

theorem SamePanel.trans {x y z : Option Panel} (h : SamePanel x y) (k : SamePanel y z) : SamePanel x z := by
  cases h with
  | none => exact k
  | some h => cases k with | some k => exact .some (h.trans k)

/-- Nothing has changed but the memory system, what a publish changes of panels, and the lines that sequencer threads have touched. -/
structure StitchFrame (s t : State) : Prop where
  rest : t = { s with
    fresh := t.fresh, contexts := t.contexts, panels := t.panels, tasks := t.tasks, mem := t.mem, homeQ := t.homeQ, asked := t.asked
    poison := t.poison, seals := t.seals, sides := t.sides, l2 := t.l2, l2Dom := t.l2Dom, l2Dirty := t.l2Dirty, tlb := t.tlb
    cores := t.cores, threads := t.threads }
  panels : ∀ p, SamePanel (s.panel? p) (t.panel? p)
  threads : ∀ q, t.thread q = { s.thread q with touched := (t.thread q).touched }
  others : ∀ q, (∀ p k, q ≠ .seq p k) → t.thread q = s.thread q

theorem StitchFrame.refl (s : State) : StitchFrame s s := ⟨rfl, fun _ => .refl _, fun _ => rfl, fun _ _ => rfl⟩

theorem StitchFrame.trans {s t u : State} (h : StitchFrame s t) (k : StitchFrame t u) : StitchFrame s u where
  rest := by rw [k.rest, h.rest]
  panels p := (h.panels p).trans (k.panels p)
  threads q := by rw [k.threads, h.threads]
  others q hq := (k.others q hq).trans (h.others q hq)

theorem StitchFrame.foldl {α : Type} {f : State → α → State} (hf : ∀ s x, StitchFrame s (f s x)) (l : List α) (s : State) :
    StitchFrame s (l.foldl f s) :=
  List.foldlRecOn l f (motive := StitchFrame s) (.refl s) fun _ h x _ => h.trans (hf _ x)

theorem StitchFrame.focus {s t : State} (h : StitchFrame s t) : t.focus = s.focus := by rw [h.rest]
theorem StitchFrame.nextId {s t : State} (h : StitchFrame s t) : t.nextId = s.nextId := by rw [h.rest]
theorem StitchFrame.cycle {s t : State} (h : StitchFrame s t) : t.cycle = s.cycle := by rw [h.rest]

theorem StitchFrame.cur {s t : State} (h : StitchFrame s t) : t.cur = { s.cur with touched := t.cur.touched } := by
  unfold State.cur; rw [h.focus]; exact h.threads _

theorem StitchFrame.g {s t : State} (h : StitchFrame s t) (a : Reg) : t.g a = s.g a := by
  unfold State.g; rw [h.cur]; rfl

theorem StitchFrame.noTrip {s t : State} (h : StitchFrame s t) {i : Instr} (hn : NoTrip i s.cur) : NoTrip i t.cur := by
  rw [h.cur]; exact hn

theorem StitchFrame.panel {s t : State} (h : StitchFrame s t) {p : Nat} {x : Panel} (hx : s.panel? p = some x) :
    ∃ y, t.panel? p = some y ∧ Published x y := by
  have hp := h.panels p
  rw [hx] at hp
  cases ht : t.panel? p with
  | none => rw [ht] at hp; cases hp
  | some y => rw [ht] at hp; cases hp with | some hp => exact ⟨y, rfl, hp⟩

theorem published_of_uncounted {x y : Panel} (h : uncounted y = uncounted x) : Published x y := by
  have hx : y = { uncounted y with counters := y.counters, shadow := y.shadow } := rfl
  rw [h] at hx
  refine ⟨?_, fun k => ?_⟩
  · rw [hx]; rfl
  · rw [hx]; rfl

/-- What the memory system changes, a stitch may change. -/
theorem HomeFrame.stitch {s t : State} (h : HomeFrame s t) : StitchFrame s t where
  rest := by rw [h.rest]
  panels p := by
    have hp := h.panels p
    cases hs : s.panel? p <;> cases ht : t.panel? p <;> rw [hs, ht] at hp
    case none.none => exact .none
    case some.some x y => exact .some (published_of_uncounted (by simpa using hp))
    all_goals simp at hp
  threads q := by rw [h.thread]
  others q _ := h.thread q

/-- A change of a panel that a publish may make. -/
theorem stitchFrame_modPanel {f : Panel → Panel} (hf : ∀ x, Published x (f x)) (s : State) (p : Nat) : StitchFrame s (s.modPanel p f) where
  rest := by unfold State.modPanel; split <;> rfl
  panels q := by
    cases hx : s.panel? p with
    | none => rw [modPanel_none hx]; exact .refl _
    | some x =>
      rw [modPanel_some hx]
      by_cases hq : q = p
      · subst hq; rw [hx, panel_setPanel]; exact .some (hf x)
      · rw [panel_setPanel_other _ _ hq]; exact .refl _
  threads q := by rw [thread_modPanel]
  others q _ := thread_modPanel ..

theorem stitchFrame_setPanel {s : State} {p : Nat} {x y : Panel} (hx : s.panel? p = some x) (h : Published x y) :
    StitchFrame s (s.setPanel p y) := by
  have := stitchFrame_modPanel (f := fun z => if z = x then y else z) (fun z => by
    by_cases hz : z = x
    · subst hz; simpa using h
    · simpa [hz] using Published.refl z) s p
  simpa [modPanel_some hx] using this

theorem published_setTile (x : Panel) (n : Nat) (t : Tile) : Published x (x.setTile n t) := ⟨rfl, fun _ => rfl⟩

theorem published_count (x : Panel) (ev n : Nat) : Published x (x.count ev n) := ⟨rfl, fun _ => rfl⟩

/-! ## The publish and the stitch -/

theorem homeFrame_pushParts (dom : Nat) (task : BitVec 32) (w : Option Writer) (pa0 n : Nat) :
    ∀ (s : State) (a : Nat) (bs : List Byte), HomeFrame s (pushParts s dom task w pa0 n a bs) := by
  induction n with
  | zero => exact fun s _ _ => .refl s
  | succ n ih =>
    intro s a bs
    cases bs with
    | nil => exact .refl s
    | cons b bs => exact (homeFrame_pushReq ..).trans (ih ..)

theorem homeFrame_pushHome (s : State) (dom : Nat) (task : BitVec 32) (pa : Nat) (bs : List Byte) (w : Option Writer) :
    HomeFrame s (pushHome s dom task pa bs w) := homeFrame_pushParts ..

theorem stitchFrame_publishTileMem (s : State) (p t pa : Nat) (bs : List Byte) (wt : Bool) (dom : Nat) :
    StitchFrame s (publishTileMem s p t pa bs wt dom) := by
  unfold publishTileMem
  split
  · exact .refl s
  · next x hx =>
    dsimp only
    split
    · exact (stitchFrame_setPanel hx (published_setTile ..)).trans (homeFrame_pushHome ..).stitch
    · exact stitchFrame_setPanel hx (published_setTile ..)

theorem homeFrame_setSides (s : State) (m : FMap Nat Sideband) : HomeFrame s { s with sides := m } := ⟨rfl, fun _ => rfl, fun _ => rfl⟩

theorem stitchFrame_publishSide (s : State) (p pa : Nat) (b : Byte) (dom : Nat) : StitchFrame s (publishSide s p pa b dom) :=
  ((homeFrame_l2Meet ..).trans ((homeFrame_fillLine ..).trans (homeFrame_setSides ..))).stitch

theorem stitchFrame_publishTileEntry (p t : Nat) (s : State) (e : LogEntry) : StitchFrame s (publishTileEntry p t s e) := by
  cases e with
  | scratch _ off bs full => exact stitchFrame_modPanel (fun x => published_setTile ..) s p
  | memory parts => exact .foldl (fun s m => stitchFrame_publishTileMem ..) parts s
  | undo _ _ _ => exact .refl s
  | side pa b dom => exact stitchFrame_publishSide ..

theorem stitchFrame_publishSeqEntry (p : Nat) (s : State) (e : LogEntry) : StitchFrame s (publishSeqEntry p s e) := by
  cases e with
  | scratch t off bs full => exact stitchFrame_modPanel (fun x => published_setTile ..) s p
  | memory parts => exact .foldl (fun s m => (homeFrame_pushHome ..).stitch) parts s
  | undo _ _ _ => exact .refl s
  | side _ _ _ => exact .refl s

theorem stitchFrame_touch (s : State) (p i : Nat) (l : List Nat) :
    StitchFrame s (s.setThread (.seq p i) { s.thread (.seq p i) with touched := l }) where
  rest := rfl
  panels _ := .refl _
  threads q := by
    by_cases hq : q = .seq p i
    · subst hq; simp
    · rw [thread_setThread_other _ _ hq]
  others q hq := thread_setThread_other _ _ (hq p i)

theorem published_clearLog (x : Panel) (m : FMap Nat Tile) (i : Nat) :
    Published x ({ x with tiles := m }.setStrand i { x.strand i with log := [] }) := by
  refine ⟨rfl, fun k => ?_⟩
  rw [strand_setStrand]
  split
  · next h => rw [show x.strand k = x.strand i by simp [Panel.strand, h]]
  · rfl

theorem stitchFrame_publishStrand (s : State) (p i : Nat) : StitchFrame s (publishStrand s p i) := by
  unfold publishStrand
  split
  · exact .refl s
  · next x _ =>
    dsimp only
    refine .trans ?_ (stitchFrame_touch ..)
    refine .trans ?_ (stitchFrame_modPanel (fun y => published_clearLog y _ i) _ p)
    refine .trans ?_ (.foldl (fun s e => stitchFrame_publishSeqEntry ..) _ _)
    exact .foldl (fun s c => .foldl (fun s e => stitchFrame_publishTileEntry ..) _ _) _ _

theorem stitchFrame_publishLogs (s : State) (p : Nat) : StitchFrame s (publishLogs s p) := by
  unfold publishLogs
  split
  · exact .refl s
  · next x hx =>
    refine (stitchFrame_setPanel hx (published_count x 8 (panelLogBytes x))).trans ?_
    refine .trans (.foldl (fun s i => stitchFrame_publishStrand s p i) strandIds _) ?_
    refine stitchFrame_modPanel ?_ _ p
    exact fun y => ⟨rfl, fun _ => rfl⟩

theorem stitchFrame_publishPanel (s : State) (p : Nat) : StitchFrame s (publishPanel s p) :=
  (stitchFrame_modPanel (fun x => published_count x 7 1) s p).trans (stitchFrame_publishLogs ..)

theorem stitchFrame_takeShadow (s : State) (p : Nat) : StitchFrame s (takeShadow s p) := by
  unfold takeShadow
  refine stitchFrame_modPanel ?_ s p
  exact fun x => ⟨rfl, fun _ => rfl⟩

theorem stitchFrame_stitchPanel (s : State) (p : Nat) : StitchFrame s (stitchPanel s p) :=
  (stitchFrame_publishPanel s p).trans (stitchFrame_takeShadow ..)

theorem stitchFrame_stitchBefore (s : State) : StitchFrame s (stitchBefore s) := by
  unfold stitchBefore
  split
  · exact stitchFrame_stitchPanel ..
  · exact stitchFrame_stitchPanel ..
  · exact .refl s

theorem stitchBefore_slice {s : State} {p k : Nat} (h : s.focus = .slice p k) : stitchBefore s = stitchPanel s p := by
  simp [stitchBefore, h]

/-- A commit-after form whose body finds nothing after its stitch waits there, or traps E.WAITBOUND with a timeout of 0 (R30). -/
theorem waitsStitched_of_none {i : Instr} {s : State} {timeout : Word} (hi : MayIssue i s) (body : State → Res)
    (he : exec i s = issue i s body) (hb : body s = waitOr (stitchBefore s) none timeout) : WaitsStitched i s timeout := by
  constructor
  · intro ht
    have h0 : timeout ≠ 0#64 := fun h => ht (by simp [h])
    have h := leaves_wait (u := stitchBefore s) (timeout := some timeout.toNat) (arrived := false) hi body he
      (by rw [hb]; simp [waitOr, h0])
    rwa [← (stitchFrame_stitchBefore s).cycle] at h
  · intro ht
    have h0 : timeout = 0#64 := BitVec.eq_of_toNat_eq ht
    exact ends_trap hi body he (by rw [hb]; simp [waitOr, h0, trapOf])

end Sys2Proof.Machine
end

section
/-! PROOFS. `ldpat` and `disarm` (R254). -/

namespace Sys2Proof.Machine

open Sys2Proof

theorem onStrand_eq {i : Instr} {s : State} {p k : Nat} {x : Panel} (h : Strands i s p k x) (f : Nat → Nat → Panel → Res) :
    onStrand s f = f p k x := by
  simp [onStrand, h.focus, h.panel]

theorem failedLoad_eq {i : Instr} {s : State} {p k : Nat} {x : Panel} (h : Strands i s p k x) :
    failedLoad s = (x.strand k).failed.map (mkTrap .cfgLoad) := by
  simp [failedLoad, h.focus, h.panel]

theorem wordVal_eq (i : Instr) : wordVal i = wordOfForm i := by
  apply BitVec.eq_of_toNat_eq
  simp [wordVal, wordOfForm, zext64]

theorem engineTrap_eq (i : Instr) : engineTrap i = .trap ⟨.engine, wordOfForm i, none⟩ := by
  rw [← wordVal_eq]; rfl

theorem exec_ldpat (a : Reg) (s : State) : exec (.ldpat a) s = issue (.ldpat a) s fun s => onStrand s fun p i x =>
    match failedLoad s with
    | some t => .set (raise (dropLoad s p i) t)
    | none =>
      if x.load.isSome ∨ lacksRoom s x (s.g a) = true then engineTrap (.ldpat a)
      else
        let u := (stitchBefore s).modPanel p fun y =>
          recordLoad { y with load := some ⟨s.g a, .reading, none, (stitchBefore s).nextId, i, false⟩ } i (some (s.g a))
        .ok { u with nextId := u.nextId + 1 } := rfl

theorem exec_disarm (s : State) :
    exec .disarm s = issue .disarm s fun s => onStrand s fun p _ x => .ok (cancelLoad (stitchBefore s) p x) := rfl

/-- A failed load of the strand is raised by its next `ldpat` (R27, R254). -/
theorem ldpat_failed {a : Reg} {s : State} {p k : Nat} {x : Panel} (h : Strands (.ldpat a) s p k x) {va : Word}
    (hf : (x.strand k).failed = some va) :
    exec (.ldpat a) s = .next (noteIssue (raise (dropLoad s p k) ⟨.cfgLoad, va, none⟩)) := by
  rw [exec_ldpat, issue_eq h.issues.toMayIssue, onStrand_eq h, failedLoad_eq h, hf]
  rfl

/-- A load to be armed, or blocks without room, refuse another (R254). -/
theorem ldpat_refused {a : Reg} {s : State} {p k : Nat} {x : Panel} (h : Strands (.ldpat a) s p k x)
    (hf : (x.strand k).failed = none) (hl : x.load.isSome ∨ lacksRoom s x (s.g a) = true) :
    Traps (.ldpat a) s .engine (wordOfForm (.ldpat a)) :=
  ends_trap h.issues.toMayIssue _ (exec_ldpat ..) (by rw [onStrand_eq h, failedLoad_eq h, hf]; simp only [Option.map_none, if_pos hl, engineTrap_eq])

/-- A load begins after the stitch (R254). -/
theorem ldpat_begins {a : Reg} {s : State} {p k : Nat} {x y : Panel} (h : Strands (.ldpat a) s p k x)
    (hf : (x.strand k).failed = none) (hl : x.load = none) (hr : lacksRoom s x (s.g a) = false) (hy : (stitchBefore s).panel? p = some y) :
    Leaves (.ldpat a) s
      { (stitchBefore s).setPanel p { withStrand y k fun st => { st with loadAddr := some (s.g a) } with
          load := some ⟨s.g a, .reading, none, (stitchBefore s).nextId, k, false⟩ } with nextId := (stitchBefore s).nextId + 1 }
      (pastWord (.ldpat a) (stitchBefore s).cur) := by
  have hl' : ¬ (x.load.isSome ∨ lacksRoom s x (s.g a) = true) := by simp [hl, hr]
  refine leaves_ok h.issues.toMayIssue _ (exec_ldpat ..) ?_ ((stitchFrame_stitchBefore s).noTrip h.issues.noTrip)
  rw [onStrand_eq h, failedLoad_eq h, hf]
  simp only [Option.map_none, if_neg hl', modPanel_some hy]
  rfl

/-- `disarm` cancels what the panel has to arm, after the stitch (R254). -/
theorem disarm_leaves {s : State} {p k : Nat} {x : Panel} (h : Strands .disarm s p k x) :
    Leaves .disarm s (cancelLoad (stitchBefore s) p x) (pastWord .disarm (stitchBefore s).cur) := by
  have hc : (cancelLoad (stitchBefore s) p x).cur = (stitchBefore s).cur := by
    have hd (u : State) (i : Nat) : (dropLoad u p i).cur = u.cur := by simp [dropLoad, State.cur]
    unfold cancelLoad
    split
    · exact hd ..
    · rfl
  rw [← hc]
  exact leaves_ok h.issues.toMayIssue _ (exec_disarm s) (onStrand_eq h _)
    (by rw [hc]; exact (stitchFrame_stitchBefore s).noTrip h.issues.noTrip)

end Sys2Proof.Machine

namespace Sys2Proof

open Machine

/-- Settles O35: a load's three refusals, its start, and its end by `disarm`. -/
theorem ldpatDisarmComplete : Obligations.LdpatDisarmComplete := by
  refine ⟨fun a s p k x y h => ⟨fun va hf => ldpat_failed h hf, fun hf => ⟨fun hl => ?_, fun _ hr => ?_, fun hl hr hy => ?_⟩⟩,
    fun s p k x h => ⟨fun hl => ?_, fun l hl => ?_⟩⟩
  · exact ldpat_refused h hf (.inl hl)
  · exact ldpat_refused h hf (.inr hr)
  · exact ldpat_begins h hf hl hr hy
  · simpa [cancelLoad, hl] using disarm_leaves h
  · simpa [cancelLoad, hl] using disarm_leaves h

end Sys2Proof
end

section
/-! PROOFS. The slice engine's start and the condition queue (R256, R257). -/

namespace Sys2Proof.Machine

open Sys2Proof

/-! ## slice (R256) -/

theorem exec_slice (a b : Reg) (s : State) : exec (.slice a b) s = issue (.slice a b) s fun s => onStrand s fun p i x =>
    if s.g a ≠ 0#64 ∧ inSlice x (s.g a) = false then engineTrap (.slice a b)
    else
      let args := if s.g a = 0#64 then none else some (s.g a, s.g b)
      let u := ((stitchBefore s).modPanel p fun x => withStrand x i fun st => { st with
        queue := [], taken := 0, skip := 0, sliceArgs := args, sliceStop := args.isNone }).unask (· == .slice p i)
      .ok (u.setThread (.slice p i) (sliceStart x i args (u.thread (.slice p i)))) := rfl

/-- A started slice engine has g3 the image, g4 the strand, g5 the argument, and all else zero (R256). -/
theorem sliceStart_some (x : Panel) (k : Nat) (pc v : Word) (t : Thread) : sliceStart x k (some (pc, v)) t = sliceThread x k pc v := by
  have hg : ((Vector.replicate 32 0#64 |>.set 3 x.imageAddr).set 4 (BitVec.ofNat 64 k)).set 5 v =
      Vector.ofFn fun r : Fin 32 =>
        if r.val = 3 then x.imageAddr else if r.val = 4 then BitVec.ofNat 64 k else if r.val = 5 then v else 0#64 := by
    ext1 i hi
    simp only [Vector.getElem_set, Vector.getElem_replicate, Vector.getElem_ofFn]
    grind
  unfold sliceStart sliceThread
  rw [← hg]
  rfl

/-- The strand's queue emptied, with the engine's operands, after the stitch (R256). -/
def sliceCleared (s : State) (p k : Nat) (y : Panel) (args : Option (Word × Word)) : State :=
  (stitchBefore s).setPanel p (withStrand y k fun st => { st with
    queue := [], taken := 0, skip := 0, sliceArgs := args, sliceStop := args.isNone })

/-- A start or a stop of the engine leaves its queue emptied and its thread as `sliceStart` gives it (R256). -/
theorem slice_leaves {a b : Reg} {s : State} {p k : Nat} {x y : Panel} (h : Strands (.slice a b) s p k x)
    (hy : (stitchBefore s).panel? p = some y) {args : Option (Word × Word)}
    (hargs : args = if s.g a = 0#64 then none else some (s.g a, s.g b)) (hin : s.g a ≠ 0#64 → inSlice x (s.g a) = true) :
    Leaves (.slice a b) s
      (((sliceCleared s p k y args).unask (· == .slice p k)).setThread (.slice p k) (sliceStart x k args (s.thread (.slice p k))))
      (pastWord (.slice a b) (stitchBefore s).cur) := by
  have hst := stitchFrame_stitchBefore s
  have hin' : ¬ (s.g a ≠ 0#64 ∧ inSlice x (s.g a) = false) := fun ⟨h0, hf⟩ => by simp [hin h0] at hf
  have hcur : (((sliceCleared s p k y args).unask (· == .slice p k)).setThread (.slice p k)
      (sliceStart x k args (s.thread (.slice p k)))).cur = (stitchBefore s).cur := by
    have hne : (stitchBefore s).focus ≠ .slice p k := by rw [hst.focus, h.focus]; exact Party.noConfusion
    exact thread_setThread_other _ _ hne
  rw [← hcur]
  refine leaves_ok h.issues.toMayIssue _ (exec_slice ..) ?_ (by rw [hcur]; exact hst.noTrip h.issues.noTrip)
  rw [onStrand_eq h]
  simp only [if_neg hin', ← hargs, modPanel_some hy]
  rw [← hst.others (.slice p k) (fun _ _ => Party.noConfusion)]
  rfl

/-! ## cpost (R29, R257) -/

theorem exec_cpost (a : Reg) (s : State) : exec (.cpost a) s = issue (.cpost a) s fun s =>
    match s.focus with
    | .slice p i =>
      if (s.panel? p).any fun x => queueFull x i then .set s
      else .ok ((stitchBefore s).modPanel p fun x => postEntry x i (s.g a))
    | _ => .ok s := rfl

theorem queueFull_false {x : Panel} {k : Nat} (h : 0 < (x.strand k).skip ∨ (x.strand k).queue.length < 16) : queueFull x k = false := by
  rcases h with hs | hl
  · simp [queueFull, Nat.ne_of_gt hs]
  · simp [queueFull, queueDepth, Nat.not_le.mpr hl]

/-- A full queue stalls the engine (R29, R257). -/
theorem cpost_stalls {a : Reg} {s : State} {p k : Nat} {x : Panel} (hi : Issues (.cpost a) s) (hf : s.focus = .slice p k)
    (hx : s.panel? p = some x) (hfull : queueFull x k = true) : RunsTo (.cpost a) s s.cur :=
  leaves_set hi.toMayIssue _ (exec_cpost ..) (by simp [hf, hx, hfull])

/-- A queue with room takes the entry after the stitch (R160, R257). -/
theorem cpost_posts {a : Reg} {s : State} {p k : Nat} {x y : Panel} (hi : Issues (.cpost a) s) (hf : s.focus = .slice p k)
    (hx : s.panel? p = some x) (hy : (stitchPanel s p).panel? p = some y) (hroom : queueFull x k = false) :
    Leaves (.cpost a) s ((stitchPanel s p).setPanel p (postEntry y k (s.g a))) (pastWord (.cpost a) (stitchPanel s p).cur) :=
  leaves_ok (u := (stitchPanel s p).setPanel p (postEntry y k (s.g a))) hi.toMayIssue _ (exec_cpost ..)
    (by simp [hf, hx, hroom, stitchBefore_slice hf, hy]) ((stitchFrame_stitchPanel s p).noTrip hi.noTrip)

/-- Only counters of a panel differ. -/
theorem elsewhere_setPanel_count (s : State) (p : Nat) (x : Panel) (ev n : Nat) : Elsewhere (s.setPanel p x) (s.setPanel p (x.count ev n)) := by
  have h := elsewhere_countPanel (s.setPanel p x) p ev n
  rwa [modPanel_some (panel_setPanel ..), show (s.setPanel p x).setPanel p (x.count ev n) = s.setPanel p (x.count ev n) by
    simp [State.setPanel]] at h

/-! ## cond (R257) -/

theorem exec_cond (a b : Reg) (s : State) : exec (.cond a b) s = issue (.cond a b) s fun s =>
    waitOr (stitchBefore s) (condPoll (stitchBefore s) a) ((stitchBefore s).g b) := rfl

/-- The panel with the head of a strand's queue taken (R257). -/
def tookHead (y : Panel) (k : Nat) (q : List CondEntry) : Panel := withStrand y k fun st => { st with queue := q, taken := st.taken + 1 }

theorem condPoll_eq {s : State} {p k : Nat} {y : Panel} (a : Reg) (hf : s.focus = .seq p k) (hy : s.panel? p = some y) :
    condPoll s a = match (y.strand k).queue with
      | [] => none
      | .value v :: q => some (.ok ((s.setPanel p (tookHead y k q)).setG a v))
      | .poisoned t :: q => some (.set (raisePoison (s.setPanel p (tookHead y k q)) t)) := by
  simp only [condPoll, hf, hy]
  rfl

/-- `cond` on the entry at the head of the queue, or on none (R257). -/
theorem cond_complete {a b : Reg} {s : State} {p k : Nat} {x y : Panel} (h : Strands (.cond a b) s p k x)
    (hy : (stitchBefore s).panel? p = some y) :
    ((y.strand k).queue = [] → WaitsStitched (.cond a b) s (s.g b)) ∧
    (∀ v q, (y.strand k).queue = .value v :: q →
      Leaves (.cond a b) s ((stitchBefore s).setPanel p (tookHead y k q)) (pastWord (.cond a b) ((stitchBefore s).cur.put a v))) ∧
    (∀ t q, (y.strand k).queue = .poisoned t :: q →
      exec (.cond a b) s = .next (noteIssue (raisePoison ((stitchBefore s).setPanel p (tookHead y k q)) t))) := by
  have hst := stitchFrame_stitchBefore s
  have hpoll := condPoll_eq a (hst.focus.trans h.focus) hy
  refine ⟨fun hq => ?_, fun v q hq => ?_, fun t q hq => ?_⟩
  · exact waitsStitched_of_none h.issues.toMayIssue _ (exec_cond ..) (by rw [hpoll, hq, hst.g])
  · exact leaves_setG (u := (stitchBefore s).setPanel p (tookHead y k q)) h.issues.toMayIssue _ (exec_cond ..)
      (by rw [hpoll, hq]; rfl) (hst.noTrip h.issues.noTrip)
  · rw [exec_cond, issue_eq h.issues.toMayIssue, hpoll, hq]
    rfl

end Sys2Proof.Machine

namespace Sys2Proof

open Machine

/-- Settles O38, form by form. -/
theorem sliceQueueForms : Obligations.SliceQueueForms := by
  refine ⟨fun a b s p k x y h _ hy => ⟨fun h0 hout => ?_, fun h0 hin => ?_, fun h0 => ?_⟩, fun a s p k x y hi hf hx hy => ⟨fun h0 hl => ?_,
    fun hroom => ⟨fun h0 => ?_, fun h0 => ?_⟩⟩, fun a b s p k x y h hy => cond_complete h hy⟩
  · exact ends_trap h.issues.toMayIssue _ (exec_slice ..) (by rw [onStrand_eq h, if_pos ⟨h0, hout⟩, engineTrap_eq])
  · have := slice_leaves h hy (args := some (s.g a, s.g b)) (by simp [h0]) fun _ => hin
    rwa [sliceStart_some] at this
  · exact slice_leaves h hy (args := none) (by simp [h0]) fun hne => absurd h0 hne
  · exact cpost_stalls hi hf hx (by simp [queueFull, queueDepth, h0, hl])
  all_goals
    have hpost := cpost_posts hi hf hx hy (queueFull_false hroom)
  · rwa [postEntry, if_pos h0] at hpost
  · rw [postEntry, if_neg (by omega)] at hpost
    exact leaves_of_elsewhere hpost (elsewhere_setPanel_count ..)

end Sys2Proof
end

section
/-! SUPPORT. What keeps a task as it is but for its dependences and what its fitting run records, and the ends of garments, passes and tasks. -/

namespace Sys2Proof.Machine

open Sys2Proof

/-! ## Tasks that stay -/

/-- Every task stays but for its dependences and what its fitting run records. -/
structure TasksKept (s t : State) : Prop where
  core : ∀ e, (FMap.get? t.tasks e).map taskCore = (FMap.get? s.tasks e).map taskCore

theorem TasksKept.refl (s : State) : TasksKept s s := ⟨fun _ => rfl⟩

theorem TasksKept.trans {s t u : State} (h : TasksKept s t) (k : TasksKept t u) : TasksKept s u :=
  ⟨fun e => (k.core e).trans (h.core e)⟩

theorem TasksKept.of_eq {s t : State} (h : t.tasks = s.tasks) : TasksKept s t := ⟨fun e => by rw [h]⟩

theorem TasksKept.foldl {α : Type} {f : State → α → State} (hf : ∀ s x, TasksKept s (f s x)) (l : List α) (s : State) :
    TasksKept s (l.foldl f s) :=
  List.foldlRecOn l f (motive := TasksKept s) (.refl s) fun _ h x _ => h.trans (hf _ x)

theorem HomeFrame.kept {s t : State} (h : HomeFrame s t) : TasksKept s t := ⟨h.tasks⟩

theorem TasksKept.some {s t : State} (h : TasksKept s t) {e : Nat} {x : TaskEntry} (hx : FMap.get? s.tasks e = some x) :
    ∃ y, FMap.get? t.tasks e = some y ∧ taskCore y = taskCore x := by
  have := h.core e
  rw [hx] at this
  exact Option.map_eq_some_iff.mp this

theorem state_of_core {t u : TaskEntry} (h : taskCore u = taskCore t) : u.state = t.state := congrArg (·.1.state) h
theorem gen_of_core {t u : TaskEntry} (h : taskCore u = taskCore t) : u.gen = t.gen := congrArg (·.1.gen) h
theorem thread_of_core {t u : TaskEntry} (h : taskCore u = taskCore t) : u.thread = t.thread := congrArg (·.1.thread) h
theorem pass_of_core {t u : TaskEntry} (h : taskCore u = taskCore t) : u.fit.map (·.pass) = t.fit.map (·.pass) := congrArg (·.2) h

/-- A task's change reads back. -/
theorem get_modTask_same (s : State) (e : Nat) (f : TaskEntry → TaskEntry) :
    FMap.get? (modTask s e f).tasks e = (FMap.get? s.tasks e).map f := by
  unfold modTask
  split <;> simp_all

theorem get_modTask {s : State} {e : Nat} {t : TaskEntry} (h : FMap.get? s.tasks e = some t) (f : TaskEntry → TaskEntry) :
    modTask s e f = { s with tasks := FMap.set s.tasks e (f t) } := by
  simp [modTask, h]

@[simp] theorem threads_modTask (s : State) (e : Nat) (f : TaskEntry → TaskEntry) : (modTask s e f).threads = s.threads := by
  unfold modTask; split <;> rfl

@[simp] theorem panels_modTask (s : State) (e : Nat) (f : TaskEntry → TaskEntry) : (modTask s e f).panels = s.panels := by
  unfold modTask; split <;> rfl

@[simp] theorem frames_modTask (s : State) (e : Nat) (f : TaskEntry → TaskEntry) : (modTask s e f).frames = s.frames := by
  unfold modTask; split <;> rfl

/-! ## Counts and merges -/

theorem homeFrame_countFor (s : State) (p : Party) (ev n : Nat) : HomeFrame s (countFor s p ev n) := by
  have hpanel (x : Nat) : HomeFrame s (s.modPanel x fun y => y.count ev n) :=
    ⟨by unfold State.modPanel; split <;> rfl, (elsewhere_countPanel ..).panels, fun _ => by unfold State.modPanel; split <;> rfl⟩
  cases p with
  | core c => exact homeFrame_setCore ..
  | seq x _ => exact hpanel x
  | slice x _ => exact hpanel x
  | tile x _ => exact hpanel x

theorem homeFrame_countTask (s : State) (e ev n : Nat) : HomeFrame s (countTask s e ev n) := by
  unfold countTask
  split
  · exact homeFrame_countFor ..
  · exact .refl s

theorem homeFrame_applyEntry (s : State) (e : DEntry) : HomeFrame s (applyEntry s e) :=
  (homeFrame_flushSlice s (sliceOf e.addr)).trans (homeFrame_writeHomeNow ..)

theorem kept_merge (s : State) (e : Nat) : TasksKept s (merge s e) :=
  (HomeFrame.foldl homeFrame_applyEntry (entriesOf s e) s).kept.trans (.of_eq rfl)

theorem kept_mergeTask (s : State) (e : Nat) : TasksKept s (mergeTask s e) := by
  unfold mergeTask
  split
  · exact (kept_merge s e).trans ((homeFrame_countFor ..).trans (homeFrame_countFor ..)).kept
  · exact .refl s

/-! ## Panels freed (R26, R77) -/

/-- Tasks stay, and no panel appears. -/
structure Freeing (s t : State) : Prop where
  tasks : TasksKept s t
  gone : ∀ p, s.panel? p = none → t.panel? p = none

theorem Freeing.refl (s : State) : Freeing s s := ⟨.refl s, fun _ h => h⟩

theorem Freeing.trans {s t u : State} (h : Freeing s t) (k : Freeing t u) : Freeing s u :=
  ⟨h.tasks.trans k.tasks, fun p hp => k.gone p (h.gone p hp)⟩

theorem Freeing.foldl {α : Type} {f : State → α → State} (hf : ∀ s x, Freeing s (f s x)) (l : List α) (s : State) :
    Freeing s (l.foldl f s) :=
  List.foldlRecOn l f (motive := Freeing s) (.refl s) fun _ h x _ => h.trans (hf _ x)

theorem HomeFrame.freeing {s t : State} (h : HomeFrame s t) : Freeing s t :=
  ⟨h.kept, fun p hp => by have := h.panels p; rw [hp] at this; simpa using this⟩

theorem freeing_setPanel {s : State} {p : Nat} {x y : Panel} (hx : s.panel? p = some x) : Freeing s (s.setPanel p y) :=
  ⟨.of_eq rfl, fun q hq => by
    have hne : q ≠ p := fun h => by rw [h, hx] at hq; cases hq
    rwa [panel_setPanel_other _ _ hne]⟩

theorem freeing_modPanel (s : State) (p : Nat) (f : Panel → Panel) : Freeing s (s.modPanel p f) := by
  unfold State.modPanel
  split
  · next h => exact freeing_setPanel h
  · exact .refl s

theorem freeing_drainLine (s : State) (p n line : Nat) : Freeing s (drainLine s p n line) := by
  unfold drainLine
  split
  · exact .refl s
  · next x hx =>
    dsimp only
    split
    · exact .refl s
    · exact (freeing_setPanel hx).trans <| (homeFrame_countPoison ..).freeing.trans <|
        .foldl (fun s d => (homeFrame_pushReq s _ (.update _)).freeing) _ _

theorem freeing_drainPanel (s : State) (p : Nat) (sel : Nat → Bool) : Freeing s (drainPanel s p sel) := by
  unfold drainPanel
  split
  · exact .refl s
  · exact .foldl (fun s c => .foldl (fun s l => freeing_drainLine ..) _ s) _ s

theorem freeing_freePanel (s : State) (p : Nat) : Freeing s (freePanel s p) := by
  refine (freeing_drainPanel s p fun _ => true).trans ⟨.of_eq rfl, fun q hq => ?_⟩
  by_cases hp : q = p
  · subst hp; exact get_erase_same ..
  · exact (get_erase_other _ hp).trans hq

theorem panel_freePanel (s : State) (p : Nat) : (freePanel s p).panel? p = none := get_erase_same ..

/-- Every panel of a list that is freed is gone. -/
theorem panel_freePanels {l : List Nat} {p : Nat} (hp : p ∈ l) : ∀ s : State, (l.foldl freePanel s).panel? p = none := by
  induction l with
  | nil => cases hp
  | cons q l ih =>
    intro s
    rcases List.mem_cons.mp hp with rfl | hp
    · exact (Freeing.foldl freeing_freePanel l _).gone _ (panel_freePanel s p)
    · exact ih hp _

/-! ## A pass recorded (R202, R203) -/

theorem tasks_counterRead (s : State) (c : Counter) : (counterRead s c).1.tasks = s.tasks := by
  unfold counterRead
  split
  · split <;> rfl
  · rfl

theorem tasks_sumCounters (cs : List Counter) : ∀ s n f, (sumCounters cs (s, n, f)).1.tasks = s.tasks := by
  induction cs with
  | nil => exact fun _ _ _ => rfl
  | cons c cs ih => exact fun s n f => (ih ..).trans (tasks_counterRead s c)

theorem tasks_passCounts (xs : List Panel) (is : List Nat) : ∀ s, (passCounts xs is s).1.tasks = s.tasks := by
  induction is with
  | nil => exact fun _ => rfl
  | cons i is ih => exact fun s => (ih _).trans (tasks_sumCounters ..)

theorem kept_recordPass (s : State) (e : Nat) (t : TaskEntry) (parts : List (Nat × Nat × Word)) : TasksKept s (recordPass s e t parts) := by
  unfold recordPass
  split
  · next f hf =>
    obtain ⟨t', ht', hf'⟩ := Option.bind_eq_some_iff.mp hf
    have hcounts := tasks_passCounts (t.panels.filterMap s.panel?) [0, 1, 2, 3] s
    refine (TasksKept.of_eq hcounts).trans ?_
    have ht'' : FMap.get? (passCounts (t.panels.filterMap s.panel?) [0, 1, 2, 3] s).1.tasks e = some t' := by rw [hcounts, ht']
    dsimp only
    rw [get_modTask ht'']
    refine (homeFrame_setTask ht'' ?_).kept
    exact Prod.ext rfl (by simp [taskCore, hf'])
  · exact .refl s

/-- Nothing is recorded of a task under no fitting plan. -/
theorem recordPass_none {s : State} {e : Nat} {t : TaskEntry} (h : (FMap.get? s.tasks e).bind (·.fit) = none)
    (parts : List (Nat × Nat × Word)) : recordPass s e t parts = s := by
  simp [recordPass, h]

theorem kept_recordCore (s : State) (e : Nat) (t : TaskEntry) : TasksKept s (recordCore s e t) := by
  unfold recordCore
  split
  · exact kept_recordPass ..
  · exact .refl s

/-! ## The end of a task (R117, R193) -/

theorem kept_devWrite (s : State) (c va : Nat) (bs : List Byte) : TasksKept s ((devWrite s c va bs).getD s) := by
  unfold devWrite
  split
  · next u tg h => exact ((homeFrame_translate h).trans (homeFrame_writeHomeNow ..)).kept
  · exact .refl s

theorem kept_freeSlots (s : State) (c e : Nat) : TasksKept s (freeSlots s c e) := by
  unfold freeSlots
  dsimp only
  refine TasksKept.trans (.of_eq (s := s) (t := s.setCtxt c _) rfl) (.foldl (fun _ _ => ?_) _ _)
  exact kept_devWrite ..

theorem tasks_lapseDeferred (s : State) (c : Nat) (id : BitVec 32) : (lapseDeferred s c id).tasks = s.tasks := by
  unfold lapseDeferred; dsimp only; split <;> rfl

theorem tasks_preemptEnds (s : State) (c : Nat) (id : BitVec 32) (bit : Option Nat) : (preemptEnds s c id bit).tasks = s.tasks := by
  unfold preemptEnds; dsimp only; split <;> rfl

theorem kept_meetDeps (s : State) (id : BitVec 32) :
    TasksKept s { s with tasks := mapVals (fun _ t => { t with deps := t.deps.filter fun d => d != .task id }) s.tasks } := ⟨fun e => by
  rw [get_mapVals, Option.map_map]; rfl⟩

/-- The end of a task's dependents and requests clears the request alone in the task itself. -/
theorem get_settleDone {s : State} {e : Nat} {t : TaskEntry} (h : FMap.get? s.tasks e = some t) (c : Nat) (id : BitVec 32) :
    ∃ t', FMap.get? (settleDone s e c id).tasks e = some { t' with deferred := false, wantFreeze := false } ∧ taskCore t' = taskCore t := by
  have hkept : TasksKept s (preemptEnds (freeSlots (lapseDeferred { s with
      tasks := mapVals (fun _ t => { t with deps := t.deps.filter fun d => d != .task id }) s.tasks } c id) c e) c id (some 60)) :=
    (kept_meetDeps s id).trans <| (TasksKept.of_eq (tasks_lapseDeferred ..)).trans <| (kept_freeSlots ..).trans <|
      .of_eq (tasks_preemptEnds ..)
  obtain ⟨t', ht', hcore⟩ := hkept.some h
  refine ⟨t', ?_, hcore⟩
  unfold settleDone
  dsimp only
  rw [get_modTask ht']
  exact get_set_same ..

/-- A task counted done, its dependents and requests settled, stays done and holds no thread (R193). -/
theorem get_settleDone_done {s : State} {e : Nat} {t : TaskEntry} (h : FMap.get? s.tasks e = some t) (c : Nat) (id : BitVec 32) :
    ∃ t', FMap.get? (settleDone (modTask s e fun t => { t with state := .done, thread := none }) e c id).tasks e = some t' ∧
      t'.state = .done ∧ t'.thread = none ∧ t'.gen = t.gen ∧ t'.fit.map (·.pass) = t.fit.map (·.pass) := by
  obtain ⟨t', ht', hcore⟩ := get_settleDone ((get_modTask_same s e fun t => { t with state := .done, thread := none }).trans
    (congrArg _ h)) c id
  exact ⟨_, ht', state_of_core hcore, thread_of_core hcore, congrArg (·.1.gen) hcore, congrArg (·.2) hcore⟩

/-- A finished task counts as done and holds no thread (R193). -/
theorem get_finishTask {s : State} {e : Nat} {t t0 : TaskEntry} (h : FMap.get? s.tasks e = some t) :
    ∃ t', FMap.get? (finishTask s e t0).tasks e = some t' ∧ t'.state = .done ∧ t'.thread = none ∧ t'.gen = t.gen ∧
      t'.fit.map (·.pass) = t.fit.map (·.pass) := by
  unfold finishTask
  dsimp only
  split
  · exact get_settleDone_done (s := idleThread s _) h ..
  · exact get_settleDone_done h ..

/-! ## The next pass (R202) -/

theorem kept_restoreSet (l : List ((Nat × Nat) × FMap Nat (Nat × Nat))) : ∀ s, TasksKept s (restoreSet s l) := by
  induction l with
  | nil => exact .refl
  | cons c l ih => exact fun s => (homeFrame_copyPage ..).kept.trans (ih _)

/-- After a pass with more to come the task is ready again with the next pass's number (R202, R266). -/
theorem get_nextPass {s : State} {e : Nat} {t t0 : TaskEntry} {f : Fitting} (h : FMap.get? s.tasks e = some t) :
    ∃ t', FMap.get? (nextPass s e t0 f).tasks e = some t' ∧ t'.state = .ready ∧ t'.thread = none ∧
      t'.fit.map (·.pass) = t.fit.map (·.pass + 1) := by
  obtain ⟨t1, ht1, hcore⟩ := (kept_restoreSet ((f.captured.zip f.bufferPas).zip f.tags) s).some h
  refine ⟨{ t1 with
    state := .ready, admitted := false, thread := none
    fit := t1.fit.map fun f => { f with pass := f.pass + 1 } }, ?_, rfl, rfl, ?_⟩
  · unfold nextPass
    dsimp only
    split
    · exact (get_modTask_same ..).trans (congrArg _ ht1)
    · exact (get_modTask_same ..).trans (congrArg _ ht1)
  · have hpass := congrArg (Option.map (· + 1)) (pass_of_core hcore)
    simpa [Option.map_map, Function.comp_def] using hpass

end Sys2Proof.Machine
end

section
/-! PROOFS. The steps of tasks (R22, R23, R36-R39, R193, R202). -/

namespace Sys2Proof.Machine

open Sys2Proof

/-! ## Readiness (R22) -/

theorem exec_taskReady {s : State} {e : Nat} {t : TaskEntry} (h : FMap.get? s.tasks e = some t) : exec (.taskReady e) s =
    .next (withTask s e (if t.state = .waiting ∧ t.deps.isEmpty then { t with state := .ready, age := s.cycle, bypass := 0 } else t)) :=
  congrArg _ (get_modTask h _)

/-! ## The Marker's admission of a service-core task (R23, R193) -/

theorem tasks_enterCore (s : State) (n c : Nat) : (enterCore s n c).tasks = s.tasks := by
  unfold enterCore
  dsimp only
  split
  · split <;> rfl
  · rfl

/-- Registers of a service-core task at its admission (R193). -/
theorem get_taskThread (s : State) (e n : Nat) (t : TaskEntry) :
    (taskThread s e n t).get 5#5 = t.record.args ∧ (taskThread s e n t).get 31#5 = t.record.addr := by
  constructor <;> simp [taskThread, Thread.get]

/-- A service-core task admitted runs on its thread (R193). -/
theorem admitCore_admits {s : State} {e n : Nat} {t : TaskEntry} (h : FMap.get? s.tasks e = some t) :
    (admitCore s e n t).thread (.core n) = taskThread (enterCore s n t.ctx) e n t ∧
    FMap.get? (admitCore s e n t).tasks e = some { t with state := .running, admitted := true, thread := some n } := by
  constructor
  · simp [admitCore, State.thread, State.setThread]
  · have ht : FMap.get? (enterCore s n t.ctx).tasks e = some t := by rw [tasks_enterCore, h]
    exact (get_modTask_same ..).trans (congrArg _ ht)

/-- The Marker's step in its cycle, with one ready task and none blocked or barred (R23). -/
theorem markerStep_one {s : State} {e : Nat} {t : TaskEntry} {p : Place} (hc : s.cycle % 32 = 0) (hb : s.blocked = none)
    (hbar : (s.tasks.filter fun c => c.2.state == .barred) = []) (hr : readyList s = [(e, t)]) (hp : place s t = some p) :
    markerStep s = if isAdmitted (admit_ s e t p) e then bypassAll (countTask (admit_ s e t p) e 78 0) [] else admit_ s e t p := by
  have hfail : failBarred s = s := by simp [failBarred, hbar]
  simp only [markerStep, if_pos hc, hfail, hb, Option.bind_none, hr, admitFirst, hp, List.length_nil]

/-- A service-core task with no parameters is admitted onto its thread (R23, R193). -/
theorem marker_admitsCore {s : State} {e n : Nat} {t : TaskEntry} (hc : s.cycle % 32 = 0) (hb : s.blocked = none)
    (hbar : (s.tasks.filter fun c => c.2.state == .barred) = []) (hr : readyList s = [(e, t)]) (ht : FMap.get? s.tasks e = some t)
    (hp : place s t = some (.thread n)) (hg : t.record.gpmask = 0#64) (hf : t.frozen = none) :
    ∃ u, markerStep s = u ∧ u.thread (.core n) = taskThread (enterCore s n t.ctx) e n t ∧
      ∃ t', FMap.get? u.tasks e = some t' ∧ t'.state = .running ∧ t'.thread = some n := by
  have hadmit : admit_ s e t (.thread n) = countTask (admitCore s e n t) e 77 1 := by
    simp [admit_, hf, paramsOf, hg, writeParams]
  obtain ⟨hthread, htask⟩ := admitCore_admits (n := n) ht
  obtain ⟨t1, ht1, hcore1⟩ := (homeFrame_countTask (admitCore s e n t) e 77 1).kept.some htask
  have hin : isAdmitted (admit_ s e t (.thread n)) e = true := by
    rw [hadmit, isAdmitted, ht1]; exact congrArg (·.1.admitted) hcore1
  have hframe := (homeFrame_countTask (admitCore s e n t) e 77 1).trans (homeFrame_countTask _ e 78 0)
  obtain ⟨t2, ht2, hcore2⟩ := hframe.kept.some htask
  refine ⟨_, markerStep_one hc hb hbar hr hp, ?_⟩
  rw [if_pos hin, hadmit]
  exact ⟨(hframe.thread _).trans hthread, t2, ht2, state_of_core hcore2, thread_of_core hcore2⟩

/-! ## Ends of garments, tasks and passes -/

/-- A garment that is over frees its panels and frame slots (R20, R33). -/
theorem garmentDone_frees {s : State} {e : Nat} {t : TaskEntry} (ht : FMap.get? s.tasks e = some t) (hover : garmentOver s t = true)
    (hfit : t.fit = none) : Ends (.garmentDone e) s fun u =>
      (∀ p ∈ t.panels, u.panel? p = none) ∧ (∀ f ∈ u.frames, f.entry ≠ e) ∧
      ∃ t', FMap.get? u.tasks e = some t' ∧ t'.panels = [] ∧ t'.state = .running := by
  obtain ⟨t1, ht1, hcore1⟩ := (kept_mergeTask s e).some ht
  have hrec : recordPass (mergeTask s e) e t (garmentSigs (mergeTask s e) t) = mergeTask s e := by
    refine recordPass_none ?_ _
    have := pass_of_core hcore1
    rw [hfit] at this
    simpa [ht1] using this
  obtain ⟨t2, ht2, hcore2⟩ := (Freeing.foldl freeing_freePanel t.panels (mergeTask s e)).tasks.some ht1
  have hrun : t.state = .running := by
    simp only [garmentOver, Bool.and_eq_true, beq_iff_eq] at hover
    exact hover.1.1.1
  refine ⟨modTask { t.panels.foldl freePanel (mergeTask s e) with
      frames := (t.panels.foldl freePanel (mergeTask s e)).frames.filter fun f => f.entry != e } e
      fun t => { t with panels := [], frames := [] }, ?_, fun p hp => ?_, fun f hf => ?_, { t2 with panels := [], frames := [] }, ?_, rfl, ?_⟩
  · simp only [exec, execGarmentDone, ht, hover, if_true, hrec]
  · rw [State.panel?, panels_modTask]
    exact panel_freePanels hp _
  · rw [frames_modTask] at hf
    simpa using (List.mem_filter.mp hf).2
  · exact (get_modTask_same ..).trans (congrArg _ ht2)
  · exact (state_of_core hcore2).trans ((state_of_core hcore1).trans hrun)

/-- The state in which a task's run ends: its log merged, its pass recorded. -/
theorem kept_runEnd (s : State) (e : Nat) (t : TaskEntry) : TasksKept s (recordCore (mergeTask s e) e t) :=
  (kept_mergeTask s e).trans (kept_recordCore ..)

/-- A task whose run is over with no more passes counts as done (R117, R193). -/
theorem taskEnd_done {s : State} {e : Nat} {t : TaskEntry} (ht : FMap.get? s.tasks e = some t) (hover : runOver s t = true)
    (hm : morePasses t = false) : Ends (.taskEnd e) s fun u =>
      ∃ t', FMap.get? u.tasks e = some t' ∧ t'.state = .done ∧ t'.thread = none ∧ t'.gen = t.gen := by
  obtain ⟨t1, ht1, hcore⟩ := (kept_runEnd s e t).some ht
  obtain ⟨t', ht', hstate, hthread, hgen, -⟩ := get_finishTask (t0 := t) ht1
  refine ⟨_, ?_, t', ht', hstate, hthread, hgen.trans (gen_of_core hcore)⟩
  simp [exec, execTaskEnd, ht, hover, hm]

/-- A pass that ends is followed by the next one, or by the end of the run where its write set has overrun its pages (R202). -/
theorem fittingPassEnd_ends {s : State} {e : Nat} {t : TaskEntry} {f : Fitting} (ht : FMap.get? s.tasks e = some t)
    (hover : runOver s t = true) (hm : morePasses t = true)
    (hf : (FMap.get? (cleanContext (recordCore (mergeTask s e) e t) t.ctx).tasks e).bind (·.fit) = some f) :
    Ends (.fittingPassEnd e) s fun u => ∃ t', FMap.get? u.tasks e = some t' ∧ t'.thread = none ∧
      (f.overflow = false → t'.state = .ready ∧ t'.fit.map (·.pass) = some (f.pass + 1)) ∧
      (f.overflow = true → t'.state = .done ∧ t'.fit.map (·.pass) = some f.pass) := by
  obtain ⟨t1, ht1, hf1⟩ := Option.bind_eq_some_iff.mp hf
  have hexec : exec (.fittingPassEnd e) s = .next (if f.overflow then finishTask (cleanContext (recordCore (mergeTask s e) e t) t.ctx) e t
      else nextPass (cleanContext (recordCore (mergeTask s e) e t) t.ctx) e t f) := by
    simp [exec, execFittingPassEnd, ht, hover, hm, hf]
  cases ho : f.overflow with
  | true =>
    obtain ⟨t', ht', hstate, hthread, -, hpass⟩ := get_finishTask (t0 := t) ht1
    rw [if_pos ho] at hexec
    exact ⟨_, hexec, t', ht', hthread, nofun, fun _ => ⟨hstate, by rw [hpass, hf1, Option.map_some]⟩⟩
  | false =>
    obtain ⟨t', ht', hstate, hthread, hpass⟩ := get_nextPass (t0 := t) (f := f) ht1
    rw [if_neg (by simp [ho])] at hexec
    exact ⟨_, hexec, t', ht', hthread, fun _ => ⟨hstate, by rw [hpass, hf1, Option.map_some]⟩, nofun⟩

/-! ## Replays (R36, R39) -/

/-- A replay ends, or a pending start is taken (R36). -/
theorem endReplay_eq (s : State) (c : Nat) : endReplay s c = s.setCtxt c { s.ctxt c with greplay :=
    let r := (s.ctxt c).greplay
    if r.pend then { r with busy := true, pend := false, running := r.pendGraph, begun := false, policy := 0
                            fail := r.fail || r.failing, failing := false }
    else { r with busy := false, begun := false, fail := r.fail || r.failing, failing := false } } := by
  unfold endReplay
  cases h : (s.ctxt c).greplay.pend <;> simp [h]

/-- A replay that cannot begin ends with fail set (log 135). -/
theorem replayBegin_dropped {s : State} {c : Nat} (hb : (s.ctxt c).greplay.busy = true) (hn : (s.ctxt c).greplay.begun = false)
    (hk : (s.ctxt c).killed = true ∨ inFlr s c = true) : exec (.replayBegin c) s =
      .next (s.setCtxt c { s.ctxt c with greplay := { (s.ctxt c).greplay with
        pend := false, busy := false, begun := false, fail := true, failing := false } }) := by
  simp [exec, execReplayBegin, hb, hn, hk, dropReplay, endReplay_eq]

/-- A replay whose graph reads begins: its tasks are submitted (R39). -/
theorem replayBegin_begins {s u : State} {c : Nat} {pol : BitVec 2} {es : List GraphEntry} (hb : (s.ctxt c).greplay.busy = true)
    (hn : (s.ctxt c).greplay.begun = false) (hk : (s.ctxt c).killed = false) (hi : inFlr s c = false)
    (hr : readGraph s c (s.ctxt c).greplay.running.toNat = some (u, pol, es)) : exec (.replayBegin c) s =
      .next (submitGraph c es [] (u.setCtxt c { u.ctxt c with greplay := { (s.ctxt c).greplay with begun := true, policy := pol } })) := by
  simp [exec, execReplayBegin, hb, hn, hk, hi, hr]

/-- A replay whose graph is refused ends (R39). -/
theorem replayBegin_refused {s : State} {c : Nat} (hb : (s.ctxt c).greplay.busy = true) (hn : (s.ctxt c).greplay.begun = false)
    (hk : (s.ctxt c).killed = false) (hi : inFlr s c = false) (hr : readGraph s c (s.ctxt c).greplay.running.toNat = none) :
    exec (.replayBegin c) s =
      .next (endReplay (s.setCtxt c { s.ctxt c with greplay := { (s.ctxt c).greplay with bad := true } }) c) := by
  simp [exec, execReplayBegin, hb, hn, hk, hi, hr]

/-- A replay whose tasks are over ends (R36). -/
theorem replayEnd_ends {s : State} {c : Nat} (hb : (s.ctxt c).greplay.busy = true) (hn : (s.ctxt c).greplay.begun = true)
    (hg : replayGoes s c = false) : exec (.replayEnd c) s = .next (endReplay s c) := by
  simp [exec, execReplayEnd, hb, hn, hg]

theorem replayEnd_goes {s : State} {c : Nat} (hg : replayGoes s c = true) : exec (.replayEnd c) s = .next s := by
  simp [exec, execReplayEnd, hg]

end Sys2Proof.Machine

namespace Sys2Proof

open Machine

/-- Settles O50, step by step. -/
theorem taskSteps : Obligations.TaskSteps := by
  refine ⟨fun e s t ht => ⟨fun hw hd => ?_, fun hd => ?_⟩, fun s hc => ?_, fun s e t n hc hb hbar hr ht hp hg hf => ?_,
    fun e s t ht => ⟨fun ho hfit => garmentDone_frees ht ho hfit, fun ho => ?_, fun ho hm => taskEnd_done ht ho hm, fun ho => ⟨?_, ?_⟩,
      fun f ho hm hf => fittingPassEnd_ends ht ho hm hf⟩,
    fun c s hb => ⟨fun hn hk => replayBegin_dropped hb hn hk, fun u pol es hn hk hi hr => replayBegin_begins hb hn hk hi hr,
      fun hn hk hi hr => ⟨fun hp => ?_, fun hp => ?_⟩, fun _ hg => replayEnd_goes hg, fun hn hg hp => ?_, fun hn hg hp => ?_⟩⟩
  · rw [exec_taskReady ht, if_pos ⟨hw, by simp [hd]⟩]
  · exact ⟨_, exec_taskReady ht, by simp [withTask, hd], rfl⟩
  · simp [exec, execMarkerStep, markerStep, hc]
  · obtain ⟨u, hu, hth, t', ht', hstate, hthread⟩ := marker_admitsCore hc hb hbar hr ht hp hg hf
    have hregs := get_taskThread (enterCore s n t.ctx) e n t
    exact ⟨u, by rw [← hu]; rfl, by rw [hth]; rfl, by rw [hth]; rfl, by rw [hth]; rfl, by rw [hth, hregs.1], by rw [hth, hregs.2],
      t', ht', hstate, hthread⟩
  · simp [exec, execGarmentDone, ht, ho]
  · simp [exec, execTaskEnd, ht, ho]
  · simp [exec, execFittingPassEnd, ht, ho]
  · rw [replayBegin_refused hb hn hk hi hr]; simp [endReplay_eq, hp]
  · rw [replayBegin_refused hb hn hk hi hr]; simp [endReplay_eq, hp, hb]
  · rw [replayEnd_ends hb hn hg]; simp [endReplay_eq, hp]
  · rw [replayEnd_ends hb hn hg]; simp [endReplay_eq, hp, hb]

end Sys2Proof
end

section
/-! SUPPORT. A panel's cycle (R17, R28, R213, R214): which cycles are its row's, and what the end of a row's live cycle leaves. -/

namespace Sys2Proof.Machine

open Sys2Proof

/-! ## Tiles under a change of every tile -/

/-- What a change of every tile keeps of each, a tile that was never written included. -/
theorem getD_mapVals {β : Type} {f : Nat → Tile → Tile} (g : Tile → β) (hf : ∀ n t, g (f n t) = g t) (m : FMap Nat Tile) (n : Nat) :
    g (FMap.getD (mapVals f m) n Tile.clear) = g (FMap.getD m n Tile.clear) := by
  simp only [FMap.getD, get_mapVals]
  cases FMap.get? m n with
  | none => rfl
  | some t => exact hf n t

/-- A tile's registers, scratchpad, logs and pool, and nothing else of it. -/
def tileData (t : Tile) : Tile := { Tile.clear with v := t.v, k := t.k, acc := t.acc, scratch := t.scratch, logs := t.logs, pool := t.pool }

/-! ## The end of a row's live cycle -/

theorem tileData_endLive (now : Nat) (x : Panel) (fed : List Nat) (n : Nat) : tileData ((endLive now x fed).tile n) = tileData (x.tile n) := by
  have hlatch := getD_mapVals (f := fun t tl => latchStep (ageGathers (quietStep (fed.contains t) tl))) tileData
    (fun t tl => by unfold quietStep; split <;> rfl) (pipeStep x).tiles n
  have hpipe := getD_mapVals (f := fun _ tl => { tl with pipe := tl.pipe.map fun v => { v with left := v.left - 1 } }) tileData
    (fun _ _ => rfl) x.tiles n
  exact hlatch.trans hpipe

/-- After a live cycle the next row follows; at the end of a turn row 0 of the schedule chosen (R17, R28). -/
theorem nextRow_eq (x : Panel) :
    (nextRow x).row = (if x.row + 1 < x.image.wheel then x.row + 1 else 0) ∧
    (nextRow x).schedB = (if x.row + 1 < x.image.wheel then x.schedB else x.nextB) ∧
    (x.image.wheel ≤ x.row + 1 → x.nextB ≠ x.schedB → (nextRow x).switching = 2) := by
  unfold nextRow
  by_cases hw : x.row + 1 < x.image.wheel
  · simp [hw, Nat.not_le.mpr hw]
  · by_cases hs : x.nextB = x.schedB
    · simp [hw, hs]
    · simp [hw, hs, Panel.count]

/-- What the next row leaves of a panel. -/
theorem nextRow_keeps (x : Panel) :
    (nextRow x).live = x.live ∧ (nextRow x).holds = [] ∧ (nextRow x).skips = [] ∧ (nextRow x).tok = x.tok ∧ (nextRow x).half = none ∧
    (nextRow x).rowAt = x.rowAt ∧ (nextRow x).tiles = x.tiles := by
  unfold nextRow
  dsimp only
  split
  · and_intros <;> rfl
  · split <;> and_intros <;> rfl

/-- A row's whole live cycle ends as its statement has it. -/
theorem endPart_done (now : Nat) (z : Panel) (run : Bool) (fed : List Nat) :
    let a := endPart now z true run fed
    a.live = z.live + 1 ∧ a.holds = [] ∧ a.skips = [] ∧ a.tok = now + 1 ∧ a.half = none ∧ a.rowAt = (now + 1, z.row) ∧
    a.row = (if z.row + 1 < z.image.wheel then z.row + 1 else 0) ∧
    a.schedB = (if z.row + 1 < z.image.wheel then z.schedB else z.nextB) ∧
    (z.image.wheel ≤ z.row + 1 → z.nextB ≠ z.schedB → a.switching = 2) ∧ ∀ n, tileData (a.tile n) = tileData (z.tile n) := by
  have hend (y : Panel) (hy : y = { z with rowAt := (now + 1, z.row), counters := y.counters }) (fed : List Nat) :
      let a := nextRow (endLive now y fed)
      a.live = z.live + 1 ∧ a.holds = [] ∧ a.skips = [] ∧ a.tok = now + 1 ∧ a.half = none ∧ a.rowAt = (now + 1, z.row) ∧
      a.row = (if z.row + 1 < z.image.wheel then z.row + 1 else 0) ∧
      a.schedB = (if z.row + 1 < z.image.wheel then z.schedB else z.nextB) ∧
      (z.image.wheel ≤ z.row + 1 → z.nextB ≠ z.schedB → a.switching = 2) ∧ ∀ n, tileData (a.tile n) = tileData (z.tile n) := by
    obtain ⟨hlive, hholds, hskips, htok, hhalf, hat, htiles⟩ := nextRow_keeps (endLive now y fed)
    obtain ⟨hrow, hsched, hsw⟩ := nextRow_eq (endLive now y fed)
    refine ⟨hlive.trans ?_, hholds, hskips, htok, hhalf, hat.trans ?_, hrow.trans ?_, hsched.trans ?_, ?_, fun n => ?_⟩
    · rw [hy]; rfl
    · rw [hy]; rfl
    · rw [hy]; rfl
    · rw [hy]; rfl
    · rw [hy] at hsw ⊢; exact hsw
    · have htile := tileData_endLive now y fed n
      rw [Panel.tile, htiles]
      refine htile.trans ?_
      rw [hy]; rfl
  unfold endPart
  dsimp only
  rw [if_pos rfl]
  split
  · exact hend _ rfl _
  · exact hend _ rfl _

/-! ## Which cycle a panel takes (R224) -/

theorem advancePanel_eq {s : State} {p : Nat} {x : Panel} (hx : s.panel? p = some x) : advancePanel s p =
    if canAdvance s p x then panelCycle (s.setPanel p { x with lastAdv := s.cycle + 1 }) p else s := by
  simp [advancePanel, hx]

/-- A cycle of a panel that no heat, publish, `tkwait` or fault holds, in its turn: a change of schedule goes on, or the row has it. -/
theorem panelCycle_free {s u : State} {p : Nat} {y : Panel} (hu : settlePanelDue s p = u) (hy : u.panel? p = some y)
    (hhot : isHot u y = false) (hpub : y.publishHold = 0) (htk : tkwaits u p = false) (hf : y.faulted = []) (hturn : inPhase u y = true) :
    panelCycle s p = if 0 < y.switching then switchCycle u p y true else rowCycle u p y true := by
  have hfree : ¬ (isHot u y = true ∨ 0 < y.publishHold ∨ tkwaits u p = true) := by simp [hhot, hpub, htk]
  simp only [panelCycle, hu, hy, hturn, if_neg hfree, hf, List.isEmpty_nil, if_true]

/-- A nullified cycle of a change of schedule that no gather holds or faults in (R28). -/
theorem switchCycle_free {u : State} {p : Nat} {y : Panel} (hh : gatherHolds y u.cycle = []) (hf : gatherFaults y = []) :
    switchCycle u p y true = u.setPanel p (endLive u.cycle { y with switching := y.switching - 1, holds := [] } []) := by
  simp [switchCycle, hh, hf]

/-- A row that no fault and no clamp holds has its live cycle, or the stop before it. -/
theorem rowCycle_unheld {u : State} {p : Nat} {y : Panel} (hf : y.faulted = []) (hh : rowHolds u y (rowWordsOf u p y) = []) :
    rowCycle u p y true = liveOrStop (u.setPanel p { y with rowRun := some (rowRuns u p y) }) p { y with rowRun := some (rowRuns u p y) }
      (rowRuns u p y) (rowWordsOf u p y) := by
  have hholds : rowHolds u y (if rowRuns u p y then rowWords y else []) = [] := hh
  unfold rowCycle
  dsimp only
  rw [hholds, if_neg (by simp [hf]), if_pos (.inr rfl), if_pos rfl]
  rfl

/-- A row of one part executes where none of its words and none of its gathers faults, and its live cycle ends. -/
theorem liveRow_whole {s : State} {p : Nat} {x : Panel} {run : Bool} {ws : List RowWord} (hhalf : x.half = none)
    (hlater : laterTiles s x = []) (hg : gatherFaults x = []) (hw : (runTiles p ws (List.range x.ntiles) s []).2 = []) : ∃ fed,
    liveRow s p x run ws = (runTiles p ws (List.range x.ntiles) s []).1.modPanel p fun z => endPart s.cycle z true run fed := by
  have hall : (List.range x.ntiles).filter (fun t => !([] : List Nat).contains t) = List.range x.ntiles := by simp
  have hsnd : (runTiles p ws [] (runTiles p ws (List.range x.ntiles) s []).1 (runTiles p ws (List.range x.ntiles) s []).2).2 = [] := hw
  refine ⟨(ws.filter fun w => isFeed w.instr && (List.range x.ntiles).contains w.tile).map (·.tile), ?_⟩
  unfold liveRow
  simp only [hhalf, Option.isSome_none, Bool.false_eq_true, if_false, hlater, hall, hg, hsnd, List.isEmpty_nil, if_true, Bool.or_true]

/-- The row of a panel whose words do not fault executes, and its live cycle ends. -/
theorem rowCycle_goes {u : State} {p : Nat} {y : Panel} (h : RowGoes u p y) : ∃ fed,
    rowCycle u p y true =
      (runTiles p (rowWordsOf u p y) (List.range y.ntiles) (u.setPanel p { y with rowRun := some (rowRuns u p y) }) []).1.modPanel p
        fun x => endPart u.cycle x true (rowRuns u p y) fed := by
  obtain ⟨hfault, -, -, -, -⟩ := h.free
  obtain ⟨hhalf, hlater⟩ := h.whole
  obtain ⟨hgather, hwords⟩ := h.noFault
  obtain ⟨fed, hlive⟩ := liveRow_whole (s := u.setPanel p { y with rowRun := some (rowRuns u p y) }) (p := p)
    (x := { y with rowRun := some (rowRuns u p y) }) (run := rowRuns u p y) (ws := rowWordsOf u p y) hhalf hlater hgather hwords
  have hbreak : tbreakAt (u.setPanel p { y with rowRun := some (rowRuns u p y) }) p { y with rowRun := some (rowRuns u p y) } = none :=
    h.noBreak
  refine ⟨fed, (rowCycle_unheld hfault h.noClamp).trans ?_⟩
  unfold liveOrStop
  rw [hbreak]
  exact hlive

/-- A row that goes is done (R17). -/
theorem rowDone_of_goes {u t : State} {p : Nat} {y : Panel} (h : RowGoes u p y) (ht : rowCycle u p y true = t) : RowDone u p y t := by
  obtain ⟨fed, hgo⟩ := rowCycle_goes h
  rw [ht] at hgo
  subst hgo
  generalize hw : (runTiles p (rowWordsOf u p y) (List.range y.ntiles) (u.setPanel p { y with rowRun := some (rowRuns u p y) }) []).1 = w
  unfold RowDone
  rw [hw]
  cases hz : w.panel? p with
  | none =>
    rw [modPanel_none hz]
    exact ⟨rfl, rfl, rfl, fun _ _ => rfl, fun z hz' => by rw [hz] at hz'; cases hz'⟩
  | some z =>
    rw [modPanel_some hz]
    refine ⟨rfl, rfl, rfl, fun q hq => panel_setPanel_other _ _ hq, fun z' hz' => ?_⟩
    obtain rfl := Option.some.inj (hz.symm.trans hz')
    obtain ⟨hlive, hholds, hskips, htok, hhalf, hat, hrow, hsched, hsw, htiles⟩ := endPart_done u.cycle z (rowRuns u p y) fed
    refine ⟨_, panel_setPanel .., hlive, hholds, hskips, htok, hhalf, hat, hrow, hsched, hsw, fun n => ?_⟩
    have hdata := htiles n
    exact ⟨(congrArg Tile.v hdata :), (congrArg Tile.k hdata :), (congrArg Tile.acc hdata :), (congrArg Tile.scratch hdata :),
      (congrArg Tile.logs hdata :), (congrArg Tile.pool hdata :)⟩

/-- A panel's cycle in which its row goes, or a change of schedule does (R17, R28). -/
theorem wheelAdvance_cycle {s : State} {p : Nat} {x y : Panel} (hx : s.panel? p = some x) (hadv : canAdvance s p x = true)
    (hy : (settlePanelDue (s.setPanel p { x with lastAdv := s.cycle + 1 }) p).panel? p = some y) :
    let u := settlePanelDue (s.setPanel p { x with lastAdv := s.cycle + 1 }) p
    (y.switching = 0 → RowGoes u p y → Ends (.wheelAdvance p) s (RowDone u p y)) ∧
    (y.faulted = [] → isHot u y = false → y.publishHold = 0 → tkwaits u p = false → inPhase u y = true →
      0 < y.switching → gatherHolds y u.cycle = [] → gatherFaults y = [] → Ends (.wheelAdvance p) s fun t =>
        (t.panel? p).map uncounted = some (uncounted (endLive u.cycle { y with switching := y.switching - 1, holds := [] } []))) := by
  intro u
  have hcycle : exec (.wheelAdvance p) s = .next (panelCycle (s.setPanel p { x with lastAdv := s.cycle + 1 }) p) := by
    simp only [exec, execWheelAdvance, advancePanel_eq hx, hadv, if_true]
  refine ⟨fun hsw h => ?_, fun hf hhot hpub htk hturn hsw hgh hgf => ?_⟩
  · obtain ⟨hf, hhot, hpub, htk, -⟩ := h.free
    rw [panelCycle_free rfl hy hhot hpub htk hf h.turn, if_neg (by omega)] at hcycle
    exact ⟨_, hcycle, rowDone_of_goes h rfl⟩
  · rw [panelCycle_free rfl hy hhot hpub htk hf hturn, if_pos hsw, switchCycle_free hgh hgf] at hcycle
    exact ⟨_, hcycle, congrArg _ (panel_setPanel ..)⟩

end Sys2Proof.Machine
end

section
/-! SUPPORT. A stream's beat read and delivered (R101, R220, R223). -/

namespace Sys2Proof.Machine

open Sys2Proof

/-! ## Slots and tiles of a panel -/

@[simp] theorem slot_setSlot_same (x : Panel) (i q : Nat) (sl : StreamSlot) : (x.setSlot i q sl).slot? i q = some sl := by
  simp [Panel.setSlot, Panel.slot?]

@[simp] theorem tile_setTile_same (x : Panel) (n : Nat) (t : Tile) : (x.setTile n t).tile n = t := by
  simp [Panel.setTile, Panel.tile]

theorem tile_setTile_other (x : Panel) {n m : Nat} (t : Tile) (h : m ≠ n) : (x.setTile n t).tile m = x.tile m := by
  simp [Panel.setTile, Panel.tile, getD_set, h]

/-! ## What a beat depends on -/

/-- Panels of one image and with the same beats in their tiles' queues. -/
structure SameQueues (x y : Panel) : Prop where
  image : y.image = x.image
  queues : ∀ n, (y.tile n).queues = (x.tile n).queues

theorem SameQueues.refl (x : Panel) : SameQueues x x := ⟨rfl, fun _ => rfl⟩

theorem SameQueues.trans {x y z : Panel} (h : SameQueues x y) (k : SameQueues y z) : SameQueues x z :=
  ⟨k.image.trans h.image, fun n => (k.queues n).trans (h.queues n)⟩

theorem SameQueues.queue {x y : Panel} (h : SameQueues x y) (n i q : Nat) : (y.tile n).queue i q = (x.tile n).queue i q := by
  unfold Tile.queue; rw [h.queues]

theorem streamTiles_image {x y : Panel} (h : y.image = x.image) (sp : StreamSpec) : streamTiles y sp = streamTiles x sp := by
  have ht : streamTile y sp = streamTile x sp := by funext k; simp only [streamTile, denseTile, h]
  simp only [streamTiles, streamBlocks, ht, h]

theorem tileElems_image {x y : Panel} (h : y.image = x.image) (sp : StreamSpec) : tileElems y sp = tileElems x sp := by
  simp only [tileElems, h]

theorem blockOf_image {x y : Panel} (h : y.image = x.image) (n : Nat) : blockOf y n = blockOf x n := by simp only [blockOf, h]

theorem beatElems_image {x y : Panel} (h : y.image = x.image) (sp : StreamSpec) (n k : Nat) : beatElems y sp n k = beatElems x sp n k := by
  simp only [beatElems, tileFirst, tileElems_image h, blockOf_image h]

/-- Whether a beat can be fetched depends on the image, the queue, and of the slot on all but its parts. -/
theorem canFetch_parts {x y : Panel} (h : SameQueues x y) (i q n : Nat) (sl : StreamSlot) (ps : FMap Nat (Nat × List Byte × List (Nat × Nat))) :
    canFetch y i q n { sl with parts := ps } = canFetch x i q n sl := by
  simp only [canFetch, streamTiles_image h.image, tileBeats, tileElems_image h.image, h.queue]
  rfl

/-- No element is left of a beat whose remaining elements have all been read. -/
theorem elemsLeft_partsTaken {x y : Panel} (h : SameQueues x y) (sl : StreamSlot) (n : Nat) (bs : List Byte) (pas : List (Nat × Nat)) :
    elemsLeft y (partsTaken sl n (elemsLeft x sl n) bs pas) n = [] := by
  simp only [elemsLeft, partsTaken, partOf, getD_set_same, beatElems_image h.image, List.length_drop, List.drop_eq_nil_iff]
  omega

/-! ## The read of a beat's elements -/

/-- The cycle stays, and a panel keeps its image and the beats in its queues. -/
structure ReadKept (p : Nat) (s t : State) : Prop where
  cycle : t.cycle = s.cycle
  panel : ∀ x, s.panel? p = some x → ∃ y, t.panel? p = some y ∧ SameQueues x y

theorem ReadKept.refl (p : Nat) (s : State) : ReadKept p s s := ⟨rfl, fun x hx => ⟨x, hx, .refl x⟩⟩

theorem ReadKept.trans {p : Nat} {s t u : State} (h : ReadKept p s t) (k : ReadKept p t u) : ReadKept p s u :=
  ⟨k.cycle.trans h.cycle, fun x hx => by
    obtain ⟨y, hy, hxy⟩ := h.panel x hx
    obtain ⟨z, hz, hyz⟩ := k.panel y hy
    exact ⟨z, hz, hxy.trans hyz⟩⟩

theorem HomeFrame.panel {s t : State} (h : HomeFrame s t) {p : Nat} {x : Panel} (hx : s.panel? p = some x) :
    ∃ y, t.panel? p = some y ∧ uncounted y = uncounted x := by
  have := h.panels p
  rw [hx] at this
  exact Option.map_eq_some_iff.mp this

theorem sameQueues_of_uncounted {x y : Panel} (h : uncounted y = uncounted x) : SameQueues x y :=
  ⟨congrArg (·.image) h, fun n => congrArg (fun z => (z.tile n).queues) h⟩

theorem HomeFrame.read {s t : State} (h : HomeFrame s t) (p : Nat) : ReadKept p s t :=
  ⟨h.cycle, fun _ hx => (h.panel hx).imp fun _ hy => ⟨hy.1, sameQueues_of_uncounted hy.2⟩⟩

/-- Bytes enter the L1 of a tile. -/
theorem readKept_setLines (s : State) (p n : Nat) (f : Panel → Cells) :
    ReadKept p s (s.modPanel p fun x => x.setTile n { x.tile n with lines := f x }) := by
  refine ⟨by unfold State.modPanel; split <;> rfl, fun x hx =>
    ⟨x.setTile n { x.tile n with lines := f x }, by rw [modPanel_some hx, panel_setPanel], rfl, fun m => ?_⟩⟩
  by_cases hm : m = n
  · subst hm; rw [tile_setTile_same]
  · rw [tile_setTile_other _ _ hm]

theorem homeFrame_tileFetch {s t : State} {x : Panel} {tg : Target} {base len : Nat} {bs : List Byte}
    (h : tileFetch s x tg base len = .ok (t, bs)) : HomeFrame s t := by
  have hfill := homeFrame_l2Fill s (some (.panel x.uid)) tg.dom base len
  unfold tileFetch at h
  dsimp only at h
  split at h
  · exact hfill.trans (homeFrame_homeRead h)
  · split at h
    · cases h
    · cases h; exact hfill

theorem readKept_tileRead {s t : State} {p n i m : Nat} {tg : Target} {bs : List Byte} (h : tileRead s p n i tg m = .ok (t, bs)) :
    ReadKept p s t := by
  unfold tileRead at h
  split at h
  · cases h; exact .refl ..
  · dsimp only at h
    split at h
    · cases h; exact .refl ..
    · split at h
      · cases h
      · next hf =>
        have hfetch := (homeFrame_tileFetch hf).read p
        split at h
        · cases h; exact hfetch
        · cases h; exact hfetch.trans (readKept_setLines ..)

theorem homeFrame_elemTarget {s t : State} {x : Panel} {blk : Nat} {acc : Access} {sl : StreamSlot} {k : Nat} {tg : Target}
    (h : elemTarget s x blk acc sl k = .ok (t, tg)) : HomeFrame s t := by
  unfold elemTarget at h
  split at h
  · cases h
  · next hx =>
    split at h
    · cases h
    · cases h; exact homeFrame_translate hx

theorem readKept_readElems {p n i blk : Nat} {sl : StreamSlot} (ks : List Nat) : ∀ {s t : State} {bs : List Byte} {pas : List (Nat × Nat)},
    readElems s p n i blk sl ks = .ok (t, bs, pas) → ReadKept p s t := by
  induction ks with
  | nil => intro s t bs pas h; cases h; exact .refl ..
  | cons k ks ih =>
    intro s t bs pas h
    unfold readElems at h
    split at h
    · cases h; exact .refl ..
    · split at h
      · cases h
      · next htg =>
        split at h
        · cases h
        · next hrd =>
          split at h
          · cases h
          · next hrest =>
            cases h
            exact ((homeFrame_elemTarget htg).read p).trans ((readKept_tileRead hrd).trans (ih hrest))

/-! ## The delivery -/

theorem homeFrame_scaleLane {s t : State} {uid : Nat} {sp : StreamSpec} {pas : List (Nat × Nat)} {l : W32}
    (h : scaleLane s uid sp pas = .ok (t, l)) : HomeFrame s t := by
  unfold scaleLane at h
  split at h
  · dsimp only at h
    split at h
    · cases h
    · cases h; exact .foldl (fun _ _ => homeFrame_fillLine ..) _ s
  · cases h; exact .refl s

/-- A panel with a beat delivered into a tile's queue of a stream (R220, R223). -/
def beatDelivered (x : Panel) (i q n : Nat) (sl : StreamSlot) (b : Beat) (now : Nat) : Panel :=
  noteBeat ((x.setTile n ((x.tile n).setQueue i q ((x.tile n).queue i q ++ [b]))).setSlot i q
    { sl with fetched := FMap.set sl.fetched n (FMap.getD sl.fetched n 0 + 1), parts := FMap.erase sl.parts n }) now n

/-- A beat wholly read, whose scale lane reads, is delivered. -/
theorem deliverBeat_eq {v w : State} {p n i q : Nat} {y : Panel} {sl : StreamSlot} {l : W32} (hy : v.panel? p = some y)
    (hsl : y.slot? i q = some sl) (hc : canFetch y i q n sl = true) (he : elemsLeft y sl n = [])
    (hs : scaleLane v y.uid sl.spec (partOf sl n).2.2 = .ok (w, l)) :
    deliverBeat v p n i q = w.modPanel p fun x => beatDelivered x i q n sl (beatOf (partOf sl n).2.1 l) w.cycle := by
  simp only [deliverBeat, hy, hsl, hc, he, and_self, if_true, hs]
  rfl

/-- A delivered beat is at the end of its queue, and its AG tile has delivered in this cycle. -/
theorem beatDelivered_done (x : Panel) (i q n : Nat) (sl : StreamSlot) (b : Beat) (now : Nat) :
    ∃ sl', (beatDelivered x i q n sl b now).slot? i q = some sl' ∧ sl'.spec = sl.spec ∧
      ((beatDelivered x i q n sl b now).tile n).queue i q = (x.tile n).queue i q ++ [b] ∧
      FMap.getD sl'.fetched n 0 = FMap.getD sl.fetched n 0 + 1 ∧ FMap.get? sl'.parts n = none ∧
      agFree (beatDelivered x i q n sl b now) now n = false := by
  refine ⟨_, slot_setSlot_same .., rfl, ?_, getD_set_same .., get_erase_same .., ?_⟩
  · exact (congrArg (Tile.queue · i q) (tile_setTile_same x n _)).trans (getD_set_same ..)
  · simp [agFree, beatDelivered, noteBeat, blockOf, Panel.setSlot, Panel.setTile, Panel.setStrand]

end Sys2Proof.Machine
end

section
/-! SUPPORT. The strands of a panel start (R126, R255), its records are written (R77), a load takes its entries (R26). -/

namespace Sys2Proof.Machine

open Sys2Proof

/-! ## Strands started -/

/-- The sequencer thread of a strand of a panel as a start leaves it: running at its entry, or finished where the pattern has no such strand
(R116, R126). -/
def startedThread (s : State) (p : Nat) (x : Panel) (i : Nat) : Thread :=
  if i < x.image.strands then { strandThread s x i with dseq := (s.thread (.seq p i)).dseq }
  else { Thread.clear with ctx := x.ctx, status := .finished, dseq := (s.thread (.seq p i)).dseq }

/-- One strand's slice engine goes idle and its sequencer thread starts. -/
def startStrand (p : Nat) (x : Panel) (s : State) (i : Nat) : State :=
  (s.setThread (.slice p i) { Thread.clear with ctx := x.ctx }).setThread (.seq p i) (startedThread s p x i)

/-- A panel whose strands start over. -/
def strandsAnew (x : Panel) : Panel :=
  { x with strands := Vector.ofFn fun i : Fin 4 => newStrand (x.strand i.val) (decide (i.val < x.image.strands)) }

theorem startStrands_eq {s : State} {p : Nat} {x : Panel} (hx : s.panel? p = some x) : startStrands s p =
    strandIds.foldl (startStrand p x) ((s.unask fun q => partyPanel q == some p).setPanel p (strandsAnew x)) := by
  have hstep : (fun (s : State) (i : Nat) =>
      let s := s.setThread (.slice p i) { Thread.clear with ctx := x.ctx }
      let n := (s.thread (.seq p i)).dseq
      s.setThread (.seq p i) (if i < x.image.strands then { strandThread s x i with dseq := n }
        else { Thread.clear with ctx := x.ctx, status := .finished, dseq := n })) = startStrand p x := by
    funext s i
    simp only [startStrand, startedThread, thread_setThread_other _ _ (show Party.seq p i ≠ .slice p i from Party.noConfusion)]
    rfl
  unfold startStrands
  rw [hx]
  exact congrArg (fun f => List.foldl f _ strandIds) hstep

theorem startStrand_other {p : Nat} {x : Panel} {s : State} {i : Nat} {q : Party} (h1 : q ≠ .seq p i) (h2 : q ≠ .slice p i) :
    (startStrand p x s i).thread q = s.thread q := by
  rw [startStrand, thread_setThread_other _ _ h1, thread_setThread_other _ _ h2]

theorem startedThread_startStrand {p : Nat} {x : Panel} {s : State} {i j : Nat} (h : j ≠ i) :
    startedThread (startStrand p x s i) p x j = startedThread s p x j := by
  have hth : (startStrand p x s i).thread (.seq p j) = s.thread (.seq p j) :=
    startStrand_other (fun hc => h (Party.seq.inj hc).2) Party.noConfusion
  simp only [startedThread, hth]
  rfl

/-- The threads of strands that start one after another. -/
theorem startStrands_threads (p : Nat) (x : Panel) (l : List Nat) (hl : l.Nodup) : ∀ s : State,
    (∀ j, j ∉ l → (l.foldl (startStrand p x) s).thread (.seq p j) = s.thread (.seq p j) ∧
      (l.foldl (startStrand p x) s).thread (.slice p j) = s.thread (.slice p j)) ∧
    ∀ j ∈ l, (l.foldl (startStrand p x) s).thread (.seq p j) = startedThread s p x j ∧
      (l.foldl (startStrand p x) s).thread (.slice p j) = { Thread.clear with ctx := x.ctx } := by
  induction l with
  | nil => exact fun s => ⟨fun _ _ => ⟨rfl, rfl⟩, nofun⟩
  | cons i l ih =>
    intro s
    obtain ⟨hi, hl⟩ := List.nodup_cons.mp hl
    obtain ⟨hout, hin⟩ := ih hl (startStrand p x s i)
    refine ⟨fun j hj => ?_, fun j hj => ?_⟩
    · obtain ⟨hji, hjl⟩ := not_or.mp (mt List.mem_cons.mpr hj)
      obtain ⟨hseq, hslice⟩ := hout j hjl
      exact ⟨hseq.trans (startStrand_other (fun hc => hji (Party.seq.inj hc).2) Party.noConfusion),
        hslice.trans (startStrand_other Party.noConfusion fun hc => hji (Party.slice.inj hc).2)⟩
    · by_cases hji : j = i
      · subst hji
        obtain ⟨hseq, hslice⟩ := hout j hi
        refine ⟨hseq.trans (thread_setThread ..), hslice.trans ?_⟩
        rw [startStrand, thread_setThread_other _ _ (show Party.slice p j ≠ .seq p j from Party.noConfusion), thread_setThread]
      · obtain ⟨hseq, hslice⟩ := hin j ((List.mem_cons.mp hj).resolve_left hji)
        exact ⟨hseq.trans (startedThread_startStrand hji), hslice⟩

theorem startStrands_rest (p : Nat) (x : Panel) (l : List Nat) (s : State) :
    l.foldl (startStrand p x) s = { s with threads := (l.foldl (startStrand p x) s).threads } :=
  List.foldlRecOn l (startStrand p x) (motive := fun t => t = { s with threads := t.threads }) rfl fun t ht i _ => by
    rw [startStrand, State.setThread, State.setThread, ht]

/-- The strands of a panel start: threads, and the panel's strands, change. -/
structure Started (s : State) (p : Nat) (x : Panel) (t : State) : Prop where
  rest : t = { s.setPanel p (strandsAnew x) with threads := t.threads, asked := t.asked }
  seqs : ∀ j, j < 4 → t.thread (.seq p j) = startedThread s p x j
  slices : ∀ j, j < 4 → t.thread (.slice p j) = { Thread.clear with ctx := x.ctx }

theorem started_startStrands {s : State} {p : Nat} {x : Panel} (hx : s.panel? p = some x) : Started s p x (startStrands s p) := by
  have hmem (j : Nat) (hj : j < 4) : j ∈ strandIds := by
    simp only [strandIds, List.mem_cons, List.not_mem_nil, or_false]
    omega
  rw [startStrands_eq hx]
  have hthreads := (startStrands_threads p x strandIds (by decide) ((s.unask fun q => partyPanel q == some p).setPanel p (strandsAnew x))).2
  refine ⟨?_, fun j hj => (hthreads j (hmem j hj)).1, fun j hj => (hthreads j (hmem j hj)).2⟩
  rw [startStrands_rest]
  rfl

theorem Started.panel {s t : State} {p : Nat} {x : Panel} (h : Started s p x t) (q : Nat) :
    t.panel? q = (s.setPanel p (strandsAnew x)).panel? q := by
  rw [h.rest]; rfl

/-- The shadow taken after strands have started adds the shadow alone. -/
theorem panel_takeShadow {s : State} {p : Nat} {x : Panel} (hx : s.panel? p = some x) :
    ∃ sh, takeShadow s p = s.setPanel p { x with shadow := sh } := by
  unfold takeShadow
  rw [modPanel_some hx]
  exact ⟨_, rfl⟩

/-! ## Scratch records (R77) -/

/-- A scratch record written. -/
def scratchRecord (x : Panel) (r : Nat × Nat × List Byte) : Panel :=
  x.setTile r.1 { x.tile r.1 with scratch := writeBytes (x.tile r.1).scratch r.2.1 r.2.2 }

theorem writeRecords_eq (x : Panel) : writeRecords x = x.image.scratch.foldl scratchRecord x := rfl

/-- Records write tiles alone. -/
theorem writeRecords_rest (l : List (Nat × Nat × List Byte)) (x : Panel) :
    l.foldl scratchRecord x = { x with tiles := (l.foldl scratchRecord x).tiles } :=
  List.foldlRecOn l scratchRecord (motive := fun y => y = { x with tiles := y.tiles }) rfl fun y hy r _ => by
    rw [scratchRecord, Panel.setTile, hy]

end Sys2Proof.Machine
end

section
/-! PROOFS. The steps of a panel (R17, R28, R77, R101, R220, R223, R254). -/

namespace Sys2Proof.Machine

open Sys2Proof

/-! ## Beats (R101, R220, R223) -/

/-- One aligned part of the next beat is read (R101). -/
theorem engineRead_stream {s u : State} {p n q k : Nat} {x : Panel} {sl : StreamSlot} {bs : List Byte} {pas : List (Nat × Nat)}
    (hx : s.panel? p = some x) (hsl : x.slot? (q / 16 % 4) (q % 16) = some sl) (hc : canFetch x (q / 16 % 4) (q % 16) n sl = true)
    (hr : readElems s p n (q / 16 % 4) (blockOf x n) sl (onePart sl (elemsLeft x sl n)) = .ok (u, bs, pas)) :
    exec (.engineRead (.stream p n q) k) s =
      .next (u.modPanel p fun y => y.setSlot (q / 16 % 4) (q % 16) (partsTaken sl n (onePart sl (elemsLeft x sl n)) bs pas)) := by
  simp only [exec, execEngineRead, fetchPart, hx, hsl, hc, if_true, readPart, hr]
  rfl

theorem exec_streamBeatArrive {s : State} {p n q : Nat} {x : Panel} {sl : StreamSlot} (hx : s.panel? p = some x)
    (hsl : x.slot? (q / 16 % 4) (q % 16) = some sl) (hc : canFetch x (q / 16 % 4) (q % 16) n sl = true) :
    exec (.streamBeatArrive p n q) s = .next (if agFree x s.cycle n = true then
      deliverBeat (if elemsLeft x sl n = [] then s else readPart s p n (q / 16 % 4) (q % 16) sl (blockOf x n) (elemsLeft x sl n))
        p n (q / 16 % 4) (q % 16) else s) := by
  simp only [exec, execStreamBeatArrive, fetchBeat, hx, hsl, hc, true_and]

/-- A beat with a held fault is not delivered (R95). -/
theorem deliverBeat_fault (s : State) (p n i q : Nat) (x : Panel) (sl : StreamSlot) (e : Trap) :
    deliverBeat (s.setPanel p (x.setSlot i q { sl with fault := FMap.set sl.fault n e })) p n i q =
      s.setPanel p (x.setSlot i q { sl with fault := FMap.set sl.fault n e }) := by
  have hno : canFetch (x.setSlot i q { sl with fault := FMap.set sl.fault n e }) i q n { sl with fault := FMap.set sl.fault n e } = false := by
    simp [canFetch]
  simp only [deliverBeat, panel_setPanel, slot_setSlot_same, hno, Bool.false_eq_true, false_and, if_false]

/-- The fault of an element is held for the row that consumes its beat (R95). -/
theorem streamBeatArrive_fault {s : State} {p n q : Nat} {x : Panel} {sl : StreamSlot} {e : Trap} (hx : s.panel? p = some x)
    (hsl : x.slot? (q / 16 % 4) (q % 16) = some sl) (hc : canFetch x (q / 16 % 4) (q % 16) n sl = true) (ha : agFree x s.cycle n = true)
    (hl : elemsLeft x sl n ≠ []) (hr : readElems s p n (q / 16 % 4) (blockOf x n) sl (elemsLeft x sl n) = .error e) :
    exec (.streamBeatArrive p n q) s =
      .next (s.setPanel p (x.setSlot (q / 16 % 4) (q % 16) { sl with fault := FMap.set sl.fault n e })) := by
  rw [exec_streamBeatArrive hx hsl hc, if_pos ha, if_neg hl, readPart, hr]
  simp only [modPanel_some hx, deliverBeat_fault]

/-- The next beat wholly read can be delivered: nothing of it is left. -/
theorem beatRead_ready {s v : State} {p n q : Nat} {x y : Panel} {sl sl' : StreamSlot} (hx : s.panel? p = some x)
    (hsl : x.slot? (q / 16 % 4) (q % 16) = some sl) (hc : canFetch x (q / 16 % 4) (q % 16) n sl = true) (hr : BeatRead s p n q x sl v)
    (hy : v.panel? p = some y) (hsl' : y.slot? (q / 16 % 4) (q % 16) = some sl') :
    (if elemsLeft x sl n = [] then s else readPart s p n (q / 16 % 4) (q % 16) sl (blockOf x n) (elemsLeft x sl n)) = v ∧
    v.cycle = s.cycle ∧ sl'.spec = sl.spec ∧ sl'.fetched = sl.fetched ∧ canFetch y (q / 16 % 4) (q % 16) n sl' = true ∧
    elemsLeft y sl' n = [] ∧ blockOf y n = blockOf x n := by
  rcases hr with ⟨hl, rfl⟩ | ⟨hl, u, bs, pas, hr, rfl⟩
  · obtain rfl := Option.some.inj (hx.symm.trans hy)
    obtain rfl := Option.some.inj (hsl.symm.trans hsl')
    exact ⟨if_pos hl, rfl, rfl, rfl, hc, hl, rfl⟩
  · have hkept := readKept_readElems (p := p) _ hr
    obtain ⟨z, hz, hxz⟩ := hkept.panel x hx
    rw [modPanel_some hz, panel_setPanel] at hy
    obtain rfl := Option.some.inj hy
    rw [slot_setSlot_same] at hsl'
    obtain rfl := Option.some.inj hsl'
    have hxy : SameQueues x (z.setSlot (q / 16 % 4) (q % 16) (partsTaken sl n (elemsLeft x sl n) bs pas)) :=
      hxz.trans ⟨rfl, fun _ => rfl⟩
    refine ⟨?_, ?_, rfl, rfl, (canFetch_parts hxy ..).trans hc, elemsLeft_partsTaken hxy .., blockOf_image hxy.image n⟩
    · rw [if_neg hl, readPart, hr]; rfl
    · rw [modPanel_some hz]; exact hkept.cycle

/-- A beat arrives at the end of its queue with its scale lane, one in a cycle of its AG tile (R220, R223). -/
theorem streamBeatArrive_delivers {s v w : State} {p n q : Nat} {x y : Panel} {sl sl' : StreamSlot} {l : W32} (hx : s.panel? p = some x)
    (hsl : x.slot? (q / 16 % 4) (q % 16) = some sl) (hc : canFetch x (q / 16 % 4) (q % 16) n sl = true) (ha : agFree x s.cycle n = true)
    (hr : BeatRead s p n q x sl v) (hy : v.panel? p = some y) (hsl' : y.slot? (q / 16 % 4) (q % 16) = some sl')
    (hs : scaleLane v y.uid sl.spec (partOf sl' n).2.2 = .ok (w, l)) : Ends (.streamBeatArrive p n q) s fun t => t.mem = w.mem ∧
      ∃ z sl'', t.panel? p = some z ∧ z.slot? (q / 16 % 4) (q % 16) = some sl'' ∧ sl''.spec = sl.spec ∧
        (z.tile n).queue (q / 16 % 4) (q % 16) = (y.tile n).queue (q / 16 % 4) (q % 16) ++ [beatOf (partOf sl' n).2.1 l] ∧
        FMap.getD sl''.fetched n 0 = FMap.getD sl.fetched n 0 + 1 ∧ FMap.get? sl''.parts n = none ∧ agFree z s.cycle n = false := by
  obtain ⟨hread, hcycle, hspec, hfetched, hcan, hleft, -⟩ := beatRead_ready hx hsl hc hr hy hsl'
  rw [← hspec] at hs
  have hframe := homeFrame_scaleLane hs
  obtain ⟨y', hy', huncounted⟩ := hframe.panel hy
  obtain ⟨sl'', hslot, hspec', hqueue, hnext, hparts, hag⟩ :=
    beatDelivered_done y' (q / 16 % 4) (q % 16) n sl' (beatOf (partOf sl' n).2.1 l) w.cycle
  rw [(sameQueues_of_uncounted huncounted).queue] at hqueue
  rw [hfetched] at hnext
  have hwc : w.cycle = s.cycle := hframe.cycle.trans hcycle
  refine ⟨w.setPanel p (beatDelivered y' (q / 16 % 4) (q % 16) n sl' (beatOf (partOf sl' n).2.1 l) w.cycle), ?_, rfl, _, sl'',
    panel_setPanel .., hslot, hspec'.trans hspec, hqueue, hnext, hparts, hwc ▸ hag⟩
  rw [exec_streamBeatArrive hx hsl hc, if_pos ha, hread, deliverBeat_eq hy hsl' hcan hleft hs, modPanel_some hy']

/-! ## Loads (R26, R254) -/

/-- Nothing has changed but the tables of blocks and what they hold. -/
def TablesOnly (s t : State) : Prop := t = { s with tables := t.tables, loads := t.loads }

theorem TablesOnly.trans {s t u : State} (h : TablesOnly s t) (k : TablesOnly t u) : TablesOnly s u := by
  unfold TablesOnly at *; rw [k, h]

theorem TablesOnly.foldl {α : Type} {f : State → α → State} (hf : ∀ s x, TablesOnly s (f s x)) (l : List α) (s : State) :
    TablesOnly s (l.foldl f s) :=
  List.foldlRecOn l f (motive := TablesOnly s) rfl fun _ h x _ => h.trans (hf _ x)

theorem tablesOnly_takeOne (s : State) (b id p : Nat) : TablesOnly s (takeOne s b id p) := by
  unfold takeOne
  split
  · rfl
  · split <;> rfl

theorem tablesOnly_takeEntries (s : State) (bs : List Nat) (id n p : Nat) : TablesOnly s (takeEntries s bs id n p) :=
  .foldl (fun _ _ => .foldl (fun _ _ => tablesOnly_takeOne ..) _ _) _ _

/-- A load whose image has been read and fits is loaded (R26, R254). -/
theorem loadComplete_loads {s u : State} {p : Nat} {x y : Panel} {l : Load} {img : Image} (hx : s.panel? p = some x)
    (hl : x.load = some l) (hst : l.state = .reading) (hr : readImage s x.ctx (loadPriv s x) l.addr = .ok (u, img))
    (hfit : loadFits x img = true)
    (hroom : ((rectBlocks x.bx x.byy img.width img.height).all fun b => decide (img.entries ≤ freeEntries u b)) = true)
    (hy : u.panel? p = some y) : Ends (.loadComplete p) s fun t => ∃ z, t.panel? p = some z ∧
      z.load = some { l with state := .loaded, image := some img } ∧ t.threads = u.threads ∧ t.mem = u.mem := by
  have hrest := tablesOnly_takeEntries u (rectBlocks x.bx x.byy img.width img.height) l.loadId img.entries p
  have hpanel : (takeEntries u (rectBlocks x.bx x.byy img.width img.height) l.loadId img.entries p).panel? p = some y := by
    rw [hrest]; exact hy
  have hexec : exec (.loadComplete p) s = .next (finishLoad u p x l img) := by
    simp only [exec, execLoadComplete, runLoad, hx, hl, hst, hr, hfit, hroom, and_self, if_true]
  unfold finishLoad at hexec
  dsimp only at hexec
  generalize takeEntries u (rectBlocks x.bx x.byy img.width img.height) l.loadId img.entries p = v at *
  rw [modPanel_some (s := { v with loads := FMap.set v.loads l.loadId ⟨x.ctx, l.addr, x.bx, x.byy, img⟩ }) hpanel] at hexec
  exact ⟨_, hexec, _, panel_setPanel .., rfl, by rw [hrest]; rfl, by rw [hrest]; rfl⟩

/-- A strand's load that fails waits for the strand's next command (R254). -/
theorem loadComplete_fails {s : State} {p : Nat} {x : Panel} {l : Load} (hx : s.panel? p = some x)
    (hl : x.load = some l) (hst : l.state = .reading) (hr : readImage s x.ctx (loadPriv s x) l.addr = .error .bad)
    (hp : x.state ≠ .loading) : exec (.loadComplete p) s = .next (s.setPanel p
        ({ x with load := none }.setStrand l.strand { x.strand l.strand with failed := some l.addr })) := by
  simp only [exec, execLoadComplete, runLoad, hx, hl, hst, hr, failLoad, if_neg hp]

/-! ## The placement armed and prepared (R77) -/

/-- A placed panel whose words pass is armed and its preparation begins (R77). -/
theorem placementArm_arms {s : State} {p : Nat} {x : Panel} {l : Load} {img : Image} (hx : s.panel? p = some x)
    (hst : x.state = .loading) (hl : x.load = some l) (hls : l.state = .loaded) (hi : l.image = some img) (hc : armCheck img = none) :
    Ends (.placementArm p) s fun t => t.threads = s.threads ∧ t.contexts = s.contexts ∧
      ∃ y, t.panel? p = some y ∧ y.image = img ∧ y.load = none ∧ y.state = .preparing ∧ y.prep = s.cycle + 256 := by
  have hexec : exec (.placementArm p) s = .next (s.setPanel p (writeRecords (clearTiles { x with
      image := img, loadId := l.loadId, load := none, state := .preparing, prep := s.cycle + 256 }))) := by
    simp only [exec, execPlacementArm, hx, hst, hl, hls, hi, hc, beq_self_eq_true, and_self, if_true, Option.bind_some, Option.getD_some,
      Option.map_some]
  refine ⟨_, hexec, rfl, rfl, _, panel_setPanel .., ?_⟩
  rw [writeRecords_eq, writeRecords_rest]
  exact ⟨rfl, rfl, rfl, rfl⟩

/-- A garment with no saved panels that goes live changes its task alone (R20). -/
theorem garmentLive_rest {s : State} {e : Nat} {t : TaskEntry} (ht : FMap.get? s.tasks e = some t) (hf : t.frozen = none) :
    garmentLive s e = { s with tasks := (garmentLive s e).tasks } := by
  unfold garmentLive
  rw [ht]
  dsimp only
  split
  · simp [hf]
  · rfl

/-- A panel whose preparation is over starts its strands (R77, R126). -/
theorem preparationComplete_starts {s : State} {p : Nat} {x : Panel} {t : TaskEntry} (hx : s.panel? p = some x)
    (hst : x.state = .preparing) (ht : FMap.get? s.tasks x.entry = some t) (hf : t.frozen = none) (hp : x.prep ≤ s.cycle)
    (h4 : x.image.strands ≤ 4) : Ends (.preparationComplete p) s fun u =>
      (∃ y, u.panel? p = some y ∧ y.state = .live) ∧
      (∀ j, j < x.image.strands → (u.thread (.seq p j)).status = .running ∧
        (u.thread (.seq p j)).pc = x.imageAddr + BitVec.ofNat 64 (x.image.entry.getD j 0)) ∧
      ∀ q, q ≠ p → u.panel? q = s.panel? q := by
  have hstart := started_startStrands (panel_setPanel s p { x with state := .live })
  have hpanel := (hstart.panel p).trans (panel_setPanel ..)
  obtain ⟨sh, hsh⟩ := panel_takeShadow hpanel
  have hexec : exec (.preparationComplete p) s =
      .next (garmentLive (takeShadow (startStrands (s.setPanel p { x with state := .live }) p) p) x.entry) := by
    simp only [exec, execPreparationComplete, hx, hst, hp, and_self, if_true, ht, Option.bind_some, savedPanel, hf, Option.bind_none]
  have htask : FMap.get? (takeShadow (startStrands (s.setPanel p { x with state := .live }) p) p).tasks x.entry = some t := by
    rw [hsh, hstart.rest]; exact ht
  rw [garmentLive_rest htask hf, hsh] at hexec
  refine ⟨_, hexec, ⟨_, panel_setPanel .., rfl⟩, fun j hj => ?_, fun q hq => ?_⟩
  · have hthread := hstart.seqs j (by omega)
    have hval : startedThread (s.setPanel p { x with state := .live }) p { x with state := .live } j = _ := if_pos hj
    constructor
    · exact (congrArg Thread.status (hthread.trans hval))
    · exact (congrArg Thread.pc (hthread.trans hval))
  · refine (panel_setPanel_other _ _ hq).trans ((hstart.panel q).trans ?_)
    rw [panel_setPanel_other _ _ hq, panel_setPanel_other _ _ hq]

end Sys2Proof.Machine

namespace Sys2Proof

open Machine

/-- Settles O49, step by step. -/
theorem panelSteps : Obligations.PanelSteps := by
  refine ⟨fun p s x hx hadv => ?_, fun p s x y hx hadv hy => wheelAdvance_cycle hx hadv hy, fun i run s p n x => exec_tileWord,
    fun p n q k s x sl hx hsl hc => ⟨fun u bs pas hr => engineRead_stream hx hsl hc hr,
      fun ha hl e hr => streamBeatArrive_fault hx hsl hc ha hl hr, fun ha => ?_,
      fun v y sl' w l ha hr hy hsl' hs => streamBeatArrive_delivers hx hsl hc ha hr hy hsl' hs⟩,
    fun p s x l hx hl hst => ⟨fun u y img hr hfit hroom hy => loadComplete_loads hx hl hst hr hfit hroom hy,
      fun hr hp => loadComplete_fails hx hl hst hr hp⟩,
    fun p s x l img hx hst hl hls hi hc => placementArm_arms hx hst hl hls hi hc,
    fun p s x t hx hst ht hf => ⟨fun hp => ?_, fun hp h4 => preparationComplete_starts hx hst ht hf hp h4⟩⟩
  · simp [exec, execWheelAdvance, advancePanel_eq hx, hadv]
  · rw [exec_streamBeatArrive hx hsl hc, ha]; rfl
  · simp [exec, execPreparationComplete, hx, Nat.not_le.mpr hp]

end Sys2Proof
end

section
/-! PROOFS. Trap entry with a fault that waits in the queue (R321). -/

namespace Sys2Proof.Machine

open Sys2Proof

/-- With none due and none under handling, `trapEntry` makes the head of the queue due (R321): here a fault of no thread, the vector on. -/
theorem trapEntry_queued {s : State} {c since : Nat} {f : FaultRec} {q : List (FaultRec × Nat)} (hd : (s.ctxt c).delivery = none)
    (hh : (s.ctxt c).trapcause.getLsbD 63 = false) (hq : (s.ctxt c).faultQ = (f, since) :: q) (hv : (s.ctxt c).tvec.getLsbD 0 = true)
    (hp : f.party = none) : exec (.trapEntry c) s = .next (s.setCtxt c { s.ctxt c with
      faultQ := q, delivery := some (f, tvecThread (s.ctxt c)), dueSince := since }) := by
  simp only [exec, execTrapEntry, hd, hh, Bool.false_eq_true, if_false, offerNext, hq, ctxt_setCtxt, hv, if_true, deliverFault, hp,
    setCtxt_setCtxt]
  rfl

/-- A fault of context 0 that no thread raised. -/
def queuedFault : FaultRec := ⟨.ecc, 0, none, 8, 0, 0, 0, none, .context 0, none, false⟩

/-- The reset state, but for the vector of context 0, which is on, and one fault in its queue. -/
def queuedState : State := State.reset.setCtxt 0 { Context.clear with tvec := 1, faultQ := [(queuedFault, 0)] }

end Sys2Proof.Machine

namespace Sys2Proof

open Machine

/-- Refutes O52: its clause that `trapEntry` with no fault due changes nothing leaves out the queue. In `queuedState` no fault is due and none is
under handling, so that `trapEntry` makes the queued fault due (R321). -/
theorem not_waitAndTrapSteps : ¬ Obligations.WaitAndTrapSteps := by
  rintro ⟨-, -, -, -, -, -, -, -, hnone, -, -⟩
  have hctxt : queuedState.ctxt 0 = { Context.clear with tvec := 1, faultQ := [(queuedFault, 0)] } := ctxt_setCtxt ..
  have hdue := trapEntry_queued (s := queuedState) (c := 0) (by rw [hctxt]; rfl) (by rw [hctxt]; rfl) (by rw [hctxt]) (by rw [hctxt]; rfl) rfl
  have hsame := hnone 0 queuedState (by rw [hctxt]; rfl)
  have hstate := Host.Outcome.next.inj (hdue.symm.trans hsame)
  have hq := congrArg (fun s : State => (s.ctxt 0).faultQ) hstate
  simp only [ctxt_setCtxt, hctxt] at hq
  exact absurd hq (by simp)

end Sys2Proof
end

section
/-! SUPPORT. A panel under its new pattern (R255): the scratch records of an image written, what its tiles keep, its strands anew. -/

namespace Sys2Proof.Machine

open Sys2Proof

/-! ## Bytes of a scratchpad -/

theorem writeBytes_eq_writeCells (bs : List Byte) : ∀ (m : Cells) (a : Nat), writeBytes m a bs = writeCells m (cellsAt a bs) := by
  induction bs with
  | nil => exact fun _ _ => rfl
  | cons b bs ih => exact fun m a => ih ..

theorem wf_writeBytes {m : Cells} (h : Memory.wf m = true) (a : Nat) (bs : List Byte) : Memory.wf (writeBytes m a bs) = true := by
  rw [writeBytes_eq_writeCells]; exact wf_writeCells h _

theorem readCell_writeBytes {m : Cells} (h : Memory.wf m = true) (a : Nat) (bs : List Byte) (x : Nat) :
    readCell (writeBytes m a bs) x = if a ≤ x ∧ x < a + bs.length then bs.getD (x - a) 0 else readCell m x := by
  rw [writeBytes_eq_writeCells, readCell_writeCells_cellsAt h]

theorem readBytes_eq_map (m : Cells) (n : Nat) : ∀ a, readBytes m a n = (List.range n).map fun i => readCell m (a + i) := by
  induction n with
  | zero => exact fun _ => rfl
  | succ n ih =>
    intro a
    rw [readBytes, ih, List.range_succ_eq_map, List.map_cons, List.map_map]
    simp [Function.comp_def, Nat.add_assoc, Nat.add_comm 1]

/-- Bytes written read back (R1). -/
theorem readBytes_writeBytes {m : Cells} (h : Memory.wf m = true) (a : Nat) (bs : List Byte) :
    readBytes (writeBytes m a bs) a bs.length = bs := by
  rw [readBytes_eq_map]
  refine List.ext_getElem (by simp) fun i hi hi' => ?_
  rw [List.getElem_map, List.getElem_range, readCell_writeBytes h, if_pos ⟨Nat.le_add_right .., by omega⟩, Nat.add_sub_cancel_left,
    List.getD_eq_getElem _ _ hi']

/-! ## Scratch records -/

theorem tile_scratchRecord (x : Panel) (r : Nat × Nat × List Byte) (n : Nat) : (scratchRecord x r).tile n =
    if n = r.1 then { x.tile n with scratch := writeBytes (x.tile n).scratch r.2.1 r.2.2 } else x.tile n := by
  unfold scratchRecord
  split
  · next h => subst h; rw [tile_setTile_same]
  · next h => rw [tile_setTile_other _ _ h]

/-- What a tile keeps while its scratchpad is written. -/
theorem tile_records {β : Type} (g : Tile → β) (hg : ∀ (t : Tile) (m : Cells), g { t with scratch := m } = g t) (n : Nat)
    (l : List (Nat × Nat × List Byte)) : ∀ x : Panel, g ((l.foldl scratchRecord x).tile n) = g (x.tile n) := by
  induction l with
  | nil => exact fun _ => rfl
  | cons r l ih =>
    intro x
    rw [List.foldl_cons, ih, tile_scratchRecord]
    split
    · exact hg ..
    · rfl

theorem wf_records (n : Nat) (l : List (Nat × Nat × List Byte)) : ∀ x : Panel, Memory.wf (x.tile n).scratch = true →
    Memory.wf ((l.foldl scratchRecord x).tile n).scratch = true := by
  induction l with
  | nil => exact fun _ h => h
  | cons r l ih =>
    refine fun x h => ih _ ?_
    rw [tile_scratchRecord]
    split
    · exact wf_writeBytes h ..
    · exact h

/-- A byte outside every record reads as before. -/
theorem readCell_records (n b : Nat) (l : List (Nat × Nat × List Byte)) : ∀ x : Panel, Memory.wf (x.tile n).scratch = true →
    (∀ r ∈ l, ¬ (r.1 = n ∧ r.2.1 ≤ b ∧ b < r.2.1 + r.2.2.length)) →
    readCell ((l.foldl scratchRecord x).tile n).scratch b = readCell (x.tile n).scratch b := by
  induction l with
  | nil => exact fun _ _ _ => rfl
  | cons r l ih =>
    intro x h hout
    have hwf : Memory.wf ((scratchRecord x r).tile n).scratch = true := wf_records n [r] x h
    rw [List.foldl_cons, ih _ hwf fun r' hr' => hout r' (List.mem_cons_of_mem _ hr'), tile_scratchRecord]
    split
    · next hn =>
      have hr := hout r (List.mem_cons_self ..)
      exact (readCell_writeBytes h ..).trans (if_neg fun hc => hr ⟨hn.symm, hc⟩)
    · rfl

/-- The last record's bytes stand in its tile. -/
theorem readBytes_lastRecord (rs : List (Nat × Nat × List Byte)) (r : Nat × Nat × List Byte) (x : Panel)
    (h : Memory.wf (x.tile r.1).scratch = true) :
    readBytes (((rs ++ [r]).foldl scratchRecord x).tile r.1).scratch r.2.1 r.2.2.length = r.2.2 := by
  rw [List.foldl_append, List.foldl_cons, List.foldl_nil, tile_scratchRecord, if_pos rfl]
  exact readBytes_writeBytes (wf_records _ rs x h) ..

/-! ## The new pattern -/

/-- What `arm` carries over of a tile beside its scratchpad (R255). -/
def tileCarried (t : Tile) : Tile :=
  { Tile.clear with
    acc := t.acc, weights := t.weights, wscale := t.wscale, fa := t.fa, fb := t.fb, v := t.v, k := t.k, lines := t.lines, pool := t.pool }

/-- The panel under its new pattern before its scratch records are written. -/
def patternSwitched (x : Panel) (l : Load) (img : Image) : Panel :=
  { x with
    image := img, imageAddr := l.addr, loadId := l.loadId, load := none, row := 0, schedB := false, nextB := false
    switching := 0, holds := [], rampHold := 0, stitch := false, tacks := [], agPending := Vector.replicate 16 0
    hint := [], skips := [], rowRun := none, armedAt := x.live, tiles := mapVals (fun _ t => resetTk t) x.tiles }

theorem switchPattern_eq (x : Panel) (l : Load) (img : Image) :
    switchPattern x l img = img.scratch.foldl scratchRecord (patternSwitched x l img) := rfl

theorem switchPattern_rest (x : Panel) (l : Load) (img : Image) :
    switchPattern x l img = { patternSwitched x l img with tiles := (switchPattern x l img).tiles } := by
  rw [switchPattern_eq]; exact writeRecords_rest ..

/-- What the change of pattern keeps of every tile. -/
theorem tile_switchPattern (x : Panel) (l : Load) (img : Image) (n : Nat) :
    tileCarried ((switchPattern x l img).tile n) = tileCarried (x.tile n) := by
  rw [switchPattern_eq, tile_records tileCarried fun _ _ => rfl]
  exact getD_mapVals (f := fun _ t => resetTk t) tileCarried (fun _ _ => rfl) x.tiles n

theorem scratch_patternSwitched (x : Panel) (l : Load) (img : Image) (n : Nat) :
    ((patternSwitched x l img).tile n).scratch = (x.tile n).scratch :=
  getD_mapVals (f := fun _ t => resetTk t) Tile.scratch (fun _ _ => rfl) x.tiles n

/-- A scratchpad under the new pattern: outside its records as it was, and the bytes of the last record in their place (R77, R255). -/
theorem scratch_switchPattern (x : Panel) (l : Load) (img : Image) :
    (∀ n b, Memory.wf (x.tile n).scratch = true → (∀ r ∈ img.scratch, ¬ (r.1 = n ∧ r.2.1 ≤ b ∧ b < r.2.1 + r.2.2.length)) →
      readCell ((switchPattern x l img).tile n).scratch b = readCell (x.tile n).scratch b) ∧
    ∀ rs r, img.scratch = rs ++ [r] → Memory.wf (x.tile r.1).scratch = true →
      readBytes ((switchPattern x l img).tile r.1).scratch r.2.1 r.2.2.length = r.2.2 := by
  refine ⟨fun n b h hout => ?_, fun rs r hr h => ?_⟩
  · rw [← scratch_patternSwitched x l img] at h ⊢
    exact readCell_records n b _ _ h hout
  · rw [← scratch_patternSwitched x l img] at h
    rw [switchPattern_eq, hr]
    exact readBytes_lastRecord rs r _ h

/-! ## The start under the new pattern -/

theorem strand_strandsAnew (x : Panel) {j : Nat} (hj : j < 4) :
    (strandsAnew x).strand j = newStrand (x.strand j) (decide (j < x.image.strands)) := by
  have hm : j % 4 = j := Nat.mod_eq_of_lt hj
  simp [strandsAnew, Panel.strand, hm]

/-- A strand of the pattern starts at its entry with its image and its number, its sequence going on (R116, R126). -/
theorem startedThread_runs {s : State} {p : Nat} {x : Panel} {j : Nat} (hj : j < x.image.strands) :
    (startedThread s p x j).status = .running ∧ (startedThread s p x j).pc = x.imageAddr + BitVec.ofNat 64 (x.image.entry.getD j 0) ∧
    (startedThread s p x j).get 3#5 = x.imageAddr ∧ (startedThread s p x j).get 4#5 = BitVec.ofNat 64 j ∧
    (startedThread s p x j).dseq = (s.thread (.seq p j)).dseq := by
  unfold startedThread
  rw [if_pos hj]
  refine ⟨rfl, rfl, ?_, ?_, rfl⟩ <;> simp [strandThread, Thread.get]

theorem startedThread_absent {s : State} {p : Nat} {x : Panel} {j : Nat} (hj : x.image.strands ≤ j) :
    (startedThread s p x j).status = .finished := by
  unfold startedThread
  rw [if_neg (by omega)]

/-! ## The issue noted -/

/-- The note of a sequencer word: the mark of its live cycle, and the count. -/
theorem noteIssue_seq {s : State} {p k : Nat} {x : Panel} (hf : s.focus = .seq p k) (hx : s.panel? p = some x) :
    noteIssue s = (s.setCur { s.cur with issued := x.tok }).setPanel p (x.count 88 1) := by
  simp [noteIssue, hf, hx]

theorem unmarked_noteIssue (s : State) (q : Party) : unmarked ((noteIssue s).thread q) = unmarked (s.thread q) := by
  obtain ⟨helse, hcur⟩ := noteIssue_elsewhere s
  by_cases hq : q = s.focus
  · subst hq
    have hfocus := elsewhere_focus helse
    rwa [State.cur, State.cur, hfocus] at hcur
  · rw [helse.threads q hq]

/-! ## The test of `arm` -/

theorem exec_arm (a : Reg) (s : State) : exec (.arm a) s = issue (.arm a) s fun s =>
    waitOr (stitchBefore s) (armPoll (stitchBefore s) a) ((stitchBefore s).g a) := rfl

theorem othersFinished_iff (x : Panel) (k : Nat) : othersFinished x k = true ↔ ∀ j, j < 4 → j ≠ k → (x.strand j).finished = true := by
  simp only [othersFinished, strandIds, List.all_eq_true, Bool.or_eq_true, beq_iff_eq, List.mem_cons, List.not_mem_nil, or_false]
  constructor
  · exact fun h j hj hk => (h j (by omega)).resolve_left hk
  · intro h j hj
    by_cases hk : j = k
    · exact .inl hk
    · exact .inr (h j (by omega) hk)

theorem mem_of_get {α : Type} {m : FMap Nat α} {k : Nat} {v : α} (h : FMap.get? m k = some v) : (k, v) ∈ m := by
  induction m with
  | nil => cases h
  | cons c m ih =>
    obtain ⟨k', v'⟩ := c
    by_cases hk : k' = k
    · subst hk; simp_all [FMap.get?]
    · simp only [FMap.get?, if_neg hk] at h
      exact List.mem_cons_of_mem _ (ih h)

theorem anyRunning_of_streamRuns {x : Panel} (h : streamRuns x) : anyRunning x = true := by
  obtain ⟨j, q, sl, -, hsl, hrun⟩ := h
  refine List.any_eq_true.mpr ⟨x.strand j, by simp [Panel.strand], List.any_eq_true.mpr ⟨(q, sl), mem_of_get hsl, ?_⟩⟩
  simp [hrun]

/-- The cause of a refused word (R143). -/
theorem checkWord_cause {x : Image} {t e j : Nat} {w : BitVec 40} {f : ArmFault} (h : checkWord x t e j w = some f) : f.cause =
    if (f.word.extractLsb' 37 3).toNat ≠ 0 ∧ (f.word.extractLsb' 37 3).toNat ≠ kindOf f.elem then .cfgKind else .cfgOp := by
  unfold checkWord at h
  dsimp only at h
  split at h
  · next h0 =>
    split at h
    · cases h
    · cases h; exact (if_neg fun hc => hc.1 h0).symm
  · next h0 =>
    split at h
    · next hk => cases h; exact (if_pos ⟨h0, hk⟩).symm
    · next hk =>
      have hop : Cause.cfgOp = if (w.extractLsb' 37 3).toNat ≠ 0 ∧ (w.extractLsb' 37 3).toNat ≠ kindOf e then .cfgKind else .cfgOp :=
        (if_neg fun hc => hc.2 (not_not.mp hk)).symm
      split at h
      · split at h
        · cases h
        · cases h; exact hop
      · cases h; exact hop

theorem checkWords_cause {x : Image} {f : ArmFault} (ws : List (BitVec 40)) : ∀ n, checkWords x n ws = some f → f.cause =
    if (f.word.extractLsb' 37 3).toNat ≠ 0 ∧ (f.word.extractLsb' 37 3).toNat ≠ kindOf f.elem then .cfgKind else .cfgOp := by
  induction ws with
  | nil => exact fun _ h => by cases h
  | cons w ws ih =>
    intro n h
    unfold checkWords at h
    split at h
    · next hw => cases h; exact checkWord_cause hw
    · exact ih _ h

end Sys2Proof.Machine
end

section
/-! PROOFS. `arm` (R255). -/

namespace Sys2Proof.Machine

open Sys2Proof

/-- The threads of a panel's strands after an `arm` (R116, R126, R255). -/
def ArmedThreads (u : State) (p : Nat) (y : Panel) (l : Load) (img : Image) (t : State) : Prop :=
  (∀ j, j < img.strands → (t.thread (.seq p j)).status = .running ∧
    (t.thread (.seq p j)).pc = l.addr + BitVec.ofNat 64 (img.entry.getD j 0) ∧
    (t.thread (.seq p j)).get 3#5 = l.addr ∧ (t.thread (.seq p j)).get 4#5 = BitVec.ofNat 64 j ∧
    (t.thread (.seq p j)).dseq = (u.thread (.seq p j)).dseq) ∧
  (∀ j, img.strands ≤ j → j < 4 → (t.thread (.seq p j)).status = .finished) ∧
  ∀ j, j < 4 → t.thread (.slice p j) = { Thread.clear with ctx := y.ctx }

/-- An armed panel but for its tiles' scratchpads (R255). -/
def ArmedPanel (y : Panel) (l : Load) (img : Image) (z : Panel) : Prop :=
  z.image = img ∧ z.imageAddr = l.addr ∧ z.load = none ∧ z.row = 0 ∧ z.tacks = [] ∧ z.agPending = Vector.replicate 16 0 ∧
  (∀ j, j < img.strands → (z.strand j).log = [] ∧ (z.strand j).queue = [] ∧ (z.strand j).loadAddr = none ∧
    (z.strand j).sliceArgs = none) ∧
  z.tiles = (switchPattern y l img).tiles

/-- A panel after its strands have started under the new pattern, its counters and its shadow as they may be. -/
theorem armedPanel_of {y z : Panel} {l : Load} {img : Image} (h4 : img.strands ≤ 4)
    (hz : z = { strandsAnew (switchPattern y l img) with shadow := z.shadow, counters := z.counters }) : ArmedPanel y l img z := by
  have hw := switchPattern_rest y l img
  have himage : (switchPattern y l img).image = img := by rw [hw]; rfl
  rw [hz]
  refine ⟨himage, by rw [hw]; rfl, by rw [hw]; rfl, by rw [hw]; rfl, by rw [hw]; rfl, by rw [hw]; rfl, fun j hj => ?_, rfl⟩
  have hst := strand_strandsAnew (switchPattern y l img) (j := j) (by omega)
  exact ⟨(congrArg Strand.log hst :), (congrArg Strand.queue hst :), (congrArg Strand.loadAddr hst :), (congrArg Strand.sliceArgs hst :)⟩

/-- The state after `arm` has armed a panel: its threads started, its panel under the new pattern, every other panel as it was. -/
theorem armPanel_arms {u : State} {p k : Nat} {y : Panel} {l : Load} {img : Image} (hf : u.focus = .seq p k) (h4 : img.strands ≤ 4) :
    ArmedThreads u p y l img (noteIssue (armPanel u p y l img)) ∧
    (∀ q, q ≠ p → (noteIssue (armPanel u p y l img)).panel? q = u.panel? q) ∧
    ∃ z, (noteIssue (armPanel u p y l img)).panel? p = some z ∧ ArmedPanel y l img z := by
  have hw := switchPattern_rest y l img
  have hstart := started_startStrands (panel_setPanel (releaseEntries u y.loadId) p (switchPattern y l img))
  obtain ⟨sh, hsh⟩ := panel_takeShadow ((hstart.panel p).trans (panel_setPanel ..))
  have harm : armPanel u p y l img = _ := hsh
  generalize hv : startStrands ((releaseEntries u y.loadId).setPanel p (switchPattern y l img)) p = v at *
  have hfocus : (armPanel u p y l img).focus = .seq p k := by rw [harm, hstart.rest]; exact hf
  have hthread (q : Party) : (armPanel u p y l img).thread q = v.thread q := by rw [harm]; rfl
  have hpanel : (armPanel u p y l img).panel? p = some { strandsAnew (switchPattern y l img) with shadow := sh } := by
    rw [harm]; exact panel_setPanel ..
  have himage : (switchPattern y l img).image = img := by rw [hw]; rfl
  have haddr : (switchPattern y l img).imageAddr = l.addr := by rw [hw]; rfl
  have hctx : (switchPattern y l img).ctx = y.ctx := by rw [hw]; rfl
  have hseq (j : Nat) (hj : j < 4) : unmarked ((noteIssue (armPanel u p y l img)).thread (.seq p j)) =
      unmarked (startedThread ((releaseEntries u y.loadId).setPanel p (switchPattern y l img)) p (switchPattern y l img) j) := by
    rw [unmarked_noteIssue, hthread, hstart.seqs j hj]
  refine ⟨⟨fun j hj => ?_, fun j hj hj4 => ?_, fun j hj => ?_⟩, fun q hq => ?_, ?_⟩
  · obtain ⟨hstatus, hpc, h3, h4, hdseq⟩ := startedThread_runs (s := (releaseEntries u y.loadId).setPanel p (switchPattern y l img)) (p := p)
      (x := switchPattern y l img) (j := j) (by rwa [himage])
    rw [himage, haddr] at hpc
    rw [haddr] at h3
    have hun := hseq j (by omega)
    exact ⟨(congrArg Thread.status hun :).trans hstatus, (congrArg Thread.pc hun :).trans hpc,
      (congrArg (Thread.get · 3#5) hun :).trans h3, (congrArg (Thread.get · 4#5) hun :).trans h4,
      (congrArg Thread.dseq hun :).trans hdseq⟩
  · exact (congrArg Thread.status (hseq j hj4) :).trans (startedThread_absent (by rwa [himage]))
  · have hne : Party.slice p j ≠ (armPanel u p y l img).focus := by rw [hfocus]; exact Party.noConfusion
    rw [(noteIssue_elsewhere _).1.threads _ hne, hthread, hstart.slices j hj, hctx]
  · rw [noteIssue_seq hfocus hpanel, panel_setPanel_other _ _ hq]
    refine (congrArg (fun s : State => s.panel? q) harm).trans ?_
    rw [panel_setPanel_other _ _ hq, hstart.panel, panel_setPanel_other _ _ hq, panel_setPanel_other _ _ hq]
    rfl
  · have hz : (noteIssue (armPanel u p y l img)).panel? p =
        some ({ strandsAnew (switchPattern y l img) with shadow := sh }.count 88 1) := by
      rw [noteIssue_seq hfocus hpanel, panel_setPanel]
    exact ⟨_, hz, armedPanel_of h4 rfl⟩

/-! ## The test of `arm` at issue -/

section
variable {a : Reg} {s : State} {p k : Nat} {x y : Panel} (h : Strands (.arm a) s p k x) (hy : (stitchBefore s).panel? p = some y)
include h

theorem arm_focus : (stitchBefore s).focus = .seq p k := (stitchFrame_stitchBefore s).focus.trans h.focus

/-- A test of `arm` that refuses traps E.ENGINE (R255). -/
theorem arm_engine (hp : armPoll (stitchBefore s) a = some (engineTrap (.arm a))) : Traps (.arm a) s .engine (wordOfForm (.arm a)) :=
  ends_trap h.issues.toMayIssue _ (exec_arm ..) (by rw [hp, engineTrap_eq]; rfl)

/-- A test of `arm` that sets the state ends in it. -/
theorem arm_sets {u : State} (hp : armPoll (stitchBefore s) a = some (.set u)) : exec (.arm a) s = .next (noteIssue u) := by
  rw [exec_arm, issue_eq h.issues.toMayIssue, hp]
  rfl

include hy

/-- A failed load of the strand is raised (R27, R255). -/
theorem arm_failed {va : Word} (hf : (y.strand k).failed = some va) : exec (.arm a) s =
    .next (noteIssue (raise (dropLoad (stitchBefore s) p k) ⟨.cfgLoad, va, none⟩)) := by
  rw [exec_arm, issue_eq h.issues.toMayIssue]
  simp only [armPoll, arm_focus h, hy, hf]
  rfl

/-- `arm` waits while its load is under way or another strand has not finished (R255; log 54). -/
theorem arm_waits {l : Load} (hf : (y.strand k).failed = none) (hl : y.load = some l) (hk : l.strand = k)
    (hw : l.state ≠ .loaded ∨ othersFinished y k = false) : WaitsStitched (.arm a) s (s.g a) := by
  refine waitsStitched_of_none h.issues.toMayIssue _ (exec_arm ..) ?_
  rw [(stitchFrame_stitchBefore s).g]
  simp only [armPoll, arm_focus h, hy, hf, hl, hk, ne_eq, not_true_eq_false, if_false, if_pos hw]

/-- The load of the strand is done and every other strand has finished: the image's words are checked, then the streams (R143, R255). -/
theorem armPoll_ready {l : Load} {img : Image} (hf : (y.strand k).failed = none) (hl : y.load = some l) (hk : l.strand = k)
    (hs : l.state = .loaded) (hi : l.image = some img) (ho : othersFinished y k = true) : armPoll (stitchBefore s) a =
    match armCheck img with
    | some f => some (.set (raiseAt (discardEntries (dropLoad (stitchBefore s) p k) l.loadId) ⟨f.cause, BitVec.ofNat 64 f.word.toNat, none⟩
        (armWhere img y.index (issuerNo (.seq p k)) k f)))
    | none => if anyRunning y then some (engineTrap (.arm a)) else some (.set (armPanel (stitchBefore s) p y l img)) := by
  have hready : ¬ (l.state ≠ .loaded ∨ othersFinished y k = false) := by simp [hs, ho]
  have hfocus : (discardEntries (dropLoad (stitchBefore s) p k) l.loadId).focus = .seq p k :=
    (focus_modPanel ..).trans (arm_focus h)
  have hword (w : BitVec 40) : zext64 w = BitVec.ofNat 64 w.toNat := BitVec.eq_of_toNat_eq (by simp [zext64])
  simp only [armPoll, arm_focus h, hy, hf, hl, hk, ne_eq, not_true_eq_false, if_false, if_neg hready, hi, Option.getD_some, hfocus, hword,
    mkTrap] <;> rfl

end

end Sys2Proof.Machine

namespace Sys2Proof

open Machine

/-- Settles O36, in the order of the tests of `arm`. -/
theorem armSwitchesPattern : Obligations.ArmSwitchesPattern := by
  intro a s p k x y h hy
  refine ⟨fun va hf => arm_failed h hy hf, fun hf => ⟨fun hl => arm_engine h ?_, fun l hl hk => arm_engine h ?_,
    fun l hl hk hw => arm_waits h hy hf hl hk ?_, fun l img hl hk hs hi ho => ?_⟩⟩
  · simp only [armPoll, arm_focus h, hy, hf, hl]
  · simp only [armPoll, arm_focus h, hy, hf, hl, ne_eq, hk, not_false_eq_true, if_true]
  · refine hw.imp_right fun ⟨j, hj, hjk, hfin⟩ => Bool.eq_false_iff.mpr fun hall => ?_
    rw [(othersFinished_iff y k).mp hall j hj hjk] at hfin
    cases hfin
  · have hpoll := armPoll_ready h hy hf hl hk hs hi ((othersFinished_iff y k).mpr ho)
    refine ⟨fun f hc => ⟨checkWords_cause _ _ hc, arm_sets h (by rw [hpoll, hc])⟩, fun hc hrun => arm_engine h ?_,
      fun hc hrun h4 => ⟨_, arm_sets h (by rw [hpoll, hc, hrun]; rfl), ?_⟩⟩
    · rw [hpoll, hc, anyRunning_of_streamRuns hrun]; rfl
    · obtain ⟨⟨hruns, hfinished, hslices⟩, hothers, z, hz, himage, haddr, hload, hrow, htacks, hpending, hstrands, htiles⟩ :=
        armPanel_arms (y := y) (l := l) (arm_focus h) h4
      have htile (n : Nat) : z.tile n = (switchPattern y l img).tile n := by rw [Panel.tile, htiles]; rfl
      obtain ⟨hcells, hlast⟩ := scratch_switchPattern y l img
      refine ⟨hruns, hfinished, hslices, hothers, z, hz, himage, haddr, hload, hrow, htacks, hpending, hstrands, fun n => ?_,
        fun n b => ?_, fun rs r => ?_⟩
      · have hkept := tile_switchPattern y l img n
        rw [htile]
        exact ⟨(congrArg Tile.acc hkept :), (congrArg Tile.weights hkept :), (congrArg Tile.wscale hkept :), (congrArg Tile.fa hkept :),
          (congrArg Tile.fb hkept :), (congrArg Tile.v hkept :), (congrArg Tile.k hkept :), (congrArg Tile.lines hkept :),
          (congrArg Tile.pool hkept :)⟩
      · rw [htile]; exact hcells n b
      · rw [htile]; exact hlast rs r

end Sys2Proof
end

section
/-! PROOFS. `tlbinv` and its completion (R96, R206). -/

namespace Sys2Proof.Machine

open Sys2Proof

theorem exec_tlbinv (a b : Reg) (s : State) : exec (.tlbinv a b) s = issue (.tlbinv a b) s fun s => .wait s none true := rfl

/-- A completed wait changes nothing but the thread, which goes on to the next word, and counters. -/
theorem completeWait_elsewhere {s : State} {p : Party} {i : Instr} (hn : NoTrip i (s.thread p)) :
    Elsewhere { s with focus := p } (completeWait s p i) ∧ (completeWait s p i).cur = pastWord i { s.thread p with wait := none } := by
  let u : State := State.setCur { s with focus := p } { s.thread p with wait := none }
  have hu : u.cur = { s.thread p with wait := none } := cur_setCur ..
  obtain ⟨hr, hrcur⟩ := retire_plain i u (by rw [hu]; exact hn)
  obtain ⟨hc, hccur⟩ := commitShadow_elsewhere i (retire i u)
  exact ⟨elsewhere_trans (elsewhere_setCur ..) (elsewhere_trans hr hc), by rw [← hu, ← hrcur]; exact hccur⟩

/-- The completion of a `tlbinv` drops the entries that its range hits (R96). -/
theorem exec_tlbinvComplete {s : State} {p : Party} {a b : Reg} {w : Wait} (hw : (s.thread p).wait = some w) (hi : w.instr = .tlbinv a b) :
    exec (.tlbinvComplete p) s = .next (completeWait
      { s with tlb := s.tlb.filter fun e => !tlbHit (partyCtx s p) ((s.thread p).get a).toNat ((s.thread p).get b).toNat e } p (.tlbinv a b)) := by
  simp only [exec, execTlbinvComplete, hw, hi]

end Sys2Proof.Machine

namespace Sys2Proof

open Machine

/-- Settles O11: the form waits as it issues; its completion is that of a wait in a state without the entries hit. -/
theorem tlbinvInvalidates : Obligations.TlbinvInvalidates := by
  refine ⟨fun a b s hi => leaves_wait hi.toMayIssue _ (exec_tlbinv a b s) rfl, fun p s a b w hw hi hn => ?_⟩
  obtain ⟨helse, hcur⟩ := completeWait_elsewhere
    (s := { s with tlb := s.tlb.filter fun e => !tlbHit (partyCtx s p) ((s.thread p).get a).toNat ((s.thread p).get b).toNat e }) hn
  exact ⟨_, exec_tlbinvComplete hw hi, helse, congrArg unmarked hcur⟩

end Sys2Proof
end

section
/-! SUPPORT. Bytes as numbers (R1), and the extension of loaded bytes as the rule has it (R170). -/

namespace Sys2Proof.Machine

open Sys2Proof

@[simp] theorem length_toBytes (n v : Nat) : (toBytes n v).length = n := by
  induction n generalizing v with
  | zero => rfl
  | succ n ih => simp [toBytes, ih]

@[simp] theorem length_readBytes (m : Cells) (a n : Nat) : (readBytes m a n).length = n := by
  simp [readBytes_eq_map]

theorem ofBytes_lt (bs : List Byte) : ofBytes bs < 2 ^ (8 * bs.length) := by
  induction bs with
  | nil => simp [ofBytes]
  | cons b bs ih =>
    have hb : b.toNat < 256 := b.isLt
    have hp : 2 ^ (8 * (b :: bs).length) = 256 * 2 ^ (8 * bs.length) := by rw [List.length_cons, Nat.mul_succ, Nat.pow_add, Nat.mul_comm]
    rw [ofBytes, hp]
    omega

/-- The sign bit of a number of w bits. -/
theorem bitAt_top {v w : Nat} (h : v < 2 ^ w) : bitAt v (w - 1) = decide (2 ^ w ≤ 2 * v) := by
  cases w with
  | zero => obtain rfl : v = 0 := by simpa using h
            rfl
  | succ k =>
    have hdiv : v / 2 ^ k < 2 := Nat.div_lt_of_lt_mul (by rwa [← Nat.pow_succ])
    have hle : 2 ^ (k + 1) ≤ 2 * v ↔ v / 2 ^ k = 1 := by
      rw [Nat.pow_succ', Nat.mul_le_mul_left_iff (by decide), ← Nat.one_le_div_iff (by positivity)]
      omega
    simp [bitAt, hle, Nat.mod_eq_of_lt hdiv, ← Bool.beq_eq_decide_eq]

/-- Loaded bytes of at most a word are extended as the rule has it (R170). -/
theorem extend_eq_ruleExtend {bs : List Byte} (h : bs.length ≤ 8) (signed : Bool) : extend bs signed = ruleExtend bs signed := by
  cases signed with
  | false => simp [extend, ruleExtend]
  | true =>
    have hv := ofBytes_lt bs
    have hint : (BitVec.ofNat (8 * bs.length) (ofBytes bs)).toInt =
        if 2 ^ (8 * bs.length) ≤ 2 * ofBytes bs then (ofBytes bs : Int) - (2 ^ (8 * bs.length) : Nat) else ofBytes bs := by
      rw [BitVec.toInt_eq_toNat_cond, BitVec.toNat_ofNat, Nat.mod_eq_of_lt hv]
      split_ifs <;> omega
    simp only [extend, ruleExtend, bitAt_top hv, hint, Bool.true_and, decide_eq_true_eq, if_true]
    split_ifs
    · have hp : 2 ^ (8 * bs.length) ≤ 2 ^ 64 := Nat.pow_le_pow_right (by decide) (by omega)
      have hsum : ((ofBytes bs + (2 ^ 64 - 2 ^ (8 * bs.length)) : Nat) : Int) =
          ((ofBytes bs : Int) - (2 ^ (8 * bs.length) : Nat)) + (2 ^ 64 : Nat) := by omega
      rw [← BitVec.ofInt_natCast, hsum, BitVec.ofInt_add]
      have h64 : BitVec.ofInt 64 ((2 ^ 64 : Nat) : Int) = 0#64 := by decide
      rw [h64, BitVec.add_zero]
    · rw [BitVec.ofInt_natCast]

end Sys2Proof.Machine
end

section
/-! PROOFS. Scratch loads and stores (R76, R78, R118, R171, R172). -/

namespace Sys2Proof.Machine

open Sys2Proof

theorem exec_scratchLoad {i : Instr} {n : Nat} {d a : Reg} {off : BitVec 14} {signed : Bool}
    (h : scratchLoadForm i = some (n, d, a, off, signed)) (s : State) :
    exec i s = issue i s fun s => scratchLoad s d (memAddr s a off n) n signed := by
  unfold scratchLoadForm at h
  split at h <;> cases h <;> rfl

theorem exec_scratchStore {i : Instr} {n : Nat} {d a : Reg} {off : BitVec 14} {full : Bool}
    (h : scratchStoreForm i = some (n, d, a, off, full)) (s : State) :
    exec i s = issue i s fun s => .bindX (scratchAccess s s.focus (memAddr s a off n) n) fun l =>
      .bindX (writeScratch s s.focus l (toBytes n (s.g d).toNat) full) fun s => .ok s := by
  unfold scratchStoreForm at h
  split at h <;> cases h <;> rfl

theorem scratchLoadForm_size {i : Instr} {n : Nat} {d a : Reg} {off : BitVec 14} {signed : Bool}
    (h : scratchLoadForm i = some (n, d, a, off, signed)) : n ≤ 8 := by
  unfold scratchLoadForm at h
  split at h
  · next sz _ _ _ => cases h; cases sz <;> decide
  · next sz _ _ _ => cases h; cases sz <;> decide
  · cases h

/-- A form that first checks its scratch address traps where the check fails: E.PERM outside the scratch, then E.ALIGN (R78). -/
theorem scratchAccess_traps {i : Instr} {s : State} {A : Word} {n : Nat} {f : ScratchLoc → Res} (hi : MayIssue i s)
    (body : State → Res) (he : exec i s = issue i s body) (hb : body s = .bindX (scratchAccess s s.focus A n) f) :
    (scratchLoc s s.focus A n = none → Traps i s .perm A) ∧
    (∀ l, scratchLoc s s.focus A n = some l → A.toNat % n ≠ 0 → Traps i s .align A) := by
  refine ⟨fun hl => ends_trap hi body he ?_, fun l hl ha => ends_trap hi body he ?_⟩
  · rw [hb, scratchAccess, hl]; rfl
  · have hal : aligned A n = false := by simpa [aligned] using ha
    rw [hb, scratchAccess, hl]; simp [hal, Res.bindX, mkTrap]

@[simp] theorem length_overlayScr (log : List LogEntry) (tile : Nat) (bs : List Byte) :
    ∀ off, (overlayScr log tile off bs).length = bs.length := by
  induction bs with
  | nil => exact fun _ => rfl
  | cons b bs ih => exact fun off => congrArg Nat.succ (ih _)

/-- A read of scratch gives at most the bytes asked for. -/
theorem length_readScratch (s : State) (p : Party) (l : ScratchLoc) (n : Nat) : (readScratch s p l n).length ≤ n := by
  cases l with
  | core c off => simp [readScratch, scratchBytes]
  | gone off => simp [readScratch, scratchBytes]
  | tile t off =>
    simp only [readScratch, scratchBytes, length_overlayScr]
    split <;> simp

/-- A scratch load at an aligned address of its scratch: it goes nowhere in a row that reserves the bank, else completes (R118, R171). -/
theorem scratchLoad_complete {i : Instr} {n : Nat} {d a : Reg} {off : BitVec 14} {signed : Bool} {s : State} {l : ScratchLoc}
    (hf : scratchLoadForm i = some (n, d, a, off, signed)) (hi : Issues i s)
    (hl : scratchLoc s s.focus (ruleAddr s a off n) n = some l) (ha : (ruleAddr s a off n).toNat % n = 0) :
    (bankReserved s s.focus l n = true → exec i s = .next s) ∧
    (bankReserved s s.focus l n = false → scratchEcc s s.focus l n = none →
      RunsTo i s (pastWord i (s.cur.put d (ruleExtend (readScratch s s.focus l n) signed)))) := by
  have hbody : scratchLoad s d (memAddr s a off n) n signed = if bankReserved s s.focus l n then .hold s
      else .readOk s l n (.ok (s.setG d (extend (readScratch s s.focus l n) signed))) := by
    simp only [scratchLoad, memAddr_eq_ruleAddr, scratchAccess_ok hl ha, Res.bindX]
  refine ⟨fun hr => ?_, fun hr he => ?_⟩
  · exact exec_hold hi.toMayIssue _ (exec_scratchLoad hf s) (by rw [hbody, if_pos hr])
  · rw [← extend_eq_ruleExtend ((length_readScratch ..).trans (scratchLoadForm_size hf))]
    exact leaves_setG hi.toMayIssue _ (exec_scratchLoad hf s) (by simp [hbody, hr, Res.readOk, he]) hi.noTrip

/-- An entry of scratch that a sequencer's log has room for is appended (R260). -/
theorem appendSeq_scratch {s : State} {p k t off : Nat} {x : Panel} {bs : List Byte} {full : Bool} (hx : s.panel? p = some x)
    (hroom : logSize (x.strand k).log + logSpan off bs.length ≤ 1024) :
    appendSeq s p k (.scratch t off bs full) = .ok (s.setPanel p (seqLogged x k (.scratch t off bs full))) := by
  have hsize : ¬ seqLogMax < logSize (x.strand k).log + LogEntry.size (.scratch t off bs full) := by
    simpa [seqLogMax, LogEntry.size] using hroom
  simp only [appendSeq, hx, Option.map_some, Option.getD_some, if_neg hsize, modPanel_some hx, seqLogged]

/-- A scratch store at an aligned address of its scratch: a core's lands at once, a sequencer's enters its log (R171, R172). -/
theorem scratchStore_complete {i : Instr} {n : Nat} {d a : Reg} {off : BitVec 14} {full : Bool} {s : State} {l : ScratchLoc}
    (hf : scratchStoreForm i = some (n, d, a, off, full)) (hi : Issues i s)
    (hl : scratchLoc s s.focus (ruleAddr s a off n) n = some l) (ha : (ruleAddr s a off n).toNat % n = 0) :
    (∀ c o, l = .core c o → Leaves i s (landCore s c o (toBytes n (s.g d).toNat) full) (pastWord i s.cur)) ∧
    (∀ p k x y o, l = .tile y o → s.focus = .seq p k → s.panel? p = some x → logSize (x.strand k).log + logSpan o n ≤ 1024 →
      Leaves i s (s.setPanel p (seqLogged x k (.scratch y o (toBytes n (s.g d).toNat) full))) (pastWord i s.cur)) := by
  have hacc : scratchAccess s s.focus (memAddr s a off n) n = .ok l := by rw [memAddr_eq_ruleAddr, scratchAccess_ok hl ha]
  refine ⟨fun c o hc => ?_, fun p k x y o ht hfocus hx hroom => ?_⟩
  · subst hc
    exact leaves_ok hi.toMayIssue _ (exec_scratchStore hf s) (by simp only [hacc, Res.bindX, writeScratch]) hi.noTrip
  · subst ht
    have hw : writeScratch s s.focus (.tile y o) (toBytes n (s.g d).toNat) full =
        .ok (s.setPanel p (seqLogged x k (.scratch y o (toBytes n (s.g d).toNat) full))) := by
      rw [hfocus, writeScratch]
      exact appendSeq_scratch hx (by simpa using hroom)
    exact leaves_ok (u := s.setPanel p _) hi.toMayIssue _ (exec_scratchStore hf s) (by simp only [hacc, Res.bindX, hw]) hi.noTrip

end Sys2Proof.Machine

namespace Sys2Proof

open Machine

/-- Settles O21: the checks of the address in their order, then the form. -/
theorem scratchFormsComplete : Obligations.ScratchFormsComplete := by
  refine ⟨fun i n d a off signed s hf hi => ?_, fun i n d a off full s hf hi => ?_⟩
  · obtain ⟨hperm, halign⟩ := scratchAccess_traps hi.toMayIssue _ (exec_scratchLoad hf s) (by rw [memAddr_eq_ruleAddr]; rfl)
    exact ⟨hperm, fun l hl => ⟨halign l hl, fun ha => (scratchLoad_complete hf hi hl ha).1, fun ha => (scratchLoad_complete hf hi hl ha).2⟩⟩
  · obtain ⟨hperm, halign⟩ := scratchAccess_traps hi.toMayIssue _ (exec_scratchStore hf s) (by rw [memAddr_eq_ruleAddr])
    exact ⟨hperm, fun l hl => ⟨halign l hl, scratchStore_complete hf hi hl⟩⟩

end Sys2Proof
end

section
/-! SUPPORT. Lines of a panel drained, and clean bytes dropped: the threads stay (R99, R105). -/

namespace Sys2Proof.Machine

open Sys2Proof

/-- The threads and the one in focus stay. -/
structure ThreadsStay (s t : State) : Prop where
  focus : t.focus = s.focus
  threads : t.threads = s.threads

theorem ThreadsStay.refl (s : State) : ThreadsStay s s := ⟨rfl, rfl⟩

theorem ThreadsStay.trans {s t u : State} (h : ThreadsStay s t) (k : ThreadsStay t u) : ThreadsStay s u :=
  ⟨k.focus.trans h.focus, k.threads.trans h.threads⟩

theorem ThreadsStay.foldl {α : Type} {f : State → α → State} (hf : ∀ s x, ThreadsStay s (f s x)) (l : List α) (s : State) :
    ThreadsStay s (l.foldl f s) :=
  List.foldlRecOn l f (motive := ThreadsStay s) (.refl s) fun _ h x _ => h.trans (hf _ x)

theorem ThreadsStay.cur {s t : State} (h : ThreadsStay s t) : t.cur = s.cur := by
  rw [State.cur, State.cur, h.focus, State.thread, State.thread, h.threads]

theorem HomeFrame.threadsStay {s t : State} (h : HomeFrame s t) : ThreadsStay s t := ⟨h.focus, h.threads⟩

theorem threadsStay_modPanel (s : State) (p : Nat) (f : Panel → Panel) : ThreadsStay s (s.modPanel p f) := by
  unfold State.modPanel
  split <;> exact ⟨rfl, rfl⟩

theorem threadsStay_drainLine (s : State) (p n line : Nat) : ThreadsStay s (drainLine s p n line) := by
  unfold drainLine
  split
  · exact .refl s
  · next x _ =>
    dsimp only
    split
    · exact .refl s
    · have hset (y : Panel) : ThreadsStay s (s.setPanel p y) := ⟨rfl, rfl⟩
      exact (hset _).trans <| (homeFrame_countPoison ..).threadsStay.trans <|
        .foldl (fun s d => (homeFrame_pushReq s _ (.update _)).threadsStay) _ _

theorem threadsStay_drainPanel (s : State) (p : Nat) (sel : Nat → Bool) : ThreadsStay s (drainPanel s p sel) := by
  unfold drainPanel
  split
  · exact .refl s
  · exact .foldl (fun s c => .foldl (fun s l => threadsStay_drainLine ..) _ s) _ s

theorem threadsStay_drainFor (s : State) (p : Party) (sel : Nat → Bool) : ThreadsStay s (drainFor s p sel) := by
  unfold drainFor
  split
  · exact threadsStay_drainPanel ..
  · exact .refl s

theorem threadsStay_dropCleanFor (s : State) (p : Party) (sel : Nat → Bool) : ThreadsStay s (dropCleanFor s p sel) := by
  unfold dropCleanFor
  split
  · exact ⟨rfl, rfl⟩
  · split
    · exact threadsStay_modPanel ..
    · exact .refl s

end Sys2Proof.Machine
end

section
/-! PROOFS. Cache maintenance (R95, R173). -/

namespace Sys2Proof.Machine

open Sys2Proof

theorem exec_prefetch (a : Reg) (off : BitVec 14) (s : State) : exec (.prefetch a off) s = issue (.prefetch a off) s fun s => .ok s := rfl

theorem exec_invalI (s : State) : exec .invalI s =
    issue .invalI s fun s => .ok { s with icache := s.icache.filter fun w => w.owner != icOwner s.focus } := rfl

theorem exec_clean (a : Reg) (off : BitVec 14) (s : State) :
    exec (.clean a off) s = issue (.clean a off) s fun s => cacheOp s (cacheAddr s a off) true false := rfl

theorem exec_flush (a : Reg) (off : BitVec 14) (s : State) :
    exec (.flush a off) s = issue (.flush a off) s fun s => cacheOp s (cacheAddr s a off) true true := rfl

theorem exec_inval (a : Reg) (off : BitVec 14) (s : State) :
    exec (.inval a off) s = issue (.inval a off) s fun s => cacheOp s (cacheAddr s a off) false true := rfl

/-- What a cache form leaves of a state for a line: dirty bytes drained, then clean bytes dropped, as the form has it (R173). -/
def lineKept (s : State) (line : Nat) (drain drop : Bool) : State :=
  let u := if drain then drainFor s s.focus (· == line) else s
  if drop then dropCleanFor u s.focus (· == line) else u

theorem threadsStay_lineKept (s : State) (line : Nat) (drain drop : Bool) : ThreadsStay s (lineKept s line drain drop) := by
  have hdrain : ThreadsStay s (if drain then drainFor s s.focus (· == line) else s) := by
    cases drain
    · exact .refl s
    · exact threadsStay_drainFor ..
  unfold lineKept
  dsimp only
  split
  · exact hdrain.trans (threadsStay_dropCleanFor ..)
  · exact hdrain

/-- A cache form at an address that translates acts on its line. -/
theorem cacheOp_eq {s u : State} {A : Word} {tg : Target} (ht : translate s (partyReq s s.focus .read) A = .ok (u, tg)) (drain drop : Bool) :
    cacheOp s A drain drop = .ok (lineKept u (lineOf tg.pa) drain drop) := by
  have hfocus : (if drain then drainFor u u.focus (· == lineOf tg.pa) else u).focus = u.focus := by
    cases drain
    · rfl
    · exact (threadsStay_drainFor ..).focus
  simp only [cacheOp, ht, Res.bindX, lineKept, hfocus]

/-- A cache form whose address translates leaves its line as the form has it, its thread past the word. -/
theorem cacheOp_leaves {i : Instr} {s u : State} {A : Word} {tg : Target} {drain drop : Bool} (hi : Issues i s)
    (ht : translate s (partyReq s s.focus .read) A = .ok (u, tg)) (body : State → Res) (he : exec i s = issue i s body)
    (hb : body s = cacheOp s A drain drop) : Leaves i s (lineKept u (lineOf tg.pa) drain drop) (pastWord i s.cur) := by
  have hcur : (lineKept u (lineOf tg.pa) drain drop).cur = s.cur :=
    ((homeFrame_translate ht).threadsStay.trans (threadsStay_lineKept ..)).cur
  rw [← hcur]
  exact leaves_ok hi.toMayIssue body he (by rw [hb, cacheOp_eq ht]) (by rw [hcur]; exact hi.noTrip)

end Sys2Proof.Machine

namespace Sys2Proof

open Machine

/-- Settles O23: what the three forms of a line do is one operation on the line of the translated address. -/
theorem cacheFormsComplete : Obligations.CacheFormsComplete := by
  refine ⟨fun a off s hi => ?_, fun s hi => ?_, fun a off s u tg ht => ?_⟩
  · exact leaves_ok hi.toMayIssue _ (exec_prefetch a off s) rfl hi.noTrip
  · exact leaves_ok (u := { s with icache := _ }) hi.toMayIssue _ (exec_invalI s) rfl hi.noTrip
  · have hfocus := (homeFrame_translate ht).focus
    have hkept (i : Instr) (drain drop : Bool) (hi : Issues i s)
        (he : exec i s = issue i s fun s => cacheOp s (cacheAddr s a off) drain drop) :=
      cacheOp_leaves hi ht _ he rfl
    simp only [lineKept, hfocus] at hkept
    exact ⟨fun hi => hkept _ true false hi (exec_clean ..), fun hi => hkept _ true true hi (exec_flush ..),
      fun hi => hkept _ false true hi (exec_inval ..)⟩

end Sys2Proof
end

section
/-! SUPPORT. Atomics (R89, R114, R116, R175, R176): a form's parts, the checks of its address, its new value. -/

namespace Sys2Proof.Machine

open Sys2Proof

theorem exec_amo {i : Instr} {kind n : Nat} {a b c : Reg} (h : amoForm i = some (kind, n, a, b, c)) (s : State) :
    exec i s = issue i s fun s => .bindX (amoTarget s kind n (s.g b)) fun (u, tg) =>
      if tg.det then amoLog u i kind (n == 8) a (s.g c) (s.g b) tg else amoApply u kind n a (s.g c) tg := by
  unfold amoForm at h
  split at h
  case h_10 => cases h
  case h_9 => cases h; rfl
  all_goals
    next wide _ _ _ => cases h; cases wide <;> rfl

theorem amoForm_bounds {i : Instr} {kind n : Nat} {a b c : Reg} (h : amoForm i = some (kind, n, a, b, c)) : kind ≤ 8 ∧ 0 < n := by
  unfold amoForm at h
  split at h
  case h_10 => cases h
  case h_9 => cases h; decide
  all_goals
    next wide _ _ _ => cases h; cases wide <;> decide

/-! ## The new value (R176) -/

@[simp] theorem length_homeBytes (s : State) (dom n : Nat) : ∀ pa, (homeBytes s dom pa n).length = n := by
  induction n with
  | zero => exact fun _ => rfl
  | succ n ih => exact fun pa => congrArg Nat.succ (ih _)

/-- A number of n bytes as a signed one. -/
theorem svalBytes_eq {n x : Nat} (hn : 0 < n) (h : x < 2 ^ (8 * n)) :
    svalBytes n x = if x < 2 ^ (8 * n) / 2 then (x : Int) else (x : Int) - (2 ^ (8 * n) : Nat) := by
  rw [svalBytes, BitVec.toInt_eq_toNat_cond, BitVec.toNat_ofNat, Nat.mod_eq_of_lt h]
  have heven : 2 ^ (8 * n) % 2 = 0 := Nat.mod_eq_zero_of_dvd (dvd_pow_self 2 (by omega))
  split_ifs <;> omega

/-- The new value of an atomic on n bytes is the rule's. -/
theorem amoResult_eq_amoRule {kind n old v : Nat} (hk : kind ≤ 8) (hn : 0 < n) (ho : old < 2 ^ (8 * n)) (hv : v < 2 ^ (8 * n)) (want : Nat) :
    amoResult kind n old v want = amoRule kind n old v want := by
  match kind, hk with
  | 0, _ | 1, _ | 2, _ | 3, _ | 6, _ | 7, _ | 8, _ => rfl
  | 4, _ => simp only [amoResult, amoNew, amoRule, svalBytes_eq hn ho, svalBytes_eq hn hv]; rfl
  | 5, _ =>
    simp only [amoResult, amoNew, amoRule, svalBytes_eq hn ho, svalBytes_eq hn hv]
    split_ifs <;> omega
  | k + 9, hk => omega

/-! ## The checks (R175) -/

theorem amoTarget_tagged {s : State} {A : Word} (h : 2 ^ 63 ≤ A.toNat) (kind n : Nat) :
    amoTarget s kind n A = .error ⟨.perm, A, none⟩ := by
  have htag : isTagged A = true := by simpa [isTagged_eq] using h
  rw [amoTarget, if_pos htag, mkTrap]

theorem amoTarget_misaligned {s : State} {A : Word} {n : Nat} (h : A.toNat < 2 ^ 63) (ha : A.toNat % n ≠ 0) (kind : Nat) :
    amoTarget s kind n A = .error ⟨.align, A, none⟩ := by
  have htag : isTagged A = false := by simpa [isTagged_eq] using h
  have hal : aligned A n = false := by simpa [aligned] using ha
  simp [amoTarget, htag, hal, mkTrap]

/-- The checks after the translation: device registers and the status of a host completion, then the kinds of host memory. -/
theorem amoTarget_translated {s w : State} {A : Word} {kind n : Nat} {tg : Target} (hA : amoAddressOk A n)
    (ht : translate s (partyReq s s.focus .amo) A = .ok (w, tg)) :
    amoTarget s kind n A =
      if paKind w tg.pa = .device ∨ hostFails w tg.pa = true then .error ⟨.perm, A, none⟩
      else if paKind w tg.pa = .host ∧ hostKind kind = false then .error ⟨.perm, A, none⟩
      else .ok (w, tg) := by
  have htag : isTagged A = false := by simpa [isTagged_eq] using hA.1
  have hal : aligned A n = true := by simpa [aligned] using hA.2
  simp [amoTarget, htag, hal, ht, mkTrap]

theorem hostKind_false {kind : Nat} : hostKind kind = false ↔ kind ≠ 0 ∧ kind ≠ 6 ∧ kind ≠ 7 := by
  simp [hostKind, and_assoc]

/-- An atomic whose checks fail traps. -/
theorem amo_traps {i : Instr} {kind n : Nat} {a b c : Reg} {s : State} {t : Trap} (hf : amoForm i = some (kind, n, a, b, c))
    (hi : MayIssue i s) (ht : amoTarget s kind n (s.g b) = .error t) : exec i s = .next (raise (noteIssue s) t) :=
  ends_trap hi _ (exec_amo hf s) (by simp only [ht, Res.bindX])

theorem threadsStay_amoDrain (s : State) (p : Party) (line : Nat) : ThreadsStay s (amoDrain s p line) := by
  unfold amoDrain
  split
  · exact threadsStay_drainPanel ..
  · exact .refl s

/-- A read at the home that meets no poison. -/
theorem homeRead_ok {s : State} {dom pa n : Nat} (h : badSector (l2Reads (flushSlice s (sliceOf pa)) dom pa n) pa n = none) :
    homeRead s dom pa n = .ok (l2Reads (flushSlice s (sliceOf pa)) dom pa n, homeBytes (l2Reads (flushSlice s (sliceOf pa)) dom pa n) dom pa n) := by
  simp only [homeRead, h]

/-! ## The two outcomes -/

/-- An atomic at its home, its old bytes read: the state that it leaves but for the count of ev34 and the register (R114, R176). -/
def amoDone (h : State) (p : Party) (tg : Target) (bs : List Byte) : State :=
  dropCleanFor (writeHomeNow h tg.dom (partyTask h p) tg.pa bs (writerOf h p)) p (· == lineOf tg.pa)

theorem threadsStay_amoDone (h : State) (p : Party) (tg : Target) (bs : List Byte) : ThreadsStay h (amoDone h p tg bs) :=
  (homeFrame_writeHomeNow ..).threadsStay.trans (threadsStay_dropCleanFor ..)

theorem amoApply_eq {w h : State} {kind n : Nat} {a : Reg} {v : Word} {tg : Target} {bs : List Byte}
    (hr : homeRead (amoDrain (stitchBefore w) w.focus (lineOf tg.pa)) tg.dom tg.pa n = .ok (h, bs)) :
    let new := amoResult kind n (ofBytes bs) (v.toNat % 2 ^ (8 * n)) ((w.g a).toNat % 2 ^ (8 * n))
    amoApply w kind n a v tg =
      .ok ((countFor (amoDone h w.focus tg (toBytes n new)) w.focus 34 1).setG a (BitVec.ofNat 64 (ofBytes bs))) := by
  simp only [amoApply, hr, Res.bindX, amoDone]

/-- The entry that an atomic on a D page appends (R116). -/
def amoEntry (u : State) (p : Party) (kind : Nat) (wide : Bool) (v : Word) (tg : Target) : DEntry :=
  ⟨tg.pa, issuerNo p, partyStrand p, u.cur.dseq, kind, wide, v, partyEntry u p, tg.dom⟩

/-- A D page's log with the entry appended, on a sequencer after a stitch (R116). -/
def amoLogged (w : State) (kind : Nat) (wide : Bool) (v : Word) (tg : Target) : State :=
  let u := stitchBefore w
  { u with dlog := FMap.set u.dlog (sliceOf tg.pa) (FMap.getD w.dlog (sliceOf tg.pa) [] ++ [amoEntry u w.focus kind wide v tg]) }

/-- An atomic on a D page whose log has room appends its entry, unread (R116). -/
theorem amoLog_room {w : State} {i : Instr} {kind : Nat} {wide : Bool} {v A : Word} {tg : Target} (hk : kind ≠ 7)
    (hroom : (FMap.getD w.dlog (sliceOf tg.pa) []).length < 4096) :
    amoLog w i kind wide 0#5 v A tg =
      .ok (countFor ((amoLogged w kind wide v tg).setCur { (stitchBefore w).cur with dseq := (stitchBefore w).cur.dseq + 1 }) w.focus 35 1) := by
  have h : ¬ ((0#5 : Reg) ≠ 0#5 ∨ kind = 7) := by simp [hk]
  rw [amoLog, if_neg h]
  dsimp only
  rw [if_neg (by omega)]
  rfl

/-- The issuer and the strand of an entry are the rule's (R116). -/
theorem issuerOf_eq {p : Party} {q : Nat × Nat} (h : issuerOf p = some q) : q = (issuerNo p, partyStrand p) := by
  cases p <;> cases h <;> rfl

end Sys2Proof.Machine
end

section
/-! PROOFS. Atomics at their homes, refused and logged. -/

namespace Sys2Proof

open Machine

/-- Settles O27: the old bytes are those of the read at the home, the new ones the rule's; what lies between keeps the thread. -/
theorem atomicsAtHome : Obligations.AtomicsAtHome := by
  intro i kind n a b c s w tg hf hi hA ht hdev hfail hhost hdet u h hbad hn old new
  obtain ⟨hk, hpos⟩ := amoForm_bounds hf
  have hframe := homeFrame_translate ht
  have htarget : amoTarget s kind n (s.g b) = .ok (w, tg) := by
    rw [amoTarget_translated hA ht, if_neg (by simp [hdev, hfail]), if_neg]
    rintro ⟨hh, hk⟩
    obtain ⟨h0, h6, h7⟩ := hostKind_false.mp hk
    rcases hhost hh with h | h | h <;> contradiction
  have hread : homeRead u tg.dom tg.pa n = .ok (h, homeBytes h tg.dom tg.pa n) := homeRead_ok hbad
  have hg : w.g a = s.g a := by rw [State.g, State.g, hframe.cur]
  have hnew : amoResult kind n old ((s.g c).toNat % 2 ^ (8 * n)) ((s.g a).toNat % 2 ^ (8 * n)) = new :=
    amoResult_eq_amoRule hk hpos (by simpa using ofBytes_lt (homeBytes h tg.dom tg.pa n)) (Nat.mod_lt _ (by positivity)) _
  have hbody : amoApply w kind n a (s.g c) tg =
      .ok ((countFor (amoDone h s.focus tg (toBytes n new)) s.focus 34 1).setG a (BitVec.ofNat 64 old)) := by
    rw [← hframe.focus, amoApply_eq (by rw [hframe.focus]; exact hread), hg, hnew]
  have hcur : (amoDone h s.focus tg (toBytes n new)).cur = u.cur :=
    ((homeFrame_homeRead hread).threadsStay.trans (threadsStay_amoDone ..)).cur
  have hleaves := leaves_setG hi.toMayIssue _ (exec_amo hf s)
    (u := countFor (amoDone h s.focus tg (toBytes n new)) s.focus 34 1) (d := a) (v := BitVec.ofNat 64 old)
    (by simp only [htarget, Res.bindX, hdet, hbody]; rfl) (by rwa [cur_countFor, hcur])
  rw [cur_countFor, hcur] at hleaves
  exact leaves_of_elsewhere hleaves (elsewhere_countFor ..)

/-- Settles O28: the checks of R175 in their order, then those of a D page. -/
theorem atomicsRefusedOrLogged : Obligations.AtomicsRefusedOrLogged := by
  intro i kind n a b c s hf hi
  have htrap {t : Trap} (h : amoTarget s kind n (s.g b) = .error t) := amo_traps hf hi.toMayIssue h
  refine ⟨fun h => htrap (amoTarget_tagged h ..), fun h ha => htrap (amoTarget_misaligned h ha _), fun w tg hA ht => ?_⟩
  have htarget := amoTarget_translated (kind := kind) hA ht
  have hframe := homeFrame_translate ht
  refine ⟨fun hd => htrap ?_, fun hh => htrap ?_, fun hh h0 h6 h7 => htrap ?_, fun htier hdet => ?_⟩
  · rw [htarget, if_pos (.inl hd)]
  · rw [htarget, if_pos (.inr hh)]
  · rw [htarget, if_pos (show _ ∧ _ from ⟨hh, hostKind_false.mpr ⟨h0, h6, h7⟩⟩)]; split <;> rfl
  have hkind : paKind w tg.pa ≠ .device ∧ paKind w tg.pa ≠ .host := by
    rcases htier with h | h <;> rw [h] <;> exact ⟨nofun, nofun⟩
  have hok : amoTarget s kind n (s.g b) = .ok (w, tg) := by
    rw [htarget, if_neg (by simp [hkind, hostFails]), if_neg (by simp [hkind])]
  have hbody : (Res.bindX (amoTarget s kind n (s.g b)) fun (u, tg) =>
      if tg.det then amoLog u i kind (n == 8) a (s.g c) (s.g b) tg else amoApply u kind n a (s.g c) tg) =
      amoLog w i kind (n == 8) a (s.g c) (s.g b) tg := by
    simp only [hok, Res.bindX, hdet, if_true]
  refine ⟨fun h => ?_, fun ha hk hfull => ?_, fun q hq ha hk hroom => ?_⟩
  · exact ends_trap hi.toMayIssue _ (exec_amo hf s) (by rw [hbody, amoLog, if_pos h]; rfl)
  · refine ⟨countFor w w.focus 38 1, elsewhere_countFor .., cur_countFor .., ?_⟩
    have hlog : amoLog w i kind (n == 8) a (s.g c) (s.g b) tg = .set (raise (countFor w w.focus 38 1) ⟨.engine, wordOfForm i, none⟩) := by
      rw [← wordVal_eq]
      simp [amoLog, ha, hk, hfull, mkTrap]
    rw [exec_amo hf, issue_eq hi.toMayIssue, hbody, hlog]
    rfl
  · intro u
    subst ha
    rw [issuerOf_eq hq, ← hframe.focus]
    have hcur : u.cur = { s.cur with touched := u.cur.touched } := by rw [← hframe.cur]; exact (stitchFrame_stitchBefore w).cur
    have hleaves := leaves_ok hi.toMayIssue _ (exec_amo hf s) (hbody.trans (amoLog_room hk hroom)) (by
      rw [cur_countFor, cur_setCur, hcur]; exact hi.noTrip)
    rw [cur_countFor, cur_setCur] at hleaves
    exact leaves_of_elsewhere hleaves (elsewhere_trans (elsewhere_setCur ..) (elsewhere_countFor ..))

end Sys2Proof
end

section
/-! SUPPORT. The HBM map is a bijection between the addresses of the first tier and the locations of its stacks (R85, R86). -/

namespace Sys2Proof.Machine

open Sys2Proof

/-- The masks of a map select bits 51:14 alone (R87). -/
structure HbmMap.Masked (m : HbmMap) : Prop where
  mc : ∀ n, FMap.getD m.mc n 0#64 &&& hbmMaskBits = FMap.getD m.mc n 0#64
  mp : ∀ n, FMap.getD m.mp n 0#64 &&& hbmMaskBits = FMap.getD m.mp n 0#64

/-- A mask of bits 51:14 selects the same bits of two addresses of one 16 KiB block. -/
theorem and_mask_of_block {w : Word} (hw : w &&& hbmMaskBits = w) {x y : Nat} (h : x / 2 ^ 14 = y / 2 ^ 14) : x &&& w.toNat = y &&& w.toNat := by
  refine Nat.eq_of_testBit_eq fun i => ?_
  rw [Nat.testBit_and, Nat.testBit_and]
  rcases Nat.lt_or_ge i 14 with hi | hi
  · have hlow : w.toNat.testBit i = false := by
      have hmask : hbmMaskBits.getLsbD i = false := by interval_cases i <;> decide
      rw [BitVec.testBit_toNat, ← hw, BitVec.getLsbD_and, hmask, Bool.and_false]
    rw [hlow, Bool.and_false, Bool.and_false]
  · obtain ⟨k, rfl⟩ := Nat.exists_eq_add_of_le hi
    have hbit (z : Nat) : z.testBit (14 + k) = (z / 2 ^ 14).testBit k := by rw [Nat.testBit_div_two_pow, Nat.add_comm]
    rw [hbit x, hbit y, h]

/-- The hash of an address is that of its 16 KiB block (R86). -/
theorem hbmHash_of_block {m : HbmMap} (hm : m.Masked) {x y : Nat} (h : x / 2 ^ 14 = y / 2 ^ 14) : hbmHash m x = hbmHash m y := by
  have hn : x / 2 ^ 29 = y / 2 ^ 29 := by omega
  simp only [hbmHash, hn, and_mask_of_block (hm.mc _) h, and_mask_of_block (hm.mp _) h]

theorem fold5_lt (x : Nat) : fold5 x < 2 ^ 5 := by
  have h (a b : Nat) : a < 2 ^ 5 → b < 2 ^ 5 → a ^^^ b < 2 ^ 5 := Nat.xor_lt_two_pow
  unfold fold5
  iterate 7 refine h _ _ ?_ (by omega)
  omega

/-! ## The channel bits of a block hashed (R86) -/

/-- The offset in a 16 KiB block with its channel and pseudo-channel bits hashed. -/
def hashLow (h : Nat × Bool) (y : Nat) : Nat := ((y / 2 ^ 9) ^^^ h.1) * 2 ^ 9 + ((y / 2 ^ 8 % 2) ^^^ h.2.toNat) * 2 ^ 8 + y % 2 ^ 8

/-- An address with the channel and pseudo-channel bits hashed. -/
def hashed (h : Nat × Bool) (x : Nat) : Nat := x / 2 ^ 14 * 2 ^ 14 + hashLow h (x % 2 ^ 14)

/-- The fields of a hashed offset. -/
theorem hashLow_fields {h : Nat × Bool} (hc : h.1 < 2 ^ 5) {y : Nat} (hy : y < 2 ^ 14) :
    hashLow h y < 2 ^ 14 ∧ hashLow h y / 2 ^ 9 = (y / 2 ^ 9) ^^^ h.1 ∧ hashLow h y / 2 ^ 8 % 2 = (y / 2 ^ 8 % 2) ^^^ h.2.toNat ∧
      hashLow h y % 2 ^ 8 = y % 2 ^ 8 := by
  have hch : (y / 2 ^ 9) ^^^ h.1 < 2 ^ 5 := Nat.xor_lt_two_pow (by omega) hc
  have hpc : (y / 2 ^ 8 % 2) ^^^ h.2.toNat < 2 ^ 1 := Nat.xor_lt_two_pow (by omega) (Bool.toNat_lt _)
  unfold hashLow
  omega

/-- Hashed twice, an offset is as it was. -/
theorem hashLow_hashLow {h : Nat × Bool} (hc : h.1 < 2 ^ 5) {y : Nat} (hy : y < 2 ^ 14) : hashLow h (hashLow h y) = y := by
  obtain ⟨_, h9, h8, h0⟩ := hashLow_fields hc hy
  rw [hashLow, h9, h8, h0, Nat.xor_assoc, Nat.xor_assoc, Nat.xor_self, Nat.xor_self, Nat.xor_zero, Nat.xor_zero]
  omega

theorem hashed_block {h : Nat × Bool} (hc : h.1 < 2 ^ 5) (x : Nat) : hashed h x / 2 ^ 14 = x / 2 ^ 14 := by
  have := (hashLow_fields hc (y := x % 2 ^ 14) (by omega)).1
  unfold hashed
  omega

theorem hashed_hashed {h : Nat × Bool} (hc : h.1 < 2 ^ 5) (x : Nat) : hashed h (hashed h x) = x := by
  have hlow := (hashLow_fields hc (y := x % 2 ^ 14) (by omega)).1
  have hmod : hashed h x % 2 ^ 14 = hashLow h (x % 2 ^ 14) := by unfold hashed; omega
  rw [hashed, hashed_block hc, hmod, hashLow_hashLow hc (by omega)]
  omega

/-! ## Stacks (R85) -/

/-- The address of a stack-internal address, its channel bits as they are (R85). -/
def unstacked (m : HbmMap) (st a : Nat) : Nat :=
  if m.mode.contains (a / 2 ^ 29) then (a / 2 ^ 29 * 12 + st) * 2 ^ 29 + a % 2 ^ 29 else (a / 2 ^ 20 * 12 + st) * 2 ^ 20 + a % 2 ^ 20

theorem unstacked_stackAddr (m : HbmMap) (pa : Nat) : unstacked m (stackAddr m pa).1 (stackAddr m pa).2 = pa := by
  unfold stackAddr unstacked
  dsimp only
  split
  · next h =>
    have hg : (pa / 2 ^ 29 / 12 * 2 ^ 29 + pa % 2 ^ 29) / 2 ^ 29 = pa / 2 ^ 29 / 12 := by omega
    rw [hg, if_pos h]
    omega
  · next h =>
    have hg : (pa / 2 ^ 20 / 12 * 2 ^ 20 + pa % 2 ^ 20) / 2 ^ 29 = pa / 2 ^ 29 / 12 := by omega
    rw [hg, if_neg h]
    omega

theorem stackAddr_unstacked (m : HbmMap) {st : Nat} (a : Nat) (hst : st < 12) : stackAddr m (unstacked m st a) = (st, a) := by
  unfold stackAddr unstacked
  dsimp only
  split
  · next h =>
    have hg : ((a / 2 ^ 29 * 12 + st) * 2 ^ 29 + a % 2 ^ 29) / 2 ^ 29 / 12 = a / 2 ^ 29 := by omega
    rw [hg, if_pos h]
    exact Prod.ext (by omega) (by omega)
  · next h =>
    have hg : ((a / 2 ^ 20 * 12 + st) * 2 ^ 20 + a % 2 ^ 20) / 2 ^ 29 / 12 = a / 2 ^ 29 := by omega
    rw [hg, if_neg h]
    exact Prod.ext (by omega) (by omega)

/-- The bits below a stack's stride are those of the internal address: they may be hashed before or after. -/
theorem unstacked_hashed (m : HbmMap) {h : Nat × Bool} (hc : h.1 < 2 ^ 5) (st a : Nat) :
    unstacked m st (hashed h a) = hashed h (unstacked m st a) := by
  have hlow := (hashLow_fields hc (y := a % 2 ^ 14) (by omega)).1
  have hmod : unstacked m st a % 2 ^ 14 = a % 2 ^ 14 := by unfold unstacked; split <;> omega
  have hg : hashed h a / 2 ^ 29 = a / 2 ^ 29 := by unfold hashed; omega
  rw [hashed.eq_1 h (unstacked m st a), hmod]
  unfold unstacked
  rw [hg]
  unfold hashed
  split <;> omega

theorem stackAddr_fst_lt (m : HbmMap) (pa : Nat) : (stackAddr m pa).1 < 12 := by
  unfold stackAddr
  dsimp only
  split <;> exact Nat.mod_lt _ (by decide)

theorem stackAddr_hashed (m : HbmMap) {h : Nat × Bool} (hc : h.1 < 2 ^ 5) (pa : Nat) :
    stackAddr m (hashed h pa) = ((stackAddr m pa).1, hashed h (stackAddr m pa).2) := by
  rw [← unstacked_stackAddr m pa, ← unstacked_hashed m hc, stackAddr_unstacked _ _ (stackAddr_fst_lt ..),
    stackAddr_unstacked _ _ (stackAddr_fst_lt ..)]

/-! ## Locations (R86) -/

theorem dramLoc_eq (m : HbmMap) (pa : Nat) : dramLoc m pa = ((stackAddr m pa).1, hashed (hbmHash m pa) (stackAddr m pa).2) := by
  have h9 (a : Nat) : a % 2 ^ 14 / 2 ^ 9 = a / 2 ^ 9 % 32 := by omega
  have h8 (a : Nat) : a % 2 ^ 14 / 2 ^ 8 % 2 = a / 2 ^ 8 % 2 := by omega
  have h0 (a : Nat) : a % 2 ^ 14 % 2 ^ 8 = a % 2 ^ 8 := by omega
  simp only [dramLoc, hashed, hashLow, h9, h8, h0, Nat.add_assoc]

theorem paOfLoc_eq {m : HbmMap} (hm : m.Masked) (st a : Nat) :
    paOfLoc m st a = hashed (hbmHash m (unstacked m st a)) (unstacked m st a) := by
  have hbase : unstacked m st a / 2 ^ 14 * 2 ^ 14 = if m.mode.contains (a / 2 ^ 29) then
      (a / 2 ^ 29 * 12 + st) * 2 ^ 29 + a / 2 ^ 14 * 2 ^ 14 % 2 ^ 29
      else (a / 2 ^ 14 * 2 ^ 14 / 2 ^ 20 * 12 + st) * 2 ^ 20 + a / 2 ^ 14 * 2 ^ 14 % 2 ^ 20 := by
    unfold unstacked
    split <;> omega
  have hmod : unstacked m st a % 2 ^ 14 = a % 2 ^ 14 := by unfold unstacked; split <;> omega
  have h9 : a % 2 ^ 14 / 2 ^ 9 = a / 2 ^ 9 % 32 := by omega
  have h8 : a % 2 ^ 14 / 2 ^ 8 % 2 = a / 2 ^ 8 % 2 := by omega
  have h0 : a % 2 ^ 14 % 2 ^ 8 = a % 2 ^ 8 := by omega
  have hhash : hbmHash m (unstacked m st a / 2 ^ 14 * 2 ^ 14) = hbmHash m (unstacked m st a) := hbmHash_of_block hm (by omega)
  simp only [paOfLoc, ← hbase, hhash, hashed, hashLow, hmod, h9, h8, h0, Nat.add_assoc]

/-- The address of the location of an address is the address. -/
theorem paOfLoc_dramLoc {m : HbmMap} (hm : m.Masked) (pa : Nat) : paOfLoc m (dramLoc m pa).1 (dramLoc m pa).2 = pa := by
  have hc : (hbmHash m pa).1 < 2 ^ 5 := fold5_lt _
  have hu : unstacked m (dramLoc m pa).1 (dramLoc m pa).2 = hashed (hbmHash m pa) pa := by
    rw [dramLoc_eq, unstacked_hashed m hc, unstacked_stackAddr]
  rw [paOfLoc_eq hm, hu, hbmHash_of_block hm (hashed_block hc pa), hashed_hashed hc]

/-- The location of the address of a location is the location. -/
theorem dramLoc_paOfLoc {m : HbmMap} (hm : m.Masked) {st : Nat} (a : Nat) (hst : st < 12) : dramLoc m (paOfLoc m st a) = (st, a) := by
  have hc : (hbmHash m (unstacked m st a)).1 < 2 ^ 5 := fold5_lt _
  rw [paOfLoc_eq hm, dramLoc_eq, hbmHash_of_block hm (hashed_block hc _), stackAddr_hashed m hc, stackAddr_unstacked m a hst,
    hashed_hashed hc]

/-- Below the end of the first tier a location has a stack of the twelve and an address below 64 GiB. -/
theorem dramLoc_lt (m : HbmMap) {pa : Nat} (h : pa < 0x00C000000000) : (dramLoc m pa).1 < 12 ∧ (dramLoc m pa).2 < 2 ^ 36 := by
  have hc : (hbmHash m pa).1 < 2 ^ 5 := fold5_lt _
  have ha : (stackAddr m pa).2 < 2 ^ 36 := by unfold stackAddr; dsimp only; split <;> omega
  have hb := hashed_block hc (stackAddr m pa).2
  rw [dramLoc_eq]
  exact ⟨stackAddr_fst_lt m pa, by dsimp only; omega⟩

theorem paOfLoc_lt {m : HbmMap} (hm : m.Masked) {st a : Nat} (hst : st < 12) (ha : a < 2 ^ 36) : paOfLoc m st a < 0x00C000000000 := by
  have hc : (hbmHash m (unstacked m st a)).1 < 2 ^ 5 := fold5_lt _
  have hu : unstacked m st a < 0x00C000000000 := by unfold unstacked; split <;> omega
  have hb := hashed_block hc (unstacked m st a)
  rw [paOfLoc_eq hm]
  omega

/-- Where an address of the first tier goes when a map replaces another: one to one, back when the maps change back. -/
theorem remapPa_remapPa {m k : HbmMap} (hm : m.Masked) (hk : k.Masked) (pa : Nat) : remapPa k m (remapPa m k pa) = pa := by
  by_cases h : pa < 0x00C000000000
  · obtain ⟨hst, ha⟩ := dramLoc_lt m h
    simp only [remapPa, if_pos h, if_pos (paOfLoc_lt hk hst ha), dramLoc_paOfLoc hk _ hst, paOfLoc_dramLoc hm]
  · simp only [remapPa, if_neg h]

end Sys2Proof.Machine
end

section
/-! SUPPORT. Cells in any order written to the canonical list: the last of an address stands. -/

namespace Sys2Proof.Machine

open Sys2Proof

/-- The byte of an address that a list of cells leaves, the last of its cells, or another where it has none. -/
def lastCell (cs : Cells) (a : Nat) (b : Byte) : Byte := ((cs.reverse.find? fun c => c.1 == a).map (·.2)).getD b

theorem lastCell_cons (c : Host.Cell) (cs : Cells) (a : Nat) (b : Byte) :
    lastCell (c :: cs) a b = lastCell cs a (if a = c.1 then c.2 else b) := by
  simp only [lastCell, List.reverse_cons, List.find?_append]
  cases List.find? (fun c => c.1 == a) cs.reverse with
  | some d => rfl
  | none =>
    by_cases h : c.1 = a
    · simp [h]
    · simp [h, Ne.symm h]

/-- Cells written read back, the last of an address (R1, R99). -/
theorem readCell_writeCells (cs : Cells) (a : Nat) : ∀ {m : Cells}, Memory.wf m = true →
    readCell (writeCells m cs) a = lastCell cs a (readCell m a) := by
  induction cs with
  | nil => exact fun _ => rfl
  | cons c cs ih =>
    intro m h
    rw [writeCells, ih (wf_writeCell h c.1 c.2), readCell_writeCell h, lastCell_cons]

theorem le_of_mem_cellsAbove {lo : Nat} {m : Cells} (h : cellsAbove lo m = true) {c : Host.Cell} (hc : c ∈ m) : lo ≤ c.1 := by
  induction m generalizing lo with
  | nil => cases hc
  | cons d l ih =>
    obtain ⟨hlo, _, hl⟩ := cellsAbove_cons.mp h
    rcases List.mem_cons.mp hc with rfl | hc
    · exact hlo
    · exact (Nat.le_succ_of_le hlo).trans (ih hl hc)

/-- A canonical list holds one cell of an address. -/
theorem lastCell_canonical {lo : Nat} {m : Cells} (h : cellsAbove lo m = true) (a : Nat) : lastCell m a 0 = readCell m a := by
  induction m generalizing lo with
  | nil => rfl
  | cons c l ih =>
    obtain ⟨_, _, hl⟩ := cellsAbove_cons.mp h
    rw [lastCell_cons, readCell_cons h]
    split
    · next ha =>
      subst ha
      have hnone : List.find? (fun d : Host.Cell => d.1 == c.1) l.reverse = none := by
        rw [List.find?_eq_none]
        intro d hd
        have := le_of_mem_cellsAbove hl (List.mem_reverse.mp hd)
        simp only [beq_iff_eq]
        omega
      simp [lastCell, hnone]
    · exact ih hl

/-- A canonical list with its addresses moved one to one, put in order: an address reads what stood where it came from. -/
theorem readCell_sortCells_map {m : Cells} (h : Memory.wf m = true) {f g : Nat → Nat} (hgf : ∀ a, g (f a) = a) (hfg : ∀ a, f (g a) = a)
    (a : Nat) : readCell (sortCells (m.map fun c => (f c.1, c.2))) a = readCell m (g a) := by
  have hkey : (fun c : Host.Cell => (f c.1, c.2).1 == a) = fun c => c.1 == g a := by
    funext c
    rw [Bool.eq_iff_iff, beq_iff_eq, beq_iff_eq]
    exact ⟨fun h => by rw [← h, hgf], fun h => by rw [h, hfg]⟩
  rw [sortCells, readCell_writeCells _ _ rfl, ← lastCell_canonical h]
  simp only [lastCell, ← List.map_reverse, List.find?_map, Function.comp_def, hkey, Option.map_map]
  rfl

end Sys2Proof.Machine
end

section
/-! PROOFS. Writes of the HBM map (R87). -/

namespace Sys2Proof.Machine

open Sys2Proof

theorem getD_setOrErase (m : FMap Nat Word) (n j : Nat) (v : Word) :
    FMap.getD (setOrErase m n v) j 0#64 = if j = n then v else FMap.getD m j 0#64 := by
  unfold setOrErase
  split
  · next hv =>
    by_cases hj : j = n
    · subst hj; simp [FMap.getD, hv]
    · simp [FMap.getD, get_erase_other m hj, hj]
  · exact getD_set ..

/-- The map after a write of the register that a number names (R87). -/
def mapWritten (m : HbmMap) (v : Word) : Option CReg → HbmMap
  | some (.hbmMode j) =>
    let rest := m.mode.filter fun k => k != j
    { m with mode := if v.getLsbD 0 then (j :: rest).mergeSort (fun a b => decide (a ≤ b)) else rest }
  | some (.hbmMc n) => { m with mc := setOrErase m.mc n (v &&& hbmMaskBits) }
  | some (.hbmMp n) => { m with mp := setOrErase m.mp n (v &&& hbmMaskBits) }
  | _ => m

/-- The rows of the HBM map in the table of numbers (R127). -/
theorem cregOf_hbm (n : BitVec 16) :
    (0x0800 ≤ n.toNat ∧ n.toNat ≤ 0x087F → cregOf n = some (.hbmMode (n.toNat - 0x0800))) ∧
    (0x1000 ≤ n.toNat ∧ n.toNat ≤ 0x15FF → cregOf n = some (.hbmMc (n.toNat - 0x1000))) ∧
    (0x2000 ≤ n.toNat ∧ n.toNat ≤ 0x25FF → cregOf n = some (.hbmMp (n.toNat - 0x2000))) := by
  have hrows (h : 0x0800 ≤ n.toNat) : cregOf n =
      if n.toNat < 0x0880 then some (.hbmMode (n.toNat - 0x0800))
      else if 0x1000 ≤ n.toNat ∧ n.toNat < 0x1600 then some (.hbmMc (n.toNat - 0x1000))
      else if 0x2000 ≤ n.toNat ∧ n.toNat < 0x2600 then some (.hbmMp (n.toNat - 0x2000)) else none := by
    unfold cregOf
    dsimp only
    split
    case h_21 => simp only [h, true_and, show ¬ n.toNat < 0x0110 by omega, show ¬ n.toNat < 0x0220 by omega,
      show ¬ n.toNat < 0x0330 by omega, and_false, if_false]
    all_goals omega
  refine ⟨fun h => ?_, fun h => ?_, fun h => ?_⟩
  · rw [hrows h.1, if_pos (by omega)]
  · rw [hrows (by omega), if_neg (by omega), if_pos (by omega)]
  · rw [hrows (by omega), if_neg (by omega), if_neg (by omega), if_pos (by omega)]

theorem exec_hbmMapWrite (reg : BitVec 16) (v : Word) (s : State) :
    exec (.hbmMapWrite reg v) s = .next (setHbmMap s (mapWritten (hbmOf s) v (cregOf reg))) := by
  have hsame : setHbmMap s (hbmOf s) = s := if_pos rfl
  simp only [exec, execHbmMapWrite]
  congr 1
  cases cregOf reg with
  | none => exact hsame.symm
  | some r =>
    cases r
    case hbmMode | hbmMc | hbmMp => rfl
    all_goals exact hsame.symm

theorem masked_mapWritten {m : HbmMap} (hm : m.Masked) (v : Word) (r : Option CReg) : (mapWritten m v r).Masked := by
  have hset {k : FMap Nat Word} (hk : ∀ n, FMap.getD k n 0#64 &&& hbmMaskBits = FMap.getD k n 0#64) (n j : Nat) :
      FMap.getD (setOrErase k n (v &&& hbmMaskBits)) j 0#64 &&& hbmMaskBits = FMap.getD (setOrErase k n (v &&& hbmMaskBits)) j 0#64 := by
    rw [getD_setOrErase]
    split
    · rw [BitVec.and_assoc, BitVec.and_self]
    · exact hk j
  unfold mapWritten
  split
  · exact ⟨hm.mc, hm.mp⟩
  · exact ⟨hset hm.mc _, hm.mp⟩
  · exact ⟨hm.mc, hset hm.mp _⟩
  · exact hm

theorem hbmOf_setHbmMap (s : State) (m : HbmMap) : hbmOf (setHbmMap s m) = m := by
  unfold setHbmMap
  dsimp only
  split
  · next h => exact h
  · rfl

theorem setHbmMap_registers (s : State) (m : HbmMap) :
    (setHbmMap s m).hbmMode = m.mode ∧ (setHbmMap s m).hbmMc = m.mc ∧ (setHbmMap s m).hbmMp = m.mp :=
  have h := hbmOf_setHbmMap s m
  ⟨congrArg HbmMap.mode h, congrArg HbmMap.mc h, congrArg HbmMap.mp h⟩

/-- When the map is replaced each byte stays at its DRAM location (R87). -/
theorem readCell_setHbmMap {s : State} {m : HbmMap} (hwf : Memory.wf s.mem = true) (hs : (hbmOf s).Masked) (hm : m.Masked) (pa : Nat) :
    readCell (setHbmMap s m).mem pa = readCell s.mem (remapPa m (hbmOf s) pa) := by
  unfold setHbmMap
  dsimp only
  split
  · next h =>
    have hpa : remapPa m (hbmOf s) pa = pa := by
      rw [← h, remapPa]
      split
      · exact paOfLoc_dramLoc hs pa
      · rfl
    rw [hpa]
  · exact readCell_sortCells_map hwf (remapPa_remapPa hs hm) (remapPa_remapPa hm hs) pa

theorem contains_modeWritten (l : List Nat) (j k : Nat) (on : Bool) :
    (if on then (j :: l.filter fun k => k != j).mergeSort (fun a b => decide (a ≤ b)) else l.filter fun k => k != j).contains k =
      if k = j then on else l.contains k := by
  rw [Bool.eq_iff_iff]
  cases on <;> by_cases h : k = j <;> simp [h]

end Sys2Proof.Machine

namespace Sys2Proof

open Machine

/-- Settles O16: the written map's registers are read off `mapWritten`; memory moves with the bijection of the two maps. -/
theorem hbmMapWriteKeepsLocations : Obligations.HbmMapWriteKeepsLocations := by
  intro reg v s hwf hmc hmp
  have hs : (hbmOf s).Masked := ⟨hmc, hmp⟩
  have hmem := readCell_setHbmMap hwf hs (masked_mapWritten hs v (cregOf reg))
  obtain ⟨hmode, hrowMc, hrowMp⟩ := cregOf_hbm reg
  obtain ⟨hmodes, hmcs, hmps⟩ := setHbmMap_registers s (mapWritten (hbmOf s) v (cregOf reg))
  refine ⟨_, exec_hbmMapWrite reg v s, fun hr => ?_, fun hr => ?_, fun hr => ?_, fun pa hpa => ?_, fun pa hpa => ?_⟩
  · rw [hmode hr] at hmodes hmcs hmps ⊢
    exact ⟨fun j => by rw [hmodes]; exact contains_modeWritten .., hmcs, hmps⟩
  · rw [hrowMc hr] at hmodes hmcs hmps ⊢
    exact ⟨hmodes, hmps, fun n => by rw [hmcs]; exact getD_setOrErase ..⟩
  · rw [hrowMp hr] at hmodes hmcs hmps ⊢
    exact ⟨hmodes, hmcs, fun n => by rw [hmps]; exact getD_setOrErase ..⟩
  · rw [hmem, remapPa, if_neg (by omega)]
  · rw [hmem, hbmOf_setHbmMap, remapPa, if_pos hpa]

end Sys2Proof
end

section
/-! SUPPORT. The L2 in the steps of memory (R80-R84, R311, R327): its dirty sectors, what an update leaves in it, fills and evictions. -/

namespace Sys2Proof.Machine

open Sys2Proof

/-! ## Dirty sectors -/

/-- What is left of a run without a range. -/
theorem covered_cut (r : DirtyRun) (lo hi sec : Nat) :
    isDirty ([⟨r.lo, min r.hi lo, r.writer⟩, ⟨max r.lo hi, r.hi, r.writer⟩].filter fun r => decide (r.lo < r.hi)) sec = true ↔
      (r.lo ≤ sec ∧ sec < r.hi) ∧ ¬ (lo ≤ sec ∧ sec < hi) := by
  simp only [isDirty, List.any_filter, List.any_cons, List.any_nil, Bool.or_false, Bool.or_eq_true, Bool.and_eq_true, decide_eq_true_eq]
  omega

theorem isDirty_cleanSectors (rs : List DirtyRun) (lo hi sec : Nat) :
    isDirty (cleanSectors rs lo hi) sec = true ↔ isDirty rs sec = true ∧ ¬ (lo ≤ sec ∧ sec < hi) := by
  induction rs with
  | nil => simp [isDirty, cleanSectors]
  | cons r rs ih =>
    have hcut := covered_cut r lo hi sec
    simp only [isDirty, cleanSectors, List.flatMap_cons, List.filter_append, List.any_append, List.any_cons, Bool.or_eq_true,
      Bool.and_eq_true, decide_eq_true_eq] at ih hcut ⊢
    rw [hcut, ih]
    tauto

theorem isDirty_markDirty (rs : List DirtyRun) (lo hi : Nat) (w : Option Writer) (sec : Nat) :
    isDirty (markDirty rs lo hi w) sec = true ↔ (lo ≤ sec ∧ sec < hi) ∨ isDirty rs sec = true := by
  have hcons : isDirty (markDirty rs lo hi w) sec = true ↔ (lo ≤ sec ∧ sec < hi) ∨ isDirty (cleanSectors rs lo hi) sec = true := by
    simp [isDirty, markDirty, cleanSectors]
  rw [hcons, isDirty_cleanSectors]
  tauto

/-- Sectors marked one after another. -/
theorem isDirty_foldl_markDirty (w : Option Writer) (secs : List Nat) (sec : Nat) : ∀ rs : List DirtyRun,
    isDirty (secs.foldl (fun d k => markDirty d k (k + 1) w) rs) sec = true ↔ sec ∈ secs ∨ isDirty rs sec = true := by
  induction secs with
  | nil => simp
  | cons k secs ih =>
    intro rs
    have hk : k ≤ sec ∧ sec < k + 1 ↔ sec = k := by omega
    rw [List.foldl_cons, ih, isDirty_markDirty, List.mem_cons, hk]
    tauto

/-! ## What an update leaves in the L2 (R311) -/

theorem foldl_setL2Dom (dom : Nat) (ls : List Nat) (s : State) :
    ls.foldl (fun s l => setL2Dom s dom l) s = { s with l2Dom := (ls.foldl (fun s l => setL2Dom s dom l) s).l2Dom } :=
  List.foldlRecOn ls _ (motive := fun t : State => t = { s with l2Dom := t.l2Dom }) rfl fun t ht l _ => by rw [ht]; rfl

/-- The sectors of an update that the L2 may hold. -/
def l2Sectors (s : State) (u : Update) : List Nat := ((u.cells.map fun c => sectorOf c.1).dedup).filter fun sec => cacheable s (sec / 8)

theorem mem_l2Sectors {s : State} {u : Update} {sec : Nat} :
    sec ∈ l2Sectors s u ↔ (∃ c ∈ u.cells, sectorOf c.1 = sec) ∧ cacheable s (sec / 8) = true := by
  simp [l2Sectors]

theorem sectorOf_div (a : Nat) : sectorOf a / 8 = lineOf a := by
  simp only [sectorOf, lineOf]
  omega

/-- An update of lines that no cache may hold leaves nothing in the L2. -/
theorem l2Sectors_uncacheable {s : State} {u : Update} (h : ∀ c ∈ u.cells, cacheable s (lineOf c.1) = false) : l2Sectors s u = [] := by
  rw [List.eq_nil_iff_forall_not_mem]
  intro sec hsec
  obtain ⟨⟨c, hc, rfl⟩, hcache⟩ := mem_l2Sectors.mp hsec
  rw [sectorOf_div, h c hc] at hcache
  cases hcache

/-- An update leaves its sectors dirty in the L2, a press write nothing; nothing else changes but the domains of lines. -/
theorem l2Written_eq (s : State) (u : Update) : l2Written s u = { s with
    l2Dom := (l2Written s u).l2Dom
    l2Dirty := if u.past then s.l2Dirty else (l2Sectors s u).foldl (fun d sec => markDirty d sec (sec + 1) u.writer) s.l2Dirty } := by
  unfold l2Written
  split
  · rfl
  · dsimp only
    exact foldl_setL2Dom ..

/-- An update with no task, whose sectors belong to its domain, writes its cells, ends the poison it cures, and enters the L2 (R99). -/
theorem landUpdate_eq {s : State} {u : Update} (ht : s.tasks = []) (hs : ∀ c ∈ u.cells, sealFits s u.dom (sectorOf c.1) = true) :
    landUpdate s u =
      l2Written { s with mem := writeCells s.mem u.cells, poison := s.poison.filter fun sec => !u.cures.contains sec } u := by
  have hcap : (u.cells.map (·.1)).foldl (fun s a => captureFor s u.task a) s = s :=
    foldl_eq_self fun a _ => captureFor_of_no_tasks ht u.task a
  have hseal : ((u.cells.map fun c => sectorOf c.1).dedup).foldl (fun s sec => sealSector s u.dom sec) s = s :=
    foldl_eq_self fun sec hsec => by
      obtain ⟨c, hc, rfl⟩ : ∃ c ∈ u.cells, sectorOf c.1 = sec := by simpa using hsec
      exact sealSector_of_fits (hs c hc)
  have hrel (t : State) (f : Nat → Bool) (h : t.tasks = []) : releaseWords t f = t := by simp [releaseWords, h]
  simp only [landUpdate, hcap, hseal]
  exact hrel _ _ (by rw [l2Written_eq]; exact ht)

/-! ## Counts of bursts and poison -/

/-- Nothing has changed but counters of panels and cores. -/
structure BurstsOnly (s t : State) : Prop where
  rest : t = { s with cores := t.cores, panels := t.panels }
  l1 : ∀ n, (t.core? n).l1 = (s.core? n).l1

theorem BurstsOnly.refl (s : State) : BurstsOnly s s := ⟨rfl, fun _ => rfl⟩

theorem BurstsOnly.trans {s t u : State} (h : BurstsOnly s t) (k : BurstsOnly t u) : BurstsOnly s u :=
  ⟨by rw [k.rest, h.rest], fun n => (k.l1 n).trans (h.l1 n)⟩

theorem burstsOnly_countBurst (s : State) (w : Option Writer) (ev sec : Nat) : BurstsOnly s (countBurst s w ev sec) := by
  unfold countBurst
  split
  split
  · next c =>
    refine ⟨rfl, fun n => ?_⟩
    by_cases h : n = c
    · subst h; rw [core_setCore]
    · rw [core_setCore_other _ _ h]
  · exact ⟨rfl, fun _ => rfl⟩
  · exact .refl s

/-- A poisoned line that leaves a cache is counted in its contexts alone (R327). -/
theorem countPoison_eq (s : State) (line : Nat) : countPoison s line = { s with contexts := (countPoison s line).contexts } := by
  unfold countPoison
  split
  · exact List.foldlRecOn _ _ (motive := fun t : State => t = { s with contexts := t.contexts }) rfl fun t ht c _ => by rw [ht]; rfl
  · rfl

/-! ## Evictions (R84, R311) -/

/-- A line without a sideband leaves the L2 with its dirty sectors written back. -/
theorem evictL2_eq {s : State} {line : Nat} (h : FMap.get? s.sides line = none) : ∃ t, BurstsOnly (countPoison s line) t ∧
    evictL2 s line = { t with
      l2 := s.l2.filter fun sec => sec / 8 != line, l2Dom := FMap.erase s.l2Dom line
      l2Dirty := cleanSectors s.l2Dirty (8 * line) (8 * line + 8) } := by
  have hside : evictSideWith writeBehind s line = s := by simp only [evictSideWith, h]
  let u := countPoison s line
  let secs := (dirtyIn u.l2Dirty (8 * line) (8 * line + 8)).filter fun c => paKind u (32 * c.1) == .first
  have hburst : BurstsOnly u (secs.foldl (fun s c => countBurst s c.2 48 c.1) u) :=
    List.foldlRecOn secs _ (motive := BurstsOnly u) (.refl u) fun t ht c _ => ht.trans (burstsOnly_countBurst ..)
  refine ⟨_, hburst, ?_⟩
  have hl2 : (secs.foldl (fun s c => countBurst s c.2 48 c.1) u).l2 = s.l2 ∧
      (secs.foldl (fun s c => countBurst s c.2 48 c.1) u).l2Dom = s.l2Dom ∧ u.l2Dirty = s.l2Dirty := by
    rw [hburst.rest, show u = { s with contexts := u.contexts } from countPoison_eq s line]
    exact ⟨rfl, rfl, rfl⟩
  obtain ⟨h1, h2, h3⟩ := hl2
  simp only [evictL2, evictWith, hside, cleanLine, cleanRange, l2Drop]
  rw [← h1, ← h2, ← h3]

/-! ## Fills (R80, R311) -/

/-- Nothing has changed but the sectors that the L2 holds, the domains of lines, and counters of panels and cores. -/
structure SectorsOnly (s t : State) : Prop where
  rest : t = { s with l2 := t.l2, l2Dom := t.l2Dom, cores := t.cores, panels := t.panels }
  l1 : ∀ n, (t.core? n).l1 = (s.core? n).l1

theorem SectorsOnly.refl (s : State) : SectorsOnly s s := ⟨rfl, fun _ => rfl⟩

theorem SectorsOnly.trans {s t u : State} (h : SectorsOnly s t) (k : SectorsOnly t u) : SectorsOnly s u :=
  ⟨by rw [k.rest, h.rest], fun n => (k.l1 n).trans (h.l1 n)⟩

theorem BurstsOnly.sectors {s t : State} (h : BurstsOnly s t) : SectorsOnly s t := ⟨by rw [h.rest], h.l1⟩

/-- A line of a table-free address that may be filled under a domain: the L2 holds nothing of it under another. -/
structure FillsUnder (s : State) (c d line : Nat) : Prop where
  cacheable : cacheable s line = true
  uncovered : frtFind s (line * 256) = none
  dom : ∀ i, i < 8 → fillDom s c (8 * line + i) = d
  same : otherDomain s d line = false

/-- The domain of a line is the one set last. -/
theorem getD_setL2Dom (s : State) (dom line : Nat) : FMap.getD (setL2Dom s dom line).l2Dom line 0 = dom := by
  unfold setL2Dom
  dsimp only
  split
  · next h => simp [FMap.getD, h]
  · exact getD_set_same ..

/-- A sector that the L2 lacks is filled. -/
theorem fillSector_fills {s : State} {w : Option Writer} {dom sec : Nat} (hc : cacheable s (sec / 8) = true) (hl : s.l2.contains sec = false) :
    SectorsOnly s (fillSector w dom s sec) ∧ (fillSector w dom s sec).l2 = sec :: s.l2 ∧
      FMap.getD (fillSector w dom s sec).l2Dom (sec / 8) 0 = dom := by
  let u := setL2Dom { s with l2 := sec :: s.l2 } dom (sec / 8)
  have hu : SectorsOnly s u := ⟨rfl, fun _ => rfl⟩
  have hdom : FMap.getD u.l2Dom (sec / 8) 0 = dom := getD_setL2Dom ..
  have hfill : fillSector w dom s sec = if paKind s (32 * sec) = .first then countBurst u w 47 sec else u := by
    rw [fillSector, if_pos ⟨hc, hl⟩]; rfl
  rw [hfill]
  split
  · have hb := burstsOnly_countBurst u w 47 sec
    refine ⟨hu.trans hb.sectors, ?_, ?_⟩
    · rw [hb.rest]; rfl
    · rw [hb.rest]; exact hdom
  · exact ⟨hu, rfl, hdom⟩

/-- A sector asked of a line that fills under a domain is in the L2 after it, and the line still fills under that domain (R80, R311). -/
theorem l2Sector_fills {s : State} {w : Option Writer} {c d line sec : Nat} (h : FillsUnder s c d line) (hs : sec / 8 = line) :
    SectorsOnly s (l2Sector w d s sec) ∧ FillsUnder (l2Sector w d s sec) c d line ∧
      ∀ k, k ∈ (l2Sector w d s sec).l2 ↔ k ∈ s.l2 ∨ k = sec := by
  subst hs
  have hmeet : l2Meet s d (sec / 8) = s := by rw [l2Meet, h.same]; rfl
  have hline : fillLine w d s (sec / 8) = s := by simp [fillLine, h.uncovered]
  have hsec : l2Sector w d s sec = if s.l2.contains sec then s else fillSector w d s sec := by
    simp only [l2Sector, hmeet, hline]
  rw [hsec]
  split
  · next hin => exact ⟨.refl s, h, fun k => ⟨.inl, fun hk => hk.elim id fun hk => hk ▸ List.contains_iff_mem.mp hin⟩⟩
  · next hin =>
    obtain ⟨hrest, hl2, hdom⟩ := fillSector_fills (w := w) (dom := d) h.cacheable (by simpa using hin)
    refine ⟨hrest, ⟨?_, ?_, fun i hi => ?_, ?_⟩, fun k => by rw [hl2, List.mem_cons, or_comm]⟩
    · rw [hrest.rest]; exact h.cacheable
    · rw [hrest.rest]; exact h.uncovered
    · rw [hrest.rest]; exact h.dom i hi
    · simp [otherDomain, hdom]

/-- Sectors of a line asked one after another. -/
theorem askSectors_fills {w : Writer} {c d line : Nat} (secs : List Nat) : ∀ {s : State}, FillsUnder s c d line →
    (∀ sec ∈ secs, sec / 8 = line) →
    let t := secs.foldl (fun s sec => l2Sector (some w) (fillDom s c sec) s sec) s
    SectorsOnly s t ∧ ∀ k, k ∈ t.l2 ↔ k ∈ s.l2 ∨ k ∈ secs := by
  induction secs with
  | nil => exact fun h _ => ⟨.refl _, by simp⟩
  | cons sec secs ih =>
    intro s h hsecs t
    have hs := hsecs sec (List.mem_cons_self ..)
    have hdom : fillDom s c sec = d := by
      have := h.dom (sec % 8) (Nat.mod_lt _ (by decide))
      rwa [← hs, Nat.div_add_mod] at this
    obtain ⟨h1, hnext, hmem1⟩ := l2Sector_fills (w := some w) h hs
    obtain ⟨h2, hmem2⟩ := ih hnext fun k hk => hsecs k (List.mem_cons_of_mem _ hk)
    have ht : t = secs.foldl (fun s sec => l2Sector (some w) (fillDom s c sec) s sec) (l2Sector (some w) d s sec) := by
      rw [← hdom]; rfl
    rw [ht]
    exact ⟨h1.trans h2, fun k => by rw [hmem2, hmem1, List.mem_cons, or_assoc]⟩

/-- A line asked of the L2 under a domain is in it whole; memory, its queues and the L1s stay (R80, R311). -/
theorem askLine_fills {s : State} {w : Writer} {c d line : Nat} (h : FillsUnder s c d line) :
    SectorsOnly s (askLine s w c line) ∧ ∀ sec, sec ∈ (askLine s w c line).l2 ↔ sec ∈ s.l2 ∨ sec / 8 = line := by
  have hline (sec : Nat) : sec ∈ (List.range 8).map (8 * line + ·) ↔ sec / 8 = line := by
    simp only [List.mem_map, List.mem_range]
    exact ⟨fun ⟨i, hi, hs⟩ => by omega, fun hs => ⟨sec % 8, by omega, by omega⟩⟩
  obtain ⟨hrest, hmem⟩ := askSectors_fills (w := w) _ h fun sec hs => (hline sec).mp hs
  exact ⟨hrest, fun sec => by rw [← hline]; exact hmem sec⟩

end Sys2Proof.Machine
end

section
/-! SUPPORT. The head of a home queue performed (R99), and a line drained (R99, R327). -/

namespace Sys2Proof.Machine

open Sys2Proof

/-! ## Apply -/

/-- The head of a queue for which the L2 gives up no line is performed on the home copies alone, those behind it left. -/
theorem applyHead_lands {s : State} {h : Nat} {r : HomeReq} {q : List HomeReq} (hq : FMap.getD s.homeQ h [] = r :: q)
    (hg : ∀ l ∈ r.names.2, givesUp s r l = false) :
    ∃ m, FMap.getD m h [] = q ∧ applyHead s h = landReq { s with homeQ := m } r := by
  have hland (m : FMap Nat (List HomeReq)) : perform { s with homeQ := m } r = landReq { s with homeQ := m } r :=
    performAt_eq_landReq (s := { s with homeQ := m }) hg 16
  cases q with
  | nil => exact ⟨FMap.erase s.homeQ h, by simp [FMap.getD], by rw [← hland]; simp only [applyHead, hq]⟩
  | cons r' q => exact ⟨FMap.set s.homeQ h (r' :: q), getD_set_same .., by rw [← hland]; simp only [applyHead, hq]⟩

/-- A read takes the bytes that stand at the home, whatever waits in its queue. -/
theorem homeBytes_homeQ (s : State) (m : FMap Nat (List HomeReq)) (dom n : Nat) :
    ∀ pa, homeBytes { s with homeQ := m } dom pa n = homeBytes s dom pa n := by
  induction n with
  | zero => exact fun _ => rfl
  | succ n ih => exact fun pa => congrArg₂ List.cons rfl (ih _)

/-- The answer of a home is noted for the thread that still waits for it. -/
theorem noteReply_waiting {s : State} {a : HomeAsk} {q : Asked} (h : FMap.get? s.asked a.party = some q) (hid : q.id = a.id)
    (r : List Byte × Option Nat) : noteReply s a r = { s with asked := FMap.set s.asked a.party { q with reply := some r } } := by
  simp [noteReply, h, hid]

/-- The update that an `amo` makes at its home (R176). -/
def amoUpdate (s : State) (a : HomeAsk) (kind v want : Nat) : Update :=
  ⟨cellsAt a.pa (toBytes a.n (amoResult kind a.n (ofBytes (homeBytes s a.dom a.pa a.n)) v want)), a.dom, a.task, false, [], writerOf s a.party⟩

/-- A read that meets no poison is answered; an answer enters an L1 alone. -/
theorem answerAsk_read {s : State} {a : HomeAsk} (ha : a.amo = none) (hb : badSector s a.pa a.n = none) :
    answerAsk s a = noteReply (answerL1 s a (homeBytes s a.dom a.pa a.n)) a (homeBytes s a.dom a.pa a.n, none) := by
  simp only [answerAsk, ha, hb, noteReply]
  rfl

theorem answerAsk_amo {s : State} {a : HomeAsk} {kind v want : Nat} (ha : a.amo = some (kind, v, want)) (hb : badSector s a.pa a.n = none) :
    answerAsk s a = noteReply (landUpdate s (amoUpdate s a kind v want)) a (homeBytes s a.dom a.pa a.n, none) := by
  simp only [answerAsk, ha, hb, noteReply, amoUpdate]
  rfl

theorem answerL1_eq (s : State) (a : HomeAsk) (bs : List Byte) : answerL1 s a bs = { s with cores := (answerL1 s a bs).cores } := by
  unfold answerL1
  split
  · split <;> rfl
  · rfl

/-- A read or `amo` that meets no poison is answered for its thread; an `amo` writes its new value, and nothing else of memory changes (R99). -/
theorem answerAsk_answers {s : State} {a : HomeAsk} {r : Asked} (ht : s.tasks = []) (hr : FMap.get? s.asked a.party = some r)
    (hid : r.id = a.id) (hb : badSector s a.pa a.n = none) (hs : ∀ i, i < a.n → sealFits s a.dom (sectorOf (a.pa + i)) = true) :
    ∃ v : State, answerAsk s a = { v with asked := FMap.set v.asked a.party { r with reply := some (homeBytes s a.dom a.pa a.n, none) } } ∧
      v.homeQ = s.homeQ ∧ (a.amo = none → v.mem = s.mem) ∧
      (∀ kind v' want, a.amo = some (kind, v', want) → v.mem = writeCells s.mem (amoUpdate s a kind v' want).cells) ∧
      v.contexts = s.contexts ∧ v.threads = s.threads := by
  cases ha : a.amo with
  | none =>
    have hl1 := answerL1_eq s a (homeBytes s a.dom a.pa a.n)
    refine ⟨_, (answerAsk_read ha hb).trans (noteReply_waiting (by rw [hl1]; exact hr) hid _), ?_, fun _ => ?_, nofun, ?_, ?_⟩ <;> rw [hl1]
  | some k =>
    obtain ⟨kind, v, want⟩ := k
    have hfits : ∀ c ∈ (amoUpdate s a kind v want).cells, sealFits s (amoUpdate s a kind v want).dom (sectorOf c.1) = true := by
      intro c hc
      obtain ⟨i, hi, hci⟩ := addr_of_mem_cellsAt hc
      exact hci ▸ hs i (by simpa using hi)
    have hland := landUpdate_eq ht hfits
    rw [l2Written_eq] at hland
    refine ⟨_, (answerAsk_amo ha hb).trans (noteReply_waiting (by rw [hland]; exact hr) hid _), ?_, nofun, fun _ _ _ h => ?_, ?_, ?_⟩
    case refine_2 => cases h; rw [hland]
    all_goals rw [hland]

/-! ## Drain -/

/-- The panel with a tile's dirty bytes of a line kept as clean ones, and ev26 counted. -/
def linesCleaned (x : Panel) (n line : Nat) : Panel :=
  (x.setTile n { x.tile n with
    pool := (x.tile n).pool.filter fun c => lineOf c.1 != line
    lines := (dirtyOf (x.tile n) line).foldl (fun m c => FMap.set m c.1 c.2.1) (x.tile n).lines }).count 26 (dirtyOf (x.tile n) line).length

theorem linesCleaned_clean (x : Panel) (n line : Nat) : dirtyOf ((linesCleaned x n line).tile n) line = [] := by
  have htile : ((linesCleaned x n line).tile n).pool = (x.tile n).pool.filter fun c => lineOf c.1 != line :=
    congrArg Tile.pool (tile_setTile_same x n _)
  simp [dirtyOf, htile, List.filter_filter]

/-- Every key of a list set in a map is in it. -/
theorem isSome_foldl_set (l : Pool) (k : Nat) : ∀ m : Cells, ((∃ c ∈ l, c.1 = k) ∨ (FMap.get? m k).isSome = true) →
    (FMap.get? (l.foldl (fun m c => FMap.set m c.1 c.2.1) m) k).isSome = true := by
  induction l with
  | nil => simp
  | cons c l ih =>
    intro m h
    refine ih _ ?_
    by_cases hk : k = c.1
    · exact .inr (by simp [hk])
    · rw [get_set_other _ _ hk]
      rcases h with ⟨d, hd, hdk⟩ | h
      · rcases List.mem_cons.mp hd with rfl | hd
        · exact absurd hdk.symm hk
        · exact .inl ⟨d, hd, hdk⟩
      · exact .inr h

theorem linesCleaned_keeps {x : Panel} {n line : Nat} {c : Nat × Byte × Nat} (hc : c ∈ dirtyOf (x.tile n) line) :
    (FMap.get? ((linesCleaned x n line).tile n).lines c.1).isSome = true := by
  have htile : ((linesCleaned x n line).tile n).lines = (dirtyOf (x.tile n) line).foldl (fun m c => FMap.set m c.1 c.2.1) (x.tile n).lines :=
    congrArg Tile.lines (tile_setTile_same x n _)
  rw [htile]
  exact isSome_foldl_set _ _ _ (.inl ⟨c, hc, rfl⟩)

/-- The updates of a line, one of each domain, enter its home queue in turn. -/
theorem foldl_pushDrained (uid entry line : Nat) (cells : Pool) (ds : List Nat) : ∀ s : State,
    let t := ds.foldl (fun s d => pushUpdate s (line * 256) (drained uid (taskId s entry) (bytesUnder cells d) d)) s
    t = { s with homeQ := t.homeQ } ∧ FMap.getD t.homeQ (sliceOf (line * 256)) [] = FMap.getD s.homeQ (sliceOf (line * 256)) [] ++
      ds.map fun d => .update (drained uid (taskId s entry) (bytesUnder cells d) d) := by
  induction ds with
  | nil => exact fun s => ⟨rfl, by simp⟩
  | cons d ds ih =>
    intro s t
    obtain ⟨hrest, hq⟩ := ih (pushUpdate s (line * 256) (drained uid (taskId s entry) (bytesUnder cells d) d))
    refine ⟨hrest, hq.trans ?_⟩
    simp only [pushUpdate, pushReq, getD_set_same, List.map_cons, List.append_assoc]
    rfl

/-- A drain of a line with dirty bytes: the bytes stay clean, the updates of each domain enter the line's queue (R80, R99). -/
theorem drainLine_drains {s : State} {p n line : Nat} {x : Panel} (hx : s.panel? p = some x) (hne : dirtyOf (x.tile n) line ≠ []) :
    (drainLine s p n line).mem = s.mem ∧ (drainLine s p n line).panel? p = some (linesCleaned x n line) ∧
    FMap.getD (drainLine s p n line).homeQ (sliceOf (line * 256)) [] = FMap.getD s.homeQ (sliceOf (line * 256)) [] ++
      ((dirtyOf (x.tile n) line).map (·.2.2)).dedup.map fun d =>
        .update (drained x.uid (taskId s x.entry) (bytesUnder (dirtyOf (x.tile n) line) d) d) := by
  let u := countPoison (s.setPanel p (linesCleaned x n line)) line
  have hu : u = { s.setPanel p (linesCleaned x n line) with contexts := u.contexts } := countPoison_eq ..
  have hdrain : drainLine s p n line = ((dirtyOf (x.tile n) line).map (·.2.2)).dedup.foldl
      (fun s d => pushUpdate s (line * 256) (drained x.uid (taskId s x.entry) (bytesUnder (dirtyOf (x.tile n) line) d) d)) u := by
    simp only [drainLine, hx, List.isEmpty_eq_false_iff.mpr hne]
    rfl
  obtain ⟨hrest, hq⟩ := foldl_pushDrained x.uid x.entry line (dirtyOf (x.tile n) line) ((dirtyOf (x.tile n) line).map (·.2.2)).dedup u
  rw [← hdrain] at hrest hq
  have htask : taskId u x.entry = taskId s x.entry := by rw [hu]; rfl
  refine ⟨?_, ?_, ?_⟩
  · rw [hrest, hu]; rfl
  · rw [hrest, hu]; exact panel_setPanel ..
  · rw [hq, htask, hu]; rfl

end Sys2Proof.Machine
end

section
/-! PROOFS. The steps of memory (R80, R84, R92, R99, R311, R327). -/

namespace Sys2Proof.Machine

open Sys2Proof

theorem exec_drain (p n line : Nat) (s : State) : exec (.drain p n line) s = .next (drainLine s p n line) := rfl
theorem exec_apply (h : Nat) (s : State) : exec (.apply h) s = .next (applyHead s h) := rfl
theorem exec_fill (u : CacheUnit) (line : Nat) (s : State) : exec (.fill u line) s = .next (fillUnit s u line) := rfl

/-- A drain of a line with nothing dirty changes nothing. -/
theorem drainLine_clean {s : State} {p n line : Nat} {x : Panel} (hx : s.panel? p = some x) (h : dirtyOf (x.tile n) line = []) :
    drainLine s p n line = s := by
  simp only [drainLine, hx, h, List.isEmpty_nil, if_true]

theorem fillUnit_uncacheable {s : State} {line : Nat} (h : cacheable s line = false) (u : CacheUnit) : fillUnit s u line = s := by
  rw [fillUnit.eq_def, if_pos h]

theorem fillUnit_core {s : State} {n c line : Nat} (hc : cacheable s line = true) (hl : (s.core? n).lastCtx = some c) :
    fillUnit s (.core n) line = (askLine s (.core n) c line).setCore n { (askLine s (.core n) c line).core? n with
      l1 := fillCells ((askLine s (.core n) c line).core? n).l1 (lineCells s c line) } := by
  rw [fillUnit, if_neg (by simp [hc])]
  simp only [hl]

theorem fillUnit_l2 (s : State) (line : Nat) : fillUnit s .l2 line = s := by
  unfold fillUnit
  split <;> rfl

/-- An applied update: what it leaves of memory, of the poison and of the L2, the requests behind it left (R99, R311, R327). -/
theorem apply_update {h : Nat} {s : State} {u : Update} {q : List HomeReq} (hq : FMap.getD s.homeQ h [] = .update u :: q)
    (ht : s.tasks = []) (hc : ∀ c ∈ u.cells, sealFits s u.dom (sectorOf c.1) = true ∧ givesUp s (.update u) (lineOf c.1) = false) :
    ∃ m d, FMap.getD m h [] = q ∧ exec (.apply h) s = .next { s with
      homeQ := m, mem := writeCells s.mem u.cells, poison := s.poison.filter fun sec => !u.cures.contains sec, l2Dom := d
      l2Dirty := if u.past then s.l2Dirty else (l2Sectors s u).foldl (fun d sec => markDirty d sec (sec + 1) u.writer) s.l2Dirty } := by
  have hgives : ∀ l ∈ (HomeReq.update u).names.2, givesUp s (.update u) l = false := by
    intro l hl
    obtain ⟨c, hcu, rfl⟩ : ∃ c ∈ u.cells, lineOf c.1 = l := by simpa [HomeReq.names, cellLines] using hl
    exact (hc c hcu).2
  obtain ⟨m, hm, happly⟩ := applyHead_lands hq hgives
  have hland := landUpdate_eq (s := { s with homeQ := m }) (u := u) ht fun c hcu => (hc c hcu).1
  rw [l2Written_eq] at hland
  exact ⟨m, _, hm, (exec_apply h s).trans (congrArg Host.Outcome.next (happly.trans hland))⟩

/-- An applied read or `amo` is answered, the requests behind it left (R99). -/
theorem apply_ask {h : Nat} {s : State} {a : HomeAsk} {q : List HomeReq} {r : Asked} (hq : FMap.getD s.homeQ h [] = .ask a :: q)
    (ht : s.tasks = []) (hr : FMap.get? s.asked a.party = some r) (hid : r.id = a.id) (hb : badSector s a.pa a.n = none)
    (hg : ∀ l ∈ linesOf a.pa a.n, givesUp s (.ask a) l = false) (hs : ∀ i, i < a.n → sealFits s a.dom (sectorOf (a.pa + i)) = true) :
    Ends (.apply h) s fun t => FMap.getD t.homeQ h [] = q ∧
      FMap.get? t.asked a.party = some { r with reply := some (homeBytes s a.dom a.pa a.n, none) } ∧
      (a.amo = none → t.mem = s.mem) ∧
      (∀ kind v want, a.amo = some (kind, v, want) → t.mem = writeCells s.mem (cellsAt a.pa (toBytes a.n
        (amoResult kind a.n (ofBytes (homeBytes s a.dom a.pa a.n)) v want)))) ∧
      t.contexts = s.contexts ∧ t.threads = s.threads := by
  obtain ⟨m, hm, happly⟩ := applyHead_lands hq hg
  obtain ⟨v, hv, hvq, hread, hamo, hctx, hthr⟩ := answerAsk_answers (s := { s with homeQ := m }) ht hr hid hb hs
  simp only [amoUpdate, homeBytes_homeQ] at hv hamo
  refine ⟨_, (exec_apply h s).trans (congrArg Host.Outcome.next (happly.trans hv)), ?_, get_set_same .., hread, hamo, hctx, hthr⟩
  exact (congrArg (FMap.getD · h []) hvq).trans hm

end Sys2Proof.Machine

namespace Sys2Proof

open Machine

/-- Settles O51, step by step. -/
theorem memorySteps : Obligations.MemorySteps := by
  refine ⟨fun p n line s x hx => ⟨fun h => ?_, fun h => ?_⟩, fun h s hq => ?_, fun h s u q hq ht hwf hc => ?_,
    fun h s a q r hq ht hr hid hb hg hs => apply_ask hq ht hr hid hb hg hs, fun n line s => ⟨fun hc c hl => ?_, fun hc u => ?_, ?_⟩,
    fun line s => ⟨?_, fun hside => ?_⟩, fun unit ctx priv acc va s => ⟨fun u tg ht => ?_, fun t ht => ?_⟩⟩
  · rw [exec_drain, drainLine_clean hx h]
  · obtain ⟨hmem, hpanel, hqueue⟩ := drainLine_drains hx h
    exact ⟨_, exec_drain .., hmem, hqueue, _, hpanel, linesCleaned_clean .., fun c => linesCleaned_keeps⟩
  · rw [exec_apply, applyHead, hq]
  · obtain ⟨m, d, hm, hexec⟩ := apply_update hq ht hc
    refine ⟨_, hexec, hm, fun a => readCell_writeCells _ a hwf, fun sec => by simp, rfl, fun hp c hcu hcache => ?_, fun hp => ?_, rfl, rfl⟩
    · have hmem : sectorOf c.1 ∈ l2Sectors s u := mem_l2Sectors.mpr ⟨⟨c, hcu, rfl⟩, by rwa [sectorOf_div]⟩
      simp only [hp]
      exact (isDirty_foldl_markDirty ..).mpr (.inl hmem)
    · rcases hp with hp | hp
      · exact if_pos hp
      · simp only [l2Sectors_uncacheable hp, List.foldl_nil, ite_self]
  · have hfill := fillUnit_core hc hl
    refine ⟨by rw [exec_fill, hfill], fun d hu hd hsame => ?_⟩
    obtain ⟨hrest, hmem⟩ := askLine_fills (w := .core n) ⟨hc, hu, hd, hsame⟩
    refine ⟨?_, ?_, hrest.l1 n, hmem⟩ <;> rw [hrest.rest]
  · rw [exec_fill, fillUnit_uncacheable hc]
  · exact ⟨_, rfl, rfl, rfl, congrArg Core.l1 (core_setCore ..)⟩
  · rw [exec_fill, fillUnit_l2]
  · obtain ⟨t, ht, hevict⟩ := evictL2_eq hside
    have hrest (sec : Nat) : ¬ (8 * line ≤ sec ∧ sec < 8 * line + 8) ↔ sec / 8 ≠ line := by omega
    refine ⟨_, congrArg Host.Outcome.next hevict, ?_, ?_, fun sec => by simp, fun sec => ?_⟩
    · rw [ht.rest, countPoison_eq]
    · rw [ht.rest, countPoison_eq]
    · rw [Bool.eq_iff_iff, isDirty_cleanSectors, hrest, Bool.and_eq_true, decide_eq_true_eq]
  · simp only [exec, execPageWalk, ht]
  · simp only [exec, execPageWalk, ht]

end Sys2Proof
end

section
/-! SUPPORT. Memory stays canonical (R99): one lemma for each function of the model that makes a state, in the order of the
model, up to a step. `State.canon s` is the invariant; `OnOk`, `OnSome`, `OnInl` and `OnNext` carry it through the results that may
be absent or errors, `Res.canon` through the ends of a form, `QKeeps` through the run of a quilt command. -/

set_option Elab.async false

namespace Sys2Proof.Machine

open Sys2Proof

/-- The canonical form of a state's memory (R99). -/
def State.canon (s : State) : Prop := Memory.wf s.mem = true

theorem State.canon.frame {s t : State} (h : s.canon) (e : t.mem = s.mem := by rfl) : t.canon := by rwa [State.canon, e]

/-- What a result carries, where it is no error, has a property. -/
def OnOk {ε α : Type} (Q : α → Prop) : Except ε α → Prop
  | .ok a => Q a
  | .error _ => True

def OnSome {α : Type} (Q : α → Prop) : Option α → Prop
  | some a => Q a
  | none => True

theorem OnOk.of_eq {ε α : Type} {Q : α → Prop} {r : Except ε α} {a : α} (h : OnOk Q r) (e : r = .ok a) : Q a := by
  subst e; exact h

theorem OnSome.of_eq {α : Type} {Q : α → Prop} {r : Option α} {a : α} (h : OnSome Q r) (e : r = some a) : Q a := by
  subst e; exact h

theorem State.canon.of_fst {α : Type} {r : State × α} {s : State} {x : α} (h : r.1.canon) (e : r = (s, x)) : s.canon := by
  subst e; exact h

theorem State.canon.foldl {α : Type} {f : State → α → State} {l : List α} {s : State} (h : s.canon)
    (hf : ∀ s a, s.canon → (f s a).canon) : (l.foldl f s).canon :=
  List.foldlRecOn l f h fun s hs a _ => hf s a hs

def Res.canon : Res → Prop
  | .ok s => s.canon
  | .jump s _ => s.canon
  | .wait s _ _ => s.canon
  | .set s => s.canon
  | .trap _ => True
  | .trapAt s _ => s.canon
  | .hold s => s.canon
  | .stop _ => True

def OnNext : Host.Outcome State Fault Refusal → Prop
  | .next s => s.canon
  | _ => True

theorem Res.canon.bindX {α : Type} {Q : α → Prop} {r : Except Trap α} {f : α → Res} (h : OnOk Q r) (hf : ∀ a, Q a → (f a).canon) :
    (Res.bindX r f).canon := by
  cases r with
  | ok a => exact hf a h
  | error t => trivial
theorem Res.canon.bindX' {α : Type} {r : Except Trap α} {f : α → Res} (hf : ∀ a, (f a).canon) : (Res.bindX r f).canon := by
  cases r with
  | ok a => exact hf a
  | error t => trivial

/-- What the device's answer to an access carries has a property. -/
def OnInl {α : Type} (Q : α → Prop) : Except Trap α ⊕ Fault → Prop
  | .inl r => OnOk Q r
  | .inr _ => True

theorem Res.canon.bindDev {α : Type} {Q : α → Prop} {r : Except Trap α ⊕ Fault} {f : α → Res} (h : OnInl Q r)
    (hf : ∀ a, Q a → (f a).canon) : (Res.bindDev r f).canon := by
  match r, h with
  | .inl (.ok a), h => exact hf a h
  | .inl (.error _), _ => trivial
  | .inr _, _ => trivial

theorem OnSome.map {α β : Type} {P : α → Prop} {Q : β → Prop} {o : Option α} {f : α → β} (h : OnSome P o) (hf : ∀ a, P a → Q (f a)) :
    OnSome Q (o.map f) := by
  cases o with
  | some a => exact hf a h
  | none => trivial

theorem OnSome.map' {α β : Type} {Q : β → Prop} {o : Option α} {f : α → β} (hf : ∀ a, Q (f a)) : OnSome Q (o.map f) := by
  cases o with
  | some a => exact hf a
  | none => trivial

theorem OnSome.bind {α β : Type} {P : α → Prop} {Q : β → Prop} {o : Option α} {f : α → Option β} (h : OnSome P o)
    (hf : ∀ a, P a → OnSome Q (f a)) : OnSome Q (o.bind f) := by
  cases o with
  | some a => exact hf a h
  | none => trivial

theorem OnSome.bind' {α β : Type} {Q : β → Prop} {o : Option α} {f : α → Option β} (hf : ∀ a, OnSome Q (f a)) :
    OnSome Q (o.bind f) := by
  cases o with
  | some a => exact hf a
  | none => trivial

theorem OnSome.getD {o : Option State} {s : State} (h : OnSome State.canon o) (hs : s.canon) : (o.getD s).canon := by
  cases o with
  | some a => exact h
  | none => exact hs

theorem OnSome.orElse {α : Type} {Q : α → Prop} {o : Option α} {f : Unit → Option α} (h : OnSome Q o) (hf : OnSome Q (f ())) :
    OnSome Q (o.orElse f) := by
  cases o with
  | some a => exact h
  | none => exact hf

theorem OnOk.bind {ε α β : Type} {P : α → Prop} {Q : β → Prop} {r : Except ε α} {f : α → Except ε β} (h : OnOk P r)
    (hf : ∀ a, P a → OnOk Q (f a)) : OnOk Q (r >>= f) := by
  cases r with
  | ok a => exact hf a h
  | error _ => trivial

/-- Memory is canonical in both states of a quilt command's run. -/
def QRun.canon (r : QRun) : Prop := r.s.canon ∧ r.base.canon

/-- A part of a quilt command's run keeps memory canonical in both of its states, whether it ends early or not. -/
def QKeeps {α : Type} (m : QM α) : Prop := ∀ r : QRun, r.canon → (m.run.run r).2.canon

theorem QKeeps.pure {α : Type} {a : α} : QKeeps (pure a) := fun _ h => h

theorem QKeeps.throw {α : Type} {e : QErr} : QKeeps (throw e : QM α) := fun _ h => h

theorem QKeeps.modify {f : QRun → QRun} (hf : ∀ r, r.canon → (f r).canon) : QKeeps (modify f) := fun r h => hf r h

theorem QKeeps.set {r : QRun} (h : r.canon) : QKeeps (set r) := fun _ _ => h

theorem QKeeps.bind {α β : Type} {m : QM α} {f : α → QM β} (hm : QKeeps m) (hf : ∀ a, QKeeps (f a)) : QKeeps (m >>= f) := by
  intro r h
  have h' := hm r h
  change QRun.canon (ExceptT.bindCont f (m.run.run r).1 (m.run.run r).2).2
  cases (m.run.run r).1 with
  | ok a => exact hf a _ h'
  | error e => exact h'

theorem QKeeps.andThen {α β : Type} {m : QM α} {m' : QM β} (hm : QKeeps m) (hm' : QKeeps m') : QKeeps (m >>= fun _ => m') :=
  hm.bind fun _ => hm'

theorem QKeeps.bindGet {β : Type} {f : QRun → QM β} (hf : ∀ r, r.canon → QKeeps (f r)) : QKeeps (get >>= f) :=
  fun r h => hf r h r h

theorem QKeeps.forIn {α β : Type} {l : List α} {b : β} {f : α → β → QM (ForInStep β)} (hf : ∀ a b, QKeeps (f a b)) :
    QKeeps (forIn l b f) := by
  induction l generalizing b with
  | nil => exact .pure
  | cons a l ih =>
    rw [List.forIn_cons]
    refine .bind (hf a b) fun x => ?_
    cases x with
    | done b => exact .pure
    | yield b => exact ih

theorem QKeeps.ite {α : Type} {c : Prop} [Decidable c] {m m' : QM α} (hm : QKeeps m) (hm' : QKeeps m') : QKeeps (if c then m else m') := by
  split
  · exact hm
  · exact hm'


/-! ## The memory operations -/

theorem cellsAbove_filter {p : Host.Cell → Bool} {lo : Nat} {m : Cells} (h : cellsAbove lo m = true) :
    cellsAbove lo (m.filter p) = true := by
  induction m generalizing lo with
  | nil => rfl
  | cons c m ih =>
    obtain ⟨hlo, hb, hm⟩ := cellsAbove_cons.mp h
    rw [List.filter_cons]
    split
    · exact cellsAbove_cons.mpr ⟨hlo, hb, ih hm⟩
    · exact cellsAbove_mono (ih hm) (by omega)

theorem wf_copyCells {m : Cells} (h : Memory.wf m = true) (src dst n : Nat) : Memory.wf (copyCells m src dst n) = true :=
  wf_writeCells (cellsAbove_filter h) _

/-! ## Parts of the state, contexts, panels and tasks -/

theorem State.canon.debugStop {s : State} {p : Party} (h : s.canon) : (debugStop s p).canon :=
  h

theorem State.canon.setPanel {s : State} {p : Nat} {x : Panel} (h : s.canon) : (State.setPanel s p x).canon :=
  h

theorem State.canon.setThread {s : State} {p : Party} {t : Thread} (h : s.canon) : (State.setThread s p t).canon :=
  h

theorem State.canon.modPanel {s : State} {p : Nat} {f : Panel → Panel} (h : s.canon) :
    (State.modPanel s p f).canon := by
  unfold Machine.State.modPanel
  split
  · exact h.setPanel
  · exact h

theorem State.canon.postPoison {s : State} {p i : Nat} {t : Trap} (h : s.canon) : (postPoison s p i t).canon := by
  unfold Machine.postPoison
  split
  · exact h
  · dsimp only
    split
    · exact h.setPanel
    · split
      · exact h
      · exact h.setPanel.setThread

theorem State.canon.setCore {s : State} {c : Nat} {x : Core} (h : s.canon) : (State.setCore s c x).canon :=
  h

theorem State.canon.countFor {s : State} {p : Party} {ev n : Nat} (h : s.canon) : (countFor s p ev n).canon := by
  unfold Machine.countFor
  split
  · exact h.setCore
  · exact h.modPanel
  · exact h.modPanel
  · exact h.modPanel

theorem State.canon.setCtxt {s : State} {c : Nat} {x : Context} (h : s.canon) : (State.setCtxt s c x).canon :=
  h

theorem State.canon.unresolveContext {s : State} {c : Nat} (h : s.canon) : (unresolveContext s c).canon :=
  h

theorem State.canon.unask {s : State} {sel : Party → Bool} (h : s.canon) : (State.unask s sel).canon :=
  h

theorem State.canon.pushReq {s : State} {pa : Nat} {r : HomeReq} (h : s.canon) : (pushReq s pa r).canon :=
  h

theorem State.canon.pushUpdate {s : State} {pa : Nat} {u : Update} (h : s.canon) : (pushUpdate s pa u).canon :=
  h.pushReq

theorem State.canon.countFault {s : State} {c lo len : Nat} {cause : Cause} (h : s.canon) :
    (countFault s c lo len cause).canon :=
  h.setCtxt

theorem State.canon.countPoison {s : State} {line : Nat} (h : s.canon) : (countPoison s line).canon := by
  unfold Machine.countPoison
  split
  · exact h.foldl fun _ _ hs => hs.countFault
  · exact h

theorem State.canon.drainLine {s : State} {p t line : Nat} (h : s.canon) : (drainLine s p t line).canon := by
  unfold Machine.drainLine
  split
  · exact h
  · dsimp only
    split
    · exact h
    · exact h.setPanel.countPoison.foldl fun _ _ hs => hs.pushUpdate

theorem State.canon.drainPanel {s : State} {p : Nat} {sel : Nat → Bool} (h : s.canon) :
    (drainPanel s p sel).canon := by
  unfold Machine.drainPanel
  split
  · exact h
  · exact h.foldl fun _ _ hs => hs.foldl fun _ _ ht => ht.drainLine

theorem State.canon.freePanel {s : State} {p : Nat} (h : s.canon) : (freePanel s p).canon :=
  h.drainPanel.frame

theorem State.canon.killStrand {s : State} {p i : Nat} (h : s.canon) : (killStrand s p i).canon :=
  h.modPanel.unask.setThread.setThread

theorem State.canon.killPanel {s : State} {p : Nat} (h : s.canon) : (killPanel s p).canon :=
  (h.modPanel.foldl fun _ _ hs => hs.killStrand).modPanel

theorem State.canon.idleThread {s : State} {n : Nat} (h : s.canon) : (idleThread s n).canon :=
  h.unask.setThread

theorem State.canon.unresolveTask {s : State} {id : BitVec 32} (h : s.canon) : (unresolveTask s id).canon :=
  h

theorem State.canon.preemptEnds {s : State} {c : Nat} {id : BitVec 32} {bit : Option Nat} (h : s.canon) :
    (preemptEnds s c id bit).canon := by
  unfold Machine.preemptEnds
  dsimp only
  split
  · exact h.setCtxt
  · exact h

theorem State.canon.flushWith {f : State → HomeReq → State} {s : State} {x2 : Nat} (h : s.canon)
    (hf : ∀ x y, x.canon → (f x y).canon) :
    (flushWith f s x2).canon := by
  unfold Machine.flushWith
  split
  · exact h
  · exact h.frame.foldl fun _ _ hs => hf _ _ hs

/-! ## Updates applied at their homes, fills and evictions -/

theorem State.canon.releaseWords {s : State} {written : Nat → Bool} (h : s.canon) :
    (releaseWords s written).canon := by
  unfold Machine.releaseWords
  split
  · exact h
  · exact h.frame

theorem State.canon.copyPage {s : State} {src dst : Nat} {tags : FMap Nat (Nat × Nat)} (h : s.canon) :
    (copyPage s src dst tags).canon :=
  State.canon.releaseWords (wf_copyCells h ..)

theorem State.canon.capturePage {s : State} {entry : Nat} {e : TaskEntry} {f : Fitting} {page : Nat} (h : s.canon) :
    (capturePage s entry e f page).canon :=
  h.copyPage.frame

theorem State.canon.captureFor {s : State} {task : BitVec 32} {pa : Nat} (h : s.canon) :
    (captureFor s task pa).canon := by
  unfold Machine.captureFor
  dsimp only
  split
  · split
    · split
      · split
        · exact h.capturePage
        · exact h.frame
      · exact h
    · exact h
  · exact h

theorem State.canon.sealSector {s : State} {dom sec : Nat} (h : s.canon) : (sealSector s dom sec).canon := by
  unfold Machine.sealSector
  split
  · exact h
  · dsimp only [State.canon]
    exact wf_writeBytes h ..

theorem State.canon.setL2Dom {s : State} {dom line : Nat} (h : s.canon) : (setL2Dom s dom line).canon :=
  h

theorem State.canon.l2Written {s : State} {u : Update} (h : s.canon) : (l2Written s u).canon := by
  unfold Machine.l2Written
  split
  · exact h
  · exact h.frame.foldl fun _ _ hs => hs.setL2Dom

theorem State.canon.landUpdate {s : State} {u : Update} (h : s.canon) : (landUpdate s u).canon :=
  State.canon.releaseWords <| State.canon.l2Written <| wf_writeCells
    ((h.foldl fun _ _ hs => hs.captureFor).foldl fun _ _ hs => hs.sealSector) u.cells

theorem State.canon.fillL1 {s : State} {c pa : Nat} {bs : List Byte} (h : s.canon) : (fillL1 s c pa bs).canon :=
  h.setCore

theorem State.canon.answerL1 {s : State} {a : HomeAsk} {bs : List Byte} (h : s.canon) : (answerL1 s a bs).canon := by
  unfold Machine.answerL1
  split
  · split
    · exact h
    · exact h.fillL1
  · exact h

theorem State.canon.answerAsk {s : State} {a : HomeAsk} (h : s.canon) : (answerAsk s a).canon := by
  unfold Machine.answerAsk
  dsimp only
  split
  · split
    · dsimp only [State.canon]
      change State.canon _
      split
      · split
        · exact h
        · exact h.landUpdate
      · split
        · exact h
        · exact h.answerL1
    · split
      · split
        · exact h
        · exact h.landUpdate
      · split
        · exact h
        · exact h.answerL1
  · split
    · split
      · exact h
      · exact h.landUpdate
    · split
      · exact h
      · exact h.answerL1

theorem State.canon.landReq {s : State} {x1 : HomeReq} (h : s.canon) : (landReq s x1).canon := by
  unfold Machine.landReq
  split
  · exact h.landUpdate
  · exact h.answerAsk

theorem State.canon.l2Drop {s : State} {line : Nat} (h : s.canon) : (l2Drop s line).canon :=
  h

theorem State.canon.countBurst {s : State} {w : Option Writer} {ev sec : Nat} (h : s.canon) :
    (countBurst s w ev sec).canon := by
  unfold Machine.countBurst
  split
  · split
    · exact h.setCore
    · exact h.frame
    · exact h

theorem State.canon.cleanRange {s : State} {lo hi : Nat} (h : s.canon) : (cleanRange s lo hi).canon :=
  (h.foldl fun _ _ hs => hs.countBurst).frame

theorem State.canon.cleanLine {s : State} {line : Nat} (h : s.canon) : (cleanLine s line).canon :=
  h.cleanRange

theorem State.canon.countWriter {s : State} {w : Option Writer} {ev n : Nat} (h : s.canon) :
    (countWriter s w ev n).canon := by
  unfold Machine.countWriter
  split
  · exact h.setCore
  · exact h.frame
  · exact h

theorem State.canon.evictSideWith {wr : State → Nat → Update → State} {s : State} {line : Nat} (h : s.canon)
    (hf : ∀ x y z, x.canon → (wr x y z).canon) :
    (evictSideWith wr s line).canon := by
  unfold Machine.evictSideWith
  split
  · exact h
  · dsimp only
    split
    · split
      · exact h.frame
      · exact hf _ _ _ h.frame
    · exact h.frame.countWriter

theorem State.canon.evictWith {wr : State → Nat → Update → State} {s : State} {line : Nat} (h : s.canon)
    (hf : ∀ x y z, x.canon → (wr x y z).canon) :
    (evictWith wr s line).canon :=
  (((h.evictSideWith fun _ _ _ hs => hf _ _ _ hs).countPoison).cleanLine).l2Drop

theorem State.canon.performAt {n : Nat} {s : State} {r : HomeReq} (h : s.canon) : (performAt n s r).canon := by
  induction n generalizing s r with
  | zero => exact h.landReq
  | succ n ih =>
    unfold Machine.performAt
    refine State.canon.landReq (h.foldl fun s l hs => ?_)
    split
    · exact hs.evictWith fun s pa u hs => ih (hs.flushWith fun _ _ hs => ih hs)
    · exact hs

theorem State.canon.perform {s : State} {r : HomeReq} (h : s.canon) : (perform s r).canon :=
  h.performAt

theorem State.canon.flushSlice {s : State} {x1 : Nat} (h : s.canon) : (flushSlice s x1).canon :=
  h.flushWith fun _ _ hs => hs.perform

theorem State.canon.readHome {s : State} {dom pa n : Nat} (h : s.canon) : (readHome s dom pa n).1.canon := by
  unfold Machine.readHome
  dsimp only
  exact h.flushSlice

/-! ## Translation -/

theorem State.canon.walkFrom {s : State} {c va : Nat} {l : List (Nat × Nat)} {table : Nat} (h : s.canon) :
    (walkFrom s c va l table).1.canon := by
  induction l generalizing s table with
  | nil => exact h
  | cons x l ih =>
    unfold Machine.walkFrom
    dsimp only
    split
    · exact h.flushSlice
    · split
      · exact h.flushSlice
      · split
        · exact h.flushSlice
        · split
          · exact h.flushSlice
          · exact ih h.flushSlice

theorem State.canon.walk {s : State} {c va : Nat} (h : s.canon) : (walk s c va).1.canon := by
  unfold Machine.walk
  dsimp only
  split
  · exact h
  · split
    · exact h
    · exact h.walkFrom

theorem State.canon.applyUpdate {s : State} {u : Update} (h : s.canon) : (applyUpdate s u).canon :=
  h.perform

theorem State.canon.writeHomeNow {s : State} {dom : Nat} {task : BitVec 32} {pa : Nat} {bs : List Byte} {w : Option Writer}
    (h : s.canon) :
    (writeHomeNow s dom task pa bs w).canon :=
  (h.foldl fun _ _ hs => hs.flushSlice).applyUpdate

theorem State.canon.markLeaf {s : State} {a : Nat} {e : Word} {w : Bool} (h : s.canon) :
    (markLeaf s a e w).1.canon := by
  unfold Machine.markLeaf
  dsimp only
  split
  · split
    · exact h
    · dsimp only
      exact h.writeHomeNow
  · split
    · exact h
    · dsimp only
      exact h.writeHomeNow

theorem State.canon.tlbInsert {s : State} {unit : Option Nat} {c va level : Nat} {e : Word} (h : s.canon) :
    (tlbInsert s unit c va level e).canon := by
  unfold Machine.tlbInsert
  split
  · exact h
  · dsimp only
    split <;> exact h.frame

theorem State.canon.walkChecked {s : State} {q : XReq} {va : Word} (h : s.canon) : OnOk (·.1.canon) (walkChecked s q va) := by
  fun_cases Machine.walkChecked
  · trivial
  · trivial
  · trivial
  · next e _ _ _ _ e' => exact State.canon.tlbInsert ((State.canon.markLeaf (h.walk.of_fst e)).of_fst e')

theorem State.canon.translate {s : State} {q : XReq} {va : Word} (h : s.canon) :
    OnOk (·.1.canon) (translate s q va) := by
  unfold Machine.translate
  split
  · trivial
  · split
    · trivial
    · split
      · exact h.walkChecked
      · split
        · exact h.walkChecked
        · split
          · trivial
          · exact h

theorem State.canon.devWrite {s : State} {c va : Nat} {bs : List Byte} (h : s.canon) :
    OnSome State.canon (devWrite s c va bs) := by
  unfold Machine.devWrite
  split
  next _ _ _ e =>
    exact (h.translate.of_eq e).writeHomeNow
  · trivial

/-! ## Tasks abandoned, faults offered and taken -/

theorem State.canon.freeSlots {s : State} {c entry : Nat} (h : s.canon) : (freeSlots s c entry).canon := by
  refine State.canon.foldl (State.canon.setCtxt h) fun s l hs => ?_
  cases hw : Machine.devWrite s c _ _ with
  | none => exact hs
  | some t => exact hs.devWrite.of_eq hw

theorem State.canon.markFail {s : State} {entry : Nat} (h : s.canon) : (markFail s entry).canon := by
  unfold Machine.markFail
  split
  · split
    · exact h.setCtxt
    · exact h
  · exact h

theorem State.canon.lapseDeferred {s : State} {c : Nat} {id : BitVec 32} (h : s.canon) :
    (lapseDeferred s c id).canon := by
  unfold Machine.lapseDeferred
  dsimp only
  split
  · exact h.setCtxt
  · exact h

theorem State.canon.discardFrom {x0 : Nat} {x1 : State} {x2 : List (BitVec 32)} (h : x1.canon) :
    (discardFrom x0 x1 x2).canon := by
  fun_induction Machine.discardFrom x0 x1 x2
  · exact h
  · exact h
  next _ _ _ _ _ _ e =>
    exact e h.frame

theorem State.canon.abandonTask {s : State} {entry : Nat} {as : TaskState} (h : s.canon) : (abandonTask s entry as).canon := by
  unfold Machine.abandonTask
  split
  · exact h
  · next t _ =>
    split
    · exact h
    · have hpanels (c : Nat) (x : Context) : (t.panels.foldl (fun s p => Machine.freePanel (Machine.killPanel s p) p)
        (s.setCtxt c x)).canon :=
        h.setCtxt.foldl fun _ _ hs => hs.killPanel.freePanel
      refine State.canon.discardFrom <| State.canon.preemptEnds <| State.canon.freeSlots <| State.canon.markFail <|
        State.canon.lapseDeferred ?_
      cases t.thread with
      | none => exact (hpanels ..).frame
      | some n => exact (hpanels ..).frame

theorem State.canon.killTask {s : State} {entry : Nat} (h : s.canon) : (killTask s entry).canon :=
  h.abandonTask

theorem State.canon.killContext {s : State} {c : Nat} (h : s.canon) : (killContext s c).canon :=
  (h.foldl fun _ _ hs => hs.killTask).frame

theorem State.canon.raiseWith {off : State → Nat → FaultRec → State} {s : State} {p : Party} {t : Trap} {pz : Bool}
    (h : s.canon) (hf : ∀ x y z, x.canon → (off x y z).canon) :
    (raiseWith off s p t pz).canon := by
  unfold Machine.raiseWith
  split
  · exact h.postPoison
  · exact h
  · dsimp only
    split
    · split
      · exact h.setThread.countFor.countFor
      · split
        · exact h.setThread.countFor.countFor.countFault.killContext
        · exact hf _ _ _ h.setThread.countFor.countFor
    · split
      · exact h.setThread.countFor
      · split
        · exact h.setThread.countFor.countFault.killContext
        · exact hf _ _ _ h.setThread.countFor

theorem State.canon.unresolve {s : State} {e : EngineId} (h : s.canon) : (unresolve s e).canon := by
  unfold Machine.unresolve
  split
  · dsimp only
    split
    · exact h.setCtxt
    · exact h
  · split
    · exact h.frame
    · exact h
  · split
    · exact h.frame
    · exact h
  · exact h.modPanel
  · split
    · split
      · exact h.frame
      · exact h
    · exact h
  · exact h
  · exact h

theorem State.canon.killObject {s : State} {o : FObj} (h : s.canon) : (killObject s o).canon := by
  unfold Machine.killObject
  dsimp only
  split
  · exact h.setCtxt.killStrand
  · exact h.setCtxt.killPanel
  · exact h.setCtxt.killTask
  · exact h.setCtxt.killTask
  · exact h.setCtxt.foldl fun _ _ hs => hs.abandonTask
  · exact h.setCtxt.killContext
  · exact h.setCtxt

theorem State.canon.discardEntries {s : State} {loadId : Nat} (h : s.canon) : (discardEntries s loadId).canon :=
  h

theorem State.canon.freeLoad {s : State} {x : Panel} (h : s.canon) : (freeLoad s x).canon := by
  unfold Machine.freeLoad
  split
  · exact h.discardEntries
  · exact h

theorem State.canon.retryPanel {s : State} {p : Nat} (h : s.canon) : (retryPanel s p).canon := by
  unfold Machine.retryPanel
  split
  · exact h
  · dsimp only
    split
    · exact h.setPanel
    · refine State.canon.foldl h.freeLoad.frame fun _ _ hs => State.canon.setThread ?_
      split
      · exact hs
      · exact hs.setThread

theorem State.canon.countRetry {s : State} {f : FaultRec} {o : FObj} (h : s.canon) : (countRetry s f o).canon := by
  unfold Machine.countRetry
  split
  · exact h.frame
  · exact h

theorem State.canon.requeueTask {s : State} {entry : Nat} (h : s.canon) : (requeueTask s entry).canon := by
  unfold Machine.requeueTask
  split
  · split
    · exact h
    · exact h.frame
  · exact h

theorem State.canon.retryObject {s : State} {f : FaultRec} {from_ o : FObj} (h : s.canon) :
    (retryObject s f from_ o).canon := by
  unfold Machine.retryObject
  split
  · exact h.killObject
  · dsimp only
    split
    · split
      · exact (h.countRetry.foldl fun _ _ hs => hs.retryPanel).requeueTask
      · split
        · split
          · exact h.killObject
          · exact (h.countRetry.foldl fun _ _ ht => ht.retryPanel).killTask
        · exact h.countRetry.foldl fun _ _ hu => hu.retryPanel
    · exact h.killObject
    · exact h.countRetry.foldl fun _ _ hu => hu.retryPanel

theorem State.canon.containWith {ign : State → FaultRec → State} {s : State} {f : FaultRec} {from_ : FObj} (h : s.canon)
    (hf : ∀ x y, x.canon → (ign x y).canon) :
    (containWith ign s f from_).canon := by
  unfold Machine.containWith
  split
  · exact h.countFault
  · split
    · exact h.countFault
    · dsimp only
      split
      · split
        · exact h.countFault.retryObject
        · exact hf _ _ h.countFault
      · split
        · exact h.countFault.retryObject
        · exact h.countFault.killObject

theorem State.canon.settleWith {ign : State → FaultRec → State} {s : State} {f : FaultRec} (h : s.canon)
    (hf : ∀ x y, x.canon → (ign x y).canon) :
    (settleWith ign s f).canon := by
  unfold Machine.settleWith
  split
  · exact h.unresolve
  · exact h.containWith fun _ _ hs => hf _ _ hs

theorem State.canon.takeTrap {s : State} {c : Nat} {f : FaultRec} {n : Nat} (h : s.canon) :
    (takeTrap s c f n).canon :=
  h.setCtxt.setThread

theorem State.canon.deliverFault {s : State} {c : Nat} {f : FaultRec} {since : Nat} (h : s.canon) :
    (deliverFault s c f since).canon := by
  unfold Machine.deliverFault
  split
  · exact h.takeTrap
  · exact h.setCtxt

theorem State.canon.offerWith {ign : State → FaultRec → State} {s : State} {c : Nat} {f : FaultRec} (h : s.canon)
    (hf : ∀ x y, x.canon → (ign x y).canon) :
    (offerWith ign s c f).canon := by
  unfold Machine.offerWith
  dsimp only
  split
  · exact h.settleWith fun _ _ hs => hf _ _ hs
  · split
    · split
      · exact h.setCtxt.settleWith fun _ _ ht => hf _ _ ht
      · exact h.setCtxt
    · exact h.deliverFault

theorem State.canon.ignoreWith {k : State → Party → Word → State} {s : State} {f : FaultRec} (h : s.canon)
    (hf : ∀ x y z, x.canon → (k x y z).canon) :
    (ignoreWith k s f).canon := by
  unfold Machine.ignoreWith
  split
  · exact h.modPanel
  · split
    · exact h.setThread
    · exact hf _ _ _ h
  · exact h

theorem State.canon.offerLoop {s : State} {c : Nat} {f : FaultRec} (h : s.canon) : (offerLoop s c f).canon :=
  h.offerWith fun _ _ hs => hs.ignoreWith fun _ _ _ ht => ht

theorem State.canon.completeIgnored {s : State} {p : Party} {pc : Word} (h : s.canon) :
    (completeIgnored s p pc).canon := by
  unfold Machine.completeIgnored
  split
  · dsimp only
    split
    · exact h.setThread.countFor
    · exact h.setThread.countFor.raiseWith fun _ _ _ hs => hs.offerLoop

theorem State.canon.ignoreFault {s : State} {f : FaultRec} (h : s.canon) : (ignoreFault s f).canon :=
  h.ignoreWith fun _ _ _ hs => hs.completeIgnored

theorem State.canon.offer {s : State} {c : Nat} {f : FaultRec} (h : s.canon) : (offer s c f).canon :=
  h.offerWith fun _ _ hs => hs.ignoreFault

theorem State.canon.raiseFor {s : State} {p : Party} {t : Trap} (h : s.canon) : (raiseFor s p t).canon :=
  h.raiseWith fun _ _ _ hs => hs.offer

theorem State.canon.raise {s : State} {t : Trap} (h : s.canon) : (raise s t).canon :=
  h.raiseFor

/-! ## How an instruction ends -/

theorem State.canon.setCur {s : State} {t : Thread} (h : s.canon) : (State.setCur s t).canon :=
  h.setThread

theorem State.canon.noteIssue {s : State} (h : s.canon) : (noteIssue s).canon := by
  unfold Machine.noteIssue
  split
  · split
    · exact h.setCur.setPanel
    · exact h
  · exact h

theorem State.canon.takeShadow {s : State} {p : Nat} (h : s.canon) : (takeShadow s p).canon :=
  h.modPanel

theorem State.canon.commitShadow {i : Instr} {s : State} (h : s.canon) : (commitShadow i s).canon := by
  unfold Machine.commitShadow
  split
  · split
    · exact h.takeShadow
    · exact h
  · split
    · exact h.takeShadow
    · exact h
  · exact h

theorem State.canon.retire {i : Instr} {s : State} (h : s.canon) : (retire i s).canon := by
  unfold Machine.retire
  dsimp only
  split
  · exact h
  · split
    · exact State.canon.countFor h
    · exact State.canon.raise (State.canon.countFor h)

theorem State.canon.jumpTo {s : State} {pc : Word} (h : s.canon) : (jumpTo s pc).canon :=
  h.setCur

theorem State.canon.finishRes {i : Instr} {s : State} {r : Res} (h : s.canon) (hr : r.canon) : OnNext (finishRes i s r) := by
  cases r with
  | ok t => exact State.canon.commitShadow <| State.canon.noteIssue <| State.canon.retire hr
  | jump t pc => exact State.canon.noteIssue <| State.canon.jumpTo hr
  | wait t timeout arrived =>
    refine State.canon.countFor ?_
    have hset : (t.setCur { t.cur with wait := some ⟨i, s.cycle, timeout, arrived⟩ }).canon := State.canon.setCur hr
    split
    · exact hset.noteIssue.commitShadow
    · exact hset.noteIssue
  | set t => exact State.canon.noteIssue hr
  | trap x => exact h.noteIssue.raise
  | trapAt t x => exact State.canon.raise <| State.canon.noteIssue hr
  | hold t => exact hr
  | stop f => trivial

theorem State.canon.issue {i : Instr} {s : State} {body : State → Res} (h : s.canon) (hf : ∀ x, x.canon → (body x).canon) :
    OnNext (issue i s body) := by
  unfold Machine.issue
  split
  · exact h.noteIssue.raise
  · split
    · exact h
    · exact h.finishRes (hf _ h)

theorem State.canon.setG {s : State} {x : Reg} {v : Word} (h : s.canon) : (State.setG s x v).canon :=
  h.setCur

theorem State.canon.setting {i : Instr} {s : State} {d : Reg} {v : Word} (h : s.canon) : OnNext (setting i s d v) :=
  h.issue fun _ hs => hs.setG

/-! ## Control registers -/

theorem State.canon.execCget {d : Reg} {n : BitVec 16} {s : State} (h : s.canon) : OnNext (execCget d n s) := by
  unfold Machine.execCget
  refine State.canon.issue h fun _ hs => ?_
  split
  · trivial
  · split
    · exact hs.setG
    · trivial

theorem State.canon.writeTrapcause {s : State} {c : Nat} {v : Word} (h : s.canon) : (writeTrapcause s c v).canon :=
  h.setCtxt

theorem State.canon.writeFact {s : State} {c : Nat} {v : Word} (h : s.canon) : (writeFact s c v).canon := by
  unfold Machine.writeFact
  dsimp only
  split
  · exact h.setCtxt
  · exact h

theorem State.canon.writeTvec {s : State} {c : Nat} {v : Word} (h : s.canon) : (writeTvec s c v).canon :=
  h.setCtxt

theorem State.canon.preemptOutcome {s : State} {c : Nat} {id : BitVec 32} {bit : Nat} (h : s.canon) :
    (preemptOutcome s c id bit).canon :=
  h.setCtxt

theorem State.canon.offerDue {s : State} {c n : Nat} {f : FaultRec} (h : s.canon) : (offerDue s c n f).canon := by
  unfold Machine.offerDue
  dsimp only
  split
  · exact h.setCtxt
  · exact h.offer

theorem State.canon.acceptFreeze {s : State} {c entry slot : Nat} (h : s.canon) : (acceptFreeze s c entry slot).canon := by
  fun_cases Machine.acceptFreeze
  · exact h
  · next e => exact (State.canon.devWrite (State.canon.frame h)).of_eq e
  · exact State.canon.killTask (State.canon.frame h)

theorem State.canon.requestPreempt {s : State} {c : Nat} {v : Word} (h : s.canon) : (requestPreempt s c v).canon := by
  unfold Machine.requestPreempt
  dsimp only
  split
  · exact h.preemptOutcome
  · split
    · exact h.preemptOutcome
    · split
      · exact h.frame.preemptOutcome
      · split
        · exact h.preemptOutcome.offerDue
        · split
          · exact h.preemptOutcome.countFor.acceptFreeze
          · exact h.preemptOutcome

theorem State.canon.writePtroot {s : State} {c : Nat} {v : Word} (h : s.canon) : (writePtroot s c v).canon :=
  h.setCtxt

theorem State.canon.writeLoopField {s : State} {p : Party} {i f : Nat} {v : Word} (h : s.canon) :
    (writeLoopField s p i f v).canon :=
  h.setThread

theorem State.canon.writeFrt {s : State} {n which : Nat} {v : Word} (h : s.canon) : (writeFrt s n which v).canon := by
  unfold Machine.writeFrt
  dsimp only
  split
  · exact h.frame
  · split <;> exact h.frame

theorem wf_sortCells (l : Cells) : Memory.wf (sortCells l) = true :=
  wf_writeCells rfl l

theorem State.canon.setHbmMap {s : State} {new : HbmMap} (h : s.canon) : (setHbmMap s new).canon := by
  unfold Machine.setHbmMap
  dsimp only
  split
  · exact h
  · exact wf_sortCells _

theorem State.canon.writeHbmMode {s : State} {j : Nat} {v : Word} (h : s.canon) : (writeHbmMode s j v).canon :=
  h.setHbmMap

theorem State.canon.writeHbmMc {s : State} {n : Nat} {v : Word} (h : s.canon) : (writeHbmMc s n v).canon :=
  h.setHbmMap

theorem State.canon.writeHbmMp {s : State} {n : Nat} {v : Word} (h : s.canon) : (writeHbmMp s n v).canon :=
  h.setHbmMap

theorem State.canon.cregWrite {s : State} {p : Party} {r : CReg} {v : Word} (h : s.canon) :
    (cregWrite s p r v).canon := by
  unfold Machine.cregWrite
  dsimp only
  split
  · exact h
  · exact h
  · exact h
  · exact h.writeTrapcause
  · exact h.setCtxt
  · exact h.setCtxt
  · exact h
  · exact h
  · exact h
  · exact h
  · exact h.writeFact
  · exact h.writeTvec
  · exact h.setThread
  · exact h.requestPreempt
  · exact h.setCtxt
  · exact h.setCtxt
  · exact h
  · exact h.setCtxt
  · exact h.setCtxt
  · exact h.writePtroot
  · exact h.writeLoopField
  · exact h.setCtxt
  · exact h.writeFrt
  · exact h.writeHbmMode
  · exact h.writeHbmMc
  · exact h.writeHbmMp

theorem State.canon.execCset {a : Reg} {n : BitVec 16} {s : State} (h : s.canon) : OnNext (execCset a n s) := by
  unfold Machine.execCset
  refine State.canon.issue h fun _ hs => ?_
  split
  · trivial
  · split
    · exact hs.cregWrite
    · trivial

/-! ## Loads and stores -/

theorem State.canon.accessTarget {s : State} {p : Party} {acc : Access} {va : Word} {n : Nat} (h : s.canon) :
    OnOk (·.1.canon) (accessTarget s p acc va n) := by
  unfold Machine.accessTarget
  split
  · trivial
  next _ _ _ e =>
    split
    · trivial
    · split
      · trivial
      · show State.canon _
        dsimp only
        exact h.translate.of_eq e

theorem State.canon.bindDev {r : Except Trap α ⊕ Fault} {f : α → Res} (h : ∀ x, (f x).canon) :
    (Res.bindDev r f).canon := by
  unfold Machine.Res.bindDev
  split
  · exact h _
  · trivial
  · trivial

theorem State.canon.setChan {s : State} {c n : Nat} {ch : Channel} (h : s.canon) : (setChan s c n ch).canon :=
  h.setCtxt

theorem State.canon.copyStatus {s : State} {c n : Nat} (h : s.canon) : (copyStatus s c n).1.canon := by
  unfold Machine.copyStatus
  dsimp only
  exact h.setChan

theorem State.canon.deviceLoad {s : State} {p : Party} {va : Word} {pa n : Nat} (h : s.canon) :
    OnInl (·.1.canon) (deviceLoad s p va pa n) := by
  unfold Machine.deviceLoad
  dsimp only
  split
  · split
    · trivial
    · exact h
  · split
    · exact h.copyStatus
    · trivial
  · split <;> trivial

theorem State.canon.takeAnswer {s : State} {p : Party} {pa n base : Nat} {bs : List Byte} (h : s.canon) :
    (takeAnswer s p pa n base bs).1.canon := by
  unfold Machine.takeAnswer
  split
  · split
    · exact h
    · dsimp only
      exact h.fillL1
  · exact h

theorem State.canon.writeBehind {s : State} {pa : Nat} {u : Update} (h : s.canon) : (writeBehind s pa u).canon :=
  h.flushSlice.applyUpdate

theorem State.canon.evictL2 {s : State} {line : Nat} (h : s.canon) : (evictL2 s line).canon :=
  h.evictWith fun _ _ _ hs => hs.writeBehind

theorem State.canon.l2Meet {s : State} {dom line : Nat} (h : s.canon) : (l2Meet s dom line).canon := by
  unfold Machine.l2Meet
  split
  · exact h.evictL2
  · exact h

theorem State.canon.l2Reads {s : State} {dom pa n : Nat} (h : s.canon) : (l2Reads s dom pa n).canon :=
  h.foldl fun _ _ hs => hs.l2Meet

theorem State.canon.homeRead {s : State} {dom pa n : Nat} (h : s.canon) : OnOk (·.1.canon) (homeRead s dom pa n) := by
  unfold Machine.homeRead
  dsimp only
  split
  · trivial
  · show State.canon _
    dsimp only
    exact h.flushSlice.l2Reads

theorem State.canon.fillSector {w : Option Writer} {dom : Nat} {s : State} {sec : Nat} (h : s.canon) :
    (fillSector w dom s sec).canon := by
  unfold Machine.fillSector
  split
  · dsimp only
    split
    · exact h.frame.setL2Dom.countBurst
    · exact h.frame.setL2Dom
  · exact h

theorem State.canon.fillSide {s : State} {line : Nat} (h : s.canon) : (fillSide s line).canon := by
  unfold Machine.fillSide
  split
  · exact h
  · split
    · exact h
    · exact h.frame

theorem State.canon.fillLine {w : Option Writer} {dom : Nat} {s : State} {line : Nat} (h : s.canon) :
    (fillLine w dom s line).canon := by
  unfold Machine.fillLine
  split
  · exact h
  · split
    · exact h
    · exact ((h.fillSide.foldl fun _ _ hs => hs.fillSector).l2Meet).fillSector

theorem State.canon.l2Sector {w : Option Writer} {dom : Nat} {s : State} {sec : Nat} (h : s.canon) :
    (l2Sector w dom s sec).canon := by
  unfold Machine.l2Sector
  dsimp only
  split
  · exact h.l2Meet
  · exact h.l2Meet.fillLine.fillSector

theorem State.canon.l2Fill {s : State} {w : Option Writer} {dom pa n : Nat} (h : s.canon) :
    (l2Fill s w dom pa n).canon :=
  h.foldl fun _ _ hs => hs.l2Sector

theorem State.canon.readFor {s : State} {p : Party} {tg : Target} {n : Nat} (h : s.canon) :
    OnOk (·.1.canon) (readFor s p tg n) := by
  unfold Machine.readFor
  split
  · split
    · exact h.takeAnswer
    · split
      · trivial
      next _ _ _ e =>
        exact (h.l2Fill.homeRead.of_eq e).takeAnswer

theorem State.canon.loadInto {s : State} {d : Reg} {A : Word} {n : Nat} {signed : Bool} (h : s.canon) :
    (loadInto s d A n signed).canon := by
  unfold Machine.loadInto
  refine Res.canon.bindX h.accessTarget ?_
  rintro ⟨_, _⟩ hs
  split
  next _ _ _ e =>
    split
    · exact Res.canon.bindDev ((hs.of_fst e).deviceLoad) fun _ ht => ht.setG
    · exact Res.canon.bindX ((hs.of_fst e).readFor) fun _ ht => ht.setG

theorem State.canon.execLd {sz : Size} {d a : Reg} {off : BitVec 14} {s : State} (h : s.canon) :
    OnNext (execLd sz d a off s) :=
  h.issue fun _ hs => hs.loadInto

theorem State.canon.execLdZ {sz : Size} {d a : Reg} {off : BitVec 14} {s : State} (h : s.canon) :
    OnNext (execLdZ sz d a off s) :=
  h.issue fun _ hs => hs.loadInto

theorem State.canon.writeGreplay {s : State} {c : Nat} {v : Word} (h : s.canon) : (writeGreplay s c v).canon := by
  unfold Machine.writeGreplay
  split
  · exact h
  · exact h.setCtxt

theorem State.canon.writeFsum {s : State} {c : Nat} {v : Word} (h : s.canon) : (writeFsum s c v).canon := by
  unfold Machine.writeFsum
  split
  · exact h
  · exact h.setCtxt

theorem State.canon.writeSlogn {s : State} {c : Nat} {v : Word} (h : s.canon) : (writeSlogn s c v).canon := by
  unfold Machine.writeSlogn
  split
  · exact h
  · exact h.setCtxt

theorem State.canon.writeCpol {s : State} {c : Nat} {v : Word} (h : s.canon) : (writeCpol s c v).canon := by
  unfold Machine.writeCpol
  split
  · exact h
  · exact h.setCtxt

theorem State.canon.pageWrite {s : State} {c off : Nat} {v : Word} {host : Bool} (h : s.canon) :
    (pageWrite s c off v host).canon := by
  unfold Machine.pageWrite
  split
  · exact h.writeGreplay
  · split
    · exact h.writeFsum
    · exact h
  · exact h.writeSlogn
  · exact h.writeCpol
  · exact h

theorem State.canon.setPins {s : State} {p : Party} {l : ScratchLoc} {n : Nat} {v : Bool} (h : s.canon) :
    (setPins s p l n v).canon := by
  unfold Machine.setPins
  dsimp only
  split
  · exact h.setCore
  · split
    · exact h.modPanel
    · exact h
  · exact h

theorem State.canon.apertureStore {s : State} {p : Party} {word va : Word} {n : Nat} {data : Word} (h : s.canon) :
    OnOk State.canon (apertureStore s p word va n data) := by
  unfold Machine.apertureStore
  dsimp only
  split
  · trivial
  · split
    · trivial
    · split
      · trivial
      · split
        · trivial
        · split
          · trivial
          · split
            · trivial
            · show State.canon _
              split
              · split
                · exact h.setChan.countFor.setPins
                · exact h.setChan.countFor
              · exact h.setChan.countFor

theorem State.canon.deviceStore {s : State} {p : Party} {word va : Word} {pa n : Nat} {v : Word} (h : s.canon) :
    OnInl State.canon (deviceStore s p word va pa n v) := by
  unfold Machine.deviceStore
  dsimp only
  split
  · split
    · trivial
    · exact h.pageWrite
  · split
    · exact h.apertureStore
    · trivial
  · split <;> trivial

theorem State.canon.pushParts {s : State} {dom : Nat} {task : BitVec 32} {w : Option Writer} {pa0 x5 x6 : Nat}
    {x7 : List Byte} (h : s.canon) :
    (pushParts s dom task w pa0 x5 x6 x7).canon := by
  fun_induction Machine.pushParts s dom task w pa0 x5 x6 x7
  · exact h
  · exact h
  next _ _ _ _ _ _ _ _ _ e =>
    exact e h.pushUpdate

theorem State.canon.pushHome {s : State} {dom : Nat} {task : BitVec 32} {pa : Nat} {bs : List Byte} {w : Option Writer}
    (h : s.canon) :
    (pushHome s dom task pa bs w).canon :=
  h.pushParts

theorem State.canon.publishTileMem {s : State} {p t pa : Nat} {bs : List Byte} {wt : Bool} {dom : Nat} (h : s.canon) :
    (publishTileMem s p t pa bs wt dom).canon := by
  unfold Machine.publishTileMem
  split
  · exact h
  · dsimp only
    split
    · exact h.setPanel.pushHome
    · exact h.setPanel

theorem State.canon.publishSide {s : State} {p pa : Nat} {b : Byte} {dom : Nat} (h : s.canon) :
    (publishSide s p pa b dom).canon :=
  h.l2Meet.fillLine.frame

theorem State.canon.publishTileEntry {p t : Nat} {s : State} {e : LogEntry} (h : s.canon) :
    (publishTileEntry p t s e).canon := by
  unfold Machine.publishTileEntry
  split
  · exact h.modPanel
  · exact h.foldl fun _ _ hs => hs.publishTileMem
  · exact h
  · exact h.publishSide

theorem State.canon.publishSeqEntry {p : Nat} {s : State} {e : LogEntry} (h : s.canon) :
    (publishSeqEntry p s e).canon := by
  unfold Machine.publishSeqEntry
  split
  · exact h.modPanel
  · exact h.foldl fun _ _ hs => hs.pushHome
  · exact h

theorem State.canon.publishStrand {s : State} {p i : Nat} (h : s.canon) : (publishStrand s p i).canon := by
  unfold Machine.publishStrand
  split
  · exact h
  · exact (((h.foldl fun _ _ hs => hs.foldl fun _ _ ht => ht.publishTileEntry).foldl fun _ _ hs =>
      hs.publishSeqEntry).modPanel).setThread

theorem State.canon.publishLogs {s : State} {p : Nat} (h : s.canon) : (publishLogs s p).canon := by
  unfold Machine.publishLogs
  split
  · exact h
  · exact (h.setPanel.foldl fun _ _ hs => hs.publishStrand).modPanel

theorem State.canon.publishPanel {s : State} {p : Nat} (h : s.canon) : (publishPanel s p).canon :=
  h.modPanel.publishLogs

theorem State.canon.stitchPanel {s : State} {p : Nat} (h : s.canon) : (stitchPanel s p).canon :=
  h.publishPanel.takeShadow

theorem State.canon.stitchBefore {s : State} (h : s.canon) : (stitchBefore s).canon := by
  unfold Machine.stitchBefore
  split
  · exact h.stitchPanel
  · exact h.stitchPanel
  · exact h

theorem State.canon.touch {s : State} {p : Party} {pa : Nat} (h : s.canon) : (touch s p pa).canon :=
  h.setThread

theorem State.canon.appendSeq {s : State} {x i : Nat} {e : LogEntry} (h : s.canon) :
    OnOk State.canon (appendSeq s x i e) := by
  unfold Machine.appendSeq
  dsimp only
  split
  · trivial
  · exact h.modPanel

theorem State.canon.writeFor {s : State} {p : Party} {tg : Target} {bs : List Byte} (h : s.canon) :
    OnOk State.canon (writeFor s p tg bs) := by
  unfold Machine.writeFor
  split
  · exact h.setCore.pushHome.touch
  · exact h.appendSeq
  · exact h

theorem State.canon.storeAt {s : State} {word A : Word} {n : Nat} {v : Word} (h : s.canon) :
    (storeAt s word A n v).canon := by
  unfold Machine.storeAt
  refine Res.canon.bindX h.accessTarget ?_
  rintro ⟨_, _⟩ hs
  split
  next _ _ _ e =>
    split
    · refine Res.canon.bindDev ?_ (fun _ ht => ht)
      refine State.canon.deviceStore ?_
      split
      · exact (hs.of_fst e).stitchBefore
      · exact hs.of_fst e
    · exact Res.canon.bindX ((hs.of_fst e).writeFor) fun _ ht => ht

theorem State.canon.execSt {sz : Size} {d a : Reg} {off : BitVec 14} {s : State} (h : s.canon) :
    OnNext (execSt sz d a off s) := by
  unfold Machine.execSt
  dsimp only
  split
  · exact h.noteIssue.raise
  · split
    · split
      · exact h
      · exact h.finishRes h.storeAt
    · split
      · exact h
      · exact h.finishRes h.storeAt

theorem State.canon.readOk {s : State} {l : ScratchLoc} {n : Nat} {r : Res} (h : s.canon) (hf : r.canon) :
    (Res.readOk s l n r).canon := by
  unfold Machine.Res.readOk
  split
  · trivial
  · exact hf

theorem State.canon.scratchLoad {s : State} {d : Reg} {A : Word} {n : Nat} {signed : Bool} (h : s.canon) :
    (scratchLoad s d A n signed).canon := by
  unfold Machine.scratchLoad
  refine Res.canon.bindX' fun _ => ?_
  split
  · exact h
  · exact h.readOk h.setG

theorem State.canon.execLdS {sz : Size} {d a : Reg} {off : BitVec 14} {s : State} (h : s.canon) :
    OnNext (execLdS sz d a off s) :=
  h.issue fun _ hs => hs.scratchLoad

theorem State.canon.execLdSZ {sz : Size} {d a : Reg} {off : BitVec 14} {s : State} (h : s.canon) :
    OnNext (execLdSZ sz d a off s) :=
  h.issue fun _ hs => hs.scratchLoad

theorem State.canon.landCore {s : State} {c off : Nat} {bs : List Byte} {full : Bool} (h : s.canon) :
    (landCore s c off bs full).canon :=
  h.setCore

theorem State.canon.writeScratch {s : State} {p : Party} {l : ScratchLoc} {bs : List Byte} {full : Bool} (h : s.canon) :
    OnOk State.canon (writeScratch s p l bs full) := by
  unfold Machine.writeScratch
  split
  · exact h.landCore
  · exact h
  · exact h.appendSeq
  · exact h

theorem State.canon.execStS {sz : Size} {d a : Reg} {off : BitVec 14} {s : State} (h : s.canon) :
    OnNext (execStS sz d a off s) :=
  h.issue fun _ hs => Res.canon.bindX' fun _ => Res.canon.bindX hs.writeScratch fun _ ht => ht

theorem State.canon.execStfill {d a : Reg} {off : BitVec 14} {s : State} (h : s.canon) :
    OnNext (execStfill d a off s) :=
  h.issue fun _ hs => Res.canon.bindX' fun _ => Res.canon.bindX hs.writeScratch fun _ ht => ht

/-! ## Waits, caches, branches and traps -/

theorem State.canon.waitOr {s : State} {r : Option Res} {timeout : Word} (h : s.canon) (hr : OnSome Res.canon r) :
    (waitOr s r timeout).canon := by
  unfold Machine.waitOr
  split
  · exact hr
  · split
    · trivial
    · exact h

theorem State.canon.emptyWord {s : State} {p : Party} {l : ScratchLoc} (h : s.canon) : (emptyWord s p l).canon := by
  unfold Machine.emptyWord
  split
  · exact h.setCore
  · split
    · exact h.modPanel
    · exact h
  · exact h

theorem State.canon.ldsyncPoll {s : State} {d a : Reg} {off : BitVec 14} {e : Bool} (h : s.canon) :
    OnSome Res.canon (ldsyncPoll s d a off e) := by
  unfold Machine.ldsyncPoll
  split
  · trivial
  · split
    · exact h
    · split
      · dsimp only
        show Res.canon _
        refine State.canon.readOk h ?_
        show State.canon _
        refine State.canon.setG ?_
        split
        · exact h.emptyWord
        · exact h
      · trivial

theorem State.canon.execLdsync {d a : Reg} {off : BitVec 14} {s : State} (h : s.canon) :
    OnNext (execLdsync d a off s) :=
  h.issue fun _ hs => hs.waitOr hs.ldsyncPoll

theorem State.canon.execLdsyncE {d a : Reg} {off : BitVec 14} {s : State} (h : s.canon) :
    OnNext (execLdsyncE d a off s) := by
  unfold Machine.execLdsyncE
  refine State.canon.issue h fun _ hs => ?_
  dsimp only
  split
  · exact hs
  · exact hs.stitchBefore.waitOr hs.stitchBefore.ldsyncPoll

theorem State.canon.execPrefetch {a : Reg} {off : BitVec 14} {s : State} (h : s.canon) :
    OnNext (execPrefetch a off s) :=
  h.issue fun _ hs => hs

theorem State.canon.drainFor {s : State} {p : Party} {sel : Nat → Bool} (h : s.canon) : (drainFor s p sel).canon := by
  unfold Machine.drainFor
  split
  · exact h.drainPanel
  · exact h

theorem State.canon.dropClean {s : State} {p : Nat} {sel : Nat → Bool} (h : s.canon) : (dropClean s p sel).canon :=
  h.modPanel

theorem State.canon.dropCleanFor {s : State} {p : Party} {sel : Nat → Bool} (h : s.canon) :
    (dropCleanFor s p sel).canon := by
  unfold Machine.dropCleanFor
  split
  · exact h.setCore
  · split
    · exact h.dropClean
    · exact h

theorem State.canon.cacheOp {s : State} {A : Word} {drain drop : Bool} (h : s.canon) :
    (cacheOp s A drain drop).canon := by
  unfold Machine.cacheOp
  refine Res.canon.bindX h.translate ?_
  rintro ⟨_, _⟩ hs
  split
  next _ _ _ e =>
    dsimp only
    show State.canon _
    split
    · refine State.canon.dropCleanFor ?_
      split
      · exact (hs.of_fst e).drainFor
      · exact hs.of_fst e
    · split
      · exact (hs.of_fst e).drainFor
      · exact hs.of_fst e

theorem State.canon.execClean {a : Reg} {off : BitVec 14} {s : State} (h : s.canon) : OnNext (execClean a off s) :=
  h.issue fun _ hs => hs.cacheOp

theorem State.canon.execFlush {a : Reg} {off : BitVec 14} {s : State} (h : s.canon) : OnNext (execFlush a off s) :=
  h.issue fun _ hs => hs.cacheOp

theorem State.canon.execInval {a : Reg} {off : BitVec 14} {s : State} (h : s.canon) : OnNext (execInval a off s) :=
  h.issue fun _ hs => hs.cacheOp

theorem State.canon.execInvalI {s : State} (h : s.canon) : OnNext (execInvalI s) :=
  h.issue fun _ hs => hs.frame

theorem State.canon.branchTo {s : State} {pc : Word} (h : s.canon) : (branchTo s pc).canon :=
  h.countFor

theorem State.canon.execBr {off : BitVec 26} {s : State} (h : s.canon) : OnNext (execBr off s) :=
  h.issue fun _ hs => hs.branchTo

theorem State.canon.execJal {off : BitVec 26} {s : State} (h : s.canon) : OnNext (execJal off s) :=
  h.issue fun _ hs => hs.setG.branchTo

theorem State.canon.execJalr {d a : Reg} {imm : BitVec 16} {s : State} (h : s.canon) :
    OnNext (execJalr d a imm s) := by
  unfold Machine.execJalr
  refine State.canon.issue h fun _ hs => ?_
  dsimp only
  split
  · exact hs.setG.branchTo
  · trivial

theorem State.canon.sign {s : State} {b : Bool} (h : s.canon) : (State.sign s b).canon :=
  h.setCur

theorem State.canon.execBcc {cc : CC} {a b : Reg} {off : BitVec 12} {s : State} (h : s.canon) :
    OnNext (execBcc cc a b off s) := by
  unfold Machine.execBcc
  refine State.canon.issue h fun _ hs => ?_
  split
  · exact hs.sign.branchTo
  · exact hs.sign

theorem State.canon.execLexit {cc : CC} {a b : Reg} {slot : BitVec 2} {s : State} (h : s.canon) :
    OnNext (execLexit cc a b slot s) := by
  unfold Machine.execLexit
  refine State.canon.issue h fun _ hs => ?_
  split
  · dsimp only
    split
    · exact hs.setCur.sign
    · trivial
  · exact hs.sign

theorem State.canon.enterLoop {s : State} {i : Nat} {e : BitVec 15} {bound : BitVec 24} {n : Word} {exits : Bool}
    (h : s.canon) :
    (enterLoop s i e bound n exits).canon := by
  unfold Machine.enterLoop
  dsimp only
  split
  · split
    · split
      · split
        · trivial
        · split <;> exact h.setCur
      · split
        · trivial
        · split <;> exact h.setCur
    · split
      · split
        · trivial
        · split <;> exact h.setCur
      · split
        · trivial
        · split <;> exact h.setCur
  · split
    · split
      · split
        · trivial
        · split <;> exact h.setCur
      · split
        · trivial
        · split <;> exact h.setCur
    · split
      · split
        · trivial
        · split <;> exact h.setCur
      · split
        · trivial
        · split <;> exact h.setCur

theorem State.canon.execLoop {slot : BitVec 2} {a : Reg} {e : BitVec 15} {bound : BitVec 24} {s : State} (h : s.canon) :
    OnNext (execLoop slot a e bound s) :=
  h.issue fun _ hs => hs.enterLoop

theorem State.canon.execLoopw {slot : BitVec 2} {e : BitVec 15} {bound : BitVec 24} {s : State} (h : s.canon) :
    OnNext (execLoopw slot e bound s) :=
  h.issue fun _ hs => hs.enterLoop

theorem State.canon.execNop {s : State} (h : s.canon) : OnNext (execNop s) :=
  h.issue fun _ hs => hs

theorem State.canon.dropLoad {s : State} {p i : Nat} (h : s.canon) : (dropLoad s p i).canon :=
  h.modPanel

theorem State.canon.finSeq {s : State} {p i : Nat} (h : s.canon) : (finSeq s p i).canon :=
  h.publishPanel.modPanel.setCur.takeShadow

theorem State.canon.finCore {s : State} (h : s.canon) : (finCore s).canon :=
  h.setCur

theorem State.canon.execFin {s : State} (h : s.canon) : OnNext (execFin s) := by
  unfold Machine.execFin
  refine State.canon.issue h fun _ hs => ?_
  split
  · exact hs.dropLoad.raise
  · exact hs.finSeq
  · exact hs.finCore

theorem State.canon.firmwareRequest {s : State} {v : Word} (h : s.canon) : (firmwareRequest s v).canon := by
  unfold Machine.firmwareRequest
  split
  · exact h.setCtxt.countFor
  · exact h

theorem State.canon.execTrap {a : Reg} {s : State} (h : s.canon) : OnNext (execTrap a s) := by
  unfold Machine.execTrap
  refine State.canon.issue h fun _ hs => ?_
  split
  · exact hs.firmwareRequest
  · trivial

theorem State.canon.leaveTrap {s : State} {c n : Nat} (h : s.canon) : (leaveTrap s c n).canon :=
  h.setCtxt.setThread

theorem State.canon.settle {s : State} {f : FaultRec} (h : s.canon) : (settle s f).canon :=
  h.settleWith fun _ _ hs => hs.ignoreFault

theorem State.canon.offerNext {s : State} {c : Nat} (h : s.canon) : (offerNext s c).canon := by
  unfold Machine.offerNext
  split
  · dsimp only
    split
    · exact h.setCtxt.deliverFault
    · exact h.setCtxt.settle
  · exact h

theorem State.canon.dropTrap {s : State} {c : Nat} (h : s.canon) : (dropTrap s c).canon :=
  h.setCtxt

theorem State.canon.endHandling {s : State} {c n : Nat} (h : s.canon) : (endHandling s c n).canon := by
  unfold Machine.endHandling
  refine State.canon.offerNext ?_
  split
  · exact h.dropTrap
  · exact h.leaveTrap

theorem State.canon.containFrom {s : State} {f : FaultRec} {from_ : FObj} (h : s.canon) :
    (containFrom s f from_).canon :=
  h.containWith fun _ _ hs => hs.ignoreFault

theorem State.canon.contain {s : State} {f : FaultRec} (h : s.canon) : (contain s f).canon :=
  h.containFrom

theorem State.canon.runOn {s : State} {p : Nat} (h : s.canon) : (runOn s p).canon := by
  unfold Machine.runOn
  split
  · split
    · exact h.setPanel.foldl fun _ _ hs => hs.setThread
    · exact h
  · exact h

theorem State.canon.dropFreeze {s : State} {entry : Nat} (h : s.canon) : (dropFreeze s entry).canon := by
  unfold Machine.dropFreeze
  split
  · split
    · exact (((h.foldl fun _ _ hs => hs.runOn).frame).freeSlots).preemptEnds
    · exact h
  · exact h

theorem State.canon.factDone {s : State} {f : FaultRec} {act : Nat} (h : s.canon) : (factDone s f act).canon := by
  unfold Machine.factDone
  split
  · exact h.dropFreeze
  · exact h

theorem State.canon.resumeSlice {s : State} {p i : Nat} {past : Bool} (h : s.canon) :
    (resumeSlice s p i past).canon := by
  unfold Machine.resumeSlice
  dsimp only
  split
  · split
    · exact h.modPanel.setThread.completeIgnored
    · exact h.modPanel.setThread
  · exact h

theorem State.canon.resumePoison {s : State} {f : FaultRec} {act : Nat} (h : s.canon) :
    (resumePoison s f act).canon := by
  unfold Machine.resumePoison
  split
  · split
    · exact h.resumeSlice
    · split
      · exact h.resumeSlice
      · exact h
    · exact h
  · exact h

theorem State.canon.releaseClamp {s : State} {p : Nat} (h : s.canon) : (releaseClamp s p).canon :=
  h.modPanel

theorem State.canon.reissue {s : State} {e : EngineId} (h : s.canon) : (reissue s e).canon := by
  unfold Machine.reissue
  split
  · dsimp only
    split
    · exact h.setCtxt
    · exact h
  · split
    · exact h.frame
    · exact h
  · split
    · exact h.frame
    · exact h
  · exact h.modPanel
  · split
    · split
      · exact h.requeueTask
      · exact h
    · exact h
  · exact h
  · exact h

theorem State.canon.factAct {s : State} {f : FaultRec} {act : Nat} (h : s.canon) : (factAct s f act).canon := by
  unfold Machine.factAct
  dsimp only
  split
  · split
    · split
      · exact h.resumePoison.setThread
      · exact h.resumePoison
    · exact h.resumePoison
  · split
    · exact h.resumePoison.countFault.ignoreFault
    · exact h.resumePoison
  · split
    · split
      · exact h.resumePoison.releaseClamp
      · exact h.resumePoison
    · exact h.resumePoison
  · split
    · split
      · exact h.resumePoison.releaseClamp
      · exact h.resumePoison
    · exact h.resumePoison
  · split
    · split
      · exact h.resumePoison.releaseClamp
      · exact h.resumePoison
    · exact h.resumePoison
  · split
    · exact h.resumePoison.countFault.ignoreFault
    · exact h.resumePoison
  · split
    · exact h.resumePoison.countFault.ignoreFault
    · exact h.resumePoison
  · split
    · exact h.resumePoison.countFault.ignoreFault
    · exact h.resumePoison
  · split
    · split
      · exact h.resumePoison.reissue
      · exact h.resumePoison.unresolve
    · split
      · split
        · exact h.resumePoison.requeueTask
        · exact h.resumePoison
      · split
        · exact h.resumePoison.containFrom
        · exact h.resumePoison

theorem State.canon.eretAct {s : State} {c n : Nat} {f : FaultRec} {act : Nat} (h : s.canon) :
    (eretAct s c n f act).canon := by
  unfold Machine.eretAct
  split
  · exact h.dropTrap.offerNext
  · split
    · exact h.endHandling
    · split
      · split
        · exact h.leaveTrap.offerNext
        · split
          · exact h.leaveTrap.countFault.ignoreFault.offerNext
          · exact h.leaveTrap.contain.offerNext
      · exact h.factAct.factDone.endHandling

theorem State.canon.eretFrom {s : State} {c n : Nat} (h : s.canon) : (eretFrom s c n).canon := by
  unfold Machine.eretFrom
  split
  · exact h.leaveTrap
  · dsimp only
    refine State.canon.eretAct ?_
    split
    · exact h.preemptEnds
    · exact h

theorem State.canon.execEret {s : State} (h : s.canon) : OnNext (execEret s) := by
  unfold Machine.execEret
  refine State.canon.issue h fun _ hs => ?_
  split
  · exact hs.eretFrom
  · exact hs

theorem State.canon.execTlbinv {a b : Reg} {s : State} (h : s.canon) : OnNext (execTlbinv a b s) :=
  h.issue fun _ hs => hs

theorem State.canon.completeWait {s : State} {p : Party} {i : Instr} (h : s.canon) : (completeWait s p i).canon :=
  h.frame.setCur.retire.commitShadow

theorem State.canon.execTlbinvComplete {p : Party} {s : State} (h : s.canon) : OnNext (execTlbinvComplete p s) := by
  unfold Machine.execTlbinvComplete
  show State.canon _
  split
  · split
    · exact h.frame.completeWait
    · exact h
  · exact h

/-! ## Context images, vectors and consistency forms -/

theorem State.canon.storeParts {s : State} {p : Party} {x2 : Nat} {x3 : Word} {x4 : List Byte} (h : s.canon) :
    OnOk State.canon (storeParts s p x2 x3 x4) := by
  fun_induction Machine.storeParts s p x2 x3 x4
  · exact h
  · exact h
  · trivial
  · trivial
  · trivial
  next _ _ _ _ _ _ _ e _ _ e' e₂ =>
    exact e₂ (((h.translate.of_eq e).writeFor).of_eq e')

theorem State.canon.execCtxsave {a : Reg} {s : State} (h : s.canon) : OnNext (execCtxsave a s) := by
  unfold Machine.execCtxsave
  refine State.canon.issue h fun _ hs => ?_
  split
  · exact Res.canon.bindX hs.storeParts fun _ ht => ht
  · trivial

theorem State.canon.loadParts {s : State} {p : Party} {n : Nat} {va : Word} (h : s.canon) :
    OnOk (·.1.canon) (loadParts s p n va) := by
  induction n generalizing s va with
  | zero => exact h
  | succ n ih =>
    unfold Machine.loadParts
    split
    · trivial
    · next e =>
      split
      · trivial
      · split
        · trivial
        · next e' =>
          have ht := (State.canon.homeRead (h.translate.of_eq e)).of_eq e'
          split
          · trivial
          · next e'' => exact OnOk.of_eq (Q := (·.1.canon)) (ih ht) e''

theorem State.canon.draw {s : State} (h : s.canon) : (State.draw s).1.canon := by
  unfold Machine.State.draw
  dsimp only
  exact h.frame

theorem State.canon.execCtxload {a : Reg} {s : State} (h : s.canon) : OnNext (execCtxload a s) := by
  unfold Machine.execCtxload
  refine State.canon.issue h fun _ hs => ?_
  split
  · refine Res.canon.bindX hs.loadParts ?_
    rintro ⟨_, _⟩ ht
    split
    next _ _ _ e =>
      split
      next _ _ _ e' =>
        split
        · exact ((((ht.of_fst e).draw).of_fst e').setCur).setCtxt
        · trivial
  · trivial

theorem State.canon.setZ {s : State} {x : Reg} {v : Lanes} (h : s.canon) : (State.setZ s x v).canon :=
  h.setCur

theorem State.canon.execVld {d a : Reg} {off : BitVec 14} {s : State} (h : s.canon) : OnNext (execVld d a off s) := by
  unfold Machine.execVld
  refine State.canon.issue h fun _ hs => ?_
  dsimp only
  split
  · exact Res.canon.bindX' fun _ => hs.readOk hs.setZ
  · refine Res.canon.bindX hs.accessTarget ?_
    rintro ⟨_, _⟩ ht
    split
    · exact Res.canon.bindDev ht.deviceLoad fun _ hu => hu
    · exact Res.canon.bindX ht.readFor fun _ hu => hu.setZ

theorem State.canon.execVst {d a : Reg} {off : BitVec 14} {s : State} (h : s.canon) : OnNext (execVst d a off s) := by
  unfold Machine.execVst
  refine State.canon.issue h fun _ hs => ?_
  dsimp only
  split
  · exact Res.canon.bindX' fun _ => Res.canon.bindX hs.writeScratch fun _ ht => ht
  · refine Res.canon.bindX hs.accessTarget ?_
    rintro ⟨_, _⟩ ht
    split
    · exact Res.canon.bindDev ht.deviceStore fun _ hu => hu
    · exact Res.canon.bindX ht.writeFor fun _ hu => hu

theorem State.canon.laneTargets {s : State} {acc : Access} {x2 : List Word} (h : s.canon) :
    OnOk (·.1.canon) (laneTargets s acc x2) := by
  fun_induction Machine.laneTargets s acc x2
  · exact h
  · trivial
  · trivial
  · trivial
  next _ _ _ _ _ e _ _ _ e' e₂ =>
    show State.canon _
    dsimp only
    exact (e₂ (h.translate.of_eq e)).of_eq e'

theorem State.canon.readLanes {s : State} {x1 : List Target} (h : s.canon) : OnOk (·.1.canon) (readLanes s x1) := by
  fun_induction Machine.readLanes s x1
  · exact h
  · trivial
  · trivial
  next _ _ _ _ _ e _ _ e' e₂ =>
    show State.canon _
    dsimp only
    exact (e₂ (h.readFor.of_eq e)).of_eq e'

theorem State.canon.execVgather {d a b : Reg} {s : State} (h : s.canon) : OnNext (execVgather d a b s) := by
  unfold Machine.execVgather
  refine State.canon.issue h fun _ hs => ?_
  split
  · trivial
  · exact Res.canon.bindX hs.laneTargets fun _ ht => Res.canon.bindX ht.readLanes fun _ hu => hu.setZ

theorem State.canon.writeLanes {s : State} {x1 : List (Target × W32)} (h : s.canon) :
    OnOk State.canon (writeLanes s x1) := by
  fun_induction Machine.writeLanes s x1
  · exact h
  · trivial
  next _ _ _ _ _ e e' =>
    exact e' (h.writeFor.of_eq e)

theorem State.canon.execVscatter {d a b : Reg} {s : State} (h : s.canon) : OnNext (execVscatter d a b s) := by
  unfold Machine.execVscatter
  refine State.canon.issue h fun _ hs => ?_
  split
  · trivial
  · exact Res.canon.bindX hs.laneTargets fun _ ht => Res.canon.bindX ht.writeLanes fun _ hu => hu

theorem State.canon.execVmovg {d a b : Reg} {s : State} (h : s.canon) : OnNext (execVmovg d a b s) :=
  h.issue fun _ hs => hs.setG

theorem State.canon.execVmovz {d a b : Reg} {s : State} (h : s.canon) : OnNext (execVmovz d a b s) :=
  h.issue fun _ hs => hs.setZ

theorem State.canon.execVop {op : BitVec 5} {w : BitVec 30} {s : State} (h : s.canon) : OnNext (execVop op w s) := by
  unfold Machine.execVop
  refine State.canon.issue h fun _ hs => ?_
  split
  · exact hs.setCur
  · trivial

theorem State.canon.execBind {a b c : Reg} {s : State} (h : s.canon) : OnNext (execBind a b c s) := by
  unfold Machine.execBind
  refine State.canon.issue h fun _ hs => ?_
  dsimp only
  split
  · trivial
  · split
    · trivial
    · split
      · trivial
      · split
        · trivial
        · exact hs.setCur

theorem State.canon.execUnbind {c : Reg} {s : State} (h : s.canon) : OnNext (execUnbind c s) :=
  h.issue fun _ hs => hs.setCur

theorem State.canon.objectAt {s : State} {sc : Scope} {acc : Access} {a : Word} {n : Nat} (h : s.canon) :
    OnOk (·.1.canon) (objectAt s sc acc a n) := by
  unfold Machine.objectAt
  split
  · split
    · trivial
    · split
      · trivial
      · split
        · exact h
        · trivial
  · split
    · trivial
    · split
      · trivial
      next _ _ _ e =>
        split
        · trivial
        · show State.canon _
          dsimp only
          exact h.accessTarget.of_eq e

theorem State.canon.acquireDrop {s : State} {obj : Word} (h : s.canon) : (acquireDrop s obj).canon := by
  unfold Machine.acquireDrop
  dsimp only
  split
  · exact h
  · exact h.dropCleanFor

theorem State.canon.execAcq {sc : Scope} {sz : Size} {a b : Reg} {s : State} (h : s.canon) :
    OnNext (execAcq sc sz a b s) := by
  unfold Machine.execAcq
  refine State.canon.issue h fun _ hs => ?_
  dsimp only
  refine Res.canon.bindX hs.objectAt ?_
  rintro ⟨_, _⟩ ht
  split
  · exact ht
  · split
    · exact ht.acquireDrop.countFor.readOk ht.acquireDrop.countFor.setG
    · exact Res.canon.bindX ht.acquireDrop.countFor.homeRead fun _ hu => hu.setG

theorem State.canon.applyHead {s : State} {x1 : Nat} (h : s.canon) : (applyHead s x1).canon := by
  unfold Machine.applyHead
  split
  · exact h
  · exact h.frame.perform
  · exact h.frame.perform

theorem State.canon.applyUntil {sel : HomeReq → Bool} {x1 x2 : Nat} {x3 : State} (h : x3.canon) :
    (applyUntil sel x1 x2 x3).canon := by
  fun_induction Machine.applyUntil sel x1 x2 x3
  · exact h
  next _ _ _ e =>
    exact e h.applyHead
  · exact h

theorem State.canon.flushReqs {s : State} {sel : HomeReq → Bool} (h : s.canon) : (flushReqs s sel).canon :=
  h.foldl fun _ _ hs => hs.applyUntil

theorem State.canon.flushRanges {s : State} {rs : List (Nat × Nat)} (h : s.canon) : (flushRanges s rs).canon :=
  h.flushReqs

theorem State.canon.releaseRanges {s : State} {p : Party} {rs : List (Nat × Nat)} (h : s.canon) :
    (releaseRanges s p rs).canon :=
  h.drainFor.flushRanges

theorem State.canon.releaseData {s : State} {sc : Scope} {scratch : Bool} {obj : Word} (h : s.canon) :
    (releaseData s sc scratch obj).canon := by
  unfold Machine.releaseData
  split
  · exact h
  · exact h.releaseRanges

theorem State.canon.execRel {sc : Scope} {sz : Size} {a b : Reg} {s : State} (h : s.canon) :
    OnNext (execRel sc sz a b s) := by
  unfold Machine.execRel
  refine State.canon.issue h fun _ hs => ?_
  dsimp only
  refine Res.canon.bindX hs.objectAt ?_
  rintro ⟨_, _⟩ ht
  split
  · exact ht
  · split
    · show State.canon _
      split
      · exact ht.stitchBefore.countFor.releaseData.modPanel
      · exact ht.stitchBefore.countFor.releaseData
    · exact ht.stitchBefore.countFor.releaseData.landCore
    · exact ht.stitchBefore.countFor
    · split
      · exact Res.canon.bindX ht.stitchBefore.countFor.releaseData.writeFor fun _ hu => hu
      · exact ht.stitchBefore.countFor.releaseData.pushHome.touch

theorem State.canon.flushLines {s : State} {ls : List Nat} (h : s.canon) : (flushLines s ls).canon :=
  h.flushRanges

theorem State.canon.fenceFor {s : State} {p : Party} {sc : Scope} (h : s.canon) : (fenceFor s p sc).canon := by
  unfold Machine.fenceFor
  split
  · exact h
  · exact h.drainFor.flushLines.setThread.dropCleanFor

theorem State.canon.execFence {sc : Scope} {s : State} (h : s.canon) : OnNext (execFence sc s) := by
  unfold Machine.execFence
  refine State.canon.issue h fun _ hs => ?_
  dsimp only
  show State.canon _
  refine State.canon.countFor <| State.canon.fenceFor ?_
  split
  · exact hs.stitchPanel
  · exact hs

theorem State.canon.barTarget {s : State} {b : Reg} (h : s.canon) : OnOk (·.1.canon) (barTarget s b) := by
  unfold Machine.barTarget
  dsimp only
  split
  · trivial
  · split
    · trivial
    · split
      · trivial
      next _ _ _ e =>
        split
        · trivial
        · show State.canon _
          dsimp only
          exact h.translate.of_eq e

theorem State.canon.barRelease {s : State} {b : Reg} (h : s.canon) : (barRelease s b).canon :=
  h.stitchBefore.releaseData.countFor

theorem State.canon.barApply {s : State} {tg : Target} {w : Word} (h : s.canon) : (barApply s tg w).canon :=
  h.writeHomeNow.countFor

/-! ## Barriers and determinism logs -/

theorem State.canon.arrivedOr {i : Instr} {s : State} {r : Option Res} {timeout : Word} (h : s.canon)
    (hr : OnSome Res.canon r) : (arrivedOr i s r timeout).canon := by
  unfold Machine.arrivedOr
  split
  · exact h.setCur
  · exact hr
  · split
    · exact h.setCur.commitShadow
    · exact h

theorem State.canon.barPoll {s : State} {a b : Reg} (h : s.canon) : OnSome Res.canon (barPoll s a b) := by
  unfold Machine.barPoll
  split
  · trivial
  next _ _ _ e =>
    split
    · trivial
    next _ _ _ e' =>
      split
      · trivial
      · exact (((((h.barTarget.of_eq e).homeRead).of_eq e').acquireDrop).countFor).setG

theorem State.canon.execBar {sc : Scope} {a b c : Reg} {s : State} (h : s.canon) : OnNext (execBar sc a b c s) := by
  unfold Machine.execBar
  refine State.canon.issue h fun _ hs => Res.canon.bindX hs.barTarget ?_
  rintro ⟨_, _⟩ ht
  split
  next _ _ _ e =>
    dsimp only
    split
    · exact (ht.of_fst e).barRelease
    next _ _ _ e' =>
      split
      · exact (((ht.of_fst e).barRelease).homeRead).of_eq e'
      · exact (((((ht.of_fst e).barRelease).homeRead).of_eq e').barApply).arrivedOr
          ((((((ht.of_fst e).barRelease).homeRead).of_eq e').barApply).barPoll)

theorem State.canon.applyEntry {s : State} {e : DEntry} (h : s.canon) : (applyEntry s e).canon :=
  h.flushSlice.writeHomeNow

theorem State.canon.merge {s : State} {entry : Nat} (h : s.canon) : (merge s entry).canon :=
  (h.foldl fun _ _ hs => hs.applyEntry).frame

theorem State.canon.mergeFor {s : State} {p : Party} {entry : Nat} (h : s.canon) : (mergeFor s p entry).canon :=
  h.merge.countFor.countFor

theorem State.canon.gbarComplete {s : State} {entry : Nat} (h : s.canon) : (gbarComplete s entry).canon := by
  unfold Machine.gbarComplete
  split
  · exact h
  · split
    · dsimp only
      split
      · dsimp only [State.canon]
        change State.canon _
        split
        · exact h.mergeFor
        · exact h
      · split
        · exact h.mergeFor
        · exact h
    · exact h

theorem State.canon.gbarArrive {s : State} {m : Bool} (h : s.canon) : (gbarArrive s m).canon := by
  unfold Machine.gbarArrive
  dsimp only
  split
  · refine State.canon.gbarComplete ?_
    dsimp only [State.canon]
    change State.canon _
    refine State.canon.countFor <| State.canon.fenceFor ?_
    split
    · exact h.publishPanel
    · exact h
  · refine State.canon.countFor <| State.canon.fenceFor ?_
    split
    · exact h.publishPanel
    · exact h

theorem State.canon.gbarPoll {s : State} (h : s.canon) : OnSome Res.canon (gbarPoll s) := by
  unfold Machine.gbarPoll
  split
  · trivial
  · exact h.dropCleanFor

theorem State.canon.gbarBody {i : Instr} {m : Bool} {c : Reg} {s : State} (h : s.canon) :
    (gbarBody i m c s).canon := by
  unfold Machine.gbarBody
  split
  · exact h.gbarArrive.arrivedOr h.gbarArrive.gbarPoll
  · trivial

theorem State.canon.execGbar {c : Reg} {s : State} (h : s.canon) : OnNext (execGbar c s) :=
  h.issue fun _ hs => hs.gbarBody

theorem State.canon.execGbarM {c : Reg} {s : State} (h : s.canon) : OnNext (execGbarM c s) :=
  h.issue fun _ hs => hs.gbarBody

theorem State.canon.execTickget {a : Reg} {s : State} (h : s.canon) : OnNext (execTickget a s) :=
  h.issue fun _ hs => hs.setG

theorem State.canon.tickPoll {s : State} {a b : Reg} (h : s.canon) : OnSome Res.canon (tickPoll s a b) := by
  unfold Machine.tickPoll
  dsimp only
  split
  · exact h.countFor.setG
  · trivial

theorem State.canon.execTickwait {a b : Reg} {s : State} (h : s.canon) : OnNext (execTickwait a b s) := by
  unfold Machine.execTickwait
  refine State.canon.issue h fun _ hs => ?_
  dsimp only
  split
  · trivial
  · split
    next _ _ e =>
      exact hs.tickPoll.of_eq e
    · exact hs

theorem State.canon.amoTarget {s : State} {kind n : Nat} {A : Word} (h : s.canon) :
    OnOk (·.1.canon) (amoTarget s kind n A) := by
  unfold Machine.amoTarget
  split
  · trivial
  · split
    · trivial
    · split
      · trivial
      next _ _ _ e =>
        split
        · trivial
        · split
          · trivial
          · show State.canon _
            dsimp only
            exact h.translate.of_eq e

theorem State.canon.amoLog {s : State} {i : Instr} {kind : Nat} {wide : Bool} {a : Reg} {v A : Word} {tg : Target}
    (h : s.canon) :
    (amoLog s i kind wide a v A tg).canon := by
  unfold Machine.amoLog
  split
  · trivial
  · dsimp only
    split
    · exact h.countFor.raise
    · exact h.stitchBefore.frame.setCur.countFor

theorem State.canon.amoDrain {s : State} {p : Party} {line : Nat} (h : s.canon) : (amoDrain s p line).canon := by
  unfold Machine.amoDrain
  split
  · exact h.drainPanel
  · exact h

theorem State.canon.amoApply {s : State} {kind n : Nat} {a : Reg} {v : Word} {tg : Target} (h : s.canon) :
    (amoApply s kind n a v tg).canon :=
  Res.canon.bindX h.stitchBefore.amoDrain.homeRead fun _ hs => hs.writeHomeNow.dropCleanFor.countFor.setG

theorem State.canon.amoBody {i : Instr} {kind : Nat} {wide : Bool} {a b c : Reg} {s : State} (h : s.canon) :
    OnNext (amoBody i kind wide a b c s) := by
  unfold Machine.amoBody
  refine State.canon.issue h fun _ hs => ?_
  dsimp only
  refine Res.canon.bindX hs.amoTarget ?_
  rintro ⟨_, _⟩ ht
  split
  · exact ht.amoLog
  · exact ht.amoApply

/-! ## Engine forms: apertures, bobbin, quilt and press -/

theorem State.canon.engTarget {s : State} {q : XReq} {va : Word} (h : s.canon) :
    OnOk (·.1.canon) (engTarget s q va) := by
  unfold Machine.engTarget
  split
  · trivial
  next _ _ _ e =>
    split
    · trivial
    · show State.canon _
      dsimp only
      exact h.translate.of_eq e

theorem State.canon.engRead {s : State} {q : XReq} {x2 : Nat} {x3 : Word} {x4 : Nat} (h : s.canon) :
    OnOk (·.1.canon) (engRead s q x2 x3 x4) := by
  fun_induction Machine.engRead s q x2 x3 x4
  · exact h
  · exact h
  · trivial
  · trivial
  · trivial
  · trivial
  next _ _ _ _ _ _ _ _ e _ _ _ _ _ _ e' e₂ =>
    show State.canon _
    dsimp only
    exact (e₂ ((h.engTarget.of_eq e).l2Fill)).of_eq e'

theorem State.canon.engReadN {s : State} {q : XReq} {va : Word} {n : Nat} (h : s.canon) :
    OnOk (·.1.canon) (engReadN s q va n) :=
  h.engRead

theorem State.canon.execBttpl {a b : Reg} {s : State} (h : s.canon) : OnNext (execBttpl a b s) := by
  unfold Machine.execBttpl
  refine State.canon.issue h fun _ hs => ?_
  dsimp only
  split
  · trivial
  · split
    · trivial
    · refine Res.canon.bindX hs.stitchBefore.engReadN ?_
      rintro ⟨_, _⟩ ht
      split
      · trivial
      · split
        · trivial
        · split
          · trivial
          · exact ht.setCtxt

theorem State.canon.execApertureStore {d a : Reg} {off : BitVec 14} {s : State} (h : s.canon) :
    OnNext (execApertureStore d a off s) := by
  unfold Machine.execApertureStore
  dsimp only
  split
  · exact h.noteIssue.raise
  · split
    · exact h
    · refine State.canon.finishRes h ?_
      split
      · exact h.storeAt
      · trivial

theorem State.canon.execCopyStatusLoad {d a : Reg} {off : BitVec 14} {s : State} (h : s.canon) :
    OnNext (execCopyStatusLoad d a off s) := by
  unfold Machine.execCopyStatusLoad
  dsimp only
  split
  · exact h.noteIssue.raise
  · refine State.canon.finishRes h <| Res.canon.bindX h.accessTarget ?_
    rintro ⟨_, _⟩ hs
    split
    · exact Res.canon.bindDev hs.deviceLoad fun _ ht => ht.setG
    · trivial

theorem State.canon.waitwAcquire {s : State} {A : Word} (h : s.canon) : (waitwAcquire s A).canon :=
  h.acquireDrop.countFor

theorem State.canon.waitwPoll {s : State} {a b : Reg} (h : s.canon) : OnSome Res.canon (waitwPoll s a b) := by
  unfold Machine.waitwPoll
  dsimp only
  split
  · trivial
  · split
    · split
      · trivial
      · split
        · exact h
        · split
          · trivial
          · split
            · exact h.waitwAcquire
            · trivial
    · split
      · trivial
      next _ _ _ e =>
        split
        · trivial
        · split
          · trivial
          next _ _ _ e' =>
            split
            · exact (((h.translate.of_eq e).homeRead).of_eq e').waitwAcquire
            · trivial

theorem State.canon.execWaitw {a b c : Reg} {s : State} (h : s.canon) : OnNext (execWaitw a b c s) :=
  h.issue fun _ hs => hs.waitOr hs.waitwPoll

theorem State.canon.pinPoll {s : State} {a b : Reg} (h : s.canon) : OnSome Res.canon (pinPoll s a b) := by
  unfold Machine.pinPoll
  dsimp only
  split
  · trivial
  · split
    · trivial
    · split
      · trivial
      · split
        · trivial
        · split
          · exact h
          · trivial

theorem State.canon.execPinwait {a b c : Reg} {s : State} (h : s.canon) : OnNext (execPinwait a b c s) :=
  h.issue fun _ hs => hs.waitOr hs.pinPoll

theorem State.canon.execBdraw {a b c : Reg} {s : State} (h : s.canon) : OnNext (execBdraw a b c s) := by
  unfold Machine.execBdraw
  refine State.canon.issue h fun _ hs => ?_
  dsimp only
  split
  · trivial
  · exact hs.countFor.setG

theorem State.canon.setBobbin {s : State} {p : Party} {q : List BobbinCmd} (h : s.canon) : (setBobbin s p q).canon :=
  h

theorem State.canon.acceptBobbin {s : State} {c : BobbinCmd} (h : s.canon) : (acceptBobbin s c).canon :=
  h.setBobbin

theorem State.canon.bobbinParts {q : XReq} {x1 : Nat} {x2 : State} {x3 : Word} {x4 : List Byte} (h : x2.canon) :
    OnOk (·.1.canon) (bobbinParts q x1 x2 x3 x4) := by
  fun_induction Machine.bobbinParts q x1 x2 x3 x4
  · exact h
  · exact h
  · trivial
  · trivial
  next _ _ _ _ _ _ _ e _ _ _ e' e₂ =>
    show State.canon _
    dsimp only
    exact (e₂ (h.engTarget.of_eq e)).of_eq e'

theorem State.canon.queueWrite {s : State} {a : Word} {bs : List Byte} {f : State → Res} (h : s.canon)
    (hf : ∀ x, x.canon → (f x).canon) :
    (queueWrite s a bs f).canon := by
  unfold Machine.queueWrite
  dsimp only
  split
  · split
    · exact hf _ h.acceptBobbin
    · exact hf _ h.acceptBobbin
    · trivial
  · exact Res.canon.bindX h.bobbinParts fun _ hs => hf _ hs.acceptBobbin

theorem State.canon.execBdrawv {a b c : Reg} {s : State} (h : s.canon) : OnNext (execBdrawv a b c s) := by
  unfold Machine.execBdrawv
  refine State.canon.issue h fun _ hs => ?_
  dsimp only
  split
  · trivial
  · split
    · trivial
    · exact hs.stitchBefore.queueWrite fun _ ht => ht.countFor

theorem State.canon.execBseed {a b : Reg} {s : State} (h : s.canon) : OnNext (execBseed a b s) :=
  h.issue fun _ hs => hs.setCur

theorem State.canon.landScratch {s : State} {p : Party} {l : ScratchLoc} {bs : List Byte} (h : s.canon) :
    (landScratch s p l bs).canon := by
  unfold Machine.landScratch
  split
  · exact h.landCore
  · split
    · exact h.modPanel
    · exact h
  · exact h

theorem State.canon.bobbinStep {s : State} {p : Party} (h : s.canon) : (bobbinStep s p).canon := by
  unfold Machine.bobbinStep
  split
  · exact h
  · split
    · exact h.pushHome.setBobbin
    · dsimp only
      split
      · split
        · exact h
        · exact h.landScratch.setBobbin
      · split
        · split
          · exact h
          · exact h.landScratch.setBobbin
        · split
          · exact h
          · exact h.landScratch.setBobbin
    · exact h.setBobbin

theorem State.canon.runBobbin {p : Party} {x1 : Nat} {x2 : State} (h : x2.canon) : (runBobbin p x1 x2).canon := by
  fun_induction Machine.runBobbin p x1 x2
  · exact h
  · exact h
  next _ _ _ e =>
    exact e h.bobbinStep

theorem State.canon.finishBobbin {s : State} (h : s.canon) : (finishBobbin s).canon :=
  h.runBobbin.flushRanges

theorem State.canon.execBspool {a : Reg} {s : State} (h : s.canon) : OnNext (execBspool a s) := by
  unfold Machine.execBspool
  refine State.canon.issue h fun _ hs => ?_
  dsimp only
  split
  · exact hs
  · split
    · trivial
    · refine Res.canon.bindX hs.stitchBefore.finishBobbin.engReadN ?_
      rintro ⟨_, _⟩ ht
      split
      · trivial
      · exact ht.countFor.setCur

theorem State.canon.execBspsave {a : Reg} {s : State} (h : s.canon) : OnNext (execBspsave a s) := by
  unfold Machine.execBspsave
  refine State.canon.issue h fun _ hs => ?_
  dsimp only
  split
  · trivial
  · split
    · exact Res.canon.bindX hs.stitchBefore.translate fun _ ht => ht
    · exact hs.stitchBefore.queueWrite fun _ ht => ht.countFor

theorem State.canon.execBmode {a : Reg} {s : State} (h : s.canon) : OnNext (execBmode a s) := by
  unfold Machine.execBmode
  refine State.canon.issue h fun _ hs => ?_
  split
  · trivial
  · exact hs.setCur

theorem State.canon.quiltIssue {i : Instr} {op : Nat} {a b c : Word} {s : State} (h : s.canon) :
    (quiltIssue i op a b c s).canon := by
  unfold Machine.quiltIssue
  split
  · trivial
  · exact h.stitchBefore.frame

theorem State.canon.execQinit {a c : Reg} {s : State} (h : s.canon) : OnNext (execQinit a c s) :=
  h.issue fun _ hs => hs.quiltIssue

theorem State.canon.execQapp {a b c : Reg} {s : State} (h : s.canon) : OnNext (execQapp a b c s) :=
  h.issue fun _ hs => hs.quiltIssue

theorem State.canon.execQdesc {a b c : Reg} {s : State} (h : s.canon) : OnNext (execQdesc a b c s) :=
  h.issue fun _ hs => hs.quiltIssue

theorem State.canon.execQsplit {a b c : Reg} {s : State} (h : s.canon) : OnNext (execQsplit a b c s) :=
  h.issue fun _ hs => hs.quiltIssue

theorem State.canon.execQmerge {a b c : Reg} {s : State} (h : s.canon) : OnNext (execQmerge a b c s) :=
  h.issue fun _ hs => hs.quiltIssue

theorem State.canon.execQfork {a b c : Reg} {s : State} (h : s.canon) : OnNext (execQfork a b c s) :=
  h.issue fun _ hs => hs.quiltIssue

theorem State.canon.execQevict {a b c : Reg} {s : State} (h : s.canon) : OnNext (execQevict a b c s) :=
  h.issue fun _ hs => hs.quiltIssue

theorem State.canon.execQmark {a c : Reg} {s : State} (h : s.canon) : OnNext (execQmark a c s) :=
  h.issue fun _ hs => hs.quiltIssue

theorem State.canon.execQtrim {a c : Reg} {s : State} (h : s.canon) : OnNext (execQtrim a c s) :=
  h.issue fun _ hs => hs.quiltIssue

theorem State.canon.execQstat {a b c : Reg} {s : State} (h : s.canon) : OnNext (execQstat a b c s) :=
  h.issue fun _ hs => hs.quiltIssue

theorem State.canon.execQfree {a c : Reg} {s : State} (h : s.canon) : OnNext (execQfree a c s) :=
  h.issue fun _ hs => hs.quiltIssue

theorem State.canon.quiltWord {s : State} {c : QuiltCmd} (h : s.canon) : OnOk (·.1.canon) (quiltWord s c) := by
  unfold Machine.quiltWord
  split
  · exact h
  · split
    next _ _ _ e =>
      show State.canon _
      dsimp only
      exact h.engTarget.of_eq e
    · split <;> trivial

theorem State.canon.setQuilt {s : State} {n : Nat} {c : QuiltCmd} (h : s.canon) : (setQuilt s n c).canon :=
  h

theorem State.canon.offerEngine {s : State} {ctx : Nat} {task : BitVec 32} {t : Trap} {source issuer : Nat}
    {e : Option EngineId} (h : s.canon) :
    (offerEngine s ctx task t source issuer e).canon := by
  unfold Machine.offerEngine
  dsimp only
  split
  · split
    · split
      · exact h.countFault.unresolve
      · exact h.countFault
    · exact h.offer
  · split
    · split
      · exact h.countFault.unresolve
      · exact h.countFault
    · exact h.offer

theorem State.canon.quiltEnd {s : State} {n : Nat} {c : QuiltCmd} {x3 : QErr} (h : s.canon) :
    (quiltEnd s n c x3).canon := by
  unfold Machine.quiltEnd
  split
  · exact h.setQuilt
  · exact h.setQuilt.offerEngine
  · exact h.setQuilt.offerEngine
  · exact h.setQuilt
  · exact h.setQuilt

theorem State.canon.cmdBytes {s : State} {p : Party} {l : ScratchLoc} {n : Nat} (h : s.canon) :
    (cmdBytes s p l n).1.canon := by
  unfold Machine.cmdBytes
  split
  · dsimp only
    exact h.frame
  · exact h

theorem State.canon.offerQuilt {s : State} {c : QuiltCmd} {code : Nat} (h : s.canon) : (offerQuilt s c code).canon :=
  h.offerEngine

theorem State.canon.writeQuiltWord {s : State} {c : QuiltCmd} {code fields : Nat} (h : s.canon) :
    (writeQuiltWord s c code fields).canon := by
  unfold Machine.writeQuiltWord
  dsimp only
  split
  · exact h
  · split
    · split
      · exact h.landScratch
      · exact h
    · split
      · exact h.pushHome
      · exact h

theorem State.canon.countCmd {s : State} {p : Party} {uid ev n : Nat} (h : s.canon) :
    (countCmd s p uid ev n).canon := by
  unfold Machine.countCmd
  split
  · exact h
  · exact h.countFor

theorem State.canon.quiltEvents {s : State} {c : QuiltCmd} (h : s.canon) : (quiltEvents s c).canon :=
  h.foldl fun _ _ hs => hs.countCmd

theorem State.canon.quiltComplete {s : State} {n : Nat} (h : s.canon) : (quiltComplete s n).canon := by
  unfold Machine.quiltComplete
  split
  · exact h
  · split
    · exact h
    · dsimp only
      split
      · exact h.writeQuiltWord.frame.offerQuilt
      · split
        · exact h.writeQuiltWord.frame.quiltEvents
        · exact h

theorem State.canon.pressIssue {i : Instr} {op : Nat} {a b c : Reg} {s : State} (h : s.canon) :
    (pressIssue i op a b c s).canon := by
  unfold Machine.pressIssue
  split
  · trivial
  · exact h.stitchBefore.frame

theorem State.canon.execPrcopy {a b c : Reg} {s : State} (h : s.canon) : OnNext (execPrcopy a b c s) :=
  h.issue fun _ hs => hs.pressIssue

theorem State.canon.execPrfill {a b c : Reg} {s : State} (h : s.canon) : OnNext (execPrfill a b c s) :=
  h.issue fun _ hs => hs.pressIssue

theorem State.canon.execPrand {a b c : Reg} {s : State} (h : s.canon) : OnNext (execPrand a b c s) :=
  h.issue fun _ hs => hs.pressIssue

theorem State.canon.execPror {a b c : Reg} {s : State} (h : s.canon) : OnNext (execPror a b c s) :=
  h.issue fun _ hs => hs.pressIssue

theorem State.canon.execPrxor {a b c : Reg} {s : State} (h : s.canon) : OnNext (execPrxor a b c s) :=
  h.issue fun _ hs => hs.pressIssue

theorem State.canon.execPrnot {a b c : Reg} {s : State} (h : s.canon) : OnNext (execPrnot a b c s) :=
  h.issue fun _ hs => hs.pressIssue

theorem State.canon.recordTarget {s : State} {c : PressCmd} (h : s.canon) : OnOk (·.1.canon) (recordTarget s c) := by
  unfold Machine.recordTarget
  split
  · exact h
  · split
    next _ _ _ e =>
      show State.canon _
      dsimp only
      exact h.engTarget.of_eq e
    · trivial

theorem State.canon.setCounters {s : State} {p : Party} {v : Vector Counter 4} (h : s.canon) :
    (setCounters s p v).canon := by
  unfold Machine.setCounters
  split
  · exact h.modPanel
  · exact h.setCore

theorem State.canon.countPress {s : State} {q : PressCmd} {ev st : Nat} (h : s.canon) :
    (countPress s q ev st).canon := by
  unfold Machine.countPress
  split
  · exact h.setCounters
  · exact h

theorem State.canon.offerPress {s : State} {c : PressCmd} {code : Nat} (h : s.canon) :
    (offerPress s c code).canon := by
  unfold Machine.offerPress
  split
  · exact h
  · exact h.offerEngine

theorem State.canon.closePress {s : State} {n : Nat} {c : PressCmd} {code : Nat} (h : s.canon) :
    (closePress s n c code).canon := by
  unfold Machine.closePress
  dsimp only
  refine State.canon.offerPress ?_
  dsimp only [State.canon]
  change State.canon _
  split
  · exact h.countPress
  · exact h

theorem State.canon.setPress {s : State} {n : Nat} {c : PressCmd} (h : s.canon) : (setPress s n c).canon :=
  h

theorem State.canon.pressStop {s : State} {n : Nat} {c : PressCmd} {x3 : PressEnd} (h : s.canon) :
    (pressStop s n c x3).canon := by
  unfold Machine.pressStop
  split
  · exact h.setPress
  · exact h.setPress.offerEngine

/-- The state in which a press command's record has been written has a property. -/
def RecordEnd.OnDone (Q : State → Prop) : RecordEnd → Prop
  | .done s => Q s
  | _ => True

theorem State.canon.writePressRecord {s : State} {c : PressCmd} {code : Nat} (h : s.canon) :
    (writePressRecord s c code).OnDone State.canon := by
  unfold Machine.writePressRecord
  dsimp only
  split
  · exact h
  · split
    · split
      · split
        · trivial
        · exact h.landScratch.landScratch
      · exact h
    · split
      · next e => exact (State.canon.writeHomeNow (h.recordTarget.of_eq e)).writeHomeNow
      · split
        · trivial
        · exact h

theorem State.canon.endPress {s : State} {n : Nat} {c : PressCmd} {code : Nat} (h : s.canon) : (endPress s n c code).canon := by
  unfold Machine.endPress
  have hw := h.writePressRecord (c := c) (code := code)
  split
  · next e => exact State.canon.closePress (show RecordEnd.OnDone State.canon (.done _) from e ▸ hw)
  · exact h.pressStop
  · exact h

theorem State.canon.pressComplete {s : State} {n : Nat} (h : s.canon) : (pressComplete s n).canon := by
  unfold Machine.pressComplete
  split
  · exact h
  · split
    · exact h
    · split
      · exact h.endPress
      · split
        · exact h.endPress
        · exact h

/-! ## Tasks, loads and slices -/

theorem State.canon.ownRead {s : State} {va : Word} {n : Nat} (h : s.canon) : OnOk (·.1.canon) (ownRead s va n) :=
  h.engReadN

theorem State.canon.addTask {s : State} {e c : Nat} {r : TaskRec} {priv : Priv} {replay : Bool} (h : s.canon) :
    (addTask s e c r priv replay).canon :=
  h

theorem State.canon.submit {s : State} {c : Nat} {r : TaskRec} {priv : Priv} {replay : Bool} (h : s.canon) :
    OnSome (·.1.canon) (submit s c r priv replay) := by
  unfold Machine.submit
  generalize lowestFree s = free
  split
  · trivial
  · cases free with
    | none => trivial
    | some e => exact h.addTask

theorem State.canon.modTask {s : State} {e : Nat} {f : TaskEntry → TaskEntry} (h : s.canon) :
    (modTask s e f).canon := by
  unfold Machine.modTask
  split
  · exact h.frame
  · exact h

theorem State.canon.addDep {s : State} {e : Nat} {d : Dep} {met : Bool} (h : s.canon) : (addDep s e d met).canon :=
  h.modTask

theorem State.canon.execTsub {a b : Reg} {s : State} (h : s.canon) : OnNext (execTsub a b s) := by
  unfold Machine.execTsub
  refine State.canon.issue h fun _ hs => ?_
  dsimp only
  split
  · trivial
  · refine Res.canon.bindX hs.stitchBefore.ownRead ?_
    rintro ⟨_, _⟩ ht
    split
    · trivial
    · split
      · trivial
      next _ _ _ e =>
        exact (((ht.submit.of_eq e).foldl fun _ _ hu => hu.addDep).setG).countFor

theorem State.canon.depWord {s : State} {q : XReq} {va : Word} (h : s.canon) : OnOk (·.1.canon) (depWord s q va) := by
  unfold Machine.depWord
  split
  · trivial
  next _ _ _ e =>
    split
    · trivial
    · split
      · trivial
      · split
        next _ _ _ e' =>
          show State.canon _
          dsimp only
          exact ((h.engTarget.of_eq e).readHome).of_fst e'

theorem State.canon.execTdep {a b c : Reg} {s : State} (h : s.canon) : OnNext (execTdep a b c s) := by
  unfold Machine.execTdep
  refine State.canon.issue h fun _ hs => ?_
  split
  · trivial
  · dsimp only
    split
    · split
      · trivial
      · split
        · trivial
        · exact Res.canon.bindX hs.stitchBefore.depWord fun _ ht => ht.addDep
    · split
      · exact hs.stitchBefore.modTask
      · split
        · trivial
        · exact hs.stitchBefore.addDep

theorem State.canon.execGpset {a b c : Reg} {s : State} (h : s.canon) : OnNext (execGpset a b c s) := by
  unfold Machine.execGpset
  refine State.canon.issue h fun _ hs => ?_
  dsimp only
  split
  · trivial
  · exact hs.stitchBefore.setCtxt

theorem State.canon.execGpget {a b c : Reg} {s : State} (h : s.canon) : OnNext (execGpget a b c s) := by
  unfold Machine.execGpget
  refine State.canon.issue h fun _ hs => ?_
  dsimp only
  split
  · trivial
  · exact hs.setG

theorem State.canon.onStrand {s : State} {f : Nat → Nat → Panel → Res} (h : s.canon) (hf : ∀ x y z, (f x y z).canon) :
    (onStrand s f).canon := by
  unfold Machine.onStrand
  split
  · split
    · exact hf _ _ _
    · exact h
  · exact h

theorem State.canon.imageRead {s : State} {ctx : Nat} {priv : Priv} {va : Word} {n : Nat} (h : s.canon) :
    OnOk (·.1.canon) (imageRead s ctx priv va n) := by
  unfold Machine.imageRead
  split
  next _ _ e =>
    exact h.engReadN.of_eq e
  · trivial

theorem State.canon.readHeader {s : State} {ctx : Nat} {priv : Priv} {va : Word} (h : s.canon) :
    OnOk (·.1.canon) (readHeader s ctx priv va) := by
  unfold Machine.readHeader
  split
  · trivial
  next _ _ _ e =>
    split
    · show State.canon _
      dsimp only
      exact h.imageRead.of_eq e
    · trivial

theorem State.canon.execLdpat {a : Reg} {s : State} (h : s.canon) : OnNext (execLdpat a s) := by
  unfold Machine.execLdpat
  refine State.canon.issue h fun _ hs => State.canon.onStrand hs fun _ _ _ => ?_
  split
  · exact hs.dropLoad.raise
  · split
    · trivial
    · exact hs.stitchBefore.modPanel.frame

theorem State.canon.readSection {s : State} {ctx : Nat} {priv : Priv} {va : Word} {x4 : Header} {i : Nat} (h : s.canon) :
    OnOk (·.1.canon) (readSection s ctx priv va x4 i) :=
  h.imageRead

theorem State.canon.readImage {s : State} {ctx : Nat} {priv : Priv} {va : Word} (h : s.canon) :
    OnOk (·.1.canon) (readImage s ctx priv va) := by
  unfold Machine.readImage
  refine OnOk.bind h.readHeader ?_
  rintro ⟨_, _⟩ hs
  split
  next _ _ _ e =>
    refine OnOk.bind ((hs.of_fst e).readSection) ?_
    rintro ⟨_, _⟩ ht
    split
    next _ _ _ e' =>
      refine OnOk.bind ((ht.of_fst e').readSection) ?_
      rintro ⟨_, _⟩ hu
      split
      next _ _ _ e₂ =>
        refine OnOk.bind ((hu.of_fst e₂).readSection) ?_
        rintro ⟨_, _⟩ hv
        split
        next _ _ _ e₃ =>
          refine OnOk.bind ((hv.of_fst e₃).readSection) ?_
          rintro ⟨_, _⟩ hw
          split
          next _ _ _ e₄ =>
            split
            · show State.canon _
              dsimp only
              exact hw.of_fst e₄
            · trivial

theorem State.canon.offerTask {s : State} {entry : Nat} {c : Cause} {v : Word} {xl : Option (Word × Word)} {fwhere : Word}
    {e : Option EngineId} (h : s.canon) :
    (offerTask s entry c v xl fwhere e).canon := by
  unfold Machine.offerTask
  split
  · exact h
  · exact h.offer

theorem State.canon.undoPanel {s : State} {p : Nat} (h : s.canon) : (undoPanel s p).canon := by
  unfold Machine.undoPanel
  split
  · exact h
  · split
    · exact h.freePanel.discardEntries
    · exact h.freePanel

theorem State.canon.undoPlacement {s : State} {entry : Nat} (h : s.canon) : (undoPlacement s entry).canon := by
  unfold Machine.undoPlacement
  split
  · exact h
  · exact (h.foldl fun _ _ hs => hs.undoPanel).frame

theorem State.canon.failPlacement {s : State} {p : Nat} {x : Panel} (h : s.canon) : (failPlacement s p x).canon :=
  h.undoPlacement.offerTask

theorem State.canon.failLoad {s : State} {p : Nat} (h : s.canon) : (failLoad s p).canon := by
  unfold Machine.failLoad
  split
  · exact h
  · split
    · exact h.failPlacement
    · split
      · exact h
      · exact h.setPanel

theorem State.canon.writeEntry {s : State} {b loadId p k : Nat} (h : s.canon) : (writeEntry s b loadId p k).canon :=
  h

theorem State.canon.takeOne {s : State} {b loadId p : Nat} (h : s.canon) : (takeOne s b loadId p).canon := by
  unfold Machine.takeOne
  split
  · exact h.writeEntry
  · split
    · exact h.discardEntries.writeEntry
    · exact h

theorem State.canon.takeEntries {s : State} {blocks : List Nat} {loadId n p : Nat} (h : s.canon) :
    (takeEntries s blocks loadId n p).canon :=
  h.foldl fun _ _ hs => hs.foldl fun _ _ ht => ht.takeOne

theorem State.canon.finishLoad {s : State} {p : Nat} {x : Panel} {l : Load} {img : Image} (h : s.canon) :
    (finishLoad s p x l img).canon :=
  h.takeEntries.frame.modPanel

theorem State.canon.runLoad {s : State} {p : Nat} (h : s.canon) : (runLoad s p).canon := by
  unfold Machine.runLoad
  split
  · exact h
  · split
    · exact h
    · split
      · split
        · exact h.setPanel.offerTask
        · exact h.failLoad
        next _ _ _ e =>
          dsimp only
          split
          · exact (h.readImage.of_eq e).finishLoad
          · exact (h.readImage.of_eq e).failLoad
      · exact h.failLoad
      · exact h

theorem State.canon.raiseAt {s : State} {t : Trap} {fwhere : Word} (h : s.canon) : (raiseAt s t fwhere).canon :=
  h.setThread.countFor.offer

theorem State.canon.releaseEntries {s : State} {loadId : Nat} (h : s.canon) : (releaseEntries s loadId).canon :=
  h

theorem State.canon.startStrands {s : State} {p : Nat} (h : s.canon) : (startStrands s p).canon := by
  unfold Machine.startStrands
  split
  · exact h
  · exact h.unask.setPanel.foldl fun _ _ hs => hs.setThread.setThread

theorem State.canon.armPanel {s : State} {p : Nat} {x : Panel} {l : Load} {img : Image} (h : s.canon) :
    (armPanel s p x l img).canon :=
  h.releaseEntries.setPanel.startStrands.takeShadow

theorem State.canon.armPoll {s : State} {a : Reg} (h : s.canon) : OnSome Res.canon (armPoll s a) := by
  unfold Machine.armPoll
  split
  · split
    · trivial
    · split
      · exact h.dropLoad.raise
      · trivial
      · split
        · trivial
        · split
          · trivial
          · dsimp only
            split
            · exact h.dropLoad.discardEntries.raiseAt
            · split
              · trivial
              · exact h.armPanel
  · trivial

theorem State.canon.execArm {a : Reg} {s : State} (h : s.canon) : OnNext (execArm a s) :=
  h.issue fun _ hs => hs.stitchBefore.waitOr hs.stitchBefore.armPoll

theorem State.canon.cancelLoad {s : State} {p : Nat} {x : Panel} (h : s.canon) : (cancelLoad s p x).canon := by
  unfold Machine.cancelLoad
  split
  · exact h.dropLoad.discardEntries
  · exact h

theorem State.canon.execDisarm {s : State} (h : s.canon) : OnNext (execDisarm s) :=
  h.issue fun _ hs => hs.onStrand fun _ _ _ => hs.stitchBefore.cancelLoad

theorem State.canon.execSgo {a : Reg} {s : State} (h : s.canon) : OnNext (execSgo a s) := by
  unfold Machine.execSgo
  refine State.canon.issue h fun _ hs => State.canon.onStrand hs fun _ _ _ => ?_
  split
  · trivial
  · dsimp only
    split
    · trivial
    · exact hs.stitchBefore.modPanel

theorem State.canon.execSstop {a : Reg} {s : State} (h : s.canon) : OnNext (execSstop a s) := by
  unfold Machine.execSstop
  refine State.canon.issue h fun _ hs => State.canon.onStrand hs fun _ _ _ => ?_
  split
  · trivial
  · exact hs.stitchBefore.modPanel

theorem State.canon.execSspec {stream : BitVec 4} {ag : BitVec 2} {a : Reg} {entry : BitVec 11} {disp : BitVec 32}
    {s : State} (h : s.canon) :
    OnNext (execSspec stream ag a entry disp s) := by
  unfold Machine.execSspec
  dsimp only
  refine State.canon.issue h fun _ hs => State.canon.onStrand hs fun _ _ _ => ?_
  split
  · trivial
  · split
    · trivial
    · exact hs.modPanel

theorem State.canon.execSlice {a b : Reg} {s : State} (h : s.canon) : OnNext (execSlice a b s) := by
  unfold Machine.execSlice
  refine State.canon.issue h fun _ hs => State.canon.onStrand hs fun _ _ _ => ?_
  dsimp only
  split
  · trivial
  · exact hs.stitchBefore.modPanel.unask.setThread

theorem State.canon.raisePoison {s : State} {t : Trap} (h : s.canon) : (raisePoison s t).canon :=
  h.raiseWith fun _ _ _ hs => hs.offer

theorem State.canon.condPoll {s : State} {a : Reg} (h : s.canon) : OnSome Res.canon (condPoll s a) := by
  unfold Machine.condPoll
  split
  · split
    · trivial
    · dsimp only
      split
      · trivial
      · exact h.setPanel.setG
      · exact h.setPanel.raisePoison
  · trivial

theorem State.canon.execCond {a b : Reg} {s : State} (h : s.canon) : OnNext (execCond a b s) :=
  h.issue fun _ hs => hs.stitchBefore.waitOr hs.stitchBefore.condPoll

theorem State.canon.execTack {a : Reg} {s : State} (h : s.canon) : OnNext (execTack a s) := by
  unfold Machine.execTack
  refine State.canon.issue h fun _ hs => State.canon.onStrand hs fun _ _ _ => ?_
  dsimp only
  split
  · trivial
  · exact hs.stitchBefore.modPanel

theorem State.canon.tkPoll {s : State} {a : Reg} (h : s.canon) : OnSome Res.canon (tkPoll s a) := by
  unfold Machine.tkPoll
  dsimp only
  split
  · trivial
  · split
    · trivial
    · split
      · exact h.modPanel
      · trivial

theorem State.canon.execTkwait {a b : Reg} {s : State} (h : s.canon) : OnNext (execTkwait a b s) := by
  unfold Machine.execTkwait
  refine State.canon.issue h fun _ hs => ?_
  split
  · trivial
  · exact hs.stitchBefore.waitOr hs.stitchBefore.tkPoll

theorem State.canon.execCommit {s : State} (h : s.canon) : OnNext (execCommit s) :=
  h.issue fun _ hs => hs.stitchBefore

theorem State.canon.execMxhint {a : Reg} {s : State} (h : s.canon) : OnNext (execMxhint a s) := by
  unfold Machine.execMxhint
  refine State.canon.issue h fun _ hs => State.canon.onStrand hs fun _ _ _ => ?_
  split
  · trivial
  · exact hs.stitchBefore.modPanel

theorem State.canon.execCpost {a : Reg} {s : State} (h : s.canon) : OnNext (execCpost a s) := by
  unfold Machine.execCpost
  refine State.canon.issue h fun _ hs => ?_
  split
  · split
    · exact hs
    · exact hs.stitchBefore.modPanel
  · exact hs

theorem State.canon.execPmsel {a b c : Reg} {s : State} (h : s.canon) : OnNext (execPmsel a b c s) := by
  unfold Machine.execPmsel
  refine State.canon.issue h fun _ hs => ?_
  dsimp only
  split
  · trivial
  · exact hs.stitchBefore.setCounters

/-! ## Counters, fittings and chalk -/

theorem State.canon.counterRead {s : State} {c : Counter} (h : s.canon) : (counterRead s c).1.canon := by
  unfold Machine.counterRead
  split
  · split
    · split
      next _ _ _ e =>
        split
        next _ _ _ e' =>
          dsimp only
          exact ((h.draw.of_fst e).draw).of_fst e'
    · exact h
  · exact h

theorem State.canon.execPmrd {a b : Reg} {s : State} (h : s.canon) : OnNext (execPmrd a b s) := by
  unfold Machine.execPmrd
  refine State.canon.issue h fun _ hs => ?_
  dsimp only
  split
  · trivial
  · exact hs.counterRead.setG

theorem State.canon.execPmclr {a : Reg} {s : State} (h : s.canon) : OnNext (execPmclr a s) := by
  unfold Machine.execPmclr
  refine State.canon.issue h fun _ hs => ?_
  split
  · trivial
  · exact hs.stitchBefore.setCounters

theorem State.canon.bufferPages {q : XReq} {va : Word} {x2 : List Nat} {x3 : State} (h : x3.canon) :
    OnOk (·.1.canon) (bufferPages q va x2 x3) := by
  fun_induction Machine.bufferPages q va x2 x3
  · exact h
  · trivial
  · trivial
  next _ _ _ _ _ e _ _ e' e₂ =>
    show State.canon _
    dsimp only
    exact (e₂ (h.engTarget.of_eq e)).of_eq e'

theorem State.canon.execFitbeg {a b : Reg} {s : State} (h : s.canon) : OnNext (execFitbeg a b s) := by
  unfold Machine.execFitbeg
  refine State.canon.issue h fun _ hs => ?_
  split
  · trivial
  · split
    · trivial
    · refine Res.canon.bindX hs.ownRead ?_
      rintro ⟨_, _⟩ ht
      split
      next _ _ _ e =>
        split
        · trivial
        · exact Res.canon.bindX ((ht.of_fst e).bufferPages) fun _ hu => hu.modTask

theorem State.canon.execFitend {a : Reg} {s : State} (h : s.canon) : OnNext (execFitend a s) := by
  unfold Machine.execFitend
  refine State.canon.issue h fun _ hs => ?_
  split
  · split
    · exact hs
    · trivial
  · split
    · exact hs.modTask
    · trivial

theorem State.canon.execFitstat {a b c : Reg} {s : State} (h : s.canon) : OnNext (execFitstat a b c s) := by
  unfold Machine.execFitstat
  refine State.canon.issue h fun _ hs => ?_
  split
  · exact hs.setG
  · trivial

theorem State.canon.setTriggers {s : State} {c : Nat} {t : Option ChalkArm} (h : s.canon) :
    (setTriggers s c t).canon :=
  h

theorem State.canon.fireChalk {s : State} {c : Nat} (h : s.canon) : (fireChalk s c).canon :=
  h.setTriggers.setCtxt

theorem State.canon.execChalk {a b : Reg} {s : State} (h : s.canon) : OnNext (execChalk a b s) := by
  unfold Machine.execChalk
  refine State.canon.issue h fun _ hs => ?_
  dsimp only
  split
  · trivial
  · split
    · trivial
    · show State.canon _
      split
      · exact hs.stitchBefore.fireChalk
      · exact hs.stitchBefore.setTriggers
      · exact hs.stitchBefore.setTriggers
      · exact hs.stitchBefore.setTriggers
      · exact hs.stitchBefore.setTriggers

theorem State.canon.execChalkFire {c : Nat} {s : State} (h : s.canon) : OnNext (execChalkFire c s) := by
  unfold Machine.execChalkFire
  show State.canon _
  split
  · exact h.fireChalk
  · exact h

theorem State.canon.chalkState {s : State} {p : Nat} {x : Panel} (h : s.canon) : (chalkState s p x).1.canon := by
  unfold Machine.chalkState
  split
  · split
    · split
      next _ _ _ e =>
        dsimp only
        exact h.draw.of_fst e
    · exact h
  · exact h

theorem State.canon.pmcWords {x0 : List Counter} {x1 : State} (h : x1.canon) : (pmcWords x0 x1).1.canon := by
  fun_induction Machine.pmcWords x0 x1
  · exact h
  next _ _ _ _ _ _ e _ _ e' e₂ =>
    dsimp only
    exact (e₂ (h.counterRead.of_fst e)).of_fst e'

theorem State.canon.freeBytes {x0 : Nat} {x1 : State} (h : x1.canon) : (freeBytes x0 x1).1.canon := by
  fun_induction Machine.freeBytes x0 x1
  · exact h
  next _ _ _ _ e _ _ e' e₂ =>
    dsimp only
    exact (e₂ (h.draw.of_fst e)).of_fst e'

theorem State.canon.chalkRecord {s : State} {p : Nat} {x : Panel} {i : Nat} (h : s.canon) : (chalkRecord s p x i).1.canon := by
  unfold Machine.chalkRecord
  by_cases hi : i = 0
  · simp only [if_pos hi]
    exact h.chalkState.pmcWords
  · simp only [if_neg hi]
    exact h.chalkState.freeBytes

theorem State.canon.engWrite {s : State} {q : XReq} {task : BitVec 32} {w : Option Writer} {x4 : Nat} {x5 : Word}
    {x6 : List Byte} (h : s.canon) :
    OnOk State.canon (engWrite s q task w x4 x5 x6) := by
  fun_induction Machine.engWrite s q task w x4 x5 x6
  · exact h
  · exact h
  · trivial
  next _ _ _ _ _ _ _ _ e e' =>
    exact e' ((h.engTarget.of_eq e).pushHome)

theorem State.canon.engWriteN {s : State} {q : XReq} {task : BitVec 32} {w : Option Writer} {va : Word} {bs : List Byte}
    (h : s.canon) :
    OnOk State.canon (engWriteN s q task w va bs) :=
  h.engWrite

theorem State.canon.writeRecord {s : State} {c p : Nat} {x : Panel} {i b : Nat} (h : s.canon) :
    (writeRecord s c p x i b).canon := by
  unfold Machine.writeRecord
  split
  next _ _ _ e =>
    dsimp only
    split
    next _ _ e' =>
      exact ((h.chalkRecord.of_fst e).engWriteN).of_eq e'
    · exact (h.chalkRecord.of_fst e).countFault

theorem State.canon.writePanelRecords {s : State} {c p : Nat} {x : Panel} (h : s.canon) :
    (writePanelRecords s c p x).canon :=
  h.foldl fun _ _ hs => hs.writeRecord

theorem State.canon.execChalkLatch {c : Nat} {s : State} (h : s.canon) : OnNext (execChalkLatch c s) := by
  unfold Machine.execChalkLatch
  show State.canon _
  split
  · dsimp only
    split
    · exact h.setCtxt.foldl fun _ _ hs => hs.writePanelRecords
    · exact h.setCtxt
  · exact h

/-! ## Fabric words and rows -/

theorem State.canon.fabricFaultFrom {s : State} {p : Nat} {f : WFault} {src : Option Nat} (h : s.canon) :
    (fabricFaultFrom s p f src).canon := by
  unfold Machine.fabricFaultFrom
  split
  · exact h
  · exact h.setPanel.offer

theorem State.canon.fabricFault {s : State} {p : Nat} {f : WFault} (h : s.canon) : (fabricFault s p f).canon :=
  h.fabricFaultFrom

theorem State.canon.execWord {pr : Pred} {i : Instr} {run : State → Nat → Nat → WRes} {s : State} (h : s.canon)
    (hf : ∀ x y z, x.canon → OnOk State.canon (run x y z)) :
    OnNext (execWord pr i run s) := by
  unfold Machine.execWord
  split
  · split
    · exact h
    · split
      · split
        · exact h.setPanel
        · split
          next _ _ e =>
            exact (hf _ _ _ h).of_eq e
          · exact h.fabricFault
      · exact h
  · exact h

theorem State.canon.execMxNop {p : Pred} {s : State} (h : s.canon) : OnNext (execMxNop p s) :=
  h.execWord fun _ _ _ hs => hs

theorem State.canon.countPanel {s : State} {p ev n : Nat} (h : s.canon) : (countPanel s p ev n).canon :=
  h.modPanel

theorem State.canon.onTile {s : State} {p t : Nat} {f : Panel → Tile → Tile} (h : s.canon) : (onTile s p t f).canon :=
  h.modPanel

theorem State.canon.runMxLd {n : BitVec 4} {s : State} {p t : Nat} (h : s.canon) :
    OnOk State.canon (runMxLd n s p t) :=
  h.onTile.countPanel

theorem State.canon.execMxLd {p : Pred} {n : BitVec 4} {s : State} (h : s.canon) : OnNext (execMxLd p n s) :=
  h.execWord fun _ _ _ hs => hs.runMxLd

theorem State.canon.runMxMm {a : BitVec 3} {r : BitVec 4} {s : State} {p t : Nat} (h : s.canon) :
    OnOk State.canon (runMxMm a r s p t) :=
  h.modPanel

theorem State.canon.execMxMm {p : Pred} {acc : BitVec 3} {row : BitVec 4} {s : State} (h : s.canon) :
    OnNext (execMxMm p acc row s) :=
  h.execWord fun _ _ _ hs => hs.runMxMm

theorem State.canon.runMxMmg {a : BitVec 3} {r j : BitVec 4} {s : State} {p t : Nat} (h : s.canon) :
    OnOk State.canon (runMxMmg a r j s p t) :=
  h.modPanel

theorem State.canon.execMxMmg {p : Pred} {acc : BitVec 3} {row j : BitVec 4} {s : State} (h : s.canon) :
    OnNext (execMxMmg p acc row j s) :=
  h.execWord fun _ _ _ hs => hs.runMxMmg

theorem State.canon.runMxAcz {mask : BitVec 8} {s : State} {p t : Nat} (h : s.canon) :
    OnOk State.canon (runMxAcz mask s p t) :=
  h.onTile

theorem State.canon.execMxAcz {p : Pred} {mask : BitVec 8} {s : State} (h : s.canon) : OnNext (execMxAcz p mask s) :=
  h.execWord fun _ _ _ hs => hs.runMxAcz

theorem State.canon.runMxAcrd {a : BitVec 3} {r : BitVec 4} {s : State} {p t : Nat} (h : s.canon) :
    OnOk State.canon (runMxAcrd a r s p t) :=
  h.onTile

theorem State.canon.execMxAcrd {p : Pred} {acc : BitVec 3} {row : BitVec 4} {w : Bool} {s : State} (h : s.canon) :
    OnNext (execMxAcrd p acc row w s) :=
  h.execWord fun _ _ _ hs => hs.runMxAcrd

theorem State.canon.runMxScl {s : State} {p t : Nat} (h : s.canon) : OnOk State.canon (runMxScl s p t) :=
  h.onTile.countPanel

theorem State.canon.execMxScl {p : Pred} {s : State} (h : s.canon) : OnNext (execMxScl p s) :=
  h.execWord fun _ _ _ hs => hs.runMxScl

theorem State.canon.runMxFmt {fa fb : BitVec 5} {s : State} {p t : Nat} (h : s.canon) :
    OnOk State.canon (runMxFmt fa fb s p t) :=
  h.onTile

theorem State.canon.execMxFmt {p : Pred} {fa fb : BitVec 5} {s : State} (h : s.canon) :
    OnNext (execMxFmt p fa fb s) :=
  h.execWord fun _ _ _ hs => hs.runMxFmt

theorem State.canon.logScratch {s : State} {p t elem : Nat} {ws : List (Nat × List Byte)} (h : s.canon) :
    OnOk State.canon (logScratch s p t elem ws) := by
  unfold Machine.logScratch
  split
  · exact h
  · dsimp only
    split
    · trivial
    · exact h.onTile

theorem State.canon.runMxAcsv {a : BitVec 3} {r : BitVec 4} {i : BitVec 12} {s : State} {p t : Nat} (h : s.canon) :
    OnOk State.canon (runMxAcsv a r i s p t) := by
  unfold Machine.runMxAcsv
  split
  · exact h
  · exact h.logScratch

theorem State.canon.execMxAcsv {p : Pred} {acc : BitVec 3} {row : BitVec 4} {i : BitVec 12} {s : State} (h : s.canon) :
    OnNext (execMxAcsv p acc row i s) :=
  h.execWord fun _ _ _ hs => hs.runMxAcsv

theorem State.canon.rowRead {s : State} {p t elem off : Nat} {r : WRes} (h : s.canon) (hf : OnOk State.canon r) :
    OnOk State.canon (rowRead s p t elem off r) := by
  unfold Machine.rowRead
  split
  · exact hf
  · split
    · trivial
    · exact hf

theorem State.canon.countForward {s : State} {p t off : Nat} (h : s.canon) : (countForward s p t off).canon :=
  h.modPanel

theorem State.canon.runMxAcld {a : BitVec 3} {r : BitVec 4} {i : BitVec 12} {s : State} {p t : Nat} (h : s.canon) :
    OnOk State.canon (runMxAcld a r i s p t) :=
  h.rowRead h.onTile.countForward

theorem State.canon.execMxAcld {p : Pred} {acc : BitVec 3} {row : BitVec 4} {i : BitVec 12} {s : State} (h : s.canon) :
    OnNext (execMxAcld p acc row i s) :=
  h.execWord fun _ _ _ hs => hs.runMxAcld

theorem State.canon.arriveTack {s : State} {p ch : Nat} (h : s.canon) : (arriveTack s p ch).canon := by
  unfold Machine.arriveTack
  split
  · exact h
  · split
    · exact h
    · split
      · exact h.setPanel.fabricFault
      · exact h.setPanel

theorem State.canon.arriveTacks {p : Nat} {x1 : List Nat} {x2 : State} (h : x2.canon) :
    (arriveTacks p x1 x2).canon := by
  fun_induction Machine.arriveTacks p x1 x2
  · exact h
  · exact h
  next _ _ _ _ e =>
    exact e h.arriveTack

theorem State.canon.settlePanelDue {s : State} {p : Nat} (h : s.canon) : (settlePanelDue s p).canon := by
  unfold Machine.settlePanelDue
  split
  · exact h
  · dsimp only
    refine State.canon.arriveTacks ?_
    split
    · exact h.modPanel.modPanel.stitchPanel
    · exact h.modPanel

theorem State.canon.rowFault {s : State} {p : Nat} {fs : List WFault} (h : s.canon) : (rowFault s p fs).canon := by
  unfold Machine.rowFault
  split
  · exact h.fabricFault
  · exact h

theorem State.canon.faultCycle {s : State} {p : Nat} {tk : Bool} {fs : List WFault} {hs : List Hold} (h : s.canon) :
    (faultCycle s p tk fs hs).canon :=
  h.rowFault.modPanel

theorem State.canon.heldCycle {s : State} {p : Nat} (h : s.canon) : (heldCycle s p).canon := by
  fun_cases Machine.heldCycle
  · exact h
  · exact h.setPanel
  · exact h.setPanel.faultCycle

theorem State.canon.switchCycle {s : State} {p : Nat} {x : Panel} {turn : Bool} (h : s.canon) :
    (switchCycle s p x turn).canon := by
  unfold Machine.switchCycle
  dsimp only
  split
  · exact h.setPanel
  · split
    · exact h
    · split
      · exact h.setPanel
      · exact h.faultCycle

theorem State.canon.runVx {op : Nat} {f : VF} {s : State} {p t : Nat} (h : s.canon) :
    OnOk State.canon (runVx op f s p t) :=
  h.onTile.countPanel

theorem State.canon.runVcmp {f : VF} {s : State} {p t : Nat} (h : s.canon) : OnOk State.canon (runVcmp f s p t) :=
  h.onTile.countPanel

theorem State.canon.runVmovIn {f : VF} {s : State} {p t : Nat} (h : s.canon) : OnOk State.canon (runVmovIn f s p t) :=
  h.onTile.countPanel

theorem State.canon.runVmovOut {f : VF} {s : State} {p t : Nat} (h : s.canon) :
    OnOk State.canon (runVmovOut f s p t) :=
  h.onTile.countPanel

theorem State.canon.lsRow {s : State} {p t : Nat} {idx : BitVec 12} {ctr sh : BitVec 3} {f : Panel → Nat → WRes}
    (h : s.canon) (hf : ∀ x y, OnOk State.canon (f x y)) :
    OnOk State.canon (lsRow s p t idx ctr sh f) := by
  unfold Machine.lsRow
  split
  · exact h
  · dsimp only
    split
    · trivial
    · exact hf _ _

theorem State.canon.runLsRd {idx : BitVec 12} {ctr sh : BitVec 3} {s : State} {p t : Nat} (h : s.canon) :
    OnOk State.canon (runLsRd idx ctr sh s p t) :=
  h.lsRow fun _ _ => h.rowRead h.onTile.countForward

theorem State.canon.runLsWr {idx : BitVec 12} {ctr sh : BitVec 3} {s : State} {p t : Nat} (h : s.canon) :
    OnOk State.canon (runLsWr idx ctr sh s p t) := by
  unfold Machine.runLsWr
  refine State.canon.lsRow h fun _ _ => ?_
  dsimp only
  split
  · exact h
  · exact h.logScratch

theorem State.canon.runLsG {vi : Reg} {base : BitVec 12} {s : State} {p t : Nat} (h : s.canon) :
    OnOk State.canon (runLsG vi base s p t) := by
  unfold Machine.runLsG
  split
  · exact h
  · dsimp only
    split
    · trivial
    · exact h.onTile.countPanel

theorem State.canon.runLsS {vd vi : Reg} {base : BitVec 12} {s : State} {p t : Nat} (h : s.canon) :
    OnOk State.canon (runLsS vd vi base s p t) := by
  unfold Machine.runLsS
  split
  · exact h
  · dsimp only
    split
    · trivial
    · exact h.logScratch

theorem State.canon.runLsFe {idx : BitVec 12} {wd : BitVec 3} {s : State} {p t : Nat} (h : s.canon) :
    OnOk State.canon (runLsFe idx wd s p t) :=
  h.onTile

theorem State.canon.runLsUpd {idx : BitVec 12} {ctr sh op : BitVec 3} {s : State} {p t : Nat} (h : s.canon) :
    OnOk State.canon (runLsUpd idx ctr sh op s p t) := by
  unfold Machine.runLsUpd
  refine State.canon.lsRow h fun _ _ => ?_
  dsimp only
  split
  · exact h
  · split
    · trivial
    · exact h.rowRead h.onTile

theorem State.canon.source {s : State} {p t src q : Nat} (h : s.canon) : OnOk (·.1.canon) (source s p t src q) := by
  unfold Machine.source
  split
  · exact h
  · split
    · exact h
    · split
      · exact h
      · dsimp only
        split
        · trivial
        · trivial
        · exact h
        · show State.canon _
          dsimp only
          exact h.setPanel

theorem State.canon.elemTarget {s : State} {x : Panel} {blk : Nat} {acc : Access} {sl : StreamSlot} {k : Nat} (h : s.canon) :
    OnOk (·.1.canon) (elemTarget s x blk acc sl k) := by
  unfold Machine.elemTarget
  split
  · trivial
  next _ _ _ e =>
    split
    · trivial
    · show State.canon _
      dsimp only
      exact h.translate.of_eq e

theorem State.canon.writeTargets {s : State} {x : Panel} {blk : Nat} {sl : StreamSlot} {x4 : List Nat} (h : s.canon) :
    OnOk (·.1.canon) (writeTargets s x blk sl x4) := by
  fun_induction Machine.writeTargets s x blk sl x4
  · exact h
  · trivial
  · trivial
  next _ _ _ _ _ e _ _ e' e₂ =>
    show State.canon _
    dsimp only
    exact (e₂ (h.elemTarget.of_eq e)).of_eq e'

theorem State.canon.fillStream {s : State} {p t i q : Nat} {b : Beat} (h : s.canon) :
    OnOk State.canon (fillStream s p t i q b) := by
  unfold Machine.fillStream
  split
  · exact h
  · dsimp only
    split
    · trivial
    · split
      · trivial
      · split
        · exact h
        · split
          · exact h.setPanel
          · split
            · trivial
            next _ _ _ e =>
              split
              · trivial
              · exact (h.writeTargets.of_eq e).modPanel

theorem State.canon.deliverAll {p t q : Nat} {b : Beat} {outs : BitVec 8} {x5 : List Nat} {x6 : State} (h : x6.canon) :
    OnOk State.canon (deliverAll p t q b outs x5 x6) := by
  fun_induction Machine.deliverAll p t q b outs x5 x6
  · exact h
  · exact h
  next _ _ _ _ _ e _ e' =>
    exact e' (h.fillStream.of_eq e)
  · trivial
  next _ _ _ _ _ e₂ =>
    exact e₂ h.modPanel
  next _ _ _ _ e =>
    exact e h

theorem State.canon.runXbRoute {srcA : BitVec 4} {outsA : BitVec 8} {srcB : BitVec 4} {outsB : BitVec 8} {q : BitVec 4}
    {s : State} {p t : Nat} (h : s.canon) : OnOk State.canon (runXbRoute srcA outsA srcB outsB q s p t) := by
  have hsource {s : State} (h : s.canon) (n : Nat) :
      OnOk (·.1.canon) (Machine.source s p t n q.toNat) := h.source
  unfold Machine.runXbRoute
  dsimp only
  split
  · trivial
  · next s₁ a e₁ =>
    have h₁ : s₁.canon := by
      split at e₁
      · cases e₁
        exact h
      · exact (hsource h _).of_eq e₁
    split
    · trivial
    · next s₂ b e₂ =>
      have h₂ : s₂.canon := by
        split at e₂
        · cases e₂
          exact h₁
        · split at e₂
          · cases e₂
            exact h₁
          · exact (hsource h₁ _).of_eq e₂
      split
      · trivial
      · next e₃ => exact State.canon.deliverAll (h₂.deliverAll.of_eq e₃)

theorem State.canon.runXbEase {n e sd w mx vx ls : BitVec 4} {s : State} {p t : Nat} (h : s.canon) :
    OnOk State.canon (runXbEase n e sd w mx vx ls s p t) :=
  h.onTile

theorem State.canon.runXbHold {src q : BitVec 4} {s : State} {p t : Nat} (h : s.canon) :
    OnOk State.canon (runXbHold src q s p t) := by
  unfold Machine.runXbHold
  split
  · trivial
  next _ _ _ e =>
    exact (h.source.of_eq e).onTile

theorem State.canon.runTkCnt {c : BitVec 2} {field : BitVec 3} {value : BitVec 24} {s : State} {p t : Nat} (h : s.canon) :
    OnOk State.canon (runTkCnt c field value s p t) :=
  h.onTile

theorem State.canon.runTkCntTick {s : State} {p t : Nat} (h : s.canon) : OnOk State.canon (runTkCntTick s p t) :=
  h.modPanel

theorem State.canon.runTkSend {ch : BitVec 4} {s : State} {p _t : Nat} (h : s.canon) :
    OnOk State.canon (runTkSend ch s p _t) :=
  h.modPanel

theorem State.canon.runTkWait {ch : BitVec 4} {s : State} {p t : Nat} (h : s.canon) :
    OnOk State.canon (runTkWait ch s p t) :=
  h.onTile

theorem State.canon.runTkSel {src : BitVec 2} {s : State} {p t : Nat} (h : s.canon) :
    OnOk State.canon (runTkSel src s p t) := by
  unfold Machine.runTkSel
  split
  · exact h
  · dsimp only
    split
    · split
      · exact h.setPanel.modPanel.setThread
      · trivial
      · exact h
    · exact h.modPanel.setThread
    · exact h.modPanel.setThread
    · exact h.modPanel.setThread

theorem State.canon.runTkStitch {s : State} {p _t : Nat} (h : s.canon) : OnOk State.canon (runTkStitch s p _t) :=
  h.modPanel

/-- What a row's word runs keeps memory canonical. -/
def RunKeeps (run : State → Nat → Nat → WRes) : Prop := ∀ s p t, s.canon → OnOk State.canon (run s p t)

theorem runKeeps_wordRun (i : Instr) : OnSome RunKeeps (wordRun i) := by
  cases i with
  | mxNop => exact fun _ _ _ h => h
  | mxLd => exact fun _ _ _ h => h.runMxLd
  | mxMm => exact fun _ _ _ h => h.runMxMm
  | mxMmg => exact fun _ _ _ h => h.runMxMmg
  | mxAcz => exact fun _ _ _ h => h.runMxAcz
  | mxAcrd => exact fun _ _ _ h => h.runMxAcrd
  | mxScl => exact fun _ _ _ h => h.runMxScl
  | mxFmt => exact fun _ _ _ h => h.runMxFmt
  | mxAcsv => exact fun _ _ _ h => h.runMxAcsv
  | mxAcld => exact fun _ _ _ h => h.runMxAcld
  | vadd | vsub | vmul | vfma | vmax | vmin | vexp2 | vlog2 | vrcp | vrsq | vcvt | vsel | vand | vor | vxor | vshl | vshr |
    vperm
    | vscan | vred | vbcast | vpack | vunpack | vmov | vidx | vcount | vminmax => exact fun _ _ _ h => h.runVx
  | vcmp => exact fun _ _ _ h => h.runVcmp
  | vmovIn => exact fun _ _ _ h => h.runVmovIn
  | vmovOut => exact fun _ _ _ h => h.runVmovOut
  | lsRd => exact fun _ _ _ h => h.runLsRd
  | lsWr => exact fun _ _ _ h => h.runLsWr
  | lsG => exact fun _ _ _ h => h.runLsG
  | lsS => exact fun _ _ _ h => h.runLsS
  | lsFe => exact fun _ _ _ h => h.runLsFe
  | lsUpd => exact fun _ _ _ h => h.runLsUpd
  | xbRoute => exact fun _ _ _ h => h.runXbRoute
  | xbEase => exact fun _ _ _ h => h.runXbEase
  | xbHold => exact fun _ _ _ h => h.runXbHold
  | tkNop => exact fun _ _ _ h => h
  | tkCnt => exact fun _ _ _ h => h.runTkCnt
  | tkCntTick => exact fun _ _ _ h => h.runTkCntTick
  | tkSend => exact fun _ _ _ h => h.runTkSend
  | tkWait => exact fun _ _ _ h => h.runTkWait
  | tkSel => exact fun _ _ _ h => h.runTkSel
  | tkStitch => exact fun _ _ _ h => h.runTkStitch
  | _ => trivial

theorem State.canon.runWords {p : Nat} {ws : List RowWord} {s : State} {fs : List WFault} (h : s.canon) :
    (runWords p ws s fs).1.canon := by
  fun_induction Machine.runWords p ws s fs with
  | case1 => exact h
  | case2 w ws s fs e ih => exact ih h
  | case3 w ws s fs run e s' e' ih => exact ih (((runKeeps_wordRun w.instr).of_eq e s p w.tile h).of_eq e')
  | case4 w ws s fs run e f e' ih => exact ih h

theorem State.canon.runTiles {p : Nat} {ws : List RowWord} {x2 : List Nat} {x3 : State} {x4 : List WFault} (h : x3.canon) :
    (runTiles p ws x2 x3 x4).1.canon := by
  fun_induction Machine.runTiles p ws x2 x3 x4
  · exact h
  next _ _ _ _ _ _ _ e _ _ _ e' e₂ =>
    exact e₂ ((((h.runWords.of_fst e).modPanel).runWords).of_fst e')

theorem State.canon.liveRow {s : State} {p : Nat} {x : Panel} {run : Bool} {ws : List RowWord} (h : s.canon) :
    (liveRow s p x run ws).canon := by
  unfold Machine.liveRow
  dsimp only
  split
  · split
    · exact h.runTiles.modPanel
    · exact h.faultCycle
  · split
    · exact h.runTiles.modPanel
    · exact h.faultCycle

theorem State.canon.liveOrStop {s : State} {p : Nat} {x : Panel} {run : Bool} {ws : List RowWord} (h : s.canon) :
    (liveOrStop s p x run ws).canon := by
  unfold Machine.liveOrStop
  split
  · exact h.frame.debugStop
  · exact h.liveRow

theorem State.canon.rowCycle {s : State} {p : Nat} {x : Panel} {turn : Bool} (h : s.canon) :
    (rowCycle s p x turn).canon := by
  unfold Machine.rowCycle
  dsimp only
  split
  · exact h.setPanel.setPanel
  · split
    · split
      · split
        · exact h.setPanel.liveOrStop
        · exact h.setPanel
      · split
        · exact h.setPanel.setPanel
        · exact h.setPanel.faultCycle
    · split
      · split
        · exact h.setPanel.liveOrStop
        · exact h.setPanel
      · split
        · exact h.setPanel.setPanel
        · exact h.setPanel.faultCycle

theorem State.canon.panelCycle {s : State} {p : Nat} (h : s.canon) : (panelCycle s p).canon := by
  unfold Machine.panelCycle
  dsimp only
  split
  · exact h.settlePanelDue
  · split
    · exact h.settlePanelDue.heldCycle
    · split
      · split
        · exact h.settlePanelDue.switchCycle
        · exact h.settlePanelDue.heldCycle
      · exact h.settlePanelDue.rowCycle

theorem State.canon.advancePanel {s : State} {p : Nat} (h : s.canon) : (advancePanel s p).canon := by
  unfold Machine.advancePanel
  split
  · split
    · exact h.setPanel.panelCycle
    · exact h
  · exact h

theorem State.canon.execRampUpDone {p : Nat} {s : State} (h : s.canon) : OnNext (execRampUpDone p s) := by
  unfold Machine.execRampUpDone
  show State.canon _
  split
  · split
    · exact h.advancePanel
    · exact h
  · exact h

theorem State.canon.execVadd {p : Pred} {f : VF} {s : State} (h : s.canon) : OnNext (execVadd p f s) :=
  h.execWord fun _ _ _ hs => hs.runVx

theorem State.canon.execVsub {p : Pred} {f : VF} {s : State} (h : s.canon) : OnNext (execVsub p f s) :=
  h.execWord fun _ _ _ hs => hs.runVx

theorem State.canon.execVmul {p : Pred} {f : VF} {s : State} (h : s.canon) : OnNext (execVmul p f s) :=
  h.execWord fun _ _ _ hs => hs.runVx

theorem State.canon.execVfma {p : Pred} {f : VF} {s : State} (h : s.canon) : OnNext (execVfma p f s) :=
  h.execWord fun _ _ _ hs => hs.runVx

theorem State.canon.execVmax {p : Pred} {f : VF} {s : State} (h : s.canon) : OnNext (execVmax p f s) :=
  h.execWord fun _ _ _ hs => hs.runVx

theorem State.canon.execVmin {p : Pred} {f : VF} {s : State} (h : s.canon) : OnNext (execVmin p f s) :=
  h.execWord fun _ _ _ hs => hs.runVx

theorem State.canon.execVexp2 {p : Pred} {f : VF} {s : State} (h : s.canon) : OnNext (execVexp2 p f s) :=
  h.execWord fun _ _ _ hs => hs.runVx

theorem State.canon.execVlog2 {p : Pred} {f : VF} {s : State} (h : s.canon) : OnNext (execVlog2 p f s) :=
  h.execWord fun _ _ _ hs => hs.runVx

theorem State.canon.execVrcp {p : Pred} {f : VF} {s : State} (h : s.canon) : OnNext (execVrcp p f s) :=
  h.execWord fun _ _ _ hs => hs.runVx

theorem State.canon.execVrsq {p : Pred} {f : VF} {s : State} (h : s.canon) : OnNext (execVrsq p f s) :=
  h.execWord fun _ _ _ hs => hs.runVx

theorem State.canon.execVcvt {p : Pred} {f : VF} {s : State} (h : s.canon) : OnNext (execVcvt p f s) :=
  h.execWord fun _ _ _ hs => hs.runVx

theorem State.canon.execVcmp {p : Pred} {f : VF} {s : State} (h : s.canon) : OnNext (execVcmp p f s) :=
  h.execWord fun _ _ _ hs => hs.runVcmp

theorem State.canon.execVsel {p : Pred} {f : VF} {s : State} (h : s.canon) : OnNext (execVsel p f s) :=
  h.execWord fun _ _ _ hs => hs.runVx

theorem State.canon.execVand {p : Pred} {f : VF} {s : State} (h : s.canon) : OnNext (execVand p f s) :=
  h.execWord fun _ _ _ hs => hs.runVx

theorem State.canon.execVor {p : Pred} {f : VF} {s : State} (h : s.canon) : OnNext (execVor p f s) :=
  h.execWord fun _ _ _ hs => hs.runVx

theorem State.canon.execVxor {p : Pred} {f : VF} {s : State} (h : s.canon) : OnNext (execVxor p f s) :=
  h.execWord fun _ _ _ hs => hs.runVx

theorem State.canon.execVshl {p : Pred} {f : VF} {s : State} (h : s.canon) : OnNext (execVshl p f s) :=
  h.execWord fun _ _ _ hs => hs.runVx

theorem State.canon.execVshr {p : Pred} {f : VF} {s : State} (h : s.canon) : OnNext (execVshr p f s) :=
  h.execWord fun _ _ _ hs => hs.runVx

theorem State.canon.execVperm {p : Pred} {f : VF} {s : State} (h : s.canon) : OnNext (execVperm p f s) :=
  h.execWord fun _ _ _ hs => hs.runVx

theorem State.canon.execVscan {p : Pred} {f : VF} {s : State} (h : s.canon) : OnNext (execVscan p f s) :=
  h.execWord fun _ _ _ hs => hs.runVx

theorem State.canon.execVred {p : Pred} {f : VF} {s : State} (h : s.canon) : OnNext (execVred p f s) :=
  h.execWord fun _ _ _ hs => hs.runVx

theorem State.canon.execVbcast {p : Pred} {f : VF} {s : State} (h : s.canon) : OnNext (execVbcast p f s) :=
  h.execWord fun _ _ _ hs => hs.runVx

theorem State.canon.execVpack {p : Pred} {f : VF} {s : State} (h : s.canon) : OnNext (execVpack p f s) :=
  h.execWord fun _ _ _ hs => hs.runVx

theorem State.canon.execVunpack {p : Pred} {f : VF} {s : State} (h : s.canon) : OnNext (execVunpack p f s) :=
  h.execWord fun _ _ _ hs => hs.runVx

theorem State.canon.execVmov {p : Pred} {f : VF} {s : State} (h : s.canon) : OnNext (execVmov p f s) :=
  h.execWord fun _ _ _ hs => hs.runVx

theorem State.canon.execVmovIn {p : Pred} {f : VF} {s : State} (h : s.canon) : OnNext (execVmovIn p f s) :=
  h.execWord fun _ _ _ hs => hs.runVmovIn

theorem State.canon.execVmovOut {p : Pred} {f : VF} {s : State} (h : s.canon) : OnNext (execVmovOut p f s) :=
  h.execWord fun _ _ _ hs => hs.runVmovOut

theorem State.canon.execVidx {p : Pred} {f : VF} {s : State} (h : s.canon) : OnNext (execVidx p f s) :=
  h.execWord fun _ _ _ hs => hs.runVx

theorem State.canon.execVcount {p : Pred} {f : VF} {s : State} (h : s.canon) : OnNext (execVcount p f s) :=
  h.execWord fun _ _ _ hs => hs.runVx

theorem State.canon.execVminmax {p : Pred} {f : VF} {s : State} (h : s.canon) : OnNext (execVminmax p f s) :=
  h.execWord fun _ _ _ hs => hs.runVx

theorem State.canon.execLsRd {p : Pred} {idx : BitVec 12} {ctr sh : BitVec 3} {s : State} (h : s.canon) :
    OnNext (execLsRd p idx ctr sh s) :=
  h.execWord fun _ _ _ hs => hs.runLsRd

theorem State.canon.execLsWr {p : Pred} {idx : BitVec 12} {ctr sh : BitVec 3} {s : State} (h : s.canon) :
    OnNext (execLsWr p idx ctr sh s) :=
  h.execWord fun _ _ _ hs => hs.runLsWr

theorem State.canon.execLsG {p : Pred} {vi : Reg} {base : BitVec 12} {s : State} (h : s.canon) :
    OnNext (execLsG p vi base s) :=
  h.execWord fun _ _ _ hs => hs.runLsG

theorem State.canon.execLsS {p : Pred} {vd vi : Reg} {base : BitVec 12} {s : State} (h : s.canon) :
    OnNext (execLsS p vd vi base s) :=
  h.execWord fun _ _ _ hs => hs.runLsS

theorem State.canon.execLsFe {p : Pred} {idx : BitVec 12} {wd : BitVec 3} {s : State} (h : s.canon) :
    OnNext (execLsFe p idx wd s) :=
  h.execWord fun _ _ _ hs => hs.runLsFe

theorem State.canon.execLsUpd {p : Pred} {idx : BitVec 12} {ctr sh op : BitVec 3} {s : State} (h : s.canon) :
    OnNext (execLsUpd p idx ctr sh op s) :=
  h.execWord fun _ _ _ hs => hs.runLsUpd

theorem State.canon.execXbRoute {p : Pred} {srcA : BitVec 4} {outsA : BitVec 8} {srcB : BitVec 4} {outsB : BitVec 8}
    {stream : BitVec 4} {s : State} (h : s.canon) :
    OnNext (execXbRoute p srcA outsA srcB outsB stream s) :=
  h.execWord fun _ _ _ hs => hs.runXbRoute

theorem State.canon.execXbEase {p : Pred} {n e sd w mx vx ls : BitVec 4} {s : State} (h : s.canon) :
    OnNext (execXbEase p n e sd w mx vx ls s) :=
  h.execWord fun _ _ _ hs => hs.runXbEase

theorem State.canon.execXbHold {p : Pred} {src q : BitVec 4} {s : State} (h : s.canon) :
    OnNext (execXbHold p src q s) :=
  h.execWord fun _ _ _ hs => hs.runXbHold

theorem State.canon.execTkNop {p : Pred} {s : State} (h : s.canon) : OnNext (execTkNop p s) :=
  h.execWord fun _ _ _ hs => hs

theorem State.canon.execTkCnt {p : Pred} {c : BitVec 2} {field : BitVec 3} {value : BitVec 24} {s : State} (h : s.canon) :
    OnNext (execTkCnt p c field value s) :=
  h.execWord fun _ _ _ hs => hs.runTkCnt

theorem State.canon.execTkCntTick {p : Pred} {s : State} (h : s.canon) : OnNext (execTkCntTick p s) :=
  h.execWord fun _ _ _ hs => hs.runTkCntTick

theorem State.canon.execTkSend {p : Pred} {ch : BitVec 4} {s : State} (h : s.canon) : OnNext (execTkSend p ch s) :=
  h.execWord fun _ _ _ hs => hs.runTkSend

theorem State.canon.execTkWait {p : Pred} {ch : BitVec 4} {n : BitVec 12} {s : State} (h : s.canon) :
    OnNext (execTkWait p ch n s) :=
  h.execWord fun _ _ _ hs => hs.runTkWait

theorem State.canon.execTkSel {p : Pred} {src : BitVec 2} {n : BitVec 12} {s : State} (h : s.canon) :
    OnNext (execTkSel p src n s) :=
  h.execWord fun _ _ _ hs => hs.runTkSel

theorem State.canon.execTkStitch {p : Pred} {s : State} (h : s.canon) : OnNext (execTkStitch p s) :=
  h.execWord fun _ _ _ hs => hs.runTkStitch

/-! ## Publishing, streams and frames -/

theorem State.canon.execPublishDone {p : Nat} {s : State} (h : s.canon) : OnNext (execPublishDone p s) := by
  unfold Machine.execPublishDone
  show State.canon _
  split
  · split
    · exact h.setPanel.heldCycle
    · exact h
  · exact h

theorem State.canon.execTackArrive {p ch : Nat} {s : State} (h : s.canon) : OnNext (execTackArrive p ch s) := by
  unfold Machine.execTackArrive
  show State.canon _
  split
  · exact h
  · exact h.arriveTack

theorem State.canon.scaleLane {s : State} {uid : Nat} {sp : StreamSpec} {pas : List (Nat × Nat)} (h : s.canon) :
    OnOk (·.1.canon) (scaleLane s uid sp pas) := by
  unfold Machine.scaleLane
  split
  · dsimp only
    split
    · trivial
    · show State.canon _
      dsimp only
      exact h.foldl fun _ _ hs => hs.fillLine
  · exact h

theorem State.canon.deliverBeat {s : State} {p t i q : Nat} (h : s.canon) : (deliverBeat s p t i q).canon := by
  unfold Machine.deliverBeat
  split
  · exact h
  · split
    · exact h
    · split
      · split
        · exact h.modPanel
        next _ _ _ e =>
          exact (h.scaleLane.of_eq e).modPanel
      · exact h

theorem State.canon.tileFetch {s : State} {x : Panel} {tg : Target} {base len : Nat} (h : s.canon) :
    OnOk (·.1.canon) (tileFetch s x tg base len) := by
  unfold Machine.tileFetch
  dsimp only
  split
  · exact h.l2Fill.homeRead
  · split
    · trivial
    · show State.canon _
      dsimp only
      exact h.l2Fill

theorem State.canon.tileRead {s : State} {p t i : Nat} {tg : Target} {n : Nat} (h : s.canon) :
    OnOk (·.1.canon) (tileRead s p t i tg n) := by
  unfold Machine.tileRead
  split
  · exact h
  · dsimp only
    split
    · exact h
    · split
      · trivial
      next _ _ _ e =>
        split
        · show State.canon _
          dsimp only
          exact h.tileFetch.of_eq e
        · show State.canon _
          dsimp only
          exact (h.tileFetch.of_eq e).modPanel

theorem State.canon.readElems {s : State} {p t i blk : Nat} {sl : StreamSlot} {ks : List Nat} (h : s.canon) :
    OnOk (·.1.canon) (readElems s p t i blk sl ks) := by
  induction ks generalizing s with
  | nil => exact h
  | cons k ks ih =>
    unfold Machine.readElems
    split
    · exact h
    · split
      · trivial
      · next e =>
        split
        · trivial
        · next e' =>
          have ht := (State.canon.tileRead (h.elemTarget.of_eq e)).of_eq e'
          split
          · trivial
          · next e'' => exact OnOk.of_eq (Q := (·.1.canon)) (ih ht) e''

theorem State.canon.readPart {s : State} {p t i q : Nat} {sl : StreamSlot} {blk : Nat} {ks : List Nat} (h : s.canon) :
    (readPart s p t i q sl blk ks).canon := by
  unfold Machine.readPart
  split
  · exact h.modPanel
  next _ _ _ _ e =>
    exact (h.readElems.of_eq e).modPanel

theorem State.canon.fetchBeat {s : State} {p t i q : Nat} (h : s.canon) : (fetchBeat s p t i q).canon := by
  unfold Machine.fetchBeat
  split
  · exact h
  · split
    · exact h
    · split
      · refine State.canon.deliverBeat ?_
        split
        · exact h
        · exact h.readPart
      · exact h

theorem State.canon.sentBeat {s : State} {p i : Nat} {b : PathBeat} (h : s.canon) : (sentBeat s p i b).canon :=
  h.modPanel

theorem State.canon.receivePath {s t : State} {x : Panel} {b : PathBeat} (h : s.canon) (e : receivePath s x b = .taken t) :
    t.canon := by
  unfold Machine.receivePath at e
  split at e
  · cases e
  · dsimp only at e
    split at e
    · cases e
    · split at e
      · cases e
      · split at e
        · cases e
        · cases e
          exact h.setPanel

theorem State.canon.moveFrame {s : State} {f : FrameSlot} (h : s.canon) : (moveFrame s f).canon := by
  unfold Machine.moveFrame
  split
  · exact h
  · split
    · exact h
    · split
      · exact h.sentBeat.modPanel
      · exact h.sentBeat
      · exact h
      · next e => exact (h.receivePath e).sentBeat

theorem State.canon.moveFrames {s : State} (h : s.canon) : (moveFrames s).canon :=
  h.foldl fun _ _ hs => hs.moveFrame

theorem State.canon.countWaits {x0 : List (Party × Thread)} {x1 : State} (h : x1.canon) :
    (countWaits x0 x1).canon := by
  fun_induction Machine.countWaits x0 x1
  · exact h
  next _ _ _ _ _ _ _ _ e =>
    exact e h
  next _ _ _ _ _ _ _ _ e =>
    exact (e h).countFor
  next _ _ _ _ _ _ e' =>
    exact e' h

/-! ## Time messages -/

theorem State.canon.tickStep {s : State} (h : s.canon) : (tickStep s).canon :=
  h.countWaits.moveFrames.frame

theorem State.canon.noteSync {s : State} {l : Nat} {t : Option Nat} (h : s.canon) : (noteSync s l t).canon := by
  unfold Machine.noteSync
  split
  · exact h.frame
  · exact h

theorem State.canon.sendFlit {s : State} {l : Nat} {f : Flit} (h : s.canon) : (sendFlit s l f).canon := by
  unfold Machine.sendFlit
  split
  · split
    · exact h.frame
    · exact h
  · exact h

theorem State.canon.syncArrives {s : State} {l : Nat} (h : s.canon) : (syncArrives s l).canon := by
  unfold Machine.syncArrives
  split
  · exact h.frame
  · exact h

theorem State.canon.hearFlit {s : State} {l : Nat} (h : s.canon) : (hearFlit s l).canon := by
  unfold Machine.hearFlit
  split
  · split
    · exact h.frame
    · exact h
  · exact h

theorem State.canon.execSync {e : LinkEnd} {s : State} (h : s.canon) : OnNext (execSync e s) := by
  unfold Machine.execSync
  dsimp only
  show State.canon _
  split
  · split
    · exact h.sendFlit.noteSync
    · exact h
  · exact h.hearFlit.syncArrives

theorem State.canon.followUpArrives {s : State} {l t1 : Nat} (h : s.canon) : (followUpArrives s l t1).canon := by
  unfold Machine.followUpArrives
  split
  · exact h.frame
  · exact h

theorem State.canon.execFollowUp {e : LinkEnd} {t1 : Nat} {s : State} (h : s.canon) :
    OnNext (execFollowUp e t1 s) := by
  unfold Machine.execFollowUp
  dsimp only
  show State.canon _
  split
  · split
    · split
      · exact h.sendFlit.noteSync
      · exact h
    · exact h
  · exact h.hearFlit.followUpArrives

theorem State.canon.delayReqArrives {s : State} {l : Nat} (h : s.canon) : (delayReqArrives s l).canon := by
  unfold Machine.delayReqArrives
  split
  · exact h.sendFlit
  · exact h

theorem State.canon.execDelayReq {e : LinkEnd} {s : State} (h : s.canon) : OnNext (execDelayReq e s) := by
  unfold Machine.execDelayReq
  dsimp only
  show State.canon _
  split
  · split
    · exact h.sendFlit.frame
    · exact h
  · exact h.hearFlit.delayReqArrives

theorem State.canon.delayRespArrives {s : State} {l t4 : Nat} (h : s.canon) : (delayRespArrives s l t4).canon := by
  unfold Machine.delayRespArrives
  split
  · split
    · exact h.frame
    · exact h
  · exact h

/-! ## Admission, preparation and the end of tasks -/

theorem State.canon.failBarred {s : State} (h : s.canon) : (failBarred s).canon :=
  h.foldl fun _ _ hs => hs.modTask.offerTask

theorem State.canon.writeParams {s : State} {e : Nat} {t : TaskEntry} {x3 : List Nat} (h : s.canon) :
    OnOk State.canon (writeParams s e t x3) := by
  fun_induction Machine.writeParams s e t x3
  · exact h
  · trivial
  next _ _ _ _ _ he he' =>
    exact he' ((h.engTarget.of_eq he).writeHomeNow)

theorem State.canon.failAdmission {s : State} {e : Nat} {t : TaskEntry} {x : Trap} (h : s.canon) :
    (failAdmission s e t x).canon := by
  unfold Machine.failAdmission
  dsimp only
  split <;> exact h.modTask.offerTask

theorem State.canon.enterCore {s : State} {n c : Nat} (h : s.canon) : (enterCore s n c).canon := by
  fun_cases Machine.enterCore <;> exact h.frame

theorem State.canon.admitCore {s : State} {e n : Nat} {t : TaskEntry} (h : s.canon) : (admitCore s e n t).canon :=
  h.enterCore.setThread.modTask

theorem State.canon.placePanel {s : State} {e index : Nat} {t : TaskEntry} {sh : Shape} {bx byy : Nat} (h : s.canon) :
    (placePanel s e index t sh bx byy).canon :=
  h

theorem State.canon.placePanels {e : Nat} {t : TaskEntry} {x2 : Nat} {x3 : List (Shape × Nat × Nat)} {x4 : State}
    (h : x4.canon) :
    (placePanels e t x2 x3 x4).canon := by
  fun_induction Machine.placePanels e t x2 x3 x4
  · exact h
  next _ _ _ _ _ _ he =>
    exact he h.placePanel

theorem State.canon.takeFrames {s : State} {e : Nat} {ps : List (Shape × Nat × Nat)} (h : s.canon) :
    (takeFrames s e ps).canon :=
  h.frame.modTask

theorem State.canon.reissueWithdrawn {s : State} {c : Nat} {id : BitVec 32} (h : s.canon) :
    (reissueWithdrawn s c id).canon :=
  h.foldl fun _ _ hs => hs.reissue

theorem State.canon.admitGarment {s : State} {e : Nat} {t : TaskEntry} {os : List (Nat × Nat)} (h : s.canon) :
    (admitGarment s e t os).canon := by
  fun_cases Machine.admitGarment
  · next e => exact ((h.placePanels.takeFrames.modTask.devWrite).of_eq e).reissueWithdrawn
  · exact h.placePanels.takeFrames.modTask.killTask
  · exact h.placePanels.takeFrames.modTask

theorem State.canon.countTask {s : State} {e ev n : Nat} (h : s.canon) : (countTask s e ev n).canon := by
  unfold Machine.countTask
  split
  · exact h.countFor
  · exact h

theorem State.canon.admit_ {s : State} {e : Nat} {t : TaskEntry} {p : Place} (h : s.canon) :
    (admit_ s e t p).canon := by
  unfold Machine.admit_
  split
  · exact h.failAdmission
  next _ _ he =>
    dsimp only
    refine State.canon.countTask ?_
    split
    · exact (h.writeParams.of_eq he).admitCore
    · exact (h.writeParams.of_eq he).admitGarment

theorem State.canon.requestFrom {t : TaskEntry} {x1 : List (Nat × TaskEntry)} {x2 : List Nat} {x3 : State} (h : x3.canon) :
    (requestFrom t x1 x2 x3).canon := by
  fun_induction Machine.requestFrom t x1 x2 x3
  · exact h
  · exact h
  next _ _ _ _ _ _ _ e =>
    exact e h
  next _ _ _ _ _ _ _ _ _ e' =>
    exact e' h.countTask.acceptFreeze
  next _ _ _ _ _ _ _ _ e' =>
    exact e' h

theorem State.canon.requestPreemptionFor {s : State} {t : TaskEntry} (h : s.canon) :
    (requestPreemptionFor s t).canon := by
  unfold Machine.requestPreemptionFor
  dsimp only
  split
  · exact h
  · exact h.requestFrom

theorem State.canon.bypassAll {s : State} {above : List (Nat × TaskEntry)} (h : s.canon) :
    (bypassAll s above).canon :=
  (h.foldl fun _ _ hs => hs.modTask).frame

theorem State.canon.admitFirst {s : State} {x1 x2 : List (Nat × TaskEntry)} (h : s.canon) :
    (admitFirst s x1 x2).canon := by
  fun_induction Machine.admitFirst s x1 x2
  · exact h
  · exact h.admit_.countTask.bypassAll
  · exact h.admit_
  next _ _ _ _ _ e =>
    exact e

theorem State.canon.markerStep {s : State} (h : s.canon) : (markerStep s).canon := by
  unfold Machine.markerStep
  split
  · dsimp only
    split
    · split
      · split
        · exact h.failBarred.admit_.frame
        · exact h.failBarred.requestPreemptionFor
      · exact h.failBarred.frame.admitFirst
    · exact h.failBarred.admitFirst
  · exact h

theorem State.canon.execPlacementArm {p : Nat} {s : State} (h : s.canon) : OnNext (execPlacementArm p s) := by
  unfold Machine.execPlacementArm
  show State.canon _
  split
  · exact h
  · dsimp only
    split
    · split
      · split
        · exact h.undoPlacement.offerTask
        · exact h.setPanel
      · exact h
    · split
      · split
        · exact h.undoPlacement.offerTask
        · exact h.setPanel
      · exact h

theorem State.canon.garmentLive {s : State} {e : Nat} (h : s.canon) : (garmentLive s e).canon := by
  unfold Machine.garmentLive
  split
  · split
    · dsimp only
      split
      · exact h.frame.freeSlots
      · exact h.frame
    · exact h
  · exact h

theorem State.canon.resumePanel {s : State} {p : Nat} {x y : Panel} {ts : List Thread} (h : s.canon) :
    (resumePanel s p x y ts).canon :=
  (h.setPanel.foldl fun _ _ hs => hs.setThread.setThread).retryPanel

theorem State.canon.execPreparationComplete {p : Nat} {s : State} (h : s.canon) :
    OnNext (execPreparationComplete p s) := by
  unfold Machine.execPreparationComplete
  show State.canon _
  split
  · exact h
  · split
    · refine State.canon.garmentLive ?_
      split
      · exact h.resumePanel
      · exact h.setPanel.startStrands.takeShadow
    · exact h

theorem State.canon.mergeTask {s : State} {e : Nat} (h : s.canon) : (mergeTask s e).canon := by
  unfold Machine.mergeTask
  split
  · exact h.mergeFor
  · exact h

theorem State.canon.sumCounters {cs : List Counter} {x : State × Nat × Bool} (h : x.1.canon) : (sumCounters cs x).1.canon := by
  induction cs generalizing x with
  | nil => exact h
  | cons c cs ih => exact ih (x := (_, _, _)) (State.canon.counterRead h)

theorem State.canon.passCounts {xs : List Panel} {x1 : List Nat} {x2 : State} (h : x2.canon) :
    (passCounts xs x1 x2).1.canon := by
  fun_induction Machine.passCounts xs x1 x2
  · exact h
  next _ _ _ _ _ e _ _ e' e₂ =>
    dsimp only
    exact (e₂ (h.sumCounters.of_fst e)).of_fst e'

theorem State.canon.recordPass {s : State} {e : Nat} {t : TaskEntry} {parts : List (Nat × Nat × Word)} (h : s.canon) :
    (recordPass s e t parts).canon := by
  unfold Machine.recordPass
  split
  · split
    next _ _ _ he =>
      exact (h.passCounts.of_fst he).modTask
  · exact h

theorem State.canon.execGarmentDone {e : Nat} {s : State} (h : s.canon) : OnNext (execGarmentDone e s) := by
  unfold Machine.execGarmentDone
  show State.canon _
  split
  · split
    · exact State.canon.modTask (State.canon.frame (h.mergeTask.recordPass.foldl fun _ _ hs => hs.freePanel))
    · exact h
  · exact h

theorem State.canon.settleDone {s : State} {e c : Nat} {id : BitVec 32} (h : s.canon) : (settleDone s e c id).canon :=
  h.frame.lapseDeferred.freeSlots.preemptEnds.modTask

theorem State.canon.finishTask {s : State} {e : Nat} {t : TaskEntry} (h : s.canon) : (finishTask s e t).canon := by
  unfold Machine.finishTask
  dsimp only
  refine State.canon.settleDone <| State.canon.modTask ?_
  split
  · exact h.idleThread
  · exact h

theorem State.canon.recordCore {s : State} {e : Nat} {t : TaskEntry} (h : s.canon) : (recordCore s e t).canon := by
  unfold Machine.recordCore
  split
  · exact h.recordPass
  · exact h

theorem State.canon.execTaskEnd {e : Nat} {s : State} (h : s.canon) : OnNext (execTaskEnd e s) := by
  unfold Machine.execTaskEnd
  show State.canon _
  split
  · split
    · exact h.mergeTask.recordCore.finishTask
    · exact h
  · exact h

theorem State.canon.cleanContext {s : State} {c : Nat} (h : s.canon) : (cleanContext s c).canon :=
  (((h.foldl fun _ _ hs => hs.drainPanel.dropClean).flushReqs).foldl fun _ _ hs => hs.evictL2).frame

theorem State.canon.restoreSet {s : State} {x1 : List ((Nat × Nat) × FMap Nat (Nat × Nat))} (h : s.canon) :
    (restoreSet s x1).canon := by
  fun_induction Machine.restoreSet s x1
  · exact h
  next _ _ _ _ _ e =>
    exact e h.copyPage

theorem State.canon.nextPass {s : State} {e : Nat} {t : TaskEntry} {f : Fitting} (h : s.canon) :
    (nextPass s e t f).canon := by
  unfold Machine.nextPass
  dsimp only
  refine State.canon.modTask ?_
  split
  · exact h.restoreSet.idleThread
  · exact h.restoreSet

theorem State.canon.execFittingPassEnd {e : Nat} {s : State} (h : s.canon) : OnNext (execFittingPassEnd e s) := by
  unfold Machine.execFittingPassEnd
  show State.canon _
  split
  · split
    · dsimp only
      split
      · split
        · exact h.mergeTask.recordCore.cleanContext.finishTask
        · exact h.mergeTask.recordCore.cleanContext.nextPass
      · exact h.mergeTask.recordCore.cleanContext
    · exact h
  · exact h

/-! ## Replays -/

theorem State.canon.hostWrite {s : State} {c : Nat} {f : State → State} (h : s.canon) (hf : ∀ x, x.canon → (f x).canon) :
    (hostWrite s c f).canon := by
  unfold Machine.hostWrite
  split
  · split
    next _ _ _ e =>
      split
      · exact hf _ (h.draw.of_fst e)
      · exact h.draw.of_fst e
  · exact hf _ h

theorem State.canon.execGreplayWrite {c : Nat} {v : Word} {s : State} (h : s.canon) :
    OnNext (execGreplayWrite c v s) :=
  h.hostWrite fun _ hs => hs.writeGreplay

theorem State.canon.endReplay {s : State} {c : Nat} (h : s.canon) : (endReplay s c).canon :=
  h.setCtxt

theorem State.canon.dropReplay {s : State} {c : Nat} (h : s.canon) : (dropReplay s c).canon :=
  h.setCtxt.endReplay

theorem State.canon.replayRead {s : State} {c : Nat} {va : Word} {n : Nat} (h : s.canon) :
    OnSome (·.1.canon) (replayRead s c va n) := by
  unfold Machine.replayRead
  split
  next _ _ e =>
    exact h.engReadN.of_eq e
  · trivial

theorem State.canon.graphEntry {s : State} {c g i : Nat} {b : List Byte} (h : s.canon) :
    OnSome (·.1.canon) (graphEntry s c g i b) := by
  unfold Machine.graphEntry
  dsimp only
  split
  · refine OnSome.bind h.replayRead ?_
    rintro ⟨_, _⟩ hs
    refine OnSome.bind' fun _ => ?_
    split
    · split
      · exact hs
      · split
        next _ _ _ _ e =>
          show State.canon _
          dsimp only
          exact hs.depWord.of_eq e
        · trivial
    · trivial
  · trivial

theorem State.canon.graphEntries {c g x2 x3 : Nat} {x4 : State} {x5 : List Byte} (h : x4.canon) :
    OnSome (·.1.canon) (graphEntries c g x2 x3 x4 x5) := by
  fun_induction Machine.graphEntries c g x2 x3 x4 x5
  · exact h
  next _ _ _ _ e =>
    exact OnSome.bind h.graphEntry fun _ hs => OnSome.map (e _ hs) fun _ ht => ht

theorem State.canon.readGraph {s : State} {c g : Nat} (h : s.canon) : OnSome (·.1.canon) (readGraph s c g) := by
  unfold Machine.readGraph
  dsimp only
  split
  · refine OnSome.bind h.replayRead ?_
    rintro ⟨_, _⟩ hs
    split
    · refine OnSome.bind hs.replayRead ?_
      rintro ⟨_, _⟩ ht
      split
      · exact OnSome.bind ht.replayRead fun _ hu => OnSome.map hu.graphEntries fun _ hv => hv
      · trivial
    · trivial
  · trivial

theorem State.canon.submitEntry {s : State} {c : Nat} {es : List Nat} {g : GraphEntry} {e : Nat} (h : s.canon) :
    (submitEntry s c es g e).canon := by
  unfold Machine.submitEntry
  dsimp only
  split
  · exact (h.addTask.foldl fun _ _ hs => hs.addDep).addDep
  · exact h.addTask.foldl fun _ _ hs => hs.addDep

theorem State.canon.submitGraph {c : Nat} {l : List GraphEntry} {es : List Nat} {s : State} (h : s.canon) :
    (submitGraph c l es s).canon := by
  induction l generalizing es s with
  | nil => exact h
  | cons g l ih =>
    unfold Machine.submitGraph
    generalize Machine.lowestFree s = free
    cases free with
    | none => exact h
    | some e => exact ih h.submitEntry

theorem State.canon.execReplayBegin {c : Nat} {s : State} (h : s.canon) : OnNext (execReplayBegin c s) := by
  unfold Machine.execReplayBegin
  show State.canon _
  dsimp only
  split
  · split
    · exact h.dropReplay
    · split
      next _ _ _ _ e =>
        exact ((h.readGraph.of_eq e).setCtxt).submitGraph
      · exact h.setCtxt.endReplay
  · exact h

theorem State.canon.execReplayEnd {c : Nat} {s : State} (h : s.canon) : OnNext (execReplayEnd c s) := by
  unfold Machine.execReplayEnd
  show State.canon _
  dsimp only
  split
  · exact h.endReplay
  · exact h

/-! ## Fills, evictions, copies and the press -/

theorem State.canon.askLine {s : State} {w : Writer} {c line : Nat} (h : s.canon) : (askLine s w c line).canon :=
  h.foldl fun _ _ hs => hs.l2Sector

theorem State.canon.fillUnit {s : State} {u : CacheUnit} {line : Nat} (h : s.canon) : (fillUnit s u line).canon := by
  unfold Machine.fillUnit
  split
  · exact h
  · split
    · split
      · split
        · exact h
        · exact h.askLine.modPanel
      · exact h
    · split
      · exact h.askLine.setCore
      · exact h
    · exact h

theorem State.canon.evictUnit {s : State} {u : CacheUnit} {line : Nat} (h : s.canon) :
    (evictUnit s u line).canon := by
  unfold Machine.evictUnit
  split
  · exact h.drainLine.modPanel
  · exact h.setCore
  · exact h.evictL2

theorem State.canon.setHead {s : State} {c n : Nat} {cmd : Copy} (h : s.canon) : (setHead s c n cmd).canon :=
  h.setChan

theorem State.canon.copyFault {s : State} {c n : Nat} {cmd : Copy} {t : Trap} (h : s.canon) :
    (copyFault s c n cmd t).canon := by
  unfold Machine.copyFault
  split
  · exact h.setHead.offerEngine
  · dsimp only
    split
    · exact h.setHead.offerEngine
    · exact h.setHead

theorem State.canon.copyRead {s : State} {c n k : Nat} (h : s.canon) : (copyRead s c n k).canon := by
  unfold Machine.copyRead
  split
  · exact h
  · split
    · exact h
    · split
      · dsimp only
        split
        · split
          · split
            · exact h.copyFault
            · exact h.cmdBytes.setHead
          · exact h.setHead
        · split
          next _ _ _ e =>
            exact (h.engReadN.of_eq e).setHead
          · exact h.copyFault

theorem State.canon.pressRecord {s : State} {c : PressCmd} (h : s.canon) : OnOk (·.1.canon) (pressRecord s c) := by
  unfold Machine.pressRecord
  split
  · exact h
  · split
    · split
      · split
        · trivial
        · exact h.cmdBytes
      · trivial
    · split
      next _ _ e =>
        exact h.engReadN.of_eq e
      · trivial

theorem State.canon.pressRecordPa {s : State} {c : PressCmd} (h : s.canon) :
    OnOk (·.1.canon) (pressRecordPa s c) := by
  unfold Machine.pressRecordPa
  split
  · exact h
  · split
    next _ _ _ e =>
      show State.canon _
      dsimp only
      exact h.engTarget.of_eq e
    · trivial

theorem State.canon.pressPages {q : XReq} {x1 : Nat} {x2 : Word} {x3 : State} (h : x3.canon) :
    OnOk (·.1.canon) (pressPages q x1 x2 x3) := by
  fun_induction Machine.pressPages q x1 x2 x3
  · exact h
  · trivial
  · trivial
  next _ _ _ _ _ e _ _ e' e₂ =>
    show State.canon _
    dsimp only
    exact (e₂ (h.translate.of_eq e)).of_eq e'

theorem State.canon.pressSpans {q : XReq} {x1 : Nat} {x2 : Word} {x3 : State} (h : x3.canon) :
    OnOk (·.1.canon) (pressSpans q x1 x2 x3) := by
  fun_induction Machine.pressSpans q x1 x2 x3
  · exact h
  · trivial
  · trivial
  · trivial
  next _ _ _ _ _ e _ _ _ e' e₂ =>
    show State.canon _
    dsimp only
    exact (e₂ (h.pressPages.of_eq e)).of_eq e'

theorem State.canon.pressSrcPages {c : PressCmd} {n : Nat} {x2 : List Word} {x3 : State} (h : x3.canon) :
    OnOk (·.1.canon) (pressSrcPages c n x2 x3) := by
  fun_induction Machine.pressSrcPages c n x2 x3
  · exact h
  · trivial
  · trivial
  next _ _ _ _ _ e _ _ e' e₂ =>
    show State.canon _
    dsimp only
    exact (e₂ (h.pressSpans.of_eq e)).of_eq e'

theorem State.canon.pressPlan {s : State} {c : PressCmd} {bs : List Byte} (h : s.canon) : OnOk (·.1.canon)
    (pressPlan s c bs) := by
  unfold Machine.pressPlan
  split
  · trivial
  · split
    · trivial
    · next e₁ =>
      split
      · trivial
      · next e₂ =>
        split
        · trivial
        · next e₃ =>
          split
          · trivial
          · exact (State.canon.pressSrcPages ((State.canon.pressSpans (h.pressRecordPa.of_eq e₁)).of_eq e₂)).of_eq e₃

theorem State.canon.pressPrepare {s : State} {n : Nat} {c : PressCmd} (h : s.canon) : (pressPrepare s n c).canon := by
  unfold Machine.pressPrepare
  split
  · split
    · exact h.pressStop
    next _ _ _ e =>
      dsimp only
      split
      next _ _ _ e' =>
        exact (((h.pressRecord.of_eq e).pressPlan).of_eq e').setPress
      · exact (h.pressRecord.of_eq e).pressStop
  · exact h

theorem State.canon.evictSide {s : State} {line : Nat} (h : s.canon) : (evictSide s line).canon :=
  h.evictSideWith fun _ _ _ hs => hs.writeBehind

theorem State.canon.readySpan {s : State} {pl : PressPlan} {i : Nat} (h : s.canon) : (readySpan s pl i).canon :=
  ((h.foldl fun _ _ hs => hs.evictSide).foldl fun _ _ hs => hs.cleanRange).frame

theorem State.canon.actSpan {s : State} {c : PressCmd} {pl : PressPlan} {i : Nat} (h : s.canon) :
    (actSpan s c pl i).canon := by
  unfold Machine.actSpan
  split
  · exact h
  · exact h.readySpan

theorem State.canon.spoil {s : State} {bad : List Nat} {bs : List Byte} (h : s.canon) : (spoil s bad bs).1.canon := by
  unfold Machine.spoil
  dsimp only
  exact h.frame

theorem State.canon.pressReadLine {s : State} {n : Nat} {c : PressCmd} {pl : PressPlan} {m : Nat} (h : s.canon) :
    (pressReadLine s n c pl m).canon := by
  unfold Machine.pressReadLine
  dsimp only
  split
  · exact h
  · split
    · exact h
    · split
      · exact h.actSpan.setPress
      · split
        · exact h.actSpan.setPress
        · split
          · exact h.actSpan.setPress
          · exact h.actSpan.spoil.setPress

theorem State.canon.pressRead {s : State} {n m : Nat} (h : s.canon) : (pressRead s n m).canon := by
  unfold Machine.pressRead
  split
  · exact h
  · split
    · exact h
    · split
      · exact h.pressPrepare
      · exact h.pressReadLine

theorem State.canon.fetchPart {s : State} {p t i q : Nat} (h : s.canon) : (fetchPart s p t i q).canon := by
  unfold Machine.fetchPart
  split
  · exact h
  · split
    · exact h
    · split
      · exact h.readPart
      · exact h

/-! ## Quilt commands -/

theorem QKeeps.qAct {read : QM (List Byte)} {write : List Byte → QM Unit} (h : QKeeps read) (hf : ∀ x, QKeeps (write x)) :
    QKeeps (qAct read write) := by
  unfold Machine.qAct
  refine .bindGet fun _ _ => ?_
  split
  · exact .andThen (.modify fun _ ht => ht) (.bindGet fun _ ht => .ite (.bind (hf _) fun _ => .pure) .pure)
  · exact .bind h fun _ => .andThen (hf _) .throw

theorem QKeeps.qLook {read : QM (List Byte)} (h : QKeeps read) : QKeeps (qLook read) :=
  .qAct h fun _ => .pure

theorem QKeeps.qPage {va : Nat} {write : Bool} : QKeeps (qPage va write) := by
  unfold Machine.qPage
  refine .bindGet fun r h => ?_
  split
  · exact .pure
  · dsimp only
    split
    · next e e' => exact .andThen (.set ⟨h.1.engTarget.of_eq e, h.2.engTarget.of_eq e'⟩) .pure
    · exact .throw
    · exact .throw

theorem QKeeps.qFail {α : Type} {n : Nat} : QKeeps (qFail n : QM α) :=
  .throw

theorem QKeeps.qReadFrom {x0 x1 x2 : Nat} : QKeeps (qReadFrom x0 x1 x2) := by
  fun_induction Machine.qReadFrom x0 x1 x2
  · exact .pure
  · exact .pure
  next _ _ _ _ _ e =>
    refine .bind .qPage ?_
    rintro ⟨_, _⟩
    split
    · refine .bindGet fun _ _ => ?_
      dsimp only
      refine .ite ?_ ?_
      · refine .andThen .qFail ?_
        split
        · exact .throw
        · exact .bind e fun _ => .pure
      · split
        · exact .throw
        · exact .bind e fun _ => .pure

theorem QKeeps.qRead {va n : Nat} : QKeeps (qRead va n) :=
  .qReadFrom

theorem QKeeps.qCheck {b : Bool} {n : Nat} : QKeeps (qCheck b n) :=
  .ite .pure .qFail

theorem QKeeps.qAcquire {va : Nat} : QKeeps (qAcquire va) := by
  refine .andThen (.qLook (.bind .qPage fun (base, dom) =>
    .andThen (.modify fun r h => ⟨h.1.flushRanges, h.2.flushRanges⟩) (.bindGet fun r _ => ?_))) .pure
  split
  · exact .throw
  · exact .pure

theorem QKeeps.qOpen {va : Nat} : QKeeps (qOpen va) :=
  .bind (.qLook .qRead) fun _ => .andThen .qCheck (.andThen .qAcquire (.bind (.qLook .qRead) fun _ => .bind .qPage fun _ =>
    .bindGet fun _ _ => .andThen .qCheck (.modify fun _ ht => ht)))

theorem QKeeps.qCmd {f : QuiltCmd → QuiltCmd} : QKeeps (qCmd f) :=
  .modify fun _ hs => hs

theorem QKeeps.qRecord {read : QM (List Byte)} (h : QKeeps read) : QKeeps (qRecord read) :=
  .bindGet fun _ _ => .ite (.bind h fun _ => .andThen .qCmd .pure) .pure

theorem QKeeps.qScratch {a : Word} {n : Nat} : QKeeps (qScratch a n) := by
  unfold Machine.qScratch
  refine .bindGet fun _ _ => ?_
  split
  · exact .pure
  · exact .qFail

theorem QKeeps.qReadAny {a : Word} {n : Nat} : QKeeps (qReadAny a n) := by
  refine .ite (.bind .qScratch fun l => .bindGet fun r h => ?_) .qRead
  split
  · exact .throw
  · exact .andThen (.set ⟨h.1.cmdBytes, h.2.frame⟩) .pure

theorem QKeeps.qToken : QKeeps (qToken) :=
  .bindGet fun _ _ => .bind (.qRecord (.qLook .qReadAny)) fun _ => .andThen .qCheck .pure

theorem QKeeps.qNum {va n : Nat} : QKeeps (qNum va n) :=
  .bind .qRead fun _ => .pure

theorem QKeeps.qBit {i : Nat} : QKeeps (qBit i) :=
  .bindGet fun _ _ => .bind .qNum fun _ => .pure

theorem QKeeps.qPointerOk {va : Nat} : QKeeps (qPointerOk va) := by
  unfold Machine.qPointerOk
  refine .bindGet fun _ _ => ?_
  split
  · exact .qBit
  · exact .pure

theorem QKeeps.qParse {bs : List Byte} : QKeeps (qParse bs) := by
  unfold Machine.qParse
  refine .bindGet fun _ _ => ?_
  dsimp only
  split
  · exact .qFail
  · exact .pure

theorem QKeeps.qNodeBytes {va : Nat} : QKeeps (qNodeBytes va) :=
  .bind .qPointerOk fun _ => .andThen .qCheck (.bindGet fun _ _ => .bind .qRead fun _ => .bind .qParse fun _ => .andThen
    (.forIn fun _ _ => .bind .qPointerOk fun _ => .andThen .qCheck .pure) .pure)

theorem QKeeps.qNode {va : Nat} : QKeeps (qNode va) :=
  .bind (.qLook .qNodeBytes) fun _ => .qParse

theorem QKeeps.qNodesOf {x0 : List Nat} : QKeeps (qNodesOf x0) := by
  fun_induction Machine.qNodesOf x0
  · exact .pure
  next _ _ e =>
    exact .bind .qNode fun _ => .bind e fun _ => .pure

theorem QKeeps.qMarkRoom {path : List Nat} : QKeeps (qMarkRoom path) :=
  .bindGet fun _ _ => .ite (.bind .qNodesOf fun _ => .bind (.qLook .qRead) fun _ => .qCheck) .pure

theorem QKeeps.qRight {x0 x1 : Nat} : QKeeps (qRight x0 x1) := by
  fun_induction Machine.qRight x0 x1
  · exact .qFail
  next _ _ e =>
    refine .bind .qNode fun _ => ?_
    split
    · exact .bind (e _) fun _ => .pure
    · exact .pure

theorem QKeeps.qUnmarked : QKeeps (qUnmarked) :=
  .bindGet fun _ _ => .qCheck

theorem QKeeps.qChild {pos : Nat} {x1 : List Nat} : QKeeps (qChild pos x1) := by
  fun_induction Machine.qChild pos x1
  · exact .pure
  next _ _ e =>
    exact .bind .qNode fun _ => .ite .pure e

theorem QKeeps.qFind {target pos x2 x3 : Nat} : QKeeps (qFind target pos x2 x3) := by
  fun_induction Machine.qFind target pos x2 x3
  · exact .qFail
  next _ _ e =>
    refine .bind .qNode fun _ => .ite .pure <| .bind .qChild fun _ => ?_
    split
    · exact .bind (e _) fun _ => .pure
    · exact .qFail

theorem QKeeps.qNamed : QKeeps (qNamed) :=
  .bindGet fun _ _ => .ite .qFail (.bind (.qLook .qRead) fun _ => .qFind)

theorem QKeeps.qSwatch {va : Nat} : QKeeps (qSwatch va) :=
  .bind .qNode fun _ => .andThen .qCheck (.andThen .qCheck .pure)

theorem QKeeps.qSibling {parents : List Nat} {va : Nat} : QKeeps (qSibling parents va) := by
  unfold Machine.qSibling
  split
  · exact .qFail
  · refine .bind .qNode fun _ => ?_
    split
    · exact .pure
    · exact .qFail

theorem QKeeps.qMergeCheck {path : List Nat} : QKeeps (qMergeCheck path) :=
  .bind .qSwatch fun _ => .bind .qSibling fun _ => .bind .qNode fun _ => .bindGet fun _ _ => .andThen .qCheck .pure

theorem QKeeps.qPath {op : Nat} : QKeeps (qPath op) :=
  .bindGet fun _ _ => .ite (.andThen .qToken (.ite (.bind .pure fun _ => .andThen .qMarkRoom .pure)
    (.bind .qRight fun _ => .andThen .qMarkRoom .pure))) (.ite (.andThen .qUnmarked
    (.bind .qNamed fun _ => .bind .qSwatch fun _ => .andThen .qCheck .pure))
    (.ite (.andThen .qUnmarked (.bind .qNamed fun _ => .andThen .qMergeCheck .pure))
    (.ite (.andThen .qUnmarked (.bind .qNamed fun _ => .bind .qNode fun _ => .pure)) .pure)))

theorem QKeeps.qFreeSlots : QKeeps (qFreeSlots) :=
  .bindGet fun _ _ => .bind .qRead fun _ => .pure

theorem QKeeps.qOnBase {α : Type} {m : QM α} (hm : QKeeps m) : QKeeps (qOnBase m) :=
  .bindGet fun _ h => .andThen (.modify fun _ h' => ⟨h'.2, h'.2⟩) <|
    .bind hm fun _ => .andThen (.modify fun _ h' => ⟨h.1, h'.2⟩) .pure

theorem QKeeps.qLowest : QKeeps (qLowest) := by
  unfold Machine.qLowest
  refine .bindGet fun _ _ => ?_
  dsimp only
  refine .ite ?_ ?_
  · refine .bind (.qOnBase .qFreeSlots) fun _ => .bindGet fun _ _ => .andThen .qCheck <| .bind .qFreeSlots fun _ => ?_
    split
    · exact .pure
    · exact .qFail
  · refine .bind .qFreeSlots fun _ => ?_
    split
    · exact .pure
    · exact .qFail

theorem QKeeps.qWriteFrom {fuel va : Nat} {bs : List Byte} : QKeeps (qWriteFrom fuel va bs) := by
  induction fuel generalizing va bs with
  | zero => exact .pure
  | succ fuel ih =>
    exact .ite .pure (.bind .qPage fun _ => .andThen (.modify fun _ h => ⟨h.1.writeHomeNow, h.2⟩) ih)

theorem QKeeps.qWrite {va : Nat} {bs : List Byte} : QKeeps (qWrite va bs) :=
  .qWriteFrom

theorem QKeeps.qNoteAlloc {i : Nat} : QKeeps (qNoteAlloc i) :=
  .bindGet fun _ _ => .ite (.bind .qNum fun _ => .andThen .qWrite .qWrite) .pure

theorem QKeeps.qSetBit {i : Nat} {v : Bool} : QKeeps (qSetBit i v) :=
  .bindGet fun _ _ => .bind .qNum fun _ => .qWrite

theorem QKeeps.qFreeCount {f : Nat → Nat} : QKeeps (qFreeCount f) :=
  .bindGet fun _ _ => .bind .qNum fun _ => .qWrite

theorem QKeeps.qNew {n : QNode} : QKeeps (qNew n) :=
  .bind (.qAct .qLowest fun _ => .bindGet fun _ hs => .andThen .qNoteAlloc
    (.andThen .qSetBit (.andThen .qFreeCount (.andThen .qCmd .qWrite)))) fun _ => .bindGet fun _ hs => .pure

theorem QKeeps.qPlace {va : Nat} : QKeeps (qPlace va) :=
  .bind .qPage fun _ => .pure

theorem QKeeps.qSetRef {va : Nat} {n : QNode} {ref : Nat} : QKeeps (qSetRef va n ref) :=
  .qWrite

theorem QKeeps.qInc {va : Nat} : QKeeps (qInc va) :=
  .andThen (.qAct (.bind .qNodeBytes fun _ => .bind .qPlace fun _ => .bindGet fun _ hs => .ite
    (.bind (.qOnBase .qRead) fun _ => .bind .qCheck fun _ => .pure) .pure) fun _ => .bind .qParse fun _ => .bind .qPlace fun
    _ => .bindGet fun _ hs => .andThen .qCmd .qSetRef) .pure

theorem QKeeps.qChange {va : Nat} {f : QNode → QM Unit} (h : ∀ x, QKeeps (f x)) : QKeeps (qChange va f) :=
  .bind (.qAct .qNodeBytes fun _ => .bind .qParse fun _ => h _) fun _ => .qParse

theorem QKeeps.qStore {va : Nat} {n : QNode} : QKeeps (qStore va n) :=
  .bindGet fun _ _ => .qWrite

theorem QKeeps.qDesc {f : QDesc → QDesc} : QKeeps (qDesc f) :=
  .modify fun _ hs => hs

theorem QKeeps.qDo {write : QM Unit} (h : QKeeps write) : QKeeps (qDo write) :=
  .andThen (.qAct .pure fun _ => h) .pure

theorem QKeeps.qFlush {d : QDesc} : QKeeps (qFlush d) :=
  .andThen .qWrite (.andThen .qWrite (.andThen .qWrite .qWrite))

theorem QKeeps.qFlushDesc : QKeeps (qFlushDesc) :=
  .bindGet fun _ _ => .qDo .qFlush

theorem QKeeps.qRepoint {parent : Option Nat} {old new : Nat} : QKeeps (qRepoint parent old new) := by
  unfold Machine.qRepoint
  split
  · exact .andThen (.qChange fun _ => .qStore) .pure
  · exact .andThen .qDesc .qFlushDesc

theorem QKeeps.qReturn {va : Nat} : QKeeps (qReturn va) := by
  unfold Machine.qReturn
  refine .bindGet fun _ _ => ?_
  split
  · exact .bind .qBit fun _ => .ite (.andThen .qSetBit .qFreeCount) .pure
  · exact .pure

theorem QKeeps.qDec {x0 x1 : Nat} : QKeeps (qDec x0 x1) := by
  fun_induction Machine.qDec x0 x1
  · exact .pure
  next _ _ e =>
    exact .bind (.qChange fun _ => .andThen .qSetRef (.ite .qReturn .pure)) fun _ => .ite
      (.andThen (.forIn fun _ _ => .andThen (e _) .pure) .pure) .pure

theorem QKeeps.qPrivate {parent : Option Nat} {va : Nat} : QKeeps (qPrivate parent va) :=
  .bind .qNode fun _ => .ite .pure (.bind .qNew fun _ => .andThen (.forIn fun _ _ => .andThen .qInc .pure)
    (.andThen .qRepoint (.andThen .qDec .pure)))

theorem QKeeps.qPrivates {x0 x1 : List Nat} : QKeeps (qPrivates x0 x1) := by
  fun_induction Machine.qPrivates x0 x1
  · exact .pure
  next _ _ _ e =>
    exact .bind .qPrivate fun _ => e _

theorem QKeeps.qInit : QKeeps (qInit) :=
  .bindGet fun _ _ => .qDo .qFlush

theorem QKeeps.qEvent {ev n : Nat} : QKeeps (qEvent ev n) :=
  .qCmd

theorem QKeeps.qSummed {n : QNode} : QKeeps (qSummed n) :=
  .bind .qNodesOf fun _ => .bindGet fun _ _ => .pure

theorem QKeeps.qPut {va : Nat} {n : QNode} : QKeeps (qPut va n) :=
  .qDo .qStore

theorem QKeeps.qSplitDone : QKeeps (qSplitDone) :=
  .andThen .qDesc .qEvent

theorem QKeeps.qUp {x0 : List Nat} {x1 : Nat} {x2 : Option Nat} : QKeeps (qUp x0 x1 x2) := by
  fun_induction Machine.qUp x0 x1 x2
  · exact .pure
  · exact .bindGet fun _ _ => .andThen .qCheck (.bind .qSummed fun _ => .bind .qNew fun _ => .qDesc)
  next _ _ _ _ e e' =>
    exact .bind .qNode fun _ => .bindGet fun _ _ => .ite (.bind .qSummed fun _ => .andThen .qPut
      (.bind .qSummed fun _ => .bind .qNew fun _ => .andThen .qSplitDone (e _))) (.bind .qSummed fun _ => .andThen .qPut e')

theorem QKeeps.qDivide {va : Nat} {node : QNode} {parents : List Nat} {ts : List QToken} {n : Nat} :
    QKeeps (qDivide va node parents ts n) :=
  .bindGet fun _ _ => .andThen .qPut (.bind .qNew fun _ => .andThen .qSplitDone .qUp)

theorem QKeeps.qAppend {made : List Nat} : QKeeps (qAppend made) :=
  .bind .qToken fun _ => .bindGet fun _ _ => .ite (.bind .qNew fun _ => .bind .qDesc fun _ => .andThen .qDesc
    (.andThen .qFlushDesc .qEvent)) (.bind .qNode fun _ => .ite (.bind .qNew fun _ => .bind .qUp fun _ => .andThen .qDesc
    (.andThen .qFlushDesc .qEvent)) (.andThen .qCheck (.ite (.bind .qDivide fun _ => .andThen .qDesc
    (.andThen .qFlushDesc .qEvent)) (.andThen .qPut (.bind .qUp fun _ => .andThen .qDesc (.andThen .qFlushDesc .qEvent))))))

theorem QKeeps.qTagged {a : Word} {n : Nat} : QKeeps (qTagged a n) :=
  .ite (.andThen .qScratch .pure) .pure

theorem QKeeps.qRequest : QKeeps (qRequest) :=
  .bindGet fun _ _ => .bind (.qRecord (.bind (.qLook .qReadAny) fun _ => .andThen .qCheck
    (.bind (.qLook .qReadAny) fun _ => .pure))) fun _ => .andThen .qTagged
    (.andThen .qTagged (.andThen .qTagged (.andThen .qTagged .pure)))

theorem QKeeps.qScore {q : List W32} {nq : W32} {d : Nat} {x3 : List Nat} : QKeeps (qScore q nq d x3) := by
  fun_induction Machine.qScore q nq d x3
  · exact .pure
  next _ _ e =>
    exact .bind .qNode fun _ => .bind e fun _ => .pure

theorem QKeeps.qTake {q : QRequest} {t : W32} {es : List QScored} {w : QWalk} {nx : List Nat} : QKeeps (qTake q t es w nx) := by
  induction es generalizing w nx with
  | nil => exact .pure
  | cons e es ih => exact .bindGet fun _ _ => .ite ih (.ite ih (.ite ih (.ite ih ih)))

theorem QKeeps.qLevel {q : QRequest} {query : List W32} {nq : W32} {x3 : Nat} {x4 : List Nat} {x5 : QWalk} :
    QKeeps (qLevel q query nq x3 x4 x5) := by
  fun_induction Machine.qLevel q query nq x3 x4 x5
  · exact .pure
  · exact .pure
  next _ _ _ _ e =>
    exact .bindGet fun _ _ => .bind .qScore fun _ => .bind .qTake fun _ => e _ _

theorem QKeeps.qWriteAny {a : Word} {bs : List Byte} : QKeeps (qWriteAny a bs) :=
  .ite (.bind .qScratch fun _ => .bindGet fun _ _ => .ite (.andThen .throw (.modify fun _ h => ⟨h.1.landScratch, h.2⟩))
    (.modify fun _ h => ⟨h.1.landScratch, h.2⟩)) .qWrite

theorem QKeeps.qRows {q : QRequest} {d : Nat} {x2 : List QToken} {x3 : Nat} : QKeeps (qRows q d x2 x3) := by
  fun_induction Machine.qRows q d x2 x3
  · exact .pure
  next _ _ _ e =>
    exact .andThen (.qDo .qWriteAny) (.andThen (.qDo .qWriteAny) (.andThen (.qDo .qWriteAny) e))

theorem QKeeps.qSummaries {q : QRequest} {d : Nat} {x2 : List QScored} {x3 : Nat} :
    QKeeps (qSummaries q d x2 x3) := by
  fun_induction Machine.qSummaries q d x2 x3
  · exact .pure
  next _ _ _ e =>
    exact .andThen (.qDo .qWriteAny) e

theorem QKeeps.qDescend : QKeeps (qDescend) :=
  .bind .qRequest fun _ => .andThen .qCheck (.bindGet fun _ _ => .bind .qLevel fun _ => .andThen .qCheck
    (.andThen .qRows (.andThen .qSummaries (.andThen .qDesc (.andThen .qFlushDesc .qCmd)))))

theorem QKeeps.qSplit {made : List Nat} : QKeeps (qSplit made) :=
  .bind .qSwatch fun _ => .andThen .qDivide .qFlushDesc

theorem QKeeps.qMerge {made : List Nat} : QKeeps (qMerge made) := by
  unfold Machine.qMerge
  refine .bind .qMergeCheck fun _ => ?_
  split
  · refine .bind .qNode fun _ => .bind .qNode fun _ => .bindGet fun _ _ => .andThen .qPut ?_
    dsimp only
    split
    · exact .andThen (.qChange fun _ => .qStore) (.andThen .qDec (.andThen .qUp .qFlushDesc))
    · exact .andThen .qDec (.andThen .qUp .qFlushDesc)

theorem QKeeps.qFork : QKeeps (qFork) :=
  .andThen .qUnmarked (.bindGet fun _ _ => .bind (.qLook .qRead) fun _ => .andThen .qCheck
    (.andThen .qCheck (.andThen .qAcquire (.ite (.bind .qInc fun _ => .andThen
    (.qDo (.andThen .qWrite (.andThen .qWrite (.andThen .qWrite .qWrite)))) .qCmd)
    (.andThen (.qDo (.andThen .qWrite (.andThen .qWrite (.andThen .qWrite .qWrite)))) .qCmd)))))

theorem QKeeps.qTokensIn {x0 x1 : Nat} : QKeeps (qTokensIn x0 x1) := by
  fun_induction Machine.qTokensIn x0 x1
  · exact .pure
  next _ _ e =>
    exact .bind .qNode fun _ => .ite (.bind (.forIn fun _ _ => .bind (e _) fun _ => .pure) fun _ => .pure) .pure

theorem QKeeps.qEvict {made : List Nat} : QKeeps (qEvict made) :=
  .ite .pure (.bind .qNode fun _ => .bind .qTokensIn fun _ => .andThen .qPut
    (.andThen (.forIn fun _ _ => .andThen .qDec .pure) (.andThen .qUp (.andThen .qDesc .qFlushDesc))))

theorem QKeeps.qLeaf {va : Nat} : QKeeps (qLeaf va) := by
  refine .bindGet fun r h => ?_
  split
  · next e => exact .andThen (.set ⟨State.canon.of_fst h.1.walk e, h.2.walk⟩) (.andThen .qCheck .pure)
  · exact .throw
  · exact .throw

theorem QKeeps.qPairs {mark : Nat} {x1 : List Nat} : QKeeps (qPairs mark x1) := by
  fun_induction Machine.qPairs mark x1
  · exact .pure
  next _ _ e =>
    exact .bind (.qLook (.bind .qLeaf fun _ => .bind .qLeaf fun _ => .andThen .qCheck .pure)) fun _ => .bind e fun _ => .pure

theorem QKeeps.qMove {parent : Option Nat} {va : Nat} : QKeeps (qMove parent va) :=
  .bind .qNode fun _ => .bind .qNew fun _ => .andThen .qRepoint (.qDo .qReturn)

theorem QKeeps.qEvacuate {spine : List Nat} {x1 : Nat} {x2 : Option Nat} {x3 : Nat} :
    QKeeps (qEvacuate spine x1 x2 x3) := by
  fun_induction Machine.qEvacuate spine x1 x2 x3
  · exact .pure
  next _ _ _ e =>
    exact .bind .qNode fun _ => .andThen (.forIn fun _ _ => .andThen (e _) .pure) (.bindGet fun _ _ => .ite .qMove .pure)

theorem QKeeps.qIntoPages {path : List Nat} : QKeeps (qIntoPages path) :=
  .bind .qNodesOf fun _ => .bindGet fun _ _ => .andThen (.forIn fun _ _ => .andThen (.qDo .qReturn) .pure)
    (.andThen (.forIn fun _ _ => .andThen .qPut .pure) .qDesc)

theorem QKeeps.qMark : QKeeps (qMark) :=
  .bindGet fun _ _ => .andThen .qCheck (.andThen .qPairs (.andThen .qDesc
    (.bind .qRight fun _ => .andThen .qEvacuate (.bindGet fun _ _ => .bind .qRight fun _ => .bind .qPrivates fun _ =>
    .andThen .qIntoPages (.bindGet fun _ _ => .andThen (.forIn fun _ _ => .andThen (.qDo (.bind .qRead fun _ => .qWrite))
    .pure) (.andThen (.qDo .qWrite) (.andThen .qDesc .qFlushDesc)))))))

theorem QKeeps.qSwap {a b : Nat} : QKeeps (qSwap a b) := by
  refine .modify fun r h => ⟨?_, h.2⟩
  dsimp only
  exact h.1.writeHomeNow.writeHomeNow

theorem QKeeps.qInvalidate {va : Nat} : QKeeps (qInvalidate va) :=
  .modify fun _ h => ⟨h.1.frame, h.2.frame⟩

theorem QKeeps.qUnalloc {x0 : List Nat} : QKeeps (qUnalloc x0) := by
  fun_induction Machine.qUnalloc x0
  · exact .pure
  next _ _ e =>
    exact .bindGet fun _ _ => .andThen (.qDo .qReturn) e

theorem QKeeps.qTrim : QKeeps (qTrim) :=
  .bindGet fun _ _ => .andThen .qCheck (.bind .qPairs fun _ => .bind (.qLook .qRead) fun _ => .bind (.qLook .qRead) fun _ =>
    .andThen (.forIn fun _ _ => .andThen (.qDo .qSwap) .pure) (.andThen
    (.forIn fun _ _ => .andThen (.qDo (.andThen .qInvalidate .qInvalidate)) .pure)
    (.andThen .qUnalloc (.andThen .qDesc .qFlushDesc))))

theorem QKeeps.qCount {fuel : Nat} {vas : List Nat} {c : QCounts} : QKeeps (qCount fuel vas c) := by
  induction fuel generalizing vas c with
  | zero => exact .pure
  | succ fuel ih =>
    cases vas with
    | nil => exact .pure
    | cons va vas => exact .bind .qNodesOf fun _ => ih

theorem QKeeps.qStat : QKeeps (qStat) :=
  .bindGet fun _ _ => .bind .qCount fun _ => .bind (.qLook .qRead) fun _ => .qDo .qWriteAny

theorem QKeeps.qFree : QKeeps (qFree) :=
  .bindGet fun _ _ => .ite (.bind .qDec fun _ => .qDo .qFlush) (.qDo .qFlush)

theorem QKeeps.qFinish {op : Nat} {made : List Nat} : QKeeps (qFinish op made) := by
  unfold Machine.qFinish
  split
  · exact .qInit
  · exact .qAppend
  · exact .qDescend
  · exact .qSplit
  · exact .qMerge
  · exact .qFork
  · exact .qEvict
  · exact .qMark
  · exact .qTrim
  · exact .qStat
  · exact .qFree

theorem QKeeps.qProgram : QKeeps (qProgram) :=
  .bindGet fun _ _ => .andThen .qOpen (.bind .qPath fun _ => .bind .qPrivates fun _ => .qFinish)

theorem QKeeps.qReserve : QKeeps (qReserve) :=
  .bindGet fun _ _ => .ite (.andThen (.forIn fun _ _ => .andThen .qPage .pure) .pure) .pure

theorem QKeeps.qDry : QKeeps (qDry) :=
  .andThen .qProgram .qReserve

/-! ## The steps of engines -/

theorem State.canon.qRun {s : State} {n : Nat} {c : QuiltCmd} {dry : Bool} {m : QM Unit} (h : s.canon) (hm : QKeeps m) :
    (qRun s n c dry m).2.canon :=
  hm _ ⟨h, h.frame⟩

theorem State.canon.quiltReadPhase {s : State} {n : Nat} {c : QuiltCmd} (h : s.canon) : (quiltReadPhase s n c).canon := by
  have hword : OnOk (·.1.canon) (if c.script = [] then Machine.quiltWord s c else .ok (s, c)) := by
    split
    · exact h.quiltWord
    · exact h
  unfold Machine.quiltReadPhase
  split
  · exact h.setQuilt
  · exact h.quiltEnd
  · next t c e =>
    have hrun := State.canon.qRun (s := t) (hword.of_eq e) (n := n) (c := c) (dry := true) QKeeps.qDry
    dsimp only
    split
    · exact State.canon.quiltEnd hrun.2
    · exact State.canon.setQuilt hrun.2

theorem State.canon.quiltStep {s : State} {n : Nat} (h : s.canon) : (quiltStep s n).canon := by
  unfold Machine.quiltStep
  split
  · exact h
  · next c _ =>
    have hrun := h.qRun (n := n) (c := c) (dry := false) QKeeps.qProgram
    split
    · exact h
    · split
      · split
        · exact h.quiltReadPhase
        · exact h
      · dsimp only
        split
        · exact State.canon.quiltEnd hrun.1
        · exact h.quiltEnd
        · exact h.setQuilt

theorem State.canon.execEngineRead {e : EngineId} {k : Nat} {s : State} (h : s.canon) :
    OnNext (execEngineRead e k s) := by
  unfold Machine.execEngineRead
  show State.canon _
  split
  · exact h.copyRead
  · exact h.pressRead
  · exact h.quiltStep
  · exact h.runLoad
  · exact h
  · exact h
  · exact h.fetchPart

theorem State.canon.checkCw {s : State} {c : Nat} {cmd : Copy} (h : s.canon) :
    OnOk State.canon (checkCw s c cmd) := by
  unfold Machine.checkCw
  split
  · split
    next _ _ _ e =>
      exact h.engTarget.of_eq e
    · trivial
  · exact h

theorem State.canon.sendFlits {s : State} {l : Nat} {fs : List Flit} (h : s.canon) : (sendFlits s l fs).canon :=
  h.foldl fun _ _ hs => hs.sendFlit

theorem State.canon.copyWrite {s : State} {c n k : Nat} (h : s.canon) : (copyWrite s c n k).canon := by
  unfold Machine.copyWrite
  split
  · exact h
  · split
    · exact h
    · split
      · exact h
      · split
        · exact h.copyFault
        next _ _ e =>
          dsimp only
          split
          · split
            · exact (((h.checkCw.of_eq e).setHead).sendFlits).countCmd
            · exact (h.checkCw.of_eq e).setHead
          · split
            · split
              · split
                · exact h.checkCw.of_eq e
                · exact (((((h.checkCw.of_eq e).landScratch).setPins).setHead).countCmd).countCmd
              · exact (h.checkCw.of_eq e).setHead
            · split
              next _ _ e' =>
                exact ((((h.checkCw.of_eq e).engWriteN).of_eq e').setHead).countCmd
              · exact (h.checkCw.of_eq e).copyFault

theorem State.canon.lineResult {s : State} {c : PressCmd} {pl : PressPlan} {rs : List (Nat × List Byte × List Nat)}
    {soft : Bool} (h : s.canon) :
    (lineResult s c pl rs soft).1.canon := by
  unfold Machine.lineResult
  dsimp only
  split
  · exact h.spoil
  · exact h

theorem State.canon.putLine {s : State} {c : PressCmd} {at_ : Nat × Nat} {bs : List Byte} {bad : List Nat} (h : s.canon) :
    (putLine s c at_ bs bad).canon := by
  unfold Machine.putLine
  dsimp only
  split
  · exact h.evictSide.l2Drop.pushUpdate
  · exact h.evictSide.l2Drop.flushSlice.applyUpdate.frame

theorem State.canon.pressWriteAs {s : State} {n k : Nat} {soft : Bool} (h : s.canon) :
    (pressWriteAs s n k soft).canon := by
  unfold Machine.pressWriteAs
  split
  · exact h
  · split
    · split
      · exact h
      · dsimp only
        split
        · exact h.actSpan.lineResult.putLine.setPress.countPress
        · exact h.actSpan.lineResult.putLine.setPress
    · exact h

theorem State.canon.pressWrite {s : State} {n k : Nat} (h : s.canon) : (pressWrite s n k).canon :=
  h.pressWriteAs

theorem State.canon.execEngineWrite {e : EngineId} {k : Nat} {s : State} (h : s.canon) :
    OnNext (execEngineWrite e k s) := by
  unfold Machine.execEngineWrite
  show State.canon _
  split
  · exact h.copyWrite
  · exact h.pressWrite
  · exact h.quiltStep
  · exact h.runLoad
  · exact h
  · exact h.bobbinStep
  · exact h

theorem State.canon.popChan {s : State} {c n : Nat} {fault : Bool} (h : s.canon) : (popChan s c n fault).canon :=
  h.setChan

theorem State.canon.copyComplete {s : State} {c n : Nat} (h : s.canon) : (copyComplete s c n).canon := by
  unfold Machine.copyComplete
  split
  · exact h
  · split
    · split
      · exact h
      · exact h.popChan.offerEngine
    · split
      · exact h
      · split
        · exact h.popChan
        · dsimp only
          split
          · split
            · split
              · exact h
              · exact h.landScratch.popChan.countCmd
            · exact h.popChan
          · split
            next _ _ e =>
              exact ((h.engWriteN.of_eq e).popChan).countCmd
            · exact h.copyFault

theorem State.canon.execCompletionWordWrite {e : EngineId} {s : State} (h : s.canon) :
    OnNext (execCompletionWordWrite e s) := by
  unfold Machine.execCompletionWordWrite
  show State.canon _
  split
  · exact h.copyComplete
  · exact h.pressComplete
  · exact h.quiltComplete
  · exact h
  · exact h
  · exact h
  · exact h

theorem State.canon.execPageWalk {unit ctx priv : Nat} {acc : Access} {va : Word} {s : State} (h : s.canon) :
    OnNext (execPageWalk unit ctx priv acc va s) := by
  unfold Machine.execPageWalk
  show State.canon _
  split
  next _ _ _ e =>
    exact h.translate.of_eq e
  · exact h

/-! ## Waits that end, trap entries and freezes -/

theorem State.canon.takeReply {s : State} {q : Asked} {bs : List Byte} (h : s.canon) : (takeReply s q bs).canon := by
  unfold Machine.takeReply
  split
  · exact h.setG
  · exact h.setG
  · exact h.setZ
  · split
    · exact h.dropCleanFor.countFor.setG
    · exact h

theorem State.canon.finishAsk {s : State} {p : Party} {q : Asked} (h : s.canon) : (finishAsk s p q).canon := by
  unfold Machine.finishAsk
  split
  · exact h
  · dsimp only
    dsimp only [State.canon]
    change State.canon _
    split
    · exact h.frame.raise
    · exact h.frame.takeReply.retire.commitShadow

theorem State.canon.waitView {s : State} {p : Party} {w : Wait} (h : s.canon) : (waitView s p w).canon := by
  unfold Machine.waitView
  dsimp only
  split
  · exact h.frame.setCur.stitchBefore
  · exact h.frame.setCur

theorem State.canon.waitPoll {s : State} {x1 : Instr} (h : s.canon) : OnSome Res.canon (waitPoll s x1) := by
  unfold Machine.waitPoll
  split
  · exact h.ldsyncPoll
  · exact h.ldsyncPoll
  · exact h.barPoll
  · exact h.gbarPoll
  · exact h.gbarPoll
  · exact h.tickPoll
  · exact h.waitwPoll
  · exact h.pinPoll
  · exact h.condPoll
  · exact h.tkPoll
  · exact h.armPoll
  · trivial

theorem State.canon.keepFocus {f : Party} {o : Host.Outcome State Fault Refusal} (h : OnNext o) : OnNext (keepFocus f o) := by
  cases o with
  | next s => exact State.canon.frame h
  | _ => trivial

theorem State.canon.keepArrival {s : State} {w : Wait} (h : s.canon) : (keepArrival s w).canon := by
  unfold Machine.keepArrival
  split
  · exact h.setCur
  · exact h

theorem State.canon.endWait {s : State} {w : Wait} {r : Res} (h : s.canon) (hr : r.canon) : OnNext (endWait s w r) := by
  cases r with
  | ok t =>
    show State.canon _
    split
    · exact State.canon.retire hr
    · exact (State.canon.retire hr).commitShadow
  | jump t pc => exact State.canon.jumpTo hr
  | wait t _ _ => exact hr
  | set t => exact hr
  | trap x => exact h.keepArrival.raise
  | trapAt t x => exact State.canon.raise hr
  | hold t => exact hr
  | stop f => trivial

theorem State.canon.execWaitSatisfied {p : Party} {s : State} (h : s.canon) : OnNext (execWaitSatisfied p s) := by
  unfold Machine.execWaitSatisfied
  split
  · show State.canon _
    split
    · split
      · exact h.finishAsk
      · exact h
    · exact h
  · dsimp only
    split
    · exact h
    · next e => exact State.canon.keepFocus (h.waitView.endWait (h.waitView.waitPoll.of_eq e))
    · exact h

theorem State.canon.execWaitTimeout {p : Party} {s : State} (h : s.canon) : OnNext (execWaitTimeout p s) := by
  unfold Machine.execWaitTimeout
  split
  · exact h
  · split
    · dsimp only
      split
      · exact h
      · next e => exact State.canon.keepFocus (h.waitView.endWait (h.waitView.waitPoll.of_eq e))
      · exact State.canon.keepFocus h.waitView.keepArrival.raise
    · exact h

theorem State.canon.execTrapEntry {c : Nat} {s : State} (h : s.canon) : OnNext (execTrapEntry c s) := by
  unfold Machine.execTrapEntry
  show State.canon _
  split
  · split
    · exact h.takeTrap
    · exact h
  · split
    · exact h
    · exact h.offerNext

theorem State.canon.stopPanel {s : State} {p : Nat} (h : s.canon) : (stopPanel s p).canon :=
  h.modPanel

theorem State.canon.withdrawFaults {s : State} {c : Nat} {sel : FaultRec → Bool} (h : s.canon) :
    (withdrawFaults s c sel).canon := by
  unfold Machine.withdrawFaults
  dsimp only
  split
  · exact h.setCtxt.offerNext
  · exact h.setCtxt

theorem State.canon.freezePanel {s : State} {p : Nat} (h : s.canon) : (freezePanel s p).canon :=
  h.modPanel.drainPanel.dropClean.modPanel

theorem State.canon.freezePanels {s : State} {e : Nat} {t : TaskEntry} (h : s.canon) :
    (freezePanels s e t).canon := by
  unfold Machine.freezePanels
  dsimp only
  refine OnSome.getD ?_ ?_
  · refine State.canon.devWrite ?_
    split
    · exact (h.withdrawFaults.foldl fun _ _ hs => hs.freezePanel).frame
    · exact h.withdrawFaults.foldl fun _ _ hs => hs.freezePanel
  · refine State.canon.killTask ?_
    split
    · exact (h.withdrawFaults.foldl fun _ _ hs => hs.freezePanel).frame
    · exact h.withdrawFaults.foldl fun _ _ hs => hs.freezePanel

theorem State.canon.freezeGarment {s : State} {e : Nat} {t : TaskEntry} (h : s.canon) :
    (freezeGarment s e t).canon := by
  unfold Machine.freezeGarment
  split
  · exact h
  · split
    · exact h
    · split
      · exact h.withdrawFaults.foldl fun _ _ hs => hs.stopPanel
      · split
        · exact h
        · exact h.freezePanels

theorem State.canon.execFreeze {e : Nat} {s : State} (h : s.canon) : OnNext (execFreeze e s) := by
  unfold Machine.execFreeze
  show State.canon _
  split
  · exact h.freezeGarment
  · exact h

theorem State.canon.panelRecord {s : State} {x : Panel} (h : s.canon) : (panelRecord s x).1.canon := by
  unfold Machine.panelRecord
  split
  next _ _ _ e =>
    dsimp only
    exact h.freeBytes.of_fst e

theorem State.canon.writeSlot {c : Nat} {x1 : List (Nat × Nat)} {x2 : State} (h : x2.canon) :
    OnSome State.canon (writeSlot c x1 x2) := by
  fun_induction Machine.writeSlot c x1 x2
  · exact h
  next _ _ _ _ _ e =>
    exact e h
  next _ _ _ _ _ _ _ _ e _ e' e₂ =>
    exact e₂ (((h.panelRecord.of_fst e).engWriteN).of_eq e')
  · trivial

theorem State.canon.slotWritten {s : State} {c slot bytes : Nat} (h : s.canon) : (slotWritten s c slot bytes).canon :=
  h.flushRanges

theorem State.canon.requeueFrozen {s : State} {e : Nat} {t : TaskEntry} (h : s.canon) : (requeueFrozen s e t).canon :=
  (((h.foldl fun _ _ hs => hs.freePanel).frame).modTask).preemptEnds

theorem State.canon.readout {s : State} {e : Nat} {t : TaskEntry} (h : s.canon) : (readout s e t).canon := by
  unfold Machine.readout
  split
  · exact h
  · split
    · exact h.killTask
    · dsimp only
      split
      next _ _ he =>
        exact ((OnSome.bind h.writeSlot fun _ hs => hs.slotWritten.devWrite).of_eq he).requeueFrozen
      · exact h.killTask

theorem State.canon.execReadoutComplete {e : Nat} {s : State} (h : s.canon) : OnNext (execReadoutComplete e s) := by
  unfold Machine.execReadoutComplete
  show State.canon _
  split
  · exact h.readout
  · exact h

/-! ## Register writes, windows, resets and links -/

theorem State.canon.execFrtWrite {n : Nat} {which : BitVec 2} {v : Word} {s : State} (h : s.canon) :
    OnNext (execFrtWrite n which v s) := by
  unfold Machine.execFrtWrite
  show State.canon _
  split
  · exact h.writeFrt
  · exact h

theorem State.canon.execHbmMapWrite {reg : BitVec 16} {v : Word} {s : State} (h : s.canon) :
    OnNext (execHbmMapWrite reg v s) := by
  unfold Machine.execHbmMapWrite
  show State.canon _
  split
  · exact h.writeHbmMode
  · exact h.writeHbmMc
  · exact h.writeHbmMp
  · exact h

theorem State.canon.execRegisterWrite {p : Party} {c : Nat} {reg : BitVec 16} {v : Word} {s : State} (h : s.canon) :
    OnNext (execRegisterWrite p c reg v s) := by
  unfold Machine.execRegisterWrite
  show State.canon _
  split
  · split
    · exact h.cregWrite
    · exact h
  · exact h

theorem State.canon.execFsumWrite {c : Nat} {v : Word} {s : State} (h : s.canon) : OnNext (execFsumWrite c v s) :=
  h.hostWrite fun _ hs => hs.writeFsum

theorem State.canon.execCpolWrite {c : Nat} {v : Word} {s : State} (h : s.canon) : OnNext (execCpolWrite c v s) :=
  h.hostWrite fun _ hs => hs.writeCpol

theorem State.canon.execSlognWrite {c : Nat} {v : Word} {s : State} (h : s.canon) : OnNext (execSlognWrite c v s) :=
  h.hostWrite fun _ hs => hs.writeSlogn

theorem State.canon.logSealed {s : State} {c va : Nat} (h : s.canon) : (logSealed s c va).canon :=
  h.setCtxt

theorem State.canon.readHomeLong {s : State} {dom pa n : Nat} (h : s.canon) : (readHomeLong s dom pa n).1.canon := by
  unfold Machine.readHomeLong
  dsimp only
  exact h.foldl fun _ _ hs => hs.flushSlice

theorem State.canon.windowPage {s t : State} {c va pa : Nat} {acc : Access} (h : s.canon)
    (e : windowPage s c acc va = .at_ t pa) : t.canon := by
  unfold Machine.windowPage at e
  split at e
  · next e' =>
    split at e
    · cases e
    · split at e
      · cases e
      · cases e
        exact h.translate.of_eq e'
  · split at e <;> cases e

theorem State.canon.windowRead {c fuel : Nat} {s : State} {va n : Nat} (h : s.canon) : (windowRead c fuel s va n).1.canon := by
  induction fuel generalizing s va n with
  | zero => exact h
  | succ fuel ih =>
    unfold Machine.windowRead
    dsimp only
    split
    · exact h
    · split
      · exact h
      · exact ih h.logSealed
      · next e =>
        have ht := h.windowPage e
        split
        · exact ih ht.freeBytes
        · exact ih ht.readHomeLong

theorem State.canon.answer {s : State} {a : HostAnswer} (h : s.canon) : (answer s a).canon :=
  h

theorem State.canon.execHostWindowRead {q : HostReq} {off : BitVec 36} {n : Nat} {s : State} (h : s.canon) :
    OnNext (execHostWindowRead q off n s) := by
  unfold Machine.execHostWindowRead
  dsimp only
  show State.canon _
  split
  · split <;> exact h.windowRead.answer
  · exact h.answer

theorem State.canon.windowWrite {c fuel : Nat} {s : State} {va : Nat} {bs : List Byte} (h : s.canon) :
    (windowWrite c fuel s va bs).1.canon := by
  induction fuel generalizing s va bs with
  | zero => exact h
  | succ fuel ih =>
    unfold Machine.windowWrite
    dsimp only
    split
    · exact h
    · split
      · exact h
      · exact ih h.logSealed
      · next e => exact ih (h.windowPage e).writeHomeNow

theorem State.canon.execHostWindowWrite {q : HostReq} {off : BitVec 36} {bytes : List Byte} {s : State} (h : s.canon) :
    OnNext (execHostWindowWrite q off bytes s) := by
  unfold Machine.execHostWindowWrite
  dsimp only
  show State.canon _
  split
  · split
    · exact h.windowWrite
    · exact h.windowWrite.answer
  · exact h.answer

theorem State.canon.execFlr {c : Nat} {s : State} (h : s.canon) : OnNext (execFlr c s) := by
  unfold Machine.execFlr
  show State.canon _
  split
  · exact h.killContext.setCtxt
  · exact h

theorem State.canon.destroyKey {s : State} {dom : Nat} (h : s.canon) : (destroyKey s dom).canon := by
  unfold Machine.destroyKey
  split
  · exact h
  · exact h.frame

theorem State.canon.forgetTasks {s : State} {c : Nat} (h : s.canon) : (forgetTasks s c).canon :=
  h

theorem State.canon.zeroUnits {s : State} {units : List Nat} (h : s.canon) : (zeroUnits s units).canon :=
  cellsAbove_filter h.flushRanges

theorem State.canon.freshMemory {s : State} {c : Nat} {groups ranges : List Nat} (h : s.canon) :
    (freshMemory s c groups ranges).canon :=
  h.zeroUnits.setHbmMap

theorem State.canon.emptyCores {s : State} {c : Nat} (h : s.canon) : (emptyCores s c).canon :=
  h

theorem State.canon.idleThreads {s : State} {c : Nat} (h : s.canon) : (idleThreads s c).canon :=
  h

theorem State.canon.recordConfig {s : State} (h : s.canon) : (recordConfig s).canon :=
  h

theorem State.canon.retireContext {s : State} {c : Nat} (h : s.canon) : (retireContext s c).canon :=
  h.destroyKey.idleThreads.emptyCores.freshMemory.frame.recordConfig

theorem State.canon.execFlrComplete {c : Nat} {s : State} (h : s.canon) : OnNext (execFlrComplete c s) := by
  unfold Machine.execFlrComplete
  show State.canon _
  split
  · exact h.retireContext
  · exact h

theorem State.canon.reset : State.reset.canon :=
  rfl

theorem State.canon.booted {k : BootConfig} {rollback : Nat} : (booted k rollback).canon := by
  unfold Machine.booted
  dsimp only
  split
  · exact State.canon.reset.frame.recordConfig
  · exact State.canon.reset.frame

theorem State.canon.execColdReset {k : BootConfig} {s : State} (h : s.canon) : OnNext (execColdReset k s) :=
  State.canon.booted

theorem State.canon.assignThreads {k : ContextConfig} {x1 : List Nat} {x2 : State} (h : x2.canon) :
    (assignThreads k x1 x2).canon := by
  fun_induction Machine.assignThreads k x1 x2
  · exact h
  next _ _ _ _ _ e =>
    exact (e h).setThread
  next _ _ _ _ _ e =>
    exact e h

theorem State.canon.enableContext {s : State} {k : ContextConfig} (h : s.canon) : (enableContext s k).canon :=
  h.freshMemory.frame.setCtxt.recordConfig.assignThreads.enterCore.setThread

theorem State.canon.execContextEnable {k : ContextConfig} {s : State} (h : s.canon) :
    OnNext (execContextEnable k s) := by
  unfold Machine.execContextEnable
  show State.canon _
  split
  · exact h.enableContext
  · exact h

theorem State.canon.execContextDisable {c : Nat} {s : State} (h : s.canon) : OnNext (execContextDisable c s) := by
  unfold Machine.execContextDisable
  show State.canon _
  split
  · dsimp only
    split
    · split
      · exact h
      · exact h.retireContext
    · split
      · exact h.killContext
      · exact h.killContext.retireContext
  · exact h

theorem State.canon.countAll {s : State} {ev : Nat} (h : s.canon) : (countAll s ev).canon :=
  h

theorem State.canon.applyFlit {s : State} {l : Nat} {k : Link} {c ch addr : Nat} {bytes : List Byte} (h : s.canon) :
    (applyFlit s l k c ch addr bytes).canon := by
  unfold Machine.applyFlit
  split
  · exact h.writeHomeNow.sendFlit
  · exact h.sendFlit

theorem State.canon.answerCopy {s : State} {l c ch : Nat} {refused : Bool} (h : s.canon) :
    (answerCopy s l c ch refused).canon := by
  unfold Machine.answerCopy
  split
  · exact h
  · split
    · exact h.setHead
    · exact h

theorem State.canon.flitDoes {s : State} {l : Nat} {k : Link} {x3 : Flit} (h : s.canon) :
    (flitDoes s l k x3).canon := by
  unfold Machine.flitDoes
  split
  · exact h.applyFlit
  · exact h.answerCopy
  · exact h.answerCopy
  · exact h.syncArrives
  · exact h.followUpArrives
  · exact h.delayReqArrives
  · exact h.delayRespArrives

theorem State.canon.execFlitReceive {l : Nat} {f : Flit} {authOk crcOk : Bool} {s : State} (h : s.canon) :
    OnNext (execFlitReceive l f authOk crcOk s) := by
  unfold Machine.execFlitReceive
  show State.canon _
  split
  · split
    · exact h
    · split
      · exact h.frame.countAll.countAll
      · exact h.frame.flitDoes
  · exact h

theorem State.canon.execLinkDown {l : Nat} {s : State} (h : s.canon) : OnNext (execLinkDown l s) := by
  unfold Machine.execLinkDown
  show State.canon _
  split
  · dsimp only
    split <;> exact h.frame
  · exact h

theorem State.canon.execLinkRekey {l : Nat} {s : State} (h : s.canon) : OnNext (execLinkRekey l s) := by
  unfold Machine.execLinkRekey
  show State.canon _
  split
  · exact h.frame
  · exact h

theorem State.canon.spdmSays {s : State} {session : Option Nat} {devid : List Word} {digest : Option (BitVec 256)}
    (h : s.canon) :
    (spdmSays s session devid digest).canon := by
  unfold Machine.spdmSays
  split
  · exact h.frame
  · exact h

theorem State.canon.setSess {s : State} {c : Nat} (h : s.canon) : (setSess s c).canon :=
  h.setCtxt

theorem State.canon.execSealKeyInstall {c : Nat} {dom : BitVec 6} {s : State} (h : s.canon) :
    OnNext (execSealKeyInstall c dom s) := by
  unfold Machine.execSealKeyInstall
  show State.canon _
  split
  · exact h.destroyKey.frame.setSess
  · exact h

theorem State.canon.execThermalClamp {b : Nat} {s : State} (h : s.canon) : OnNext (execThermalClamp b s) :=
  h

theorem State.canon.execThermalRelease {b : Nat} {s : State} (h : s.canon) : OnNext (execThermalRelease b s) :=
  h

theorem State.canon.execSelfRefresh {st pc : Nat} {s : State} (h : s.canon) : OnNext (execSelfRefresh st pc s) :=
  h

/-! ## Errors, fetches and the tables -/

theorem State.canon.countUnit {s : State} {u : CounterUnit} {ev n : Nat} (h : s.canon) :
    (countUnit s u ev n).canon := by
  unfold Machine.countUnit
  split <;> exact h.countFor

theorem State.canon.l2Error {s : State} {sec : Nat} (h : s.canon) : (l2Error s sec).canon := by
  unfold Machine.l2Error
  dsimp only
  dsimp only [State.canon]
  change State.canon _
  split
  · exact h.frame
  · exact h.countAll

theorem State.canon.countSite {s : State} {e : ErrorSite} {ev : Nat} (h : s.canon) : (countSite s e ev).canon := by
  unfold Machine.countSite
  split
  · exact h.countUnit
  · exact h.countAll

theorem State.canon.wrongBytes {s : State} {p t n : Nat} {put : List Byte → Tile → Tile} (h : s.canon) :
    (wrongBytes s p t n put).canon := by
  unfold Machine.wrongBytes
  split
  · exact h
  · split
    · exact h.freeBytes.modPanel
    · exact h

theorem State.canon.freeWord {s : State} (h : s.canon) : (freeWord s).1.canon := by
  unfold Machine.freeWord
  split
  next _ _ _ e =>
    dsimp only
    exact h.freeBytes.of_fst e

theorem State.canon.panelEcc {s : State} {p : Nat} {src : Option Nat} (h : s.canon) : (panelEcc s p src).canon :=
  h.frame.fabricFaultFrom

theorem State.canon.errorAt {s : State} {e : ErrorSite} (h : s.canon) : (errorAt s e).canon := by
  unfold Machine.errorAt
  split
  · exact h.modPanel
  · exact h.evictUnit.countUnit
  · exact h.l2Error
  · exact h.frame.countSite
  · exact h.frame
  · exact h.pressWriteAs
  · exact h.wrongBytes
  · exact h.wrongBytes
  · exact h.wrongBytes
  · exact h.wrongBytes
  · exact h.frame.countFor.countFor
  · exact h.modPanel
  · exact h.setCore
  · split
    · exact h.modPanel.frame.raiseFor
    · exact h
  · split
    · exact h.panelEcc
    · exact h
  · split
    · exact h.panelEcc.countFor
    · exact h
  · exact h.frame
  · split
    · split
      · exact h.killTask
      · exact h
    · exact h
  · split
    · split
      · exact h.killTask
      · exact h
    · exact h
  · split
    · split
      · exact h.failLoad
      · exact h
    · exact h

theorem State.canon.execUncorrectableError {e : ErrorSite} {s : State} (h : s.canon) :
    OnNext (execUncorrectableError e s) := by
  unfold Machine.execUncorrectableError
  show State.canon _
  refine State.canon.errorAt ?_
  split
  · exact h.countSite
  · exact h

theorem State.canon.fetchTarget {s : State} {p : Party} {pc : Word} (h : s.canon) :
    OnOk (·.1.canon) (fetchTarget s p pc) := by
  unfold Machine.fetchTarget
  split
  · trivial
  next _ _ e =>
    exact h.translate.of_eq e

theorem State.canon.fetchWordAt {s : State} {p : Party} {pc : Word} (h : s.canon) :
    OnOk (·.1.canon) (fetchWordAt s p pc) := by
  unfold Machine.fetchWordAt
  split
  · trivial
  · split
    · trivial
    next _ _ _ e =>
      split
      · show State.canon _
        dsimp only
        exact h.fetchTarget.of_eq e
      · split
        · trivial
        · split
          · trivial
          next _ _ _ e' =>
            dsimp only
            show State.canon _
            dsimp only
            exact (((h.fetchTarget.of_eq e).homeRead).of_eq e').frame

theorem State.canon.execFetchFault {s : State} (h : s.canon) : OnNext (execFetchFault s) := by
  unfold Machine.execFetchFault
  show State.canon _
  split
  · exact h.raise
  · split
    · exact h.raise
    · exact h

theorem State.canon.execRefreshCycle {st pc : Nat} {s : State} (h : s.canon) : OnNext (execRefreshCycle st pc s) :=
  h

theorem State.canon.execTdispRequest {vf : Nat} {run : Bool} {s : State} (h : s.canon) :
    OnNext (execTdispRequest vf run s) :=
  h

theorem State.canon.continueHeld {s : State} {p : Party} (h : s.canon) : (continueHeld s p).canon :=
  h

theorem State.canon.henidLoad {c x1 x2 : Nat} {x3 : List Byte} {x4 : State} (h : x4.canon) :
    (henidLoad c x1 x2 x3 x4).canon := by
  fun_induction Machine.henidLoad c x1 x2 x3 x4
  · exact h
  · exact h
  next _ _ _ _ _ _ _ e e' =>
    exact e' (h.devWrite.of_eq e)
  · exact h

theorem State.canon.henidPreempt {s : State} {c : Nat} {id : BitVec 32} (h : s.canon) :
    (henidPreempt s c id).canon := by
  unfold Machine.henidPreempt
  dsimp only
  split
  · exact h.requestPreempt.frame
  · exact h.requestPreempt

theorem State.canon.henidDoes {s : State} {x1 : HenidCmd} (h : s.canon) : (henidDoes s x1).canon := by
  unfold Machine.henidDoes
  split
  · exact h.continueHeld
  · exact h.henidLoad
  · exact h.frame
  · exact h.frame
  · exact h.frame
  · exact h.frame
  · exact h.frame
  · exact h.henidPreempt

theorem State.canon.leaveBreak {s : State} (h : s.canon) : (leaveBreak s).canon :=
  h.setCur

theorem State.canon.placeAsk {s : State} {i : Instr} {tg : Nat × Nat} {held : Cells} {base len dom : Nat}
    {amo : Option (Nat × Nat × Nat)} (h : s.canon) :
    (placeAsk s i tg held base len dom amo).canon :=
  h

theorem State.canon.askLoad {i : Instr} {s : State} (h : s.canon) : OnSome State.canon (askLoad i s) := by
  unfold Machine.askLoad
  refine OnSome.bind' ?_
  rintro ⟨_, _⟩
  split
  · split
    · trivial
    next _ _ _ e =>
      split
      · split
        · trivial
        · exact ((h.accessTarget.of_eq e).l2Fill).placeAsk

theorem State.canon.askAmo {i : Instr} {s : State} (h : s.canon) : OnSome State.canon (askAmo i s) := by
  unfold Machine.askAmo
  refine OnSome.bind' ?_
  rintro ⟨_, _⟩
  split
  · dsimp only
    split
    · trivial
    next _ _ _ e =>
      split
      · trivial
      · exact (((h.amoTarget.of_eq e).stitchBefore).amoDrain).placeAsk

theorem State.canon.askIssue {i : Instr} {s : State} (h : s.canon) : OnSome State.canon (askIssue i s) := by
  unfold Machine.askIssue
  split
  · trivial
  · exact OnSome.map (OnSome.orElse h.askLoad h.askAmo) fun _ hs => hs.noteIssue

/-! ## Every instruction and every step -/

theorem State.canon.exec {i : Instr} {s : State} (h : s.canon) : OnNext (exec i s) := by
  cases i with
  | add | sub | mul | mulh | mulhu | div | divu | rem | remu | and | or | xor | andn | shl | shr | sra | rol | ror | clz |
    ctz | popc | min | max | minu | maxu | sel | cmp | lea | bext | bins | addi | muli | andi | ori | xori | shli | shri |
    srai | rori | cmpi | mini | maxi | minui | maxui | movi => exact h.setting
  | cget => exact h.execCget
  | cset => exact h.execCset
  | ld => exact h.execLd
  | ldZ => exact h.execLdZ
  | st => exact h.execSt
  | ldS => exact h.execLdS
  | ldSZ => exact h.execLdSZ
  | stS => exact h.execStS
  | stfill => exact h.execStfill
  | ldsync => exact h.execLdsync
  | ldsyncE => exact h.execLdsyncE
  | prefetch => exact h.execPrefetch
  | clean => exact h.execClean
  | flush => exact h.execFlush
  | inval => exact h.execInval
  | invalI => exact h.execInvalI
  | br => exact h.execBr
  | jal => exact h.execJal
  | jalr => exact h.execJalr
  | bcc => exact h.execBcc
  | lexit => exact h.execLexit
  | loop => exact h.execLoop
  | loopw => exact h.execLoopw
  | nop => exact h.execNop
  | fin => exact h.execFin
  | trap => exact h.execTrap
  | eret => exact h.execEret
  | tlbinv => exact h.execTlbinv
  | tlbinvComplete => exact h.execTlbinvComplete
  | ctxsave => exact h.execCtxsave
  | ctxload => exact h.execCtxload
  | vld => exact h.execVld
  | vst => exact h.execVst
  | vgather => exact h.execVgather
  | vscatter => exact h.execVscatter
  | vmovg => exact h.execVmovg
  | vmovz => exact h.execVmovz
  | vop => exact h.execVop
  | bind => exact h.execBind
  | unbind => exact h.execUnbind
  | acq => exact h.execAcq
  | rel => exact h.execRel
  | fence => exact h.execFence
  | bar => exact h.execBar
  | gbar => exact h.execGbar
  | gbarM => exact h.execGbarM
  | tickget => exact h.execTickget
  | tickwait => exact h.execTickwait
  | amoAdd | amoAnd | amoOr | amoXor | amoMin | amoMax | amoSwap | amoCas | amoFadd => exact h.amoBody
  | bttpl => exact h.execBttpl
  | apertureStore => exact h.execApertureStore
  | copyStatusLoad => exact h.execCopyStatusLoad
  | waitw => exact h.execWaitw
  | pinwait => exact h.execPinwait
  | bdraw => exact h.execBdraw
  | bdrawv => exact h.execBdrawv
  | bseed => exact h.execBseed
  | bspool => exact h.execBspool
  | bspsave => exact h.execBspsave
  | bmode => exact h.execBmode
  | qinit => exact h.execQinit
  | qapp => exact h.execQapp
  | qdesc => exact h.execQdesc
  | qsplit => exact h.execQsplit
  | qmerge => exact h.execQmerge
  | qfork => exact h.execQfork
  | qevict => exact h.execQevict
  | qmark => exact h.execQmark
  | qtrim => exact h.execQtrim
  | qstat => exact h.execQstat
  | qfree => exact h.execQfree
  | nodeStep => exact h.quiltStep
  | quiltCommandComplete => exact h.quiltComplete
  | prcopy => exact h.execPrcopy
  | prfill => exact h.execPrfill
  | prand => exact h.execPrand
  | pror => exact h.execPror
  | prxor => exact h.execPrxor
  | prnot => exact h.execPrnot
  | pressCommandComplete => exact h.pressComplete
  | tsub => exact h.execTsub
  | tdep => exact h.execTdep
  | gpset => exact h.execGpset
  | gpget => exact h.execGpget
  | ldpat => exact h.execLdpat
  | loadComplete => exact h.runLoad
  | arm => exact h.execArm
  | disarm => exact h.execDisarm
  | sgo => exact h.execSgo
  | sstop => exact h.execSstop
  | sspec => exact h.execSspec
  | slice => exact h.execSlice
  | cond => exact h.execCond
  | tack => exact h.execTack
  | tkwait => exact h.execTkwait
  | commit => exact h.execCommit
  | mxhint => exact h.execMxhint
  | cpost => exact h.execCpost
  | pmsel => exact h.execPmsel
  | pmrd => exact h.execPmrd
  | pmclr => exact h.execPmclr
  | fitbeg => exact h.execFitbeg
  | fitend => exact h.execFitend
  | fitstat => exact h.execFitstat
  | chalk => exact h.execChalk
  | chalkFire => exact h.execChalkFire
  | chalkLatch => exact h.execChalkLatch
  | mxNop => exact h.execMxNop
  | mxLd => exact h.execMxLd
  | mxMm => exact h.execMxMm
  | mxMmg => exact h.execMxMmg
  | mxAcz => exact h.execMxAcz
  | mxAcrd => exact h.execMxAcrd
  | mxScl => exact h.execMxScl
  | mxFmt => exact h.execMxFmt
  | mxAcsv => exact h.execMxAcsv
  | mxAcld => exact h.execMxAcld
  | intervalComplete => exact h.onTile
  | rampUpDone => exact h.execRampUpDone
  | rampDown | mxhintRampStart | gatherEntryWrite | publishSearchDone => exact h.modPanel
  | vadd => exact h.execVadd
  | vsub => exact h.execVsub
  | vmul => exact h.execVmul
  | vfma => exact h.execVfma
  | vmax => exact h.execVmax
  | vmin => exact h.execVmin
  | vexp2 => exact h.execVexp2
  | vlog2 => exact h.execVlog2
  | vrcp => exact h.execVrcp
  | vrsq => exact h.execVrsq
  | vcvt => exact h.execVcvt
  | vcmp => exact h.execVcmp
  | vsel => exact h.execVsel
  | vand => exact h.execVand
  | vor => exact h.execVor
  | vxor => exact h.execVxor
  | vshl => exact h.execVshl
  | vshr => exact h.execVshr
  | vperm => exact h.execVperm
  | vscan => exact h.execVscan
  | vred => exact h.execVred
  | vbcast => exact h.execVbcast
  | vpack => exact h.execVpack
  | vunpack => exact h.execVunpack
  | vmov => exact h.execVmov
  | vmovIn => exact h.execVmovIn
  | vmovOut => exact h.execVmovOut
  | vidx => exact h.execVidx
  | vcount => exact h.execVcount
  | vminmax => exact h.execVminmax
  | lsRd => exact h.execLsRd
  | lsWr => exact h.execLsWr
  | lsG => exact h.execLsG
  | lsS => exact h.execLsS
  | lsFe => exact h.execLsFe
  | lsUpd => exact h.execLsUpd
  | xbRoute => exact h.execXbRoute
  | xbEase => exact h.execXbEase
  | xbHold => exact h.execXbHold
  | tkNop => exact h.execTkNop
  | tkCnt => exact h.execTkCnt
  | tkCntTick => exact h.execTkCntTick
  | tkSend => exact h.execTkSend
  | tkWait => exact h.execTkWait
  | tkSel => exact h.execTkSel
  | tkStitch => exact h.execTkStitch
  | publishDone => exact h.execPublishDone
  | tackArrive => exact h.execTackArrive
  | wheelAdvance => exact h.advancePanel
  | streamBeatArrive => exact h.fetchBeat
  | tick => exact h.tickStep
  | sync => exact h.execSync
  | followUp => exact h.execFollowUp
  | delayReq => exact h.execDelayReq
  | delayResp => exact h.hearFlit.delayRespArrives
  | markerStep => exact h.markerStep
  | placementArm => exact h.execPlacementArm
  | preparationComplete => exact h.execPreparationComplete
  | taskReady => exact h.modTask
  | garmentDone => exact h.execGarmentDone
  | taskEnd => exact h.execTaskEnd
  | fittingPassEnd => exact h.execFittingPassEnd
  | greplayWrite => exact h.execGreplayWrite
  | replayBegin => exact h.execReplayBegin
  | replayEnd => exact h.execReplayEnd
  | drain => exact h.drainLine
  | apply => exact h.applyHead
  | fill => exact h.fillUnit
  | evict => exact h.evictUnit
  | engineRead => exact h.execEngineRead
  | engineWrite => exact h.execEngineWrite
  | completionWordWrite => exact h.execCompletionWordWrite
  | pageWalk => exact h.execPageWalk
  | waitSatisfied => exact h.execWaitSatisfied
  | waitTimeout => exact h.execWaitTimeout
  | trapEntry => exact h.execTrapEntry
  | preemptRequest => exact h.requestPreempt
  | freeze => exact h.execFreeze
  | readoutComplete => exact h.execReadoutComplete
  | ptrootWrite => exact h.writePtroot
  | frtWrite => exact h.execFrtWrite
  | hbmMapWrite => exact h.execHbmMapWrite
  | loopRegisterWrite => exact h.writeLoopField
  | tvecWrite => exact h.writeTvec
  | registerWrite => exact h.execRegisterWrite
  | fsumWrite => exact h.execFsumWrite
  | cpolWrite => exact h.execCpolWrite
  | slognWrite => exact h.execSlognWrite
  | hostWindowRead => exact h.execHostWindowRead
  | hostWindowWrite => exact h.execHostWindowWrite
  | flr => exact h.execFlr
  | flrComplete => exact h.execFlrComplete
  | coldReset => exact h.execColdReset
  | contextEnable => exact h.execContextEnable
  | contextDisable => exact h.execContextDisable
  | flitReceive => exact h.execFlitReceive
  | linkDown => exact h.execLinkDown
  | linkRekey => exact h.execLinkRekey
  | cert | chal | meas => exact h.spdmSays
  | keyEx => exact h.spdmSays.frame
  | sealKeyInstall => exact h.execSealKeyInstall
  | thermalClamp => exact h.execThermalClamp
  | thermalRelease => exact h.execThermalRelease
  | selfRefresh => exact h.execSelfRefresh
  | uncorrectableError => exact h.execUncorrectableError
  | unassignedOpcode => exact h.noteIssue.raise
  | fetchFault => exact h.execFetchFault
  | refreshCycle => exact h.execRefreshCycle
  | secdedCorrection => exact h.countUnit
  | tdispRequest => exact h.execTdispRequest
  | henidContinue => exact h.henidDoes

theorem State.canon.issueInstr {queued : Bool} {i : Instr} {s : State} (h : s.canon) : OnNext (issueInstr queued i s) := by
  unfold Machine.issueInstr
  split
  · next e =>
    split at e
    · exact h.askIssue.of_eq e
    · cases e
  · exact h.exec

theorem State.canon.execFetched {queued : Bool} {f : Except Trap (State × Fetched)} {s : State} (h : s.canon)
    (hf : OnOk (·.1.canon) f) :
    OnNext (execFetched queued f s) := by
  unfold Machine.execFetched
  split
  · exact h.exec
  · exact (State.canon.leaveBreak hf).exec
  · exact (State.canon.leaveBreak hf).issueInstr

theorem State.canon.fetchAt {s : State} {p : Party} {pc : Word} (h : s.canon) :
    OnOk (·.1.canon) (fetchAt s p pc) := by
  unfold Machine.fetchAt
  split
  · trivial
  next _ _ _ e =>
    split
    · split
      · split
        · trivial
        next _ _ _ e' =>
          show State.canon _
          dsimp only
          exact ((h.fetchWordAt.of_eq e).fetchWordAt).of_eq e'
      · show State.canon _
        dsimp only
        exact h.fetchWordAt.of_eq e
    · show State.canon _
      dsimp only
      exact h.fetchWordAt.of_eq e

theorem State.canon.stepParty {queued : Bool} {s : State} {p : Party} (h : s.canon) :
    OnNext (stepParty queued s p) := by
  unfold Machine.stepParty
  dsimp only
  split
  · split
    · exact h.frame.debugStop
    · exact h.frame.execFetched h.frame.fetchAt
  · exact h.frame

theorem State.canon.stepAction {s : State} {x1 : Action} (h : s.canon) : OnNext (stepAction s x1) := by
  unfold Machine.stepAction
  split
  · exact h.stepParty
  · exact h.stepParty
  · split
    · exact h.exec
    · exact h

theorem State.canon.step {s : State} (h : s.canon) : OnNext (step s) := by
  unfold Machine.step
  split
  · exact h.frame.stepAction
  · exact h.frame

end Sys2Proof.Machine
end

section
namespace Sys2Proof

open Machine

/-- Settles O60: `State.canon` holds of what every action of an agenda leaves. -/
theorem memoryStaysCanonical : Obligations.MemoryStaysCanonical := by
  unfold Obligations.MemoryStaysCanonical
  intro s t h e
  have hstep := State.canon.step (s := s) h
  rw [e] at hstep
  exact hstep

end Sys2Proof
end

section
/-! SUPPORT. What the step of a party that issues is: the execution of what it fetches (R98, R165). -/

namespace Sys2Proof.Machine

open Sys2Proof

theorem step_of_agenda {s : State} {a : Action} {rest : List Action} (h : s.agenda = a :: rest) :
    step s = stepAction { s with agenda := rest } a := by
  rw [step, h]

theorem step_of_agenda_nil {s : State} (h : s.agenda = []) : step s = .next { s with agenda := cycleSteps s } := by
  rw [step, h]

theorem stepParty_of_mayRun {s : State} {p : Party} (queued : Bool) (hrun : mayRun { s with focus := p } p = true)
    (hbreak : atBreak { s with focus := p } p = false) : stepParty queued s p =
      execFetched queued (fetchAt { s with focus := p } p ({ s with focus := p } : State).cur.pc) { s with focus := p } := by
  simp only [stepParty, hrun, hbreak, if_true, Bool.false_eq_true, if_false]

theorem execFetched_instr (v : State) (i : Instr) (s : State) : execFetched false (.ok (v, .instr i)) s = exec i (leaveBreak v) := rfl

theorem execFetched_queued (v : State) (i : Instr) (s : State) :
    execFetched true (.ok (v, .instr i)) s = match askIssue i (leaveBreak v) with
      | some t => .next t
      | none => exec i (leaveBreak v) := rfl

/-- A word that begins no long form is fetched as what it decodes to, or as a word of no assigned form. -/
theorem fetchAt_of_short {s v : State} {p : Party} {pc : Word} {w : W32} (h : fetchWordAt s p pc = .ok (v, w))
    (hw : isLongFirst w = false) : fetchAt s p pc = .ok (v, fetchedOf w (decodeWord w)) := by
  simp only [fetchAt, h, hw, Bool.false_eq_true, if_false]

end Sys2Proof.Machine
end

section
namespace Sys2Proof

open Machine

/-- Settles O56: a clause for each action at the head of the agenda, and one for the words that are not long. -/
theorem stepRunsDecoded : Obligations.StepRunsDecoded := by
  unfold Obligations.StepRunsDecoded
  refine ⟨?_, ?_, ?_, ?_, fun s => step_of_agenda_nil⟩
  · intro s p rest ha u hrun hbreak
    have hstep : step s = execFetched false (fetchAt u p u.cur.pc) u :=
      (step_of_agenda ha).trans (stepParty_of_mayRun false hrun hbreak)
    refine ⟨fun v i hf => ?_, fun v w hf => ?_, fun t hf => ?_⟩ <;> rw [hstep, hf] <;> rfl
  · intro s p rest ha u hrun hbreak v i hf w
    have hstep : step s = execFetched true (fetchAt u p u.cur.pc) u :=
      (step_of_agenda ha).trans (stepParty_of_mayRun true hrun hbreak)
    rw [hstep, hf, execFetched_queued]
    constructor
    · intro hask
      rw [show leaveBreak v = w from rfl, hask]
    · intro t hask
      rw [show leaveBreak v = w from rfl, hask]
  · intro s p pc w v hw hshort
    rw [fetchAt_of_short hw hshort]
    constructor
    · intro i hi
      rw [hi]
      rfl
    · intro hi
      rw [hi]
      rfl
  · intro s i rest ha hi
    rw [step_of_agenda ha]
    exact if_pos hi

end Sys2Proof
end

section
/-! SUPPORT. The gate that every control word passes before its body: lines 2 and 3 of R139, then the stitch that a row may hold back. -/

namespace Sys2Proof.Machine

open Sys2Proof

/-- An outcome is the trap of a word that its issuer may not run, or the unchanged state where the word's stitch is held back. -/
def Gated (i : Instr) (s : State) (o : Host.Outcome State Fault Refusal) : Prop :=
  (∀ t, issueCheck i s = some t → o = .next (raise (noteIssue s) t)) ∧
    (issueCheck i s = none → stitchWaits i s = true → o = .next s)

theorem gated_issue (i : Instr) (s : State) (body : State → Res) : Gated i s (issue i s body) := by
  constructor
  · intro t ht
    rw [issue, ht]
  · intro hcheck hwaits
    rw [issue, hcheck]
    exact if_pos hwaits

theorem gated_setting (i : Instr) (s : State) (d : Reg) (v : Word) : Gated i s (setting i s d v) := gated_issue ..

theorem gated_amoBody (i : Instr) (s : State) (kind : Nat) (wide : Bool) (a b c : Reg) : Gated i s (amoBody i kind wide a b c s) :=
  gated_issue ..

/-- A store is checked as its own form; the form that it turns out to be, on its own page or in an aperture, matters past the check alone. -/
theorem gated_st (sz : Size) (d a : Reg) (off : BitVec 14) (s : State) : Gated (.st sz d a off) s (execSt sz d a off s) := by
  constructor
  · intro t ht
    simp only [execSt, ht]
  · intro _ hwaits
    cases hwaits

theorem exec_gated {i : Instr} (h : isControl i = true) (s : State) : Gated i s (exec i s) := by
  unfold exec
  cases i with
  | st => exact gated_st ..
  | add | sub | mul | mulh | mulhu | div | divu | rem | remu | and | or | xor | andn | shl | shr | sra | rol | ror | clz | ctz | popc
    | min | max | minu | maxu | sel | cmp | lea | bext | bins | addi | muli | andi | ori | xori | shli | shri | srai | rori | cmpi
    | mini | maxi | minui | maxui | movi => exact gated_setting ..
  | amoAdd | amoAnd | amoOr | amoXor | amoMin | amoMax | amoSwap | amoCas | amoFadd => exact gated_amoBody ..
  | cget | cset | ld | ldZ | ldS | ldSZ | stS | stfill | ldsync | ldsyncE | prefetch | clean | flush | inval | invalI | br | jal | jalr
    | bcc | lexit | loop | loopw | nop | fin | trap | eret | tlbinv | ctxsave | ctxload | vld | vst | vgather | vscatter | vmovg | vmovz
    | vop | bind | unbind | acq | rel | fence | bar | gbar | gbarM | tickget | tickwait | bttpl | waitw | pinwait | bdraw | bdrawv
    | bseed | bspool | bspsave | bmode | qinit | qapp | qdesc | qsplit | qmerge | qfork | qevict | qmark | qtrim | qstat | qfree
    | prcopy | prfill | prand | pror | prxor | prnot | tsub | tdep | gpset | gpget | ldpat | arm | disarm | sgo | sstop | slice
    | cond | tack | tkwait | commit | mxhint | cpost | pmsel | pmrd | pmclr | fitbeg | fitend | fitstat | chalk => exact gated_issue ..
  | sspec => unfold execSspec; exact gated_issue ..
  | _ => exact absurd h Bool.false_ne_true

theorem issueCheck_illegal {i : Instr} {s : State} (h : mayIssue s.focus i = false) :
    issueCheck i s = some ⟨.illegal, BitVec.ofNat 64 i.firstWord.toNat, none⟩ := by
  rw [issueCheck, if_pos h, wordVal_eq, wordOfForm]

theorem issueCheck_priv {i : Instr} {s : State} (h : mayIssue s.focus i = true) (hi : needsSupervisor i = true)
    (hp : partyPriv s s.focus = .user) : issueCheck i s = some ⟨.priv, BitVec.ofNat 64 i.firstWord.toNat, none⟩ := by
  rw [issueCheck, if_neg (by simp [h]), if_pos ⟨hi, hp⟩, wordVal_eq, wordOfForm]

end Sys2Proof.Machine
end

section
namespace Sys2Proof

open Machine

/-- Settles O7: every control word passes the same gate, and the gate decides each of the three cases. -/
theorem issueRefused : Obligations.IssueRefused := by
  unfold Obligations.IssueRefused
  intro i s hi
  obtain ⟨htrap, hwait⟩ := exec_gated hi s
  exact ⟨fun h => htrap _ (issueCheck_illegal h), fun h hs hp => htrap _ (issueCheck_priv h hs hp),
    fun h hs hw => hwait (issueCheck_none h hs) hw⟩

end Sys2Proof
end

section
/-! SUPPORT. Reads with no poison and no dirty sideband about: they change what the L2 holds, sidebands and counters, and nothing
else (R80-R84, R100, R311). -/

namespace Sys2Proof.Machine

open Sys2Proof

theorem mem_set {κ α : Type} [DecidableEq κ] {m : FMap κ α} {k : κ} {v : α} {e : κ × α} (h : e ∈ FMap.set m k v) :
    e ∈ m ∨ e = (k, v) := by
  induction m with
  | nil => exact .inr (List.mem_singleton.mp h)
  | cons c m ih =>
    rw [FMap.set] at h
    split at h
    · rcases List.mem_cons.mp h with h | h
      · exact .inr h
      · exact .inl (List.mem_cons_of_mem _ h)
    · rcases List.mem_cons.mp h with h | h
      · exact .inl (h ▸ List.mem_cons_self ..)
      · exact (ih h).imp_left (List.mem_cons_of_mem _)

theorem mem_of_mem_erase {κ α : Type} [DecidableEq κ] {m : FMap κ α} {k : κ} {e : κ × α} (h : e ∈ FMap.erase m k) : e ∈ m := by
  induction m with
  | nil => exact h
  | cons c m ih =>
    rw [FMap.erase] at h
    split at h
    · exact List.mem_cons_of_mem _ (ih h)
    · rcases List.mem_cons.mp h with h | h
      · exact h ▸ List.mem_cons_self ..
      · exact List.mem_cons_of_mem _ (ih h)

/-- No byte is poisoned, and no sideband byte is dirty. -/
structure Quiet (s : State) : Prop where
  poison : s.poison = []
  sides : ∀ e ∈ s.sides, true ∉ e.2.dirty

/-- Nothing has changed but what the L2 holds and the counters of panels and cores, and no sideband has turned dirty. -/
structure ReadOnly (s t : State) : Prop where
  rest : t = { s with
    sides := t.sides, l2 := t.l2, l2Dom := t.l2Dom, l2Dirty := t.l2Dirty, cores := t.cores, panels := t.panels }
  quiet : Quiet t

theorem ReadOnly.refl {s : State} (h : Quiet s) : ReadOnly s s := ⟨rfl, h⟩

theorem ReadOnly.trans {s t u : State} (h : ReadOnly s t) (k : ReadOnly t u) : ReadOnly s u :=
  ⟨by rw [k.rest, h.rest], k.quiet⟩

theorem ReadOnly.foldl {α : Type} {f : State → α → State} (hf : ∀ s x, Quiet s → ReadOnly s (f s x)) (l : List α) {s : State}
    (h : Quiet s) : ReadOnly s (l.foldl f s) :=
  List.foldlRecOn l f (motive := ReadOnly s) (.refl h) fun _ ht x _ => ht.trans (hf _ x ht.quiet)

theorem BurstsOnly.readOnly {s t : State} (h : BurstsOnly s t) (hs : Quiet s) : ReadOnly s t :=
  ⟨by rw [h.rest], ⟨by rw [h.rest]; exact hs.poison, by rw [h.rest]; exact hs.sides⟩⟩

theorem SectorsOnly.readOnly {s t : State} (h : SectorsOnly s t) (hs : Quiet s) : ReadOnly s t :=
  ⟨by rw [h.rest], ⟨by rw [h.rest]; exact hs.poison, by rw [h.rest]; exact hs.sides⟩⟩

theorem burstsOnly_countWriter (s : State) (w : Option Writer) (ev n : Nat) : BurstsOnly s (countWriter s w ev n) := by
  unfold countWriter
  split
  · next c =>
    refine ⟨rfl, fun n => ?_⟩
    by_cases h : n = c
    · subst h; rw [core_setCore]
    · rw [core_setCore_other _ _ h]
  · exact ⟨rfl, fun _ => rfl⟩
  · exact .refl s

/-! ## Evictions -/

theorem dirtySide_eq_nil {sb : Sideband} (h : true ∉ sb.dirty) (base : Nat) : dirtySide sb base = [] := by
  rw [dirtySide, List.filterMap_eq_nil_iff]
  intro i _
  have hi : sb.dirty.getD i false = false := by
    by_contra hd
    have hd : sb.dirty.getD i false = true := by simpa using hd
    rw [List.getD_eq_getElem?_getD] at hd
    cases hget : sb.dirty[i]? with
    | none => simp [hget] at hd
    | some b =>
      rw [hget, Option.getD_some] at hd
      exact h (List.mem_of_getElem? (hd ▸ hget))
  simp only [hi, Bool.false_eq_true, if_false]

theorem countPoison_quiet {s : State} (h : Quiet s) (line : Nat) : countPoison s line = s := by
  simp [countPoison, poisoned, h.poison]

theorem readOnly_evictSide {s : State} (h : Quiet s) (wr : State → Nat → Update → State) (line : Nat) :
    ReadOnly s (evictSideWith wr s line) := by
  unfold evictSideWith
  split
  · exact .refl h
  · next sb hsb =>
    have hnil := dirtySide_eq_nil (h.sides _ (mem_of_get hsb))
    have herase : ReadOnly s { s with sides := FMap.erase s.sides line } :=
      ⟨rfl, ⟨h.poison, fun e he => h.sides e (mem_of_mem_erase he)⟩⟩
    dsimp only
    split
    · rw [hnil]
      exact herase
    · exact herase.trans ((burstsOnly_countWriter ..).readOnly herase.quiet)

theorem readOnly_cleanRange {s : State} (h : Quiet s) (lo hi : Nat) : ReadOnly s (cleanRange s lo hi) := by
  let secs := (dirtyIn s.l2Dirty lo hi).filter fun c => paKind s (32 * c.1) == .first
  have hburst : ReadOnly s (secs.foldl (fun s c => countBurst s c.2 48 c.1) s) :=
    .foldl (fun t c ht => (burstsOnly_countBurst t c.2 48 c.1).readOnly ht) secs h
  have hclean (t : State) (ht : Quiet t) (d : List DirtyRun) : ReadOnly t { t with l2Dirty := d } := ⟨rfl, ⟨ht.poison, ht.sides⟩⟩
  exact hburst.trans (hclean _ hburst.quiet _)

theorem readOnly_l2Drop {s : State} (h : Quiet s) (line : Nat) : ReadOnly s (l2Drop s line) :=
  ⟨rfl, ⟨h.poison, h.sides⟩⟩

theorem readOnly_evictL2 {s : State} (h : Quiet s) (line : Nat) : ReadOnly s (evictL2 s line) := by
  have hside := readOnly_evictSide h writeBehind line
  rw [evictL2, evictWith, countPoison_quiet hside.quiet]
  have hclean := readOnly_cleanRange hside.quiet (8 * line) (8 * line + 8)
  exact hside.trans (hclean.trans (readOnly_l2Drop hclean.quiet line))

/-! ## Fills and reads -/

theorem readOnly_l2Meet {s : State} (h : Quiet s) (dom line : Nat) : ReadOnly s (l2Meet s dom line) := by
  unfold l2Meet
  split
  · exact readOnly_evictL2 h line
  · exact .refl h

theorem readOnly_l2Reads {s : State} (h : Quiet s) (dom pa n : Nat) : ReadOnly s (l2Reads s dom pa n) :=
  .foldl (fun _ l ht => readOnly_l2Meet ht dom l) _ h

theorem readOnly_fillSector {s : State} (h : Quiet s) (w : Option Writer) (dom sec : Nat) : ReadOnly s (fillSector w dom s sec) := by
  by_cases hc : cacheable s (sec / 8) = true ∧ s.l2.contains sec = false
  · exact (fillSector_fills hc.1 hc.2).1.readOnly h
  · rw [fillSector, if_neg hc]
    exact .refl h

theorem readOnly_fillSide {s : State} (h : Quiet s) (line : Nat) : ReadOnly s (fillSide s line) := by
  unfold fillSide
  split
  · exact .refl h
  · split
    · exact .refl h
    · refine ⟨rfl, ⟨h.poison, fun e he => ?_⟩⟩
      rcases mem_set he with he | rfl
      · exact h.sides e he
      · simp

theorem readOnly_fillLine {s : State} (h : Quiet s) (w : Option Writer) (dom line : Nat) : ReadOnly s (fillLine w dom s line) := by
  unfold fillLine
  split
  · exact .refl h
  · split
    · exact .refl h
    · next e _ =>
      have hside := readOnly_fillSide h line
      have hsecs := hside.trans (.foldl (fun _ sec ht => readOnly_fillSector ht w dom sec) ((List.range 8).map (line * 8 + ·)) hside.quiet)
      have hmeet := hsecs.trans (readOnly_l2Meet hsecs.quiet 0 (lineOf (scaleAddr e (line * 256))))
      exact hmeet.trans (readOnly_fillSector hmeet.quiet w 0 _)

theorem readOnly_l2Sector {s : State} (h : Quiet s) (w : Option Writer) (dom sec : Nat) : ReadOnly s (l2Sector w dom s sec) := by
  have hmeet := readOnly_l2Meet h dom (sec / 8)
  unfold l2Sector
  dsimp only
  split
  · exact hmeet
  · have hline := hmeet.trans (readOnly_fillLine hmeet.quiet w dom (sec / 8))
    exact hline.trans (readOnly_fillSector hline.quiet w dom sec)

theorem readOnly_l2Fill {s : State} (h : Quiet s) (w : Option Writer) (dom pa n : Nat) : ReadOnly s (l2Fill s w dom pa n) :=
  .foldl (fun _ sec ht => readOnly_l2Sector ht w dom sec) _ h

theorem ReadOnly.homeByte {s t : State} (h : ReadOnly s t) (dom pa : Nat) : homeByte t dom pa = homeByte s dom pa := by
  rw [h.rest]; rfl

theorem ReadOnly.homeBytes {s t : State} (h : ReadOnly s t) (dom n : Nat) :
    ∀ pa, homeBytes t dom pa n = homeBytes s dom pa n := by
  induction n with
  | zero => exact fun _ => rfl
  | succ n ih =>
    intro pa
    rw [Machine.homeBytes, h.homeByte, ih, Machine.homeBytes]

/-- A read at a home with nothing queued and nothing poisoned answers the home's bytes, and leaves all but the L2's holdings. -/
theorem homeRead_quiet {s : State} (h : Quiet s) {dom pa n : Nat} (hq : FMap.getD s.homeQ (sliceOf pa) [] = []) :
    ∃ t, homeRead s dom pa n = .ok (t, Machine.homeBytes s dom pa n) ∧ ReadOnly s t ∧ HomeFrame s t := by
  have hread := readOnly_l2Reads h dom pa n
  have hok : homeRead s dom pa n = .ok (l2Reads s dom pa n, Machine.homeBytes (l2Reads s dom pa n) dom pa n) := by
    have := homeRead_ok (s := s) (dom := dom) (pa := pa) (n := n)
    rw [flushSlice_of_empty hq] at this
    exact this (by simp [badSector, hread.quiet.poison])
  exact ⟨_, by rw [hok, hread.homeBytes], hread, homeFrame_l2Reads ..⟩

end Sys2Proof.Machine
end

section
/-! SUPPORT. The bytes that a thread's read answers (R100): of the home under the thread's log, or of its L1 that the home has filled. -/

namespace Sys2Proof.Machine

open Sys2Proof

theorem homeBytes_eq_map (s : State) (dom n : Nat) : ∀ pa, homeBytes s dom pa n = (List.range n).map fun i => homeByte s dom (pa + i) := by
  induction n with
  | zero => exact fun _ => rfl
  | succ n ih =>
    intro pa
    rw [homeBytes, ih, List.range_succ_eq_map, List.map_cons, List.map_map]
    simp [Function.comp_def, Nat.add_assoc, Nat.add_comm 1]

theorem getD_fillCells_cellsAt (bs : List Byte) : ∀ (lines : Cells) (base a : Nat), FMap.getD (fillCells lines (cellsAt base bs)) a 0 =
    if base ≤ a ∧ a < base + bs.length then bs.getD (a - base) 0 else FMap.getD lines a 0 := by
  induction bs with
  | nil =>
    intro lines base a
    rw [if_neg (by simp only [List.length_nil]; omega)]
    rfl
  | cons b bs ih =>
    intro lines base a
    rw [cellsAt, fillCells, ih, List.length_cons]
    by_cases h : a = base
    · subst h
      rw [if_neg (by omega), if_pos (by omega), getD_set_same]
      simp
    · rw [FMap.getD, get_set_other _ _ h, ← FMap.getD]
      by_cases hin : base + 1 ≤ a ∧ a < base + 1 + bs.length
      · rw [if_pos hin, if_pos (by omega), show a - base = (a - (base + 1)) + 1 by omega, List.getD_cons_succ]
      · rw [if_neg hin, if_neg (by omega)]

/-- Bytes of a range that the home's answer covers, read from a cache that took it. -/
theorem cachedBytes_fill (s : State) (lines : Cells) {dom base len pa n : Nat} (hlo : base ≤ pa) (hhi : pa + n ≤ base + len) :
    cachedBytes (fillCells lines (cellsAt base (homeBytes s dom base len))) pa n = homeBytes s dom pa n := by
  rw [homeBytes_eq_map s dom n, cachedBytes]
  refine List.map_congr_left fun i hi => ?_
  rw [List.mem_range] at hi
  rw [getD_fillCells_cellsAt, if_pos (by rw [length_homeBytes]; omega), homeBytes_eq_map, List.getD_eq_getElem?_getD,
    List.getElem?_map, List.getElem?_range (by omega)]
  simp only [Option.map_some, Option.getD_some]
  congr 1
  omega

@[simp] theorem length_overlayMem (log : List LogEntry) (bs : List Byte) : ∀ pa, (overlayMem log pa bs).length = bs.length := by
  induction bs with
  | nil => exact fun _ => rfl
  | cons b bs ih => exact fun pa => congrArg (· + 1) (ih (pa + 1))

theorem overlayMem_nil (bs : List Byte) : ∀ pa, overlayMem [] pa bs = bs := by
  induction bs with
  | nil => exact fun _ => rfl
  | cons b bs ih => exact fun pa => congrArg (b :: ·) (ih (pa + 1))

/-- What the memory system changes of a panel is in no log. -/
theorem HomeFrame.ownLog {s t : State} (h : HomeFrame s t) (p : Party) : ownLog t p = ownLog s p := by
  cases p with
  | seq q k =>
    have hp := congrArg (fun o => (o.map fun y => (y.strand k).log).getD []) (h.panels q)
    simp only [Option.map_map] at hp
    exact hp
  | _ => rfl

/-- The sector of an aligned access of at most 8 bytes. -/
theorem sectors_of_access {pa n : Nat} (hn : n = 1 ∨ n = 2 ∨ n = 4 ∨ n = 8) (ha : pa % n = 0) :
    32 * (pa / 32) ≤ pa ∧ pa + n ≤ 32 * (pa / 32) + 32 ∧ (pa + n + 31) / 32 - pa / 32 = 1 := by
  rcases hn with rfl | rfl | rfl | rfl <;> omega

theorem sliceOf_sector (pa : Nat) : sliceOf (32 * (pa / 32)) = sliceOf pa := by
  have h8 : 32 * (pa / 32) / 2 ^ 8 = pa / 2 ^ 8 := by omega
  have hdiv (k : Nat) : 32 * (pa / 32) / 2 ^ (8 + k) = pa / 2 ^ (8 + k) := by
    rw [Nat.pow_add, ← Nat.div_div_eq_div_mul, h8, Nat.div_div_eq_div_mul]
  rw [sliceOf, sliceOf, h8, hdiv 9, hdiv 18, hdiv 27, hdiv 36]

/-- What a read of one aligned access asks of the home: the bytes, or the sector of them that a core's L1 lacks. -/
theorem asksHome_core {s : State} {c pa n : Nat} (hhost : paKind s pa ≠ .host) (hn : n = 1 ∨ n = 2 ∨ n = 4 ∨ n = 8) (ha : pa % n = 0) :
    asksHome s (.core c) pa n = if holdsSector (l1Of s (c / 2)) (pa / 32) then (pa, 0) else (32 * (pa / 32), 32) := by
  obtain ⟨_, _, hone⟩ := sectors_of_access hn ha
  have hlacks : lacks (l1Of s (c / 2)) pa n = if holdsSector (l1Of s (c / 2)) (pa / 32) then [] else [pa / 32] := by
    rw [lacks, hone]
    by_cases h : holdsSector (l1Of s (c / 2)) (pa / 32) = true <;> simp [h]
  simp only [asksHome, if_neg hhost, missing, hlacks]
  by_cases h : holdsSector (l1Of s (c / 2)) (pa / 32) = true
  · simp only [h, if_true]
  · simp [h]

theorem not_holdsSector {lines : Cells} {pa : Nat} (h : ∀ k, k < 32 → FMap.get? lines (pa / 32 * 32 + k) = none) :
    holdsSector lines (pa / 32) = false := by
  have h0 : FMap.get? lines (32 * (pa / 32) + 0) = none := by rw [Nat.mul_comm]; exact h 0 (by decide)
  rw [holdsSector, Bool.eq_false_iff]
  intro hall
  have hsome := List.all_eq_true.mp hall 0 (by decide)
  rw [h0] at hsome
  cases hsome

theorem readOnly_fillL1 {s : State} (h : Quiet s) (c pa : Nat) (bs : List Byte) : ReadOnly s (fillL1 s c pa bs) := ⟨rfl, ⟨h.poison, h.sides⟩⟩

/-- The bytes that a read of one access answers, where its home holds nothing queued and nothing poisoned (R100). -/
theorem readFor_quiet {s : State} (h : Quiet s) {p : Party} {tg : Target} {n : Nat} (hn : n = 1 ∨ n = 2 ∨ n = 4 ∨ n = 8)
    (ha : tg.pa % n = 0) (hhost : paKind s tg.pa ≠ .host) (hq : FMap.getD s.homeQ (sliceOf tg.pa) [] = []) :
    ∃ t bs, readFor s p tg n = .ok (t, bs) ∧ ReadOnly s t ∧ HomeFrame s t ∧ bs.length = n ∧
      ((∀ c, p = .core c → ∀ k, k < 32 → FMap.get? (s.core? (c / 2)).l1 (tg.pa / 32 * 32 + k) = none) →
        bs = overlayMem (ownLog s p) tg.pa (homeBytes s tg.dom tg.pa n)) := by
  have hread (base len : Nat) (hslice : sliceOf base = sliceOf tg.pa) :
      ∃ t, homeRead (l2Fill s (writerOf s p) tg.dom base len) tg.dom base len = .ok (t, homeBytes s tg.dom base len) ∧
        ReadOnly s t ∧ HomeFrame s t := by
    have hfill := readOnly_l2Fill h (writerOf s p) tg.dom base len
    have hframe := homeFrame_l2Fill s (writerOf s p) tg.dom base len
    obtain ⟨t, ht, hro, hhf⟩ := homeRead_quiet hfill.quiet (dom := tg.dom) (pa := base) (n := len)
      (by rw [hfill.rest, hslice]; exact hq)
    exact ⟨t, by rw [ht, hfill.homeBytes], hfill.trans hro, hframe.trans hhf⟩
  have hpos : n ≠ 0 := by omega
  cases p with
  | core c =>
    have hasks := asksHome_core (c := c) hhost hn ha
    obtain ⟨hlo, hhi, _⟩ := sectors_of_access hn ha
    by_cases hholds : holdsSector (l1Of s (c / 2)) (tg.pa / 32) = true
    · rw [if_pos hholds] at hasks
      refine ⟨fillL1 s (c / 2) tg.pa [], cachedBytes (l1Of (fillL1 s (c / 2) tg.pa []) (c / 2)) tg.pa n,
        by simp only [readFor, hasks, if_true, takeAnswer, if_neg hhost], readOnly_fillL1 h .., homeFrame_setCore ..,
        by simp [cachedBytes], fun hl1 => ?_⟩
      rw [l1Of, not_holdsSector (hl1 c rfl)] at hholds
      cases hholds
    · rw [if_neg hholds] at hasks
      obtain ⟨t, ht, hro, hhf⟩ := hread _ 32 (sliceOf_sector tg.pa)
      have hkind : paKind t tg.pa ≠ .host := by rw [hro.rest]; exact hhost
      refine ⟨fillL1 t (c / 2) (32 * (tg.pa / 32)) (homeBytes s tg.dom (32 * (tg.pa / 32)) 32),
        cachedBytes (l1Of (fillL1 t (c / 2) (32 * (tg.pa / 32)) (homeBytes s tg.dom (32 * (tg.pa / 32)) 32)) (c / 2)) tg.pa n,
        by simp only [readFor, hasks, ht, takeAnswer, if_neg hkind]; rfl, hro.trans (readOnly_fillL1 hro.quiet ..),
        hhf.trans (homeFrame_setCore ..), by simp [cachedBytes], fun _ => ?_⟩
      rw [l1Of, fillL1, core_setCore, cachedBytes_fill s _ hlo hhi]
      exact (overlayMem_nil ..).symm
  | seq q k =>
    obtain ⟨t, ht, hro, hhf⟩ := hread tg.pa n rfl
    exact ⟨t, overlayMem (ownLog t (.seq q k)) tg.pa (homeBytes s tg.dom tg.pa n), by simp only [readFor, asksHome, if_neg hpos, ht, takeAnswer], hro, hhf, by simp, fun _ => by rw [hhf.ownLog]⟩
  | slice q k =>
    obtain ⟨t, ht, hro, hhf⟩ := hread tg.pa n rfl
    exact ⟨t, overlayMem (ownLog t (.slice q k)) tg.pa (homeBytes s tg.dom tg.pa n), by simp only [readFor, asksHome, if_neg hpos, ht, takeAnswer], hro, hhf, by simp, fun _ => by rw [hhf.ownLog]⟩
  | tile q k =>
    obtain ⟨t, ht, hro, hhf⟩ := hread tg.pa n rfl
    exact ⟨t, overlayMem (ownLog t (.tile q k)) tg.pa (homeBytes s tg.dom tg.pa n), by simp only [readFor, asksHome, if_neg hpos, ht, takeAnswer], hro, hhf, by simp, fun _ => by rw [hhf.ownLog]⟩

/-! ## The load -/

theorem exec_load {i : Instr} {n : Nat} {d a : Reg} {off : BitVec 14} {signed : Bool} (h : loadForm i = some (n, d, a, off, signed))
    (s : State) : exec i s = issue i s fun s => loadInto s d (memAddr s a off n) n signed := by
  unfold loadForm at h
  split at h <;> cases h <;> rfl

theorem loadForm_size {i : Instr} {n : Nat} {d a : Reg} {off : BitVec 14} {signed : Bool} (h : loadForm i = some (n, d, a, off, signed)) :
    n = 1 ∨ n = 2 ∨ n = 4 ∨ n = 8 := by
  unfold loadForm at h
  split at h <;> cases h
  · next sz => cases sz <;> decide
  · next sz => cases sz <;> decide

theorem loadForm_len {i : Instr} {n : Nat} {d a : Reg} {off : BitVec 14} {signed : Bool} (h : loadForm i = some (n, d, a, off, signed)) :
    i.len = 4 := by
  unfold loadForm at h
  split at h <;> cases h <;> rfl

theorem pc_of_unmarked {t u : Thread} (h : unmarked t = unmarked u) : t.pc = u.pc := (congrArg Thread.pc h :)

theorem get_of_unmarked {t u : Thread} (h : unmarked t = unmarked u) (x : Reg) : t.get x = u.get x :=
  (congrArg (fun y => Thread.get y x) h :)

/-- An aligned address that translates to memory of the device is the target of its access. -/
theorem accessTarget_ok {s u : State} {p : Party} {acc : Access} {va : Word} {n : Nat} {tg : Target}
    (ht : translate s (partyReq s p acc) va = .ok (u, tg)) (ha : va.toNat % n = 0) (hk : paKind u tg.pa ≠ .host) :
    accessTarget s p acc va n = .ok (u, tg) := by
  have hal : aligned va n = true := by simpa [aligned] using ha
  have hfails : accessFails u acc tg.pa = false := by simp [accessFails, hostFails, hk]
  simp only [accessTarget, ht, hal, hfails, Bool.true_eq_false, Bool.false_eq_true, if_false]

/-- A load whose read answers leaves what the read left, its register extended. -/
theorem load_leaves {i : Instr} {n : Nat} {d a : Reg} {off : BitVec 14} {signed : Bool} {s u t : State} {tg : Target} {bs : List Byte}
    (hf : loadForm i = some (n, d, a, off, signed)) (hi : Issues i s)
    (ht : accessTarget s s.focus .read (ruleAddr s a off n) n = .ok (u, tg)) (hk : paKind u tg.pa ≠ .device)
    (hr : readFor u u.focus tg n = .ok (t, bs)) (hn : bs.length ≤ 8) (hcur : t.cur = s.cur) :
    Leaves i s t (pastWord i (s.cur.put d (ruleExtend bs signed))) := by
  rw [← hcur]
  refine leaves_setG hi.toMayIssue _ (exec_load hf s) ?_ (by rw [hcur]; exact hi.noTrip)
  rw [← extend_eq_ruleExtend hn]
  simp only [loadInto, memAddr_eq_ruleAddr, ht, Res.bindX, if_neg hk, hr]

end Sys2Proof.Machine
end

section
namespace Sys2Proof

open Machine

/-- Settles O18: a read with nothing queued at its home changes nothing that the clauses name, and its bytes are the home's. -/
theorem loadFrame : Obligations.LoadFrame := by
  unfold Obligations.LoadFrame
  intro i n d a off signed s tg hf hi ht ha htier hpa hq hpoison hsides
  have hn := loadForm_size hf
  have hhost : paKind s tg.pa ≠ .host := by rcases htier with h | h <;> rw [h] <;> decide
  have hdev : paKind s tg.pa ≠ .device := by rcases htier with h | h <;> rw [h] <;> decide
  obtain ⟨t, bs, hread, hro, hframe, hlen, hval⟩ := readFor_quiet ⟨hpoison, hsides⟩ (p := s.focus) hn hpa hhost hq
  obtain ⟨v, hexec, hev, hcur⟩ := load_leaves hf hi (accessTarget_ok ht ha hhost) hdev hread (by omega) hframe.cur
  have hcont : v.contexts = s.contexts := by rw [elsewhere_contexts hev, hro.rest]
  have hhomeQ : v.homeQ = s.homeQ := (congrArg State.homeQ hev.rest).trans (by rw [hro.rest]; rfl)
  have hpc : v.cur.pc = (pastWord i (s.cur.put d (ruleExtend bs signed))).pc := pc_of_unmarked hcur
  have hg (x : Reg) : v.g x = (s.cur.put d (ruleExtend bs signed)).get x := get_of_unmarked hcur x
  refine ⟨v, hexec, fun dom pa => ?_, hhomeQ, hcont, fun p hp => ?_, ?_, fun x hx => ?_, fun hd hl1 => ?_⟩
  · rw [elsewhere_homeByte hev, hro.homeByte]
  · rw [hev.threads p (by rw [hframe.focus]; exact hp), hframe.thread]
  · rw [hpc, pastWord, pc_put, loadForm_len hf]
  · rw [hg, get_put, if_neg (fun h => hx h.1)]; rfl
  · rw [hg, get_put, if_pos ⟨rfl, hd⟩, hval hl1]

end Sys2Proof
end

section
/-! SUPPORT. A store to the copy engine's aperture is held back as any form that stitches (R118, R160). -/

namespace Sys2Proof.Machine

open Sys2Proof

/-- A store whose address lands in an aperture goes nowhere while a row of its panel holds its stitch back. -/
theorem exec_st_held {sz : Size} {d a : Reg} {off : BitVec 14} {s : State} (hcheck : issueCheck (.st sz d a off) s = none)
    (hland : landsInAperture s (memAddr s a off sz.bytes) = true) (hbar : stitchBarred s s.focus = true) :
    exec (.st sz d a off) s = .next s := by
  have hwaits : stitchWaits (.apertureStore d a off) s = true := by
    rw [stitchWaits, hbar]
    rfl
  simp only [exec, execSt, hcheck, hland, if_true, hwaits]

/-- A sequencer whose panel has a row executed in part (R31), g4 a misaligned address of the page that maps the aperture of context 0. -/
def halfRowState : State :=
  { State.reset with
    focus := .seq 0 0
    threads := [(.seq 0 0, { Thread.clear with status := .running }.put 4 0x90004#64)]
    contexts := [(0, { Context.clear with ptroot := 1 })]
    panels := [(0, { placedPanel 0 [] with half := some [] })]
    tlb := [⟨0, 0, 0x90000, 3, 0xF001000033F#64⟩] }

end Sys2Proof.Machine
end

section
namespace Sys2Proof

open Machine

/-- Refutes O19: the clause that a misaligned store traps leaves out the aperture, whose stores stitch first. In `halfRowState` the misaligned
address translates into the aperture while a row has executed in part, so that the store is held back with no trap (R31, R118). -/
theorem not_storesComplete : ¬ Obligations.StoresComplete := by
  intro h
  have hissues : Issues (.st .d 3 4 0) halfRowState := ⟨⟨rfl, fun h => absurd h (by decide), rfl⟩, by unfold NoTrip; decide⟩
  have htarget : translate halfRowState (partyReq halfRowState halfRowState.focus .write) (ruleAddr halfRowState 4 0 8) =
      .ok (halfRowState, targetOf 0xF001000033F#64 3 0x90004) := by rfl
  have hheld : exec (.st .d 3 4 0) halfRowState = .next halfRowState := exec_st_held rfl (by decide +kernel) (by decide +kernel)
  have htrap := ((h .d 3 4 0 halfRowState hissues).2 _ _ htarget).1 (by decide +kernel)
  have hstatus := congrArg (fun s : State => s.cur.status) (Host.Outcome.next.inj (hheld.symm.trans htrap))
  exact absurd hstatus (by decide +kernel)

end Sys2Proof
end

section
/-! SUPPORT. Two states that differ in event counters and commit shadows alone: what the memory system does with them differs in no more
(R99, R197). -/

namespace Sys2Proof.Machine

open Sys2Proof

/-- The state with the panels and the cores replaced. -/
def withUnits (s : State) (P : FMap Nat Panel) (C : FMap Nat Core) : State := { s with panels := P, cores := C }

/-- The states differ in the event counters of panels and cores and in commit shadows alone. -/
structure Alike (s t : State) : Prop where
  rest : t = withUnits s t.panels t.cores
  panels : ∀ p, (t.panel? p).map uncounted = (s.panel? p).map uncounted
  cores : ∀ c, uncountedCore (t.core? c) = uncountedCore (s.core? c)

theorem Alike.refl (s : State) : Alike s s := ⟨rfl, fun _ => rfl, fun _ => rfl⟩

theorem Alike.symm {s t : State} (h : Alike s t) : Alike t s :=
  ⟨by rw [h.rest]; rfl, fun p => (h.panels p).symm, fun c => (h.cores c).symm⟩

theorem Alike.trans {s t u : State} (h : Alike s t) (k : Alike t u) : Alike s u :=
  ⟨by rw [k.rest, h.rest]; rfl, fun p => (k.panels p).trans (h.panels p), fun c => (k.cores c).trans (h.cores c)⟩

theorem Alike.elsewhere {s t : State} (h : Alike s t) : Elsewhere s t :=
  ⟨by rw [h.rest]; rfl, fun p _ => by rw [h.rest]; rfl, h.panels, h.cores⟩

theorem Alike.of_elsewhere {s t : State} (h : Elsewhere s t) (ht : t.threads = s.threads) : Alike s t := by
  refine ⟨?_, h.panels, h.cores⟩
  have hout : t = { outside t with threads := t.threads, panels := t.panels, cores := t.cores } := rfl
  rw [h.rest, ht] at hout
  exact hout

theorem alike_countFor (s : State) (p : Party) (ev n : Nat) : Alike s (countFor s p ev n) :=
  .of_elsewhere (elsewhere_countFor ..) (by unfold countFor State.modPanel; split <;> (try split) <;> rfl)

/-- An operation neither reads nor changes panels and cores. -/
def Blind (g : State → State) : Prop := ∀ s P C, g (withUnits s P C) = withUnits (g s) P C

theorem Alike.blind {g : State → State} (hg : Blind g) {s t : State} (h : Alike s t) : Alike (g s) (g t) := by
  have hs : g s = withUnits (g s) s.panels s.cores := hg s s.panels s.cores
  have ht : g t = withUnits (g s) t.panels t.cores := by
    conv_lhs => rw [h.rest]
    exact hg ..
  refine ⟨by rw [ht]; rfl, fun p => ?_, fun c => ?_⟩
  · rw [ht, hs]; exact h.panels p
  · rw [ht, hs]; exact h.cores c

/-- A value is read off the rest of the state. -/
def Reads {α : Type} (v : State → α) : Prop := ∀ s P C, v (withUnits s P C) = v s

theorem Blind.id : Blind fun s => s := fun _ _ _ => rfl

theorem Blind.comp {f g : State → State} (hf : Blind f) (hg : Blind g) : Blind fun s => f (g s) := fun s P C =>
  (congrArg f (hg s P C)).trans (hf ..)

theorem Blind.dep {α : Type} {g : α → State → State} {v : State → α} (hv : Reads v) (hg : ∀ a, Blind (g a)) : Blind fun s => g (v s) s :=
  fun s P C => (congrArg (fun a => g a (withUnits s P C)) (hv s P C)).trans (hg _ s P C)

theorem Blind.ite {c : State → Prop} [DecidablePred c] {f g : State → State} (hc : Reads c) (hf : Blind f) (hg : Blind g) :
    Blind fun s => if c s then f s else g s := by
  intro s P C
  have hcond := hc s P C
  by_cases h : c s
  · simp only [hcond, h, if_true]
    exact hf s P C
  · simp only [hcond, h, if_false]
    exact hg s P C

theorem Blind.foldl {α : Type} {f : State → α → State} (hf : ∀ x, Blind fun s => f s x) (l : List α) : Blind fun s => l.foldl f s := by
  intro s P C
  induction l generalizing s with
  | nil => rfl
  | cons x l ih => exact (congrArg (l.foldl f) (hf x s P C)).trans (ih _)

theorem Alike.foldl {α : Type} {f g : State → α → State} (hf : ∀ x s t, Alike s t → Alike (f s x) (g t x)) (l : List α) {s t : State}
    (h : Alike s t) : Alike (l.foldl f s) (l.foldl g t) := by
  induction l generalizing s t with
  | nil => exact h
  | cons x l ih => exact ih (hf x _ _ h)

/-- A value that is read off the rest of the state. -/
theorem Alike.val {α : Type} {v : State → α} (hv : Reads v) {s t : State} (h : Alike s t) :
    v t = v s := by
  rw [h.rest]
  exact hv ..

theorem Alike.panel_none {s t : State} (h : Alike s t) {p : Nat} (hs : s.panel? p = none) : t.panel? p = none := by
  have hp := h.panels p
  rw [hs] at hp
  exact Option.map_eq_none_iff.mp hp

theorem Alike.panel_some {s t : State} (h : Alike s t) {p : Nat} {x : Panel} (hs : s.panel? p = some x) :
    ∃ c sh, t.panel? p = some { x with counters := c, shadow := sh } := by
  have hp := h.panels p
  rw [hs] at hp
  obtain ⟨y, hy, hxy⟩ := Option.map_eq_some_iff.mp hp
  refine ⟨y.counters, y.shadow, hy.trans (congrArg some ?_)⟩
  have hset : y = { uncounted y with counters := y.counters, shadow := y.shadow } := rfl
  rw [hxy] at hset
  exact hset

theorem Alike.setPanel {s t : State} (h : Alike s t) (p : Nat) {x y : Panel} (hxy : uncounted y = uncounted x) :
    Alike (s.setPanel p x) (t.setPanel p y) := by
  refine ⟨by rw [h.rest]; rfl, fun q => ?_, h.cores⟩
  by_cases hq : q = p
  · subst hq; simp [hxy]
  · rw [panel_setPanel_other _ _ hq, panel_setPanel_other _ _ hq]; exact h.panels q

theorem Alike.setCore {s t : State} (h : Alike s t) (c : Nat) {x y : Core} (hxy : uncountedCore y = uncountedCore x) :
    Alike (s.setCore c x) (t.setCore c y) := by
  refine ⟨by rw [h.rest]; rfl, h.panels, fun d => ?_⟩
  by_cases hd : d = c
  · subst hd; simp [hxy]
  · rw [core_setCore_other _ _ hd, core_setCore_other _ _ hd]; exact h.cores d

/-- Counting changes counters alone. -/
theorem Alike.countPanels {s : State} (f : Panel → Panel) (hf : ∀ x, uncounted (f x) = uncounted x) :
    Alike s { s with panels := mapVals (fun _ x => f x) s.panels } := by
  refine ⟨rfl, fun p => ?_, fun _ => rfl⟩
  simp only [State.panel?, get_mapVals, Option.map_map]
  exact congrArg (fun g => Option.map g _) (funext hf)

theorem alike_countCore (s : State) (c : Nat) (f : Counter → Counter) :
    Alike s (s.setCore c { s.core? c with counters := (s.core? c).counters.map f }) := by
  refine ⟨rfl, fun _ => rfl, fun d => ?_⟩
  by_cases hd : d = c
  · subst hd; rw [core_setCore]; rfl
  · rw [core_setCore_other _ _ hd]

theorem alike_countBurst (s : State) (w : Option Writer) (ev sec : Nat) : Alike s (countBurst s w ev sec) := by
  unfold countBurst
  split
  split
  · exact alike_countCore ..
  · exact .countPanels _ fun x => by split <;> rfl
  · exact .refl s

theorem alike_countWriter (s : State) (w : Option Writer) (ev n : Nat) : Alike s (countWriter s w ev n) := by
  unfold countWriter
  split
  · exact alike_countCore ..
  · exact .countPanels _ fun x => by split <;> rfl
  · exact .refl s

/-- A fold that only counts may be left out. -/
theorem alike_countBursts (l : List (Nat × Option Writer)) (s : State) : Alike s (l.foldl (fun s c => countBurst s c.2 48 c.1) s) :=
  List.foldlRecOn l _ (motive := Alike s) (.refl s) fun _ h c _ => h.trans (alike_countBurst _ c.2 48 c.1)

theorem Alike.cleanRange {s t : State} (h : Alike s t) (lo hi : Nat) : Alike (cleanRange s lo hi) (cleanRange t lo hi) := by
  have hclean (u : State) : Alike { u with l2Dirty := cleanSectors u.l2Dirty lo hi } (Machine.cleanRange u lo hi) := by
    unfold Machine.cleanRange
    have hcount := alike_countBursts ((dirtyIn u.l2Dirty lo hi).filter fun c => paKind u (32 * c.1) == .first) u
    exact hcount.blind (g := fun v => { v with l2Dirty := cleanSectors u.l2Dirty lo hi }) fun _ _ _ => rfl
  have hset : Alike { s with l2Dirty := cleanSectors s.l2Dirty lo hi } { t with l2Dirty := cleanSectors t.l2Dirty lo hi } :=
    h.blind (g := fun v => { v with l2Dirty := cleanSectors v.l2Dirty lo hi }) fun _ _ _ => rfl
  exact (hclean s).symm.trans (hset.trans (hclean t))

theorem blind_countPoison (line : Nat) : Blind fun s => countPoison s line :=
  .ite (c := fun s => poisoned s (line * 256) 256 = true) (fun _ _ _ => rfl)
    (.dep (v := fun s => ownersOf s line) (g := fun l s => l.foldl (fun s c => countFault s c 16 16 .ecc) s) (fun _ _ _ => rfl)
      fun l => .foldl (fun _ _ _ _ => rfl) l) .id

theorem blind_l2Drop (line : Nat) : Blind fun s => l2Drop s line := fun _ _ _ => rfl

section
variable {wr : State → Nat → Update → State} (hwr : ∀ pa u s t, Alike s t → Alike (wr s pa u) (wr t pa u))
include hwr

theorem Alike.evictSideWith {s t : State} (h : Alike s t) (line : Nat) : Alike (evictSideWith wr s line) (evictSideWith wr t line) := by
  have hsides : t.sides = s.sides := h.val (v := State.sides) fun _ _ _ => rfl
  have hfrt (pa : Nat) : frtFind { t with sides := FMap.erase t.sides line } pa = frtFind { s with sides := FMap.erase s.sides line } pa :=
    h.val (v := fun s => frtFind { s with sides := FMap.erase s.sides line } pa) fun _ _ _ => rfl
  have herase : Alike { s with sides := FMap.erase s.sides line } { t with sides := FMap.erase t.sides line } :=
    h.blind (g := fun u => { u with sides := FMap.erase u.sides line }) fun _ _ _ => rfl
  unfold Machine.evictSideWith
  rw [hsides]
  cases FMap.get? s.sides line with
  | none => exact h
  | some sb =>
    rw [hsides] at hfrt herase
    dsimp only
    rw [hfrt]
    cases frtFind { s with sides := FMap.erase s.sides line } (line * 256) with
    | none => exact (alike_countWriter ..).symm.trans (herase.trans (alike_countWriter ..))
    | some e =>
      dsimp only
      split
      · exact herase
      · exact hwr _ _ _ _ herase

theorem Alike.evictWith {s t : State} (h : Alike s t) (line : Nat) : Alike (evictWith wr s line) (evictWith wr t line) :=
  (((h.evictSideWith hwr line).blind (blind_countPoison line)).cleanRange _ _).blind (blind_l2Drop line)

end

/-! ## Requests performed -/

/-- A sector under a new tag, with the bytes that it reads as. -/
def retagged (dom sec : Nat) (v : BitVec 256 × Nat) (s : State) : State :=
  { s with
    mem := writeBytes s.mem (sec * 32) (toBytes 32 v.1.toNat)
    seals := if (dom, v.2) = (0, 0) then FMap.erase s.seals sec else FMap.set s.seals sec (dom, v.2) }

theorem blind_sealSector (dom sec : Nat) : Blind fun s => sealSector s dom sec := by
  refine .ite (c := fun s => sealFits s dom sec = true) (f := fun s => s) (g := fun s => retagged dom sec (sectorView s dom sec, epochOf s dom) s)
    (fun _ _ _ => rfl) .id ?_
  exact .dep (v := fun s => (sectorView s dom sec, epochOf s dom)) (g := retagged dom sec) (fun _ _ _ => rfl) fun v s P C => by
    simp only [retagged, withUnits]

theorem blind_releaseWords (written : Nat → Bool) : Blind fun s => releaseWords s written :=
  .ite (c := fun s => s.tasks.isEmpty = true) (fun _ _ _ => rfl) .id fun _ _ _ => rfl

/-- The bytes and tags of a page copied, no word dependence yet tested. -/
def pageCopied (s : State) (src dst : Nat) (tags : FMap Nat (Nat × Nat)) : State :=
  { s with
    mem := copyCells s.mem src dst 65536
    seals := (s.seals.filter fun c => !(decide (dst / 32 ≤ c.1) && decide (c.1 < dst / 32 + 2048))) ++ tags.map fun c => (c.1 + dst / 32, c.2)
    poison := (s.poison.filter fun c => !(decide (dst / 32 ≤ c) && decide (c < dst / 32 + 2048))) ++
      (s.poison.filter fun c => decide (src / 32 ≤ c) && decide (c < src / 32 + 2048)).map fun c => c - src / 32 + dst / 32
    l2Dirty := markDirty s.l2Dirty (dst / 32) (dst / 32 + 2048) none }

theorem blind_copyPage (src dst : Nat) (tags : FMap Nat (Nat × Nat)) : Blind fun s => copyPage s src dst tags :=
  .comp (f := fun s => releaseWords s fun pa => decide (dst ≤ pa) && decide (pa < dst + 65536)) (g := fun s => pageCopied s src dst tags)
    (blind_releaseWords _) fun _ _ _ => rfl

/-- A captured page noted with its task. -/
def captureNoted (entry : Nat) (e : TaskEntry) (f : Fitting) (page : Nat) (tags : FMap Nat (Nat × Nat)) (s : State) : State :=
  let e := { FMap.getD s.tasks entry e with fit := some { f with captured := f.captured ++ [page], tags := f.tags ++ [tags] } }
  { s with tasks := FMap.set s.tasks entry e }

theorem blind_capturePage (entry : Nat) (e : TaskEntry) (f : Fitting) (page : Nat) : Blind fun s => capturePage s entry e f page :=
  .dep (v := fun s => (pageTags s (page * 65536), bufferTags s e.ctx))
    (g := fun v s => captureNoted entry e f page v.1 (copyPage s (page * 65536) (f.bufferPas.getD f.captured.length 0) v.2))
    (fun _ _ _ => rfl) fun v => .comp (f := captureNoted entry e f page v.1) (fun _ _ _ => rfl) (blind_copyPage _ _ v.2)

/-- A page of a fitting run captured. -/
def captureFit (task : BitVec 32) (pa : Nat) (e : TaskEntry) (f : Fitting) (s : State) : State :=
  if task ≠ 0 ∧ e.gen = task.toNat / 2 ^ 13 ∧ wantsCapture f (pa / 65536) ∧ (paKind s pa = .first ∨ paKind s pa = .second) then
    if f.captured.length < f.bufferPas.length then capturePage s (task.toNat % 2 ^ 13) e f (pa / 65536)
    else { s with tasks := FMap.set s.tasks (task.toNat % 2 ^ 13) { e with fit := some { f with overflow := true } } }
  else s

/-- The same, as the task's entry has it. -/
def captureAs (task : BitVec 32) (pa : Nat) (e : Option TaskEntry) (s : State) : State :=
  match e with
  | some e => (match e.fit with | some f => captureFit task pa e f s | none => s)
  | none => s

theorem captureFor_eq (s : State) (task : BitVec 32) (pa : Nat) :
    captureFor s task pa = captureAs task pa (FMap.get? s.tasks (task.toNat % 2 ^ 13)) s := rfl

theorem blind_captureFit (task : BitVec 32) (pa : Nat) (e : TaskEntry) (f : Fitting) : Blind (captureFit task pa e f) := by
  refine .ite (c := fun s => task ≠ 0 ∧ e.gen = task.toNat / 2 ^ 13 ∧ wantsCapture f (pa / 65536) ∧ (paKind s pa = .first ∨ paKind s pa = .second))
    (fun _ _ _ => rfl) ?_ .id
  exact .ite (c := fun _ => f.captured.length < f.bufferPas.length) (fun _ _ _ => rfl) (blind_capturePage _ _ _ _) fun _ _ _ => rfl

theorem blind_captureAs (task : BitVec 32) (pa : Nat) (e : Option TaskEntry) : Blind (captureAs task pa e) := by
  cases e with
  | none => exact .id
  | some e =>
    intro s P C
    unfold captureAs
    dsimp only
    split
    · exact blind_captureFit _ _ _ _ s P C
    · rfl

theorem blind_captureFor (task : BitVec 32) (pa : Nat) : Blind fun s => captureFor s task pa := by
  simp only [captureFor_eq]
  exact .dep (v := fun s => FMap.get? s.tasks (task.toNat % 2 ^ 13)) (fun _ _ _ => rfl) (blind_captureAs task pa)

theorem blind_l2Written (u : Update) : Blind fun s => l2Written s u := by
  refine .ite (c := fun _ => u.past = true) (fun _ _ _ => rfl) .id ?_
  refine .dep (v := fun s => ((u.cells.map fun c => sectorOf c.1).dedup).filter fun sec => cacheable s (sec / 8))
    (g := fun secs s => ((secs.map (· / 8)).dedup).foldl (fun s l => setL2Dom s u.dom l)
      { s with l2Dirty := secs.foldl (fun d sec => markDirty d sec (sec + 1) u.writer) s.l2Dirty }) (fun _ _ _ => rfl) fun secs => ?_
  exact .comp (g := fun s => { s with l2Dirty := secs.foldl (fun d sec => markDirty d sec (sec + 1) u.writer) s.l2Dirty })
    (.foldl (fun _ _ _ _ => rfl) _) fun _ _ _ => rfl

theorem blind_landUpdate (u : Update) : Blind fun s => landUpdate s u := by
  refine .comp (f := fun s => releaseWords s fun a => u.cells.any fun c => c.1 == a) (blind_releaseWords _) ?_
  refine .comp (f := fun s => l2Written s u) (blind_l2Written u) ?_
  refine .comp (f := fun s => { s with mem := writeCells s.mem u.cells, poison := s.poison.filter fun sec => !u.cures.contains sec })
    (fun _ _ _ => rfl) ?_
  exact .comp (.foldl (fun sec => blind_sealSector u.dom sec) _) (.foldl (fun a => blind_captureFor u.task a) _)

theorem Alike.writerOf {s t : State} (h : Alike s t) (p : Party) : writerOf t p = writerOf s p := by
  have hpanel (q : Nat) : (t.panel? q).map (fun x => Writer.panel x.uid) = (s.panel? q).map fun x => Writer.panel x.uid := by
    have hq := congrArg (Option.map fun x : Panel => Writer.panel x.uid) (h.panels q)
    simpa [Option.map_map, Function.comp_def, uncounted] using hq
  cases p with
  | core c => rfl
  | _ => exact hpanel _

theorem Alike.answerL1 {s t : State} (h : Alike s t) (a : HomeAsk) (bs : List Byte) : Alike (answerL1 s a bs) (answerL1 t a bs) := by
  have hkind : paKind t a.pa = paKind s a.pa := h.val (v := fun s => paKind s a.pa) fun _ _ _ => rfl
  unfold Machine.answerL1
  rw [hkind]
  split
  · split
    · exact h
    · next c _ _ _ =>
      refine h.setCore _ ?_
      have hl1 := congrArg Core.l1 (h.cores (c / 2))
      have hcore : uncountedCore { t.core? (c / 2) with l1 := (t.core? (c / 2)).l1 } = _ := h.cores (c / 2)
      simp only [uncountedCore] at hl1 hcore ⊢
      rw [hl1]
      exact congrArg (fun x : Core => { x with l1 := fillCells (s.core? (c / 2)).l1 (cellsAt a.pa bs) }) hcore
  · exact h

/-- An answer noted with the request of a thread. -/
def noteReplyAs (a : HomeAsk) (r : List Byte × Option Nat) : Option Asked → State → State
  | some q, s => if q.id = a.id then { s with asked := FMap.set s.asked a.party { q with reply := some r } } else s
  | none, s => s

theorem noteReply_eq (s : State) (a : HomeAsk) (r : List Byte × Option Nat) :
    noteReply s a r = noteReplyAs a r (FMap.get? s.asked a.party) s := by
  unfold noteReply noteReplyAs
  cases FMap.get? s.asked a.party <;> rfl

theorem blind_noteReply (a : HomeAsk) (r : List Byte × Option Nat) : Blind fun s => noteReply s a r := by
  simp only [noteReply_eq]
  refine .dep (v := fun s => FMap.get? s.asked a.party) (fun _ _ _ => rfl) fun q => ?_
  cases q with
  | none => exact .id
  | some q => exact .ite (c := fun _ => q.id = a.id) (fun _ _ _ => rfl) (fun _ _ _ => rfl) .id

theorem Alike.answerAsk {s t : State} (h : Alike s t) (a : HomeAsk) : Alike (answerAsk s a) (answerAsk t a) := by
  have hbytes : homeBytes t a.dom a.pa a.n = homeBytes s a.dom a.pa a.n := by
    rw [homeBytes_eq_map, homeBytes_eq_map]
    exact List.map_congr_left fun i _ => h.val (v := fun s => homeByte s a.dom (a.pa + i)) fun _ _ _ => rfl
  have hbad : badSector t a.pa a.n = badSector s a.pa a.n := h.val (v := fun s => badSector s a.pa a.n) fun _ _ _ => rfl
  have hnote (u : State) : Machine.answerAsk u a = noteReply (match a.amo with
      | some (kind, v, expected) =>
        if (badSector u a.pa a.n).isSome then u
        else landUpdate u ⟨cellsAt a.pa (toBytes a.n (amoResult kind a.n (ofBytes (homeBytes u a.dom a.pa a.n)) v expected)), a.dom, a.task, false, [],
          Machine.writerOf u a.party⟩
      | none => if (badSector u a.pa a.n).isSome then u else Machine.answerL1 u a (homeBytes u a.dom a.pa a.n)) a
      (homeBytes u a.dom a.pa a.n, badSector u a.pa a.n) := rfl
  rw [hnote, hnote, hbytes, hbad, h.writerOf]
  refine Alike.blind (blind_noteReply a _) ?_
  cases a.amo with
  | some q =>
    dsimp only
    split
    · exact h
    · exact h.blind (blind_landUpdate _)
  | none =>
    dsimp only
    split
    · exact h
    · exact h.answerL1 ..

theorem Alike.landReq {s t : State} (h : Alike s t) (r : HomeReq) : Alike (landReq s r) (landReq t r) := by
  cases r with
  | update u => exact h.blind (blind_landUpdate u)
  | ask a => exact h.answerAsk a

theorem Alike.flushWith {f : State → HomeReq → State} (hf : ∀ r s t, Alike s t → Alike (f s r) (f t r)) {s t : State} (h : Alike s t) (n : Nat) :
    Alike (flushWith f s n) (flushWith f t n) := by
  have hq : t.homeQ = s.homeQ := h.val (v := State.homeQ) fun _ _ _ => rfl
  have herase : Alike { s with homeQ := FMap.erase s.homeQ n } { t with homeQ := FMap.erase t.homeQ n } :=
    h.blind (g := fun u => { u with homeQ := FMap.erase u.homeQ n }) fun _ _ _ => rfl
  unfold Machine.flushWith
  rw [hq] at herase ⊢
  cases FMap.getD s.homeQ n [] with
  | nil => exact h
  | cons r q => exact .foldl hf _ herase

theorem Alike.performAt {s t : State} (h : Alike s t) (n : Nat) (r : HomeReq) : Alike (performAt n s r) (performAt n t r) := by
  induction n generalizing s t r with
  | zero => exact h.landReq r
  | succ n ih =>
    refine Alike.landReq (Alike.foldl (fun line s t h => ?_) _ h) r
    have hgives : givesUp t r line = givesUp s r line := h.val (v := fun s => givesUp s r line) fun _ _ _ => rfl
    rw [hgives]
    split
    · have hwrite (pa : Nat) (u : Update) (s t : State) (h : Alike s t) :
          Alike (Machine.performAt n (Machine.flushWith (Machine.performAt n) s (sliceOf pa)) (.update u))
            (Machine.performAt n (Machine.flushWith (Machine.performAt n) t (sliceOf pa)) (.update u)) :=
        ih (h.flushWith (fun r _ _ h => ih h r) _) _
      exact h.evictWith hwrite line
    · exact h

theorem Alike.perform {s t : State} (h : Alike s t) (r : HomeReq) : Alike (perform s r) (perform t r) := h.performAt 16 r

theorem Alike.flushSlice {s t : State} (h : Alike s t) (n : Nat) : Alike (flushSlice s n) (flushSlice t n) :=
  h.flushWith (fun r _ _ h => h.perform r) n

theorem Alike.applyHead {s t : State} (h : Alike s t) (n : Nat) : Alike (applyHead s n) (applyHead t n) := by
  have hq : t.homeQ = s.homeQ := h.val (v := State.homeQ) fun _ _ _ => rfl
  have hset (q : FMap Nat (List HomeReq)) : Alike { s with homeQ := q } { t with homeQ := q } :=
    h.blind (g := fun u => { u with homeQ := q }) fun _ _ _ => rfl
  unfold Machine.applyHead
  rw [hq]
  split
  · exact h
  · exact (hset _).perform _
  · exact (hset _).perform _

theorem Alike.applyUntil (sel : HomeReq → Bool) (n k : Nat) {s t : State} (h : Alike s t) :
    Alike (applyUntil sel n k s) (applyUntil sel n k t) := by
  induction k generalizing s t with
  | zero => exact h
  | succ k ih =>
    have hq : t.homeQ = s.homeQ := h.val (v := State.homeQ) fun _ _ _ => rfl
    unfold Machine.applyUntil
    rw [hq]
    split
    · exact ih (h.applyHead n)
    · exact h

theorem Alike.flushRanges {s t : State} (h : Alike s t) (rs : List (Nat × Nat)) : Alike (flushRanges s rs) (flushRanges t rs) := by
  have hq : t.homeQ = s.homeQ := h.val (v := State.homeQ) fun _ _ _ => rfl
  unfold Machine.flushRanges flushReqs
  rw [hq]
  exact .foldl (fun c s t h => h.applyUntil _ c.1 c.2.length) _ h

theorem Alike.drainLine {s t : State} (h : Alike s t) (p n line : Nat) : Alike (drainLine s p n line) (drainLine t p n line) := by
  unfold Machine.drainLine
  cases hs : s.panel? p with
  | none => rw [h.panel_none hs]; exact h
  | some x =>
    obtain ⟨c, sh, ht⟩ := h.panel_some hs
    rw [ht]
    dsimp only [Panel.tile]
    split
    · exact h
    · refine .foldl (fun d u v h => ?_) _ (.blind (blind_countPoison line) (h.setPanel p rfl))
      exact h.blind (g := fun s => pushUpdate s (line * 256) (drained x.uid (taskId s x.entry) (bytesUnder (dirtyOf (x.tile n) line) d) d))
        fun _ _ _ => rfl

theorem Alike.drainPanel {s t : State} (h : Alike s t) (p : Nat) (sel : Nat → Bool) : Alike (drainPanel s p sel) (drainPanel t p sel) := by
  unfold Machine.drainPanel
  cases hs : s.panel? p with
  | none => rw [h.panel_none hs]; exact h
  | some x =>
    obtain ⟨c, sh, ht⟩ := h.panel_some hs
    rw [ht]
    dsimp only
    refine .foldl (fun c u v h => ?_) _ h
    exact .foldl (fun l _ _ h => h.drainLine p c.1 l) _ h

theorem Alike.releaseRanges {s t : State} (h : Alike s t) (p : Party) (rs : List (Nat × Nat)) :
    Alike (releaseRanges s p rs) (releaseRanges t p rs) := by
  unfold Machine.releaseRanges drainFor
  split
  · exact (h.drainPanel _ _).flushRanges rs
  · exact h.flushRanges rs

end Sys2Proof.Machine
end

section
/-! SUPPORT. What a region's translation reads in states that differ in counters alone (R90, R105, R106). -/

namespace Sys2Proof.Machine

open Sys2Proof

theorem Alike.thread {s t : State} (h : Alike s t) (p : Party) : t.thread p = s.thread p := h.val (v := fun s => s.thread p) fun _ _ _ => rfl

theorem Alike.focus {s t : State} (h : Alike s t) : t.focus = s.focus := h.val (v := State.focus) fun _ _ _ => rfl

theorem Alike.cur {s t : State} (h : Alike s t) : t.cur = s.cur := by rw [State.cur, State.cur, h.focus, h.thread]

theorem Alike.homeBytes {s t : State} (h : Alike s t) (dom pa n : Nat) : homeBytes t dom pa n = homeBytes s dom pa n := by
  rw [homeBytes_eq_map, homeBytes_eq_map]
  exact List.map_congr_left fun i _ => h.val (v := fun s => homeByte s dom (pa + i)) fun _ _ _ => rfl

/-- A field of the panels that no counter and no shadow is part of. -/
theorem Alike.panelVal {α : Type} {s t : State} (h : Alike s t) (f : Panel → α) (hf : ∀ x, f (uncounted x) = f x) (q : Nat) :
    (t.panel? q).map f = (s.panel? q).map f := by
  have hq := congrArg (Option.map f) (h.panels q)
  simpa only [Option.map_map, Function.comp_def, hf] using hq

theorem Alike.partyCtx {s t : State} (h : Alike s t) (p : Party) : partyCtx t p = partyCtx s p := by
  unfold Machine.partyCtx
  split
  · rw [h.panelVal (·.ctx) fun _ => rfl]
  · rw [h.thread]

theorem Alike.partyTask {s t : State} (h : Alike s t) (p : Party) : partyTask t p = partyTask s p := by
  have hid : taskId t = taskId s := funext fun e => h.val (v := fun s => taskId s e) fun _ _ _ => rfl
  unfold Machine.partyTask
  split
  · rw [hid, h.panelVal (fun y => taskId s y.entry) fun _ => rfl]
  · rw [h.thread]

/-- A walk past the read of an entry `e` at `a`. -/
def walkOn (s : State) (c va level a : Nat) (e : Word) (rest : List (Nat × Nat)) : State × WalkEnd :=
  if s.poison.contains (a / 32) then (s, .ecc (a / 32))
  else if !e.getLsbD 0 then (s, .bad 0 level)
  else if pteMalformed s c level e then (s, .bad 1 level)
  else if e.getLsbD 1 then (s, .leaf e level a)
  else walkFrom s c va rest (pteAddr e)

theorem Alike.walkFrom {s t : State} (h : Alike s t) (c va : Nat) (ls : List (Nat × Nat)) (table : Nat) :
    (walkFrom t c va ls table).2 = (walkFrom s c va ls table).2 := by
  induction ls generalizing s t table with
  | nil => rfl
  | cons l rest ih =>
    obtain ⟨level, sh⟩ := l
    have hon (u : State) : Machine.walkFrom u c va ((level, sh) :: rest) table =
        walkOn (Machine.flushSlice u (sliceOf (table + 8 * (va / 2 ^ sh % 8192)))) c va level (table + 8 * (va / 2 ^ sh % 8192))
          (wordOf (Machine.homeBytes (Machine.flushSlice u (sliceOf (table + 8 * (va / 2 ^ sh % 8192)))) 0 (table + 8 * (va / 2 ^ sh % 8192)) 8))
          rest := rfl
    rw [hon, hon, (h.flushSlice _).homeBytes]
    generalize wordOf (Machine.homeBytes _ 0 _ 8) = e
    have hflush := h.flushSlice (sliceOf (table + 8 * (va / 2 ^ sh % 8192)))
    generalize Machine.flushSlice s _ = s', Machine.flushSlice t _ = t' at hflush ⊢
    have hpoison : t'.poison = s'.poison := hflush.val (v := State.poison) fun _ _ _ => rfl
    have hbad : pteMalformed t' c level e = pteMalformed s' c level e := hflush.val (v := fun s => pteMalformed s c level e) fun _ _ _ => rfl
    unfold walkOn
    rw [hpoison, hbad]
    split_ifs
    · rfl
    · rfl
    · rfl
    · rfl
    · exact ih hflush _

theorem Alike.walk {s t : State} (h : Alike s t) (c va : Nat) : (walk t c va).2 = (walk s c va).2 := by
  have hctxt : t.ctxt c = s.ctxt c := h.val (v := fun s => s.ctxt c) fun _ _ _ => rfl
  have htable : tableOk t c (bitsOf (s.ctxt c).ptroot 16 36 * 65536) = _ :=
    h.val (v := fun u => tableOk u c (bitsOf (s.ctxt c).ptroot 16 36 * 65536)) fun _ _ _ => rfl
  simp only [Machine.walk, hctxt, htable]
  split_ifs
  · rfl
  · rfl
  · exact h.walkFrom ..

theorem peek_eq (s : State) (c va : Nat) : peek s c va = match (walk s c va).2 with
    | .leaf e level _ => some (leafAddr e level va, pageSize level)
    | _ => none := by
  unfold peek
  obtain ⟨u, e⟩ := walk s c va
  cases e <;> rfl

theorem Alike.regionRanges {s t : State} (h : Alike s t) (c fuel : Nat) : ∀ va hi, regionRanges t c fuel va hi = regionRanges s c fuel va hi := by
  induction fuel with
  | zero => exact fun _ _ => rfl
  | succ fuel ih => intro va hi; simp only [Machine.regionRanges, peek_eq, h.walk, ih]

theorem Alike.boundLines {s t : State} (h : Alike s t) (p : Party) (obj : Word) : boundLines t p obj = boundLines s p obj := by
  simp only [Machine.boundLines, regionLines, h.thread, h.partyCtx, h.regionRanges]

theorem Alike.setThread {s t : State} (h : Alike s t) (p : Party) (x : Thread) : Alike (s.setThread p x) (t.setThread p x) :=
  h.blind (g := fun s => s.setThread p x) fun _ _ _ => rfl

theorem Alike.touch {s t : State} (h : Alike s t) (p : Party) (pa : Nat) : Alike (touch s p pa) (touch t p pa) := by
  unfold Machine.touch
  rw [h.thread]
  exact h.setThread ..

theorem blind_pushParts (dom : Nat) (task : BitVec 32) (w : Option Writer) (pa0 fuel : Nat) :
    ∀ a bs, Blind fun s => pushParts s dom task w pa0 fuel a bs := by
  induction fuel with
  | zero => exact fun _ _ => .id
  | succ fuel ih =>
    intro a bs
    cases bs with
    | nil => exact .id
    | cons b bs => exact .comp (ih _ _) fun _ _ _ => rfl

theorem Alike.pushHome {s t : State} (h : Alike s t) (dom : Nat) (task : BitVec 32) (pa : Nat) (bs : List Byte) (w : Option Writer) :
    Alike (pushHome s dom task pa bs w) (pushHome t dom task pa bs w) := h.blind (blind_pushParts _ _ _ _ _ _ _)

end Sys2Proof.Machine
end

section
/-! SUPPORT. Consistency forms (R104-R109, R174): what each body answers. -/

namespace Sys2Proof.Machine

open Sys2Proof

theorem homeFrame_applyHead (s : State) (h : Nat) : HomeFrame s (applyHead s h) := by
  unfold applyHead
  split
  · exact .refl s
  · exact (homeFrame_setHomeQ ..).trans (homeFrame_perform ..)
  · exact (homeFrame_setHomeQ ..).trans (homeFrame_perform ..)

theorem homeFrame_applyUntil (sel : HomeReq → Bool) (h n : Nat) (s : State) : HomeFrame s (applyUntil sel h n s) := by
  induction n generalizing s with
  | zero => exact .refl s
  | succ n ih => exact ((homeFrame_applyHead s h).trans (ih _)).ite (.refl s)

theorem homeFrame_flushRanges (s : State) (rs : List (Nat × Nat)) : HomeFrame s (flushRanges s rs) := by
  unfold flushRanges flushReqs
  exact .foldl (fun s c => homeFrame_applyUntil (HomeReq.meets rs) c.1 c.2.length s) s.homeQ s

theorem threadsStay_releaseRanges (s : State) (p : Party) (rs : List (Nat × Nat)) : ThreadsStay s (releaseRanges s p rs) :=
  (threadsStay_drainFor ..).trans (homeFrame_flushRanges ..).threadsStay

theorem homeFrame_accessTarget {s t : State} {p : Party} {acc : Access} {va : Word} {n : Nat} {tg : Target}
    (h : accessTarget s p acc va n = .ok (t, tg)) : HomeFrame s t := by
  unfold accessTarget at h
  split at h
  · cases h
  · next hx =>
    split_ifs at h
    cases h
    exact homeFrame_translate hx

theorem aligned_of_accessTarget {s t : State} {p : Party} {acc : Access} {va : Word} {n : Nat} {tg : Target}
    (h : accessTarget s p acc va n = .ok (t, tg)) : aligned va n = true := by
  unfold accessTarget at h
  split at h
  · cases h
  · split_ifs at h with ha
    exact Bool.not_eq_false _ ▸ ha

/-- An object in memory whose access has a target outside device memory. -/
theorem objectAt_mem {s u : State} {sc : Scope} {acc : Access} {A : Word} {n : Nat} {tg : Target} (hv : A.toNat < 2 ^ 63)
    (ht : accessTarget s s.focus acc A n = .ok (u, tg)) (hd : paKind u tg.pa ≠ .device) : objectAt s sc acc A n = .ok (u, .mem tg) := by
  have htag : isTagged A = false := by simpa [isTagged_eq] using hv
  simp [objectAt, htag, aligned_of_accessTarget ht, ht, hd]

theorem objectAt_misaligned {s : State} {A : Word} {n : Nat} (hv : A.toNat < 2 ^ 63) (ha : A.toNat % n ≠ 0) (sc : Scope) (acc : Access) :
    objectAt s sc acc A n = .error ⟨.align, A, none⟩ := by
  have htag : isTagged A = false := by simpa [isTagged_eq] using hv
  have hal : aligned A n = false := by simpa [aligned] using ha
  simp [objectAt, htag, hal, mkTrap]

/-- A scratch object that the scope and the party allow. -/
theorem objectAt_scratch {s : State} {sc : Scope} {A : Word} {n : Nat} {l : ScratchLoc} (hsc : sc = .tile ∨ sc = .panel)
    (hv : 2 ^ 63 ≤ A.toNat) (hcore : isCoreTag A = false) (hl : partyTagged s s.focus A n = some l) (ha : A.toNat % n = 0) (acc : Access) :
    objectAt s sc acc A n = .ok (s, .scratch l) := by
  have htag : isTagged A = true := by simpa [isTagged_eq] using hv
  have hal : aligned A n = true := by simpa [aligned] using ha
  rcases hsc with rfl | rfl <;> simp [objectAt, htag, hcore, hl, hal]

theorem exec_bind (a b c : Reg) (s : State) : exec (.bind a b c) s = issue (.bind a b c) s fun s =>
    if s.g b = 0#64 ∨ 2 ^ 36 < (s.g b).toNat ∨ 2 ^ 64 < (s.g a).toNat + (s.g b).toNat then trapOf .perm (s.g a)
    else if !aligned (s.g c) 8 then trapOf .align (s.g c)
    else if !objectOk s (s.g c) 8 then trapOf .perm (s.g c)
    else if 16 ≤ s.cur.bound.length then trapOf .perm (s.g a)
    else .ok (s.setCur { s.cur with bound := s.cur.bound ++ [⟨s.g a, s.g b, s.g c⟩] }) := rfl

theorem exec_unbind (c : Reg) (s : State) : exec (.unbind c) s = issue (.unbind c) s fun s =>
    .ok (s.setCur { s.cur with bound := s.cur.bound.filter fun e => e.object != s.g c }) := rfl

/-- What `acq` does with its object. -/
def acqObject (s : State) (a : Reg) (obj : Word) (n : Nat) (loc : ObjLoc) : Res :=
  let s := countFor (acquireDrop s obj) s.focus 39 1
  match loc with
  | .scratch l => .readOk s l n (.ok (s.setG a (extend (scratchBytes s s.focus l n) false)))
  | .mem tg => .bindX (homeRead s tg.dom tg.pa n) fun (s, bs) => .ok (s.setG a (extend bs false))

theorem exec_acq (sc : Scope) (sz : Size) (a b : Reg) (s : State) : exec (.acq sc sz a b) s = issue (.acq sc sz a b) s fun s =>
    .bindX (objectAt s sc .read (s.g b) sz.bytes) fun (u, loc) =>
      if objBarred u loc sz.bytes then .hold u else acqObject u a (s.g b) sz.bytes loc := rfl

/-- What `rel` does with its object once its regions' stitch is counted. -/
def relObject (s : State) (sc : Scope) (obj : Word) (bs : List Byte) (loc : ObjLoc) : Res :=
  match loc with
  | .scratch (.tile t off) =>
    let s := releaseData s sc true obj
    .ok (match partyPanel s.focus with
      | some x => s.modPanel x fun y => y.setTile t ((y.tile t).land off bs false)
      | none => s)
  | .scratch (.core c off) => .ok (landCore (releaseData s sc true obj) c off bs false)
  | .scratch (.gone _) => .ok s
  | .mem tg =>
    let s := releaseData s sc false obj
    match s.focus with
    | .core _ => .bindX (writeFor s s.focus tg bs) fun s => .ok s
    | p => .ok (touch (pushHome s tg.dom (partyTask s p) tg.pa bs (writerOf s p)) p tg.pa)

theorem exec_rel (sc : Scope) (sz : Size) (a b : Reg) (s : State) : exec (.rel sc sz a b) s = issue (.rel sc sz a b) s fun s =>
    .bindX (objectAt s sc .write (s.g b) sz.bytes) fun (u, loc) =>
      if objBarred u loc sz.bytes then .hold u
      else relObject (countFor (stitchBefore u) u.focus 40 1) sc (s.g b) (toBytes sz.bytes (s.g a).toNat) loc := rfl

theorem exec_fence (sc : Scope) (s : State) : exec (.fence sc) s = issue (.fence sc) s fun s =>
    let u := match s.focus with | .seq p _ => stitchPanel s p | _ => s
    .ok (countFor (fenceFor u u.focus sc) u.focus 42 1) := rfl

/-! ## The forms one by one -/

theorem bind_refused {a b c : Reg} {s : State} (hi : Issues (.bind a b c) s)
    (h : (s.g b).toNat = 0 ∨ 2 ^ 36 < (s.g b).toNat ∨ 2 ^ 64 < (s.g a).toNat + (s.g b).toNat) : Traps (.bind a b c) s .perm (s.g a) := by
  have hbad : s.g b = 0#64 ∨ 2 ^ 36 < (s.g b).toNat ∨ 2 ^ 64 < (s.g a).toNat + (s.g b).toNat :=
    h.imp_left fun h => BitVec.eq_of_toNat_eq h
  exact ends_trap hi.toMayIssue _ (exec_bind a b c s) (if_pos hbad)

/-- `bind` of a region that it may name goes on to the object's checks, then to the room of the table. -/
theorem bind_region {a b c : Reg} {s : State} (hi : Issues (.bind a b c) s) (h1 : 1 ≤ (s.g b).toNat) (h2 : (s.g b).toNat ≤ 2 ^ 36)
    (h3 : (s.g a).toNat + (s.g b).toNat ≤ 2 ^ 64) :
    ((s.g c).toNat % 8 ≠ 0 → Traps (.bind a b c) s .align (s.g c)) ∧
    ((s.g c).toNat % 8 = 0 → (s.g c).toNat < 2 ^ 63 →
      (16 ≤ s.cur.bound.length → Traps (.bind a b c) s .perm (s.g a)) ∧
      (s.cur.bound.length < 16 → RunsTo (.bind a b c) s (pastWord (.bind a b c)
        { s.cur with bound := s.cur.bound ++ [⟨s.g a, s.g b, s.g c⟩] }))) := by
  have hregion : ¬ (s.g b = 0#64 ∨ 2 ^ 36 < (s.g b).toNat ∨ 2 ^ 64 < (s.g a).toNat + (s.g b).toNat) := by
    rintro (h | h | h)
    · rw [h] at h1; exact absurd h1 (by decide)
    · omega
    · omega
  have htag (hv : (s.g c).toNat < 2 ^ 63) : isTagged (s.g c) = false := by simpa [isTagged_eq] using hv
  refine ⟨fun ha => ?_, fun ha hv => ⟨fun hfull => ?_, fun hroom => ?_⟩⟩
  · exact ends_trap hi.toMayIssue _ (exec_bind a b c s) (by rw [if_neg hregion, if_pos (by simpa [aligned] using ha)]; rfl)
  · have hal : (!aligned (s.g c) 8) = false := by simpa [aligned] using ha
    have hok : (!objectOk s (s.g c) 8) = false := by simp [objectOk, htag hv]
    exact ends_trap hi.toMayIssue _ (exec_bind a b c s) (by simp only [if_neg hregion, hal, hok, Bool.false_eq_true, if_false, if_pos hfull]; rfl)
  · have hal : (!aligned (s.g c) 8) = false := by simpa [aligned] using ha
    have hok : (!objectOk s (s.g c) 8) = false := by simp [objectOk, htag hv]
    have h := leaves_ok_elsewhere hi.toMayIssue _ (exec_bind a b c s)
      (by simp only [if_neg hregion, hal, hok, Bool.false_eq_true, if_false, if_neg (Nat.not_le.mpr hroom)]; rfl) (elsewhere_setCur ..)
      (by rw [cur_setCur]; exact hi.noTrip)
    rwa [cur_setCur] at h

theorem unbind_runs {c : Reg} {s : State} (hi : Issues (.unbind c) s) : RunsTo (.unbind c) s (pastWord (.unbind c)
    { s.cur with bound := s.cur.bound.filter fun e => e.object != s.g c }) := by
  have h := leaves_ok_elsewhere hi.toMayIssue _ (exec_unbind c s) rfl (elsewhere_setCur ..) (by rw [cur_setCur]; exact hi.noTrip)
  rwa [cur_setCur] at h

theorem acq_memory {sc : Scope} {sz : Size} {a b : Reg} {s u w : State} {tg : Target} {bs : List Byte} (hi : Issues (.acq sc sz a b) s)
    (hv : (s.g b).toNat < 2 ^ 63) (ht : accessTarget s s.focus .read (s.g b) sz.bytes = .ok (u, tg)) (hd : paKind u tg.pa ≠ .device)
    (hr : homeRead (countFor (acquireDrop u (s.g b)) s.focus 39 1) tg.dom tg.pa sz.bytes = .ok (w, bs)) :
    Leaves (.acq sc sz a b) s w (pastWord (.acq sc sz a b) (s.cur.put a (BitVec.ofNat 64 (ofBytes bs)))) := by
  have hframe := homeFrame_accessTarget ht
  have hcur : w.cur = s.cur := by rw [(homeFrame_homeRead hr).cur, cur_countFor, (acquireDrop_cur ..).2, hframe.cur]
  rw [← hcur]
  refine leaves_setG hi.toMayIssue _ (exec_acq ..) ?_ (by rw [hcur]; exact hi.noTrip)
  simp only [objectAt_mem hv ht hd, Res.bindX, objBarred, Bool.false_eq_true, if_false, acqObject, hframe.focus, hr, extend_false]

/-- Both forms check their object alike. -/
theorem object_checked {sc : Scope} {sz : Size} {a b : Reg} {s : State} {i : Instr} (hf : i = .acq sc sz a b ∨ i = .rel sc sz a b) :
    ∃ acc, ∃ f : State → State → ObjLoc → Res, exec i s = issue i s fun s => .bindX (objectAt s sc acc (s.g b) sz.bytes) fun (u, loc) =>
      if objBarred u loc sz.bytes then .hold u else f s u loc := by
  rcases hf with rfl | rfl
  · exact ⟨.read, fun s u loc => acqObject u a (s.g b) sz.bytes loc, rfl⟩
  · exact ⟨.write, fun s u loc => relObject (countFor (stitchBefore u) u.focus 40 1) sc (s.g b) (toBytes sz.bytes (s.g a).toNat) loc, rfl⟩

theorem object_misaligned {sc : Scope} {sz : Size} {a b : Reg} {s : State} {i : Instr} (hf : i = .acq sc sz a b ∨ i = .rel sc sz a b)
    (hi : Issues i s) (hv : (s.g b).toNat < 2 ^ 63) (ha : (s.g b).toNat % sz.bytes ≠ 0) : Traps i s .align (s.g b) := by
  obtain ⟨acc, f, he⟩ := object_checked (s := s) hf
  exact ends_trap hi.toMayIssue _ he (by simp only [objectAt_misaligned hv ha, Res.bindX])

theorem object_waits {sc : Scope} {sz : Size} {a b : Reg} {s : State} {i : Instr} {l : ScratchLoc}
    (hf : i = .acq sc sz a b ∨ i = .rel sc sz a b) (hi : Issues i s) (hsc : sc = .tile ∨ sc = .panel) (hv : 2 ^ 63 ≤ (s.g b).toNat)
    (hcore : isCoreTag (s.g b) = false) (hl : partyTagged s s.focus (s.g b) sz.bytes = some l) (ha : (s.g b).toNat % sz.bytes = 0)
    (hr : bankReserved s s.focus l sz.bytes = true) : exec i s = .next s := by
  obtain ⟨acc, f, he⟩ := object_checked (s := s) hf
  exact exec_hold hi.toMayIssue _ he (by simp only [objectAt_scratch hsc hv hcore hl ha, Res.bindX, objBarred, hr, if_true])

theorem Alike.core {s t : State} (h : Alike s t) (c : Nat) : t.core? c = { s.core? c with counters := (t.core? c).counters } := by
  have hset : t.core? c = { uncountedCore (t.core? c) with counters := (t.core? c).counters } := rfl
  rw [h.cores c] at hset
  exact hset

/-- A service core's write in states that differ in counters alone. -/
theorem Alike.writeCore {s t w : State} {n : Nat} {tg : Target} {bs : List Byte} (h : Alike s t) (hw : writeFor s (.core n) tg bs = .ok w) :
    ∃ v, writeFor t (.core n) tg bs = .ok v ∧ Alike w v := by
  cases hw
  have hset : Alike (s.setCore (n / 2) { s.core? (n / 2) with l1 := refresh (s.core? (n / 2)).l1 (cellsAt tg.pa bs) })
      (t.setCore (n / 2) { t.core? (n / 2) with l1 := refresh (t.core? (n / 2)).l1 (cellsAt tg.pa bs) }) :=
    h.setCore _ (by rw [h.core]; rfl)
  refine ⟨_, rfl, Alike.touch ?_ _ _⟩
  have htask := hset.partyTask (.core n)
  rw [htask]
  exact hset.pushHome ..

/-- The running thread after the lines that it has written are noted anew. -/
theorem cur_setTouched {s t : State} (h : ThreadsStay s t) (ls : List Nat) :
    (t.setThread s.focus { t.thread s.focus with touched := ls }).cur = { s.cur with touched := ls } := by
  rw [← h.focus]
  show ((t.setThread t.focus { t.cur with touched := ls }).thread t.focus) = _
  rw [thread_setThread, h.cur]

theorem cur_writeCore {s w : State} {n : Nat} {tg : Target} {bs : List Byte} (hfocus : s.focus = .core n)
    (hw : writeFor s s.focus tg bs = .ok w) : ∃ ls, w.cur = { s.cur with touched := ls } := by
  rw [hfocus] at hw
  cases hw
  rw [touch, ← hfocus]
  exact ⟨_, cur_setTouched ((homeFrame_setCore ..).trans (homeFrame_pushHome ..)).threadsStay _⟩

/-- The regions of a release in a state where the release is counted. -/
theorem Alike.release {s t : State} (h : Alike s t) (p : Party) (obj : Word) :
    Alike (Machine.releaseRanges s p (Machine.boundLines s p obj)) (Machine.releaseRanges t p (Machine.boundLines t p obj)) := by
  rw [h.boundLines]
  exact h.releaseRanges ..

theorem releaseData_mem (s : State) (sc : Scope) (obj : Word) :
    releaseData s sc false obj = releaseRanges s s.focus (boundLines s s.focus obj) := by simp [releaseData]

theorem relObject_core {s w : State} {sc : Scope} {obj : Word} {bs : List Byte} {tg : Target} {n : Nat} (hfocus : s.focus = .core n)
    (hw : writeFor (releaseRanges s (.core n) (boundLines s (.core n) obj)) (.core n) tg bs = .ok w) : relObject s sc obj bs (.mem tg) = .ok w := by
  have hrfocus := (threadsStay_releaseRanges s (.core n) (boundLines s (.core n) obj)).focus.trans hfocus
  simp only [relObject, releaseData_mem, hfocus, hrfocus, hw, Res.bindX]

/-- The bytes of an object of a sequencer enter the home queues, its line noted. -/
def objectPushed (s : State) (p : Party) (tg : Target) (bs : List Byte) : State :=
  touch (pushHome s tg.dom (partyTask s p) tg.pa bs (writerOf s p)) p tg.pa

theorem Alike.objectPushed {s t : State} (h : Alike s t) (p : Party) (tg : Target) (bs : List Byte) :
    Alike (objectPushed s p tg bs) (objectPushed t p tg bs) := by
  unfold Machine.objectPushed
  rw [h.partyTask, h.writerOf]
  exact (h.pushHome ..).touch ..

theorem relObject_seq {s : State} {sc : Scope} {obj : Word} {bs : List Byte} {tg : Target} {p k : Nat} (hfocus : s.focus = .seq p k) :
    relObject s sc obj bs (.mem tg) = .ok (objectPushed (releaseRanges s s.focus (boundLines s s.focus obj)) s.focus tg bs) := by
  have hrfocus := (threadsStay_releaseRanges s (.seq p k) (boundLines s (.seq p k) obj)).focus.trans hfocus
  simp only [relObject, releaseData_mem, hfocus, hrfocus, objectPushed]

theorem rel_core {sc : Scope} {sz : Size} {a b : Reg} {s u w : State} {tg : Target} {n : Nat} (hi : Issues (.rel sc sz a b) s)
    (hfocus : s.focus = .core n) (hv : (s.g b).toNat < 2 ^ 63) (ht : accessTarget s s.focus .write (s.g b) sz.bytes = .ok (u, tg))
    (hd : paKind u tg.pa ≠ .device)
    (hw : writeFor (releaseRanges u s.focus (boundLines u s.focus (s.g b))) s.focus tg (toBytes sz.bytes (s.g a).toNat) = .ok w) :
    Leaves (.rel sc sz a b) s w (pastWord (.rel sc sz a b) w.cur) := by
  have hframe := homeFrame_accessTarget ht
  have hufocus : u.focus = .core n := hframe.focus.trans hfocus
  have hcount := alike_countFor u (.core n) 40 1
  have hstay := threadsStay_releaseRanges u (.core n) (boundLines u (.core n) (s.g b))
  rw [hfocus] at hw
  obtain ⟨v, hwv, hlike⟩ := (hcount.release (.core n) (s.g b)).writeCore hw
  obtain ⟨ls, hcur⟩ := cur_writeCore (hstay.focus.trans hufocus) (by rw [hstay.focus.trans hufocus]; exact hw)
  have hvcur : v.cur = w.cur := hlike.cur
  rw [← hvcur]
  refine leaves_ok_elsewhere hi.toMayIssue _ (exec_rel ..) ?_ hlike.elsewhere ?_
  · have hstitch : stitchBefore u = u := by simp [stitchBefore, hufocus]
    simp only [objectAt_mem hv ht hd, Res.bindX, objBarred, Bool.false_eq_true, if_false, hstitch, hufocus]
    exact relObject_core hufocus hwv
  · rw [hvcur, hcur, hstay.cur, hframe.cur]
    exact hi.noTrip

theorem rel_seq {sc : Scope} {sz : Size} {a b : Reg} {s u : State} {tg : Target} {p k : Nat} (hi : Issues (.rel sc sz a b) s)
    (hfocus : s.focus = .seq p k) (hv : (s.g b).toNat < 2 ^ 63) (ht : accessTarget s s.focus .write (s.g b) sz.bytes = .ok (u, tg))
    (hd : paKind u tg.pa ≠ .device) {v : State}
    (hw : v = objectPushed (releaseRanges (stitchPanel u p) s.focus (boundLines (stitchPanel u p) s.focus (s.g b))) s.focus tg
      (toBytes sz.bytes (s.g a).toNat)) (hn : NoTrip (.rel sc sz a b) v.cur) :
    Leaves (.rel sc sz a b) s v (pastWord (.rel sc sz a b) v.cur) := by
  have hufocus := (homeFrame_accessTarget ht).focus
  have hcount := alike_countFor (stitchPanel u p) s.focus 40 1
  have hcfocus : (countFor (stitchPanel u p) s.focus 40 1).focus = s.focus :=
    hcount.focus.trans ((stitchFrame_stitchPanel u p).focus.trans hufocus)
  have hlike := (hcount.release s.focus (s.g b)).objectPushed s.focus tg (toBytes sz.bytes (s.g a).toNat)
  rw [← hw] at hlike
  rw [← hlike.cur] at hn ⊢
  refine leaves_ok_elsewhere hi.toMayIssue _ (exec_rel ..) ?_ hlike.elsewhere hn
  have hstitch : stitchBefore u = stitchPanel u p := by simp [stitchBefore, hufocus, hfocus]
  have hrel := relObject_seq (sc := sc) (obj := s.g b) (bs := toBytes sz.bytes (s.g a).toNat) (tg := tg) (hcfocus.trans hfocus)
  rw [hcfocus] at hrel
  simp only [objectAt_mem hv ht hd, Res.bindX, objBarred, Bool.false_eq_true, if_false, hstitch, hufocus, hrel]

/-- A fence leaves the running thread but for the lines that it has written. -/
theorem cur_fenceFor (s : State) (sc : Scope) : ∃ ls, (fenceFor s s.focus sc).cur = { s.cur with touched := ls } := by
  unfold fenceFor
  dsimp only
  split
  · exact ⟨s.cur.touched, rfl⟩
  · refine ⟨[], ?_⟩
    rw [(threadsStay_dropCleanFor ..).cur]
    exact cur_setTouched ((threadsStay_drainFor ..).trans (homeFrame_flushRanges ..).threadsStay) []

theorem fence_core {sc : Scope} {s : State} {n : Nat} (hi : Issues (.fence sc) s) (hfocus : s.focus = .core n) :
    Leaves (.fence sc) s (fenceFor s s.focus sc) (pastWord (.fence sc) (fenceFor s s.focus sc).cur) := by
  obtain ⟨ls, hcur⟩ := cur_fenceFor s sc
  have h := leaves_ok_elsewhere (u := fenceFor s s.focus sc) hi.toMayIssue _ (exec_fence ..) (by simp only [hfocus])
    (elsewhere_countFor _ s.focus 42 1) (by rw [cur_countFor, hcur]; exact hi.noTrip)
  rwa [cur_countFor] at h

theorem fence_seq {sc : Scope} {s : State} {p k : Nat} (hi : Issues (.fence sc) s) (hfocus : s.focus = .seq p k)
    (hn : NoTrip (.fence sc) (fenceFor (stitchPanel s p) s.focus sc).cur) :
    Leaves (.fence sc) s (fenceFor (stitchPanel s p) s.focus sc) (pastWord (.fence sc) (fenceFor (stitchPanel s p) s.focus sc).cur) := by
  have hsfocus : (stitchPanel s p).focus = s.focus := (stitchFrame_stitchPanel s p).focus
  have h := leaves_ok_elsewhere (u := fenceFor (stitchPanel s p) s.focus sc) hi.toMayIssue _ (exec_fence ..)
    (by simp only [hfocus, hsfocus]) (elsewhere_countFor _ s.focus 42 1) (by rw [cur_countFor]; exact hn)
  rwa [cur_countFor] at h

end Sys2Proof.Machine
end

section
namespace Sys2Proof

open Machine

/-- Settles O25: each form through what its body answers; the count of a release or a fence changes counters alone, wherever it stands among
the steps of the body. -/
theorem consistencyFormsComplete : Obligations.ConsistencyFormsComplete := by
  refine ⟨fun a b c s hi => ⟨bind_refused hi, bind_region hi⟩, fun c s hi => unbind_runs hi,
    fun sc sz a b s u w tg bs hi hv ht hd hr => acq_memory hi hv ht hd hr, fun sc sz a b s i hf hi => ⟨object_misaligned hf hi, ?_⟩,
    fun sc sz a b s u tg n hi hfocus hv ht hd w hw => rel_core hi hfocus hv ht hd hw,
    fun sc sz a b s u tg p k hi hfocus hv ht hd => ?_, fun sc s n hi hfocus => fence_core hi hfocus,
    fun sc s p k hi hfocus hn => fence_seq hi hfocus hn⟩
  · exact fun l hsc hv hcore hl ha hr => object_waits hf hi hsc hv hcore hl ha hr
  · intro w v hn
    exact rel_seq hi hfocus hv ht hd rfl hn

end Sys2Proof
end

section
/-! SUPPORT. An arrival whose write makes a fitting run capture its page (R202), into a buffer that begins within that page. -/

namespace Sys2Proof.Machine

open Sys2Proof

/-- A task in pass 0 of a fitting run whose buffer begins in the second sector of the page at 0x40000. -/
def offsetFitting : TaskEntry where
  gen := 0
  ctx := 0
  record := ⟨0, 0, 0, 0, 1, 1, 1, false, false, [], 0, 0, []⟩
  state := .running
  deps := []
  ndeps := 0
  submitPriv := .user
  inReplay := false
  age := 0
  bypass := 0
  admitted := false
  panels := []
  frames := []
  thread := none
  retries := []
  fit := some ⟨1, 0x40020#64, 1, [], 0, [0x40020], [], [], false, [], [], []⟩
  frozen := none
  deferred := false
  wantFreeze := false
  saveSlot := 0
  gbarArrived := []
  gbarMerge := false

/-- A thread of that task at a barrier word of two arrivals at 0x40020, the first sector of its page poisoned. -/
def captureState : State :=
  { State.reset with
    focus := .core 0
    threads := [(.core 0, ({ Thread.clear with priv := .machine, status := .running, task := 1 }.put 5 0x40020#64).put 6 1#64)]
    contexts := [(0, { Context.clear with ptroot := 1 })]
    tasks := [(1, offsetFitting)]
    mem := [(0x40022, 2#8)]
    poison := [0x2000]
    tlb := [⟨512, 0, 0x40000, 3, 0x4033F#64⟩] }

/-- What the home of the word answers after the release. -/
def captureRead : Except Trap (State × List Byte) := homeRead (barRelease captureState 5) 0 0x40020 8

end Sys2Proof.Machine
end

section
namespace Sys2Proof

open Machine

/-- Refutes O26: the clause of an arrival that waits leaves out what the arrival's own write brings about. In `captureState` it makes the task's
fitting run capture the page of the word, whose buffer begins 32 bytes on: the poison of the sector before the word is copied to the word's own,
and the test after the arrival reads poison, E.ECC (R202, R327), where the clause has the thread wait. -/
theorem not_barrierAndTimeForms : ¬ Obligations.BarrierAndTimeForms := by
  rintro ⟨hbar, -, -⟩
  have hissues : Issues (.bar .dev 4 5 6) captureState := ⟨⟨rfl, fun h => absurd h (by decide), rfl⟩, by unfold NoTrip; decide⟩
  have htarget : translate captureState (partyReq captureState captureState.focus .amo) (captureState.g 5) =
      .ok (captureState, targetOf 0x4033F#64 3 0x40020) := by rfl
  have hread : (match captureRead with
      | .ok (h, bs) => wordOf bs == 0x20000#64 && Memory.wf h.mem && h.cur.status == .running
      | .error _ => false) = true := by decide +kernel
  have hstops : (match exec (.bar .dev 4 5 6) captureState with | .next t => t.cur.status == .stopped | _ => false) = true := by decide +kernel
  cases hr : captureRead with
  | error t => rw [hr] at hread; cases hread
  | ok q =>
    obtain ⟨h, bs⟩ := q
    rw [hr] at hread
    simp only [Bool.and_eq_true, beq_iff_eq] at hread
    obtain ⟨⟨hword, hwf⟩, hrun⟩ := hread
    have hwaits := (hbar .dev 4 5 6 captureState captureState h _ bs hissues (by decide) (by decide) htarget (by decide +kernel)
      (by decide +kernel) hr).2.2
    rw [hword] at hwaits
    obtain ⟨t, hexec, -, hcur⟩ := (hwaits (by decide) (by decide) (by decide) hwf).1 (by decide)
    rw [hexec] at hstops
    have hstatus := congrArg Thread.status hcur
    simp only [unmarked, (homeFrame_writeHomeNow _ _ _ _ _ _).cur] at hstatus
    have hstopped : t.cur.status = .stopped := by simpa using hstops
    rw [hstopped, hrun] at hstatus
    cases hstatus

end Sys2Proof
end

section
/-! SUPPORT. Copies of an aperture (R113, R159, R180, R181): a store to a channel case by case, the status of one. -/

namespace Sys2Proof.Machine

open Sys2Proof

theorem bitsOf_eq (w : Word) (lo len : Nat) : bitsOf w lo len = w.toNat / 2 ^ lo % 2 ^ len := by
  rw [bitsOf, BitVec.extractLsb'_toNat, Nat.shiftRight_eq_div_pow]

/-- The high 48 bits of a word. -/
theorem bitsOf_16_48 (w : Word) : bitsOf w 16 48 = w.toNat / 2 ^ 16 := by
  have h := w.isLt
  rw [bitsOf_eq, Nat.mod_eq_of_lt (by omega)]

/-- An address of a copy is allowed: it is not scratch-tagged, or names a location (R159). -/
def copyAllows (s : State) (c : Copy) (a : Word) (n : Nat) : Bool :=
  !isTagged a || (copyScratch s (partyCtx s s.focus) s.focus c.uid a n).isSome

/-- R159 refuses an address of a copy: first its source, or its destination where that is no peer's; then its completion word. -/
def copyRefusedB (s : State) (c : Copy) : Bool :=
  !(copyAllows s c c.src c.length && (c.peer != 0 || copyAllows s c c.dst c.length)) || (c.cw && !copyAllows s c c.cwaddr 8)

theorem copyRefused_iff (s : State) (c : Copy) : copyRefused s c ↔ copyRefusedB s c = true := by
  simp [copyRefused, copyRefusedB, copyAllows, isTagged, or_assoc]

/-- A store to a channel that traps E.ENGINE by its template. -/
theorem apertureStore_noTemplate {s : State} {p : Party} {word va data : Word} (n : Nat)
    (h : data.toNat / 2 ^ 8 % 2 ^ 8 ≠ 0 ∨ FMap.get? (s.ctxt (partyCtx s p)).templates (data.toNat % 2 ^ 8) = none) :
    apertureStore s p word va n data = .error ⟨.engine, word, none⟩ := by
  unfold apertureStore
  rw [bitsOf_eq, bitsOf_eq, Nat.pow_zero, Nat.div_one]
  split_ifs with h8
  · rfl
  · dsimp only
    rw [h.resolve_left h8]
    rfl

/-- What a copy that is accepted leaves of a channel's state: its pin bits cleared where it writes scratch (R113). -/
def copyStarted (s : State) (p : Party) (n : Nat) (cmd : Copy) : State :=
  let c := partyCtx s p
  let w := countFor (setChan s c n { chanOf s c n with queue := (chanOf s c n).queue ++ [cmd] }) p 60 1
  if cmd.peer = 0 ∧ isTagged cmd.dst then
    match copyScratch w c p cmd.uid cmd.dst cmd.length with
    | some l => setPins w p l cmd.length false
    | none => w
  else w

/-- A store to a channel whose template is loaded: its checks in their order, then the copy. -/
theorem apertureStore_template {s : State} {word va data : Word} {t : Template} (n : Nat) (h8 : data.toNat / 2 ^ 8 % 2 ^ 8 = 0)
    (ht : FMap.get? (s.ctxt (partyCtx s s.focus)).templates (data.toNat % 2 ^ 8) = some t) :
    let cmd := copyAccepted s t (BitVec.ofNat 64 (data.toNat / 2 ^ 16))
    apertureStore s s.focus word va n data =
      if 16 ≤ (chanOf s (partyCtx s s.focus) n).queue.length then .error ⟨.engine, word, none⟩
      else if copyRefusedB s cmd then .error ⟨.perm, va, none⟩
      else if rangesOverlap cmd.peer cmd.src cmd.dst cmd.length then .error ⟨.engine, word, none⟩
      else .ok (copyStarted s s.focus n cmd) := by
  intro cmd
  unfold apertureStore
  rw [bitsOf_eq, bitsOf_eq, Nat.pow_zero, Nat.div_one, h8, bitsOf_16_48]
  dsimp only
  rw [ht, if_neg (by decide)]
  dsimp only
  split
  · rfl
  · have hrefused : copyRefusedB s cmd = (!(copyAllows s cmd cmd.src t.length && (t.peer != 0 || copyAllows s cmd cmd.dst t.length)) ||
        (t.cw && !copyAllows s cmd t.cwaddr 8)) := rfl
    rw [hrefused]
    have hperm (A B : Bool) (x y : Except Trap State) :
        (if !A then x else if t.cw ∧ !B then x else y) = if (!A || (t.cw && !B)) = true then x else y := by
      cases A <;> cases B <;> cases t.cw <;> rfl
    exact hperm _ _ _ _

theorem Alike.copyScratch {s t : State} (h : Alike s t) (c : Nat) (p : Party) (uid : Nat) (a : Word) (n : Nat) :
    copyScratch t c p uid a n = copyScratch s c p uid a n := by
  have hmap : (t.ctxt c).scmap = (s.ctxt c).scmap := h.val (v := fun s => (s.ctxt c).scmap) fun _ _ _ => rfl
  have huid : partyUid t p = partyUid s p := by
    unfold partyUid
    cases hp : partyPanel p with
    | none => rfl
    | some q => simpa using congrArg (·.getD 0) (h.panelVal (·.uid) (fun _ => rfl) q)
  have htag (x : Nat → Bool) : taggedLoc ((partyPanel p).bind t.panel?) x a n = taggedLoc ((partyPanel p).bind s.panel?) x a n := by
    cases hp : partyPanel p with
    | none => rfl
    | some q =>
      cases hs : s.panel? q with
      | none => rw [Option.bind_some, Option.bind_some, h.panel_none hs, hs]
      | some y =>
        obtain ⟨_, _, ht⟩ := h.panel_some hs
        rw [Option.bind_some, Option.bind_some, ht, hs]
        rfl
  simp only [Machine.copyScratch, issuerLoc, hmap, huid, htag]

/-- The channels of a context have no part in where its copies' addresses lie. -/
theorem copyScratch_setChan (s : State) (c k : Nat) (ch : Channel) (p : Party) (uid : Nat) (a : Word) (n : Nat) :
    copyScratch (setChan s c k ch) c p uid a n = copyScratch s c p uid a n := by
  have hmap : ((setChan s c k ch).ctxt c).scmap = (s.ctxt c).scmap := by simp [setChan]
  unfold copyScratch
  rw [hmap]
  rfl

theorem Alike.modPanel {s t : State} (h : Alike s t) (p : Nat) {f : Panel → Panel} (hf : ∀ x c sh,
    uncounted (f { x with counters := c, shadow := sh }) = uncounted (f x)) : Alike (s.modPanel p f) (t.modPanel p f) := by
  cases hs : s.panel? p with
  | none => rwa [modPanel_none hs, modPanel_none (h.panel_none hs)]
  | some x =>
    obtain ⟨c, sh, ht⟩ := h.panel_some hs
    rw [modPanel_some hs, modPanel_some ht]
    exact h.setPanel p (hf x c sh)

theorem Alike.setPins {s t : State} (h : Alike s t) (p : Party) (l : ScratchLoc) (n : Nat) (v : Bool) :
    Alike (setPins s p l n v) (setPins t p l n v) := by
  unfold Machine.setPins
  cases l with
  | gone off => exact h
  | core c off => exact h.setCore c (by rw [h.core]; rfl)
  | tile y off =>
    dsimp only
    split
    · exact h.modPanel _ fun _ _ _ => rfl
    · exact h

/-- A channel of the party's context with a copy more. -/
def copyQueued (s : State) (p : Party) (n : Nat) (cmd : Copy) : State :=
  setChan s (partyCtx s p) n { chanOf s (partyCtx s p) n with queue := (chanOf s (partyCtx s p) n).queue ++ [cmd] }

theorem copyStarted_memory {s : State} {p : Party} {n : Nat} {cmd : Copy} (h : cmd.peer ≠ 0 ∨ cmd.dst.getLsbD 63 = false) :
    Alike (copyQueued s p n cmd) (copyStarted s p n cmd) := by
  have hnot : ¬ (cmd.peer = 0 ∧ isTagged cmd.dst = true) := by
    rw [isTagged]
    rintro ⟨hp, ht⟩
    rcases h with h | h
    · exact h hp
    · rw [h] at ht; cases ht
  rw [copyStarted]
  dsimp only
  rw [if_neg hnot]
  exact alike_countFor ..

theorem copyStarted_scratch {s : State} {p : Party} {n : Nat} {cmd : Copy} {l : ScratchLoc} (hp : cmd.peer = 0)
    (ht : cmd.dst.getLsbD 63 = true) (hl : copyScratch s (partyCtx s p) p cmd.uid cmd.dst cmd.length = some l) :
    Alike (setPins (copyQueued s p n cmd) p l cmd.length false) (copyStarted s p n cmd) := by
  have hcount := alike_countFor (copyQueued s p n cmd) p 60 1
  have hloc : copyScratch (countFor (copyQueued s p n cmd) p 60 1) (partyCtx s p) p cmd.uid cmd.dst cmd.length = some l := by
    rw [hcount.copyScratch, copyQueued, copyScratch_setChan, hl]
  rw [copyStarted]
  dsimp only
  rw [if_pos ⟨hp, ht⟩]
  rw [copyQueued] at hloc
  rw [hloc]
  exact hcount.setPins ..

/-! ## The forms -/

theorem device_of {s : State} {acc : Access} {pa : Nat} (h : paKind s pa = .device) : accessFails s acc pa = false := by
  simp [accessFails, hostFails, h]

theorem accessTarget_device {s u : State} {p : Party} {acc : Access} {va : Word} {n : Nat} {tg : Target}
    (ht : translate s (partyReq s p acc) va = .ok (u, tg)) (ha : va.toNat % n = 0) (hk : paKind u tg.pa = .device) :
    accessTarget s p acc va n = .ok (u, tg) := by
  have hal : aligned va n = true := by simpa [aligned] using ha
  simp only [accessTarget, ht, hal, device_of hk, Bool.true_eq_false, Bool.false_eq_true, if_false]

theorem StitchFrame.partyCtx {s t : State} (h : StitchFrame s t) (p : Party) : partyCtx t p = partyCtx s p := by
  unfold Machine.partyCtx
  split
  · next q _ =>
    cases hs : s.panel? q with
    | none =>
      have hq := h.panels q
      rw [hs] at hq
      cases ht : t.panel? q with
      | none => rfl
      | some y => rw [ht] at hq; cases hq
    | some x =>
      obtain ⟨y, ht, hxy⟩ := h.panel hs
      rw [ht, Option.map_some, Option.map_some, hxy.ctx]
  · rw [h.threads]

/-- A store to the party's own aperture is the store to the channel, after a stitch (R180). -/
theorem storeAt_aperture {s u : State} {A word v : Word} {tg : Target} {n : Nat}
    (ht : translate s (partyReq s s.focus .write) A = .ok (u, tg)) (ha : A.toNat % 8 = 0) (hk : paKind u tg.pa = .device)
    (hpage : pageOf tg.pa = none) (hap : apertureOf tg.pa = some (partyCtx s s.focus, 8 * n)) (hn : n < 64) :
    storeAt s word A 8 v = .bindX (apertureStore (stitchBefore u) (stitchBefore u).focus word A n v) fun s => .ok s := by
  have hframe := (homeFrame_translate ht).stitch.trans (stitchFrame_stitchBefore u)
  have hfocus : (stitchBefore u).focus = u.focus := (stitchFrame_stitchBefore u).focus
  have hctx : partyCtx s s.focus = partyCtx (stitchBefore u) u.focus := by rw [← hfocus, hframe.focus, hframe.partyCtx]
  have hoff : 8 * n < 512 := by omega
  have hdiv : 8 * n / 8 = n := by omega
  simp only [storeAt, accessTarget_device ht ha hk, Res.bindX, hk, if_true, hap, Option.isSome_some, deviceStore, hpage, hctx, hoff, hdiv,
    and_self, hfocus]
  cases apertureStore (stitchBefore u) u.focus word A n v <;> rfl

/-- Both forms of an aperture store do the same, as a form that stitches. -/
theorem exec_aperture {d a : Reg} {off : BitVec 14} {s u : State} {tg : Target} {i : Instr} (hi : Issues (.st .d d a off) s)
    (ht : translate s (partyReq s s.focus .write) (ruleAddr s a off 8) = .ok (u, tg)) (hap : (apertureOf tg.pa).isSome = true)
    (hw : stitchWaits (.apertureStore d a off) s = false) (hf : i = .st .d d a off ∨ i = .apertureStore d a off) :
    exec i s = finishRes (.apertureStore d a off) s (storeAt s (wordVal (.st .d d a off)) (ruleAddr s a off 8) 8 (s.g d)) := by
  have hcheck := issueCheck_none hi.form hi.priv
  have hland : landsInAperture s (ruleAddr s a off 8) = true := by simp only [landsInAperture, ht, hap]
  rcases hf with rfl | rfl
  · simp only [exec, execSt, hcheck, Size.bytes, memAddr_eq_ruleAddr, hland, if_true, hw, Bool.false_eq_true, if_false]
  · simp only [exec, execApertureStore, hcheck, memAddr_eq_ruleAddr, hland, if_true, hw, Bool.false_eq_true, if_false]

/-- An aperture store whose body answers a state leaves what differs from it in counters alone. -/
theorem aperture_leaves {d a : Reg} {off : BitVec 14} {s v w t : State} {i : Instr} {p : Party} {word A data : Word} {n : Nat}
    (hexec : exec i s = finishRes (.apertureStore d a off) s (.bindX (apertureStore v p word A n data) fun s => .ok s))
    (hok : apertureStore v p word A n data = .ok t) (hlike : Alike w t) (hcur : w.cur = v.cur) (hn : NoTrip (.st .d d a off) v.cur) :
    Leaves i s w (pastWord (.st .d d a off) v.cur) := by
  rw [hok] at hexec
  have htcur : t.cur = v.cur := hlike.cur.trans hcur
  obtain ⟨x, h1, h2, h3⟩ := finish_ok (.apertureStore d a off) s t (by rw [htcur]; exact hn)
  exact ⟨x, hexec.trans h1, elsewhere_trans hlike.elsewhere h2, by rw [h3, htcur]; rfl⟩

theorem cur_setPins (s : State) (p : Party) (l : ScratchLoc) (n : Nat) (v : Bool) : (setPins s p l n v).cur = s.cur := by
  unfold setPins
  cases l with
  | gone off => rfl
  | core c off => rfl
  | tile y off =>
    dsimp only
    split
    · exact (threadsStay_modPanel ..).cur
    · rfl

/-- The status of a channel, as a word (R181). -/
theorem status_eq (ch : Channel) : BitVec.ofNat 64 (ch.fault.toNat * 256 + ch.queue.length) =
    BitVec.ofNat 64 ((if ch.fault then 256 else 0) + ch.queue.length) := by
  cases ch.fault <;> rfl

theorem ofBytes_toBytes (n : Nat) : ∀ v, ofBytes (toBytes n v) = v % 2 ^ (8 * n) := by
  induction n with
  | zero => intro v; rw [Nat.mul_zero, Nat.pow_zero, Nat.mod_one]; rfl
  | succ n ih =>
    intro v
    rw [toBytes, ofBytes, ih, Nat.mul_succ, Nat.pow_add, Nat.mul_comm (2 ^ (8 * n)), Nat.mod_mul, BitVec.toNat_ofNat]

theorem extend_word (v : Word) : extend (toBytes 8 v.toNat) true = v := by
  have hval : BitVec.ofNat 64 (ofBytes (toBytes 8 v.toNat)) = v := by
    rw [ofBytes_toBytes, Nat.mod_eq_of_lt v.isLt, BitVec.ofNat_toNat, BitVec.setWidth_eq]
  unfold extend
  rw [length_toBytes]
  generalize ofBytes (toBytes 8 v.toNat) = x at hval
  dsimp only
  split
  · simpa using hval
  · exact hval

/-- A load of a channel's status answers it, the fault bit then clear (R181). -/
theorem deviceLoad_channel {s : State} {A : Word} {tg : Target} {n : Nat} (hpage : pageOf tg.pa = none)
    (hap : apertureOf tg.pa = some (partyCtx s s.focus, 8 * n)) (hn : n < 64) :
    deviceLoad s s.focus A tg.pa 8 = .inl (.ok (copyStatus s (partyCtx s s.focus) n)) := by
  have hoff : 8 * n < 512 := by omega
  have hdiv : 8 * n / 8 = n := by omega
  simp only [deviceLoad, hpage, hap, hoff, hdiv, and_self, if_true]

/-- Both forms of a status load answer the status into g[d]. -/
theorem statusLoad_leaves {d a : Reg} {off : BitVec 14} {s u : State} {tg : Target} {n : Nat} {i : Instr} (hi : Issues (.ld .d d a off) s)
    (ht : translate s (partyReq s s.focus .read) (ruleAddr s a off 8) = .ok (u, tg)) (ha : (ruleAddr s a off 8).toNat % 8 = 0)
    (hk : paKind u tg.pa = .device) (hpage : pageOf tg.pa = none) (hap : apertureOf tg.pa = some (partyCtx s s.focus, 8 * n)) (hn : n < 64)
    (hf : i = .ld .d d a off ∨ i = .copyStatusLoad d a off) :
    exec i s = finishRes (.ld .d d a off) s
      (.ok ((copyStatus u (partyCtx s s.focus) n).1.setG d (copyStatus u (partyCtx s s.focus) n).2)) := by
  have hframe := homeFrame_translate ht
  have hctx : partyCtx u u.focus = partyCtx s s.focus := by rw [hframe.focus, hframe.stitch.partyCtx]
  have hload : deviceLoad u u.focus (ruleAddr s a off 8) tg.pa 8 = _ := deviceLoad_channel hpage (by rw [hctx]; exact hap) hn
  rw [hctx] at hload
  have htarget := accessTarget_device ht ha hk
  rcases hf with rfl | rfl
  · have hexec : exec (.ld .d d a off) s = issue (.ld .d d a off) s fun s => loadInto s d (memAddr s a off 8) 8 true := rfl
    rw [hexec, issue_eq hi.toMayIssue]
    simp only [loadInto, memAddr_eq_ruleAddr, htarget, Res.bindX, hk, if_true, hload, Res.bindDev, extend_word]
  · have hcheck := issueCheck_none hi.form hi.priv
    simp only [exec, execCopyStatusLoad, hcheck, memAddr_eq_ruleAddr, htarget, Res.bindX, hap, Option.isSome_some, if_true, hload, Res.bindDev]

end Sys2Proof.Machine
end

section
namespace Sys2Proof

open Machine

/-- Settles O30: the store to a channel after its stitch, check by check; its count changes counters alone. -/
theorem apertureFormsComplete : Obligations.ApertureFormsComplete := by
  refine ⟨?_, ?_⟩
  · intro d a off s u tg n hi ht ha hk hpage hap hn hw i hf c v q word
    have hexec := exec_aperture hi ht (by rw [hap]; rfl) hw hf
    rw [storeAt_aperture ht ha hk hpage hap hn] at hexec
    have hframe : StitchFrame s v := (homeFrame_translate ht).stitch.trans (stitchFrame_stitchBefore u)
    have hctx : partyCtx v s.focus = c := hframe.partyCtx _
    have hno := apertureStore_noTemplate (s := v) (p := s.focus) (word := word) (va := ruleAddr s a off 8) (data := s.g d) n
    have htemplate {t : Template} := apertureStore_template (s := v) (word := word) (va := ruleAddr s a off 8) (data := s.g d) (t := t) n
    rw [wordVal_eq, hframe.focus] at hexec
    rw [hframe.focus] at htemplate
    rw [hctx] at hno htemplate
    refine ⟨fun h => by rw [Traps, hexec, hno h]; rfl, ?_⟩
    intro t h8 ht cmd
    have hstore := htemplate h8 ht
    dsimp only at hstore
    have hn := hframe.noTrip hi.noTrip
    refine ⟨fun h16 => ?_, fun h16 hr => ?_, fun h16 hr ho => ?_, ?_⟩
    · rw [Traps, hexec, hstore, if_pos h16]; rfl
    · rw [Traps, hexec, hstore, if_neg (Nat.not_le.mpr h16), if_pos ((copyRefused_iff ..).mp hr)]; rfl
    · rw [Traps, hexec, hstore, if_neg (Nat.not_le.mpr h16), if_neg (mt (copyRefused_iff ..).mpr hr), if_pos ho]; rfl
    · intro h16 hr ho w
      have hqueued : w = copyQueued v s.focus n cmd := by rw [copyQueued, hctx]
      rw [if_neg (Nat.not_le.mpr h16), if_neg (mt (copyRefused_iff ..).mpr hr), if_neg (by rw [ho]; exact Bool.false_ne_true)] at hstore
      refine ⟨fun hd => ?_, fun l hp hd hl => ?_⟩
      · exact aperture_leaves hexec hstore (by rw [hqueued]; exact copyStarted_memory hd) rfl hn
      · refine aperture_leaves hexec hstore ?_ (cur_setPins ..) hn
        rw [hqueued]
        exact copyStarted_scratch hp hd (by rw [hctx]; exact hl)
  · intro d a off s u tg n hi ht ha hk hpage hap hn i hf
    have hexec := statusLoad_leaves hi ht ha hk hpage hap hn hf
    have hcur : u.cur = s.cur := (homeFrame_translate ht).cur
    have hset : ((copyStatus u (partyCtx s s.focus) n).1.setG d (copyStatus u (partyCtx s s.focus) n).2).cur =
        s.cur.put d (copyStatus u (partyCtx s s.focus) n).2 := by
      rw [← hcur]
      exact cur_setCur ..
    obtain ⟨t, h1, h2, h3⟩ := finish_ok (.ld .d d a off) s _ (by rw [hset]; exact noTrip_put hi.noTrip)
    refine ⟨t, hexec.trans h1, elsewhere_trans (elsewhere_setCur ..) h2, ?_⟩
    rw [h3, hset, copyStatus, status_eq]

end Sys2Proof
end

section
/-! SUPPORT. The bobbin unit of a party (R110, R187, R189): its queue, the bytes of its commands, its image. -/

namespace Sys2Proof.Machine

open Sys2Proof

theorem homeFrame_engTarget {s t : State} {q : XReq} {va : Word} {tg : Target} (h : engTarget s q va = .ok (t, tg)) : HomeFrame s t := by
  unfold engTarget at h
  split at h
  · cases h
  · next hx =>
    split_ifs at h
    cases h
    exact homeFrame_translate hx

theorem homeFrame_engRead {q : XReq} (fuel : Nat) : ∀ {s t : State} {va : Word} {n : Nat} {bs : List Byte},
    engRead s q fuel va n = .ok (t, bs) → HomeFrame s t := by
  induction fuel with
  | zero => intro s t va n bs h; cases h; exact .refl s
  | succ fuel ih =>
    intro s t va n bs h
    rw [engRead] at h
    split at h
    · cases h; exact .refl s
    · dsimp only at h
      split at h
      · cases h
      · next u tg hx =>
        have hfill := (homeFrame_engTarget hx).trans (homeFrame_l2Fill u none tg.dom tg.pa (min n (65536 - va.toNat % 65536)))
        split at h
        · cases h
        · split at h
          · cases h
          · split at h
            · cases h
            · next hy =>
              cases h
              exact hfill.trans (ih hy)

theorem homeFrame_bobbinParts {q : XReq} (n : Nat) : ∀ {s t : State} {va : Word} {bs : List Byte} {ms : List MemPart},
    bobbinParts q n s va bs = .ok (t, ms) → HomeFrame s t := by
  induction n with
  | zero => intro s t va bs ms h; cases h; exact .refl s
  | succ n ih =>
    intro s t va bs ms h
    rw [bobbinParts] at h
    split at h
    · cases h; exact .refl s
    · split at h
      · cases h
      · next hx =>
        dsimp only at h
        split at h
        · cases h
        · next hy =>
          cases h
          exact (homeFrame_engTarget hx).trans (ih hy)

/-! ## The queue runs empty -/

/-- The steps that a queue of commands takes at most. -/
def queueSteps (q : List BobbinCmd) : Nat := (q.map fun c => c.parts.length + 1).sum

theorem queueSteps_cons (c : BobbinCmd) (q : List BobbinCmd) : queueSteps (c :: q) = c.parts.length + 1 + queueSteps q := rfl

@[simp] theorem bobbinQ_setBobbin (s : State) (p : Party) (q : List BobbinCmd) : bobbinQ (setBobbin s p q) p = q := by
  unfold bobbinQ setBobbin
  cases q with
  | nil => simp [FMap.getD]
  | cons c q => exact getD_set_same ..

theorem ThreadsStay.ite {s t u : State} {P : Prop} [Decidable P] (h : ThreadsStay s t) (k : ThreadsStay s u) :
    ThreadsStay s (if P then t else u) := by
  split
  · exact h
  · exact k

theorem threadsStay_landScratch (s : State) (p : Party) (l : ScratchLoc) (bs : List Byte) : ThreadsStay s (landScratch s p l bs) := by
  unfold landScratch
  split
  · exact ⟨rfl, rfl⟩
  · split
    · exact threadsStay_modPanel ..
    · exact .refl s
  · exact .refl s

theorem threadsStay_setBobbin (s : State) (p : Party) (q : List BobbinCmd) : ThreadsStay s (setBobbin s p q) := ⟨rfl, rfl⟩

theorem threadsStay_bobbinStep (s : State) (p : Party) : ThreadsStay s (bobbinStep s p) := by
  unfold bobbinStep
  split
  · exact .refl s
  · split
    · exact (homeFrame_pushHome ..).threadsStay.trans (threadsStay_setBobbin ..)
    · exact ThreadsStay.ite (.refl s) ((threadsStay_landScratch ..).trans (threadsStay_setBobbin ..))
    · exact threadsStay_setBobbin ..

theorem threadsStay_runBobbin (p : Party) (n : Nat) : ∀ s, ThreadsStay s (runBobbin p n s) := by
  induction n with
  | zero => exact fun s => .refl s
  | succ n ih =>
    intro s
    unfold runBobbin
    split
    · exact .refl s
    · exact (threadsStay_bobbinStep s p).trans (ih _)

/-- Where no bank is reserved for the party, each step of its bobbin unit shortens the queue. -/
theorem bobbinStep_shortens {s : State} {p : Party} {c : BobbinCmd} {q : List BobbinCmd} (hp : partyPanel p = none)
    (hq : bobbinQ s p = c :: q) : queueSteps (bobbinQ (bobbinStep s p) p) < queueSteps (c :: q) := by
  have hfree (l : ScratchLoc) (n : Nat) : bankReserved s p l n = false := by
    unfold bankReserved
    rw [hp]
    cases l <;> rfl
  unfold bobbinStep
  rw [hq]
  dsimp only
  split
  · next m ms _ hparts =>
    rw [bobbinQ_setBobbin, queueSteps_cons, hparts, List.length_cons]
    split
    · omega
    · rw [queueSteps_cons]
      exact Nat.add_lt_add_right (Nat.lt_succ_self _) _
  · rw [hfree, if_neg Bool.false_ne_true, bobbinQ_setBobbin, queueSteps_cons]
    omega
  · rw [bobbinQ_setBobbin, queueSteps_cons]
    omega

theorem runBobbin_empties {p : Party} (hp : partyPanel p = none) (n : Nat) :
    ∀ s, queueSteps (bobbinQ s p) ≤ n → bobbinQ (runBobbin p n s) p = [] := by
  induction n with
  | zero =>
    intro s h
    cases hq : bobbinQ s p with
    | nil => exact hq
    | cons c q => rw [hq, queueSteps_cons] at h; omega
  | succ n ih =>
    intro s h
    unfold runBobbin
    cases hq : bobbinQ s p with
    | nil => exact hq
    | cons c q =>
      have hshort := bobbinStep_shortens hp hq
      rw [hq] at h
      exact ih _ (by omega)

/-- A service core's earlier commands have left its queue once they are finished. -/
theorem finishBobbin_empties {s : State} {m : Nat} (hfocus : s.focus = .core m) : bobbinQ (finishBobbin s) s.focus = [] := by
  have hp : partyPanel s.focus = none := by rw [hfocus]; rfl
  have hflush (t : State) (rs : List (Nat × Nat)) : bobbinQ (flushRanges t rs) s.focus = bobbinQ t s.focus := by
    unfold bobbinQ
    rw [(homeFrame_flushRanges t rs).rest]
  unfold finishBobbin
  dsimp only
  rw [hflush]
  exact runBobbin_empties hp _ _ (Nat.le_refl _)

theorem threadsStay_finishBobbin (s : State) : ThreadsStay s (finishBobbin s) :=
  (threadsStay_runBobbin ..).trans (homeFrame_flushRanges ..).threadsStay

/-! ## The bytes of the forms -/

theorem length_drawBytes (sp : Spool) (j : Nat) (n : W32) (f : Bool) : (drawBytes sp j n f).length = 64 := by
  simp [drawBytes, laneIds, List.length_flatMap]

theorem length_words (n : Nat) (f : Nat → Nat) : ((List.range n).flatMap fun i => toBytes 4 (f i)).length = n * 4 := by
  simp [List.length_flatMap]

theorem length_spoolImage (sp : Spool) : (spoolImage sp).length = 4352 := by
  simp only [spoolImage, List.length_append, length_words, length_toBytes, List.length_replicate]

theorem selectOk_eq (w : Word) : selectOk w = decide (w &&& 0xFFFFFFFFFFFFFEE0#64 = 0#64) := by
  rw [selectOk]
  exact Bool.beq_eq_decide_eq ..

theorem bitsOf_0_5 (w : Word) : bitsOf w 0 5 = w.toNat % 32 := by
  rw [bitsOf_eq, Nat.pow_zero, Nat.div_one]
  rfl

theorem zext64_eq (w : W32) : zext64 w = BitVec.ofNat 64 w.toNat := by
  apply BitVec.eq_of_toNat_eq
  simp [zext64]

/-- A command of memory parts that a service core's bobbin unit accepts (R189). -/
theorem acceptBobbin_eq {s u : State} {m : Nat} (hfocus : s.focus = .core m) (hframe : HomeFrame s u) (ms : List MemPart) :
    acceptBobbin u ⟨partyUid s s.focus, partyTask s s.focus, partyCtx s s.focus, ms, none⟩ = bobbinAccepts u ms := by
  have hthread := hframe.thread (.core m)
  have hset (q : List BobbinCmd) (c : BobbinCmd) : (q ++ [c]).isEmpty = false := by cases q <;> rfl
  simp only [acceptBobbin, bobbinAccepts, setBobbin, bobbinQ, hset, hframe.focus, hfocus, partyUid, partyTask, partyCtx, partyPanel,
    hthread, Bool.false_eq_true, if_false, Option.bind_none]

/-- A write of a service core's command to memory is accepted. -/
theorem queueWrite_memory {s u : State} {m : Nat} {A : Word} {bs : List Byte} {ms : List MemPart} {f : State → Res} (hfocus : s.focus = .core m)
    (hv : A.toNat < 2 ^ 63)
    (hparts : bobbinParts { partyReq s s.focus .write with unit := none } (bs.length / 256 + 2) s A bs = .ok (u, ms)) :
    queueWrite s A bs f = f (bobbinAccepts u ms) := by
  have htag : isTagged A = false := by simpa [isTagged_eq] using hv
  simp only [queueWrite, htag, Bool.false_eq_true, if_false, hparts, Res.bindX, acceptBobbin_eq hfocus (homeFrame_bobbinParts _ hparts)]

theorem stitchBefore_core {s : State} {m : Nat} (h : s.focus = .core m) : stitchBefore s = s := by simp [stitchBefore, h]

theorem aligned_of {A : Word} {n : Nat} (h : A.toNat % n = 0) : aligned A n = true := by simpa [aligned] using h

/-- A form whose body answers an accepted command, counted, leaves it accepted. -/
theorem accepted_leaves {i : Instr} {s u : State} {ev : Nat} {ms : List MemPart} (hi : Issues i s) (body : State → Res)
    (he : exec i s = issue i s body) (hframe : HomeFrame s u) (hb : body s = .ok (countFor (bobbinAccepts u ms) (bobbinAccepts u ms).focus ev 1)) :
    Leaves i s (bobbinAccepts u ms) (pastWord i s.cur) := by
  have hcur : (bobbinAccepts u ms).cur = s.cur := hframe.cur
  have h := leaves_ok_elsewhere hi.toMayIssue body he hb (elsewhere_countFor ..) (by rw [cur_countFor, hcur]; exact hi.noTrip)
  rwa [cur_countFor, hcur] at h

/-! ## The forms -/

theorem exec_bdraw (a b c : Reg) (s : State) : exec (.bdraw a b c) s = issue (.bdraw a b c) s fun s =>
    if !selectOk (s.g c) then trapOf .engine (wordVal (.bdraw a b c))
    else .ok ((countFor s s.focus 64 1).setG a
      (zext64 (drawVal s.cur.spool (bitsOf (s.g c) 0 5) ((s.g b).setWidth 32) ((s.g c).getLsbD 8)))) := rfl

theorem exec_bdrawv (a b c : Reg) (s : State) : exec (.bdrawv a b c) s = issue (.bdrawv a b c) s fun s =>
    let s := stitchBefore s
    if !selectOk (s.g c) then trapOf .engine (wordVal (.bdrawv a b c))
    else if !aligned (s.g a) 64 then trapOf .align (s.g a)
    else queueWrite s (s.g a) (drawBytes s.cur.spool (bitsOf (s.g c) 0 5) ((s.g b).setWidth 32) ((s.g c).getLsbD 8))
      fun s => .ok (countFor s s.focus 65 1) := rfl

theorem exec_bseed (a b : Reg) (s : State) : exec (.bseed a b) s = issue (.bseed a b) s fun s =>
    .ok (s.setCur { s.cur with spool := { s.cur.spool with seeds := s.cur.spool.seeds.set (bitsOf (s.g b) 0 5) ((s.g a).setWidth 32) } }) := rfl

theorem exec_bmode (a : Reg) (s : State) : exec (.bmode a) s = issue (.bmode a) s fun s =>
    if 1 < (s.g a).toNat then trapOf .engine (wordVal (.bmode a))
    else .ok (s.setCur { s.cur with spool := { s.cur.spool with mode := (s.g a).toNat } }) := rfl

theorem exec_bspool (a : Reg) (s : State) : exec (.bspool a) s = issue (.bspool a) s fun s0 =>
    let s := finishBobbin (stitchBefore s0)
    if !(bobbinQ s s.focus).isEmpty then .hold s0
    else if !aligned (s.g a) 256 then trapOf .align (s.g a)
    else .bindX (engReadN s { partyReq s s.focus .read with unit := none } (s.g a) 4352) fun (s, bs) =>
      match spoolOfImage bs with
      | none => trapOf .engine (wordVal (.bspool a))
      | some sp => .ok ((countFor s s.focus 66 1).setCur { s.cur with spool := sp }) := rfl

theorem exec_bspsave (a : Reg) (s : State) : exec (.bspsave a) s = issue (.bspsave a) s fun s =>
    let s := stitchBefore s
    if !aligned (s.g a) 256 then trapOf .align (s.g a)
    else if isTagged (s.g a) then
      .bindX (translate s { partyReq s s.focus .write with unit := none } (s.g a)) fun (s, _) => .ok s
    else queueWrite s (s.g a) (spoolImage s.cur.spool) fun s => .ok (countFor s s.focus 67 1) := rfl

/-- A form that changes the spool of its thread. -/
theorem spool_runs {i : Instr} {s : State} {sp : Spool} (hi : Issues i s) (body : State → Res) (he : exec i s = issue i s body)
    (hb : body s = .ok (s.setCur { s.cur with spool := sp })) : RunsTo i s (pastWord i { s.cur with spool := sp }) := by
  have h := leaves_ok_elsewhere hi.toMayIssue body he hb (elsewhere_setCur ..) (by rw [cur_setCur]; exact hi.noTrip)
  rwa [cur_setCur] at h

theorem bdraw_complete {a b c : Reg} {s : State} (hi : Issues (.bdraw a b c) s) :
    (s.g c &&& 0xFFFFFFFFFFFFFEE0#64 ≠ 0#64 → Traps (.bdraw a b c) s .engine (BitVec.ofNat 64 (Instr.bdraw a b c).firstWord.toNat)) ∧
    (s.g c &&& 0xFFFFFFFFFFFFFEE0#64 = 0#64 → RunsTo (.bdraw a b c) s (pastWord (.bdraw a b c) (s.cur.put a
      (BitVec.ofNat 64 (drawVal s.cur.spool ((s.g c).toNat % 32) ((s.g b).setWidth 32) ((s.g c).getLsbD 8)).toNat)))) := by
  refine ⟨fun h => ?_, fun h => ?_⟩
  · refine ends_trap hi.toMayIssue _ (exec_bdraw a b c s) ?_
    simp only [selectOk_eq, decide_eq_false h, Bool.not_false, if_true, wordVal_eq]
    rfl
  · have hcount := leaves_setG (d := a) (v := zext64 (drawVal s.cur.spool (bitsOf (s.g c) 0 5) ((s.g b).setWidth 32) ((s.g c).getLsbD 8)))
      (u := countFor s s.focus 64 1) hi.toMayIssue _ (exec_bdraw a b c s)
      (by simp only [selectOk_eq, decide_eq_true h, Bool.not_true, Bool.false_eq_true, if_false])
      (by rw [cur_countFor]; exact hi.noTrip)
    rw [cur_countFor, bitsOf_0_5, zext64_eq] at hcount
    exact leaves_of_elsewhere hcount (elsewhere_countFor ..)

theorem bspool_complete {a : Reg} {s u : State} {bs : List Byte} {m : Nat} (hi : Issues (.bspool a) s) (hfocus : s.focus = .core m)
    (ha : (s.g a).toNat % 256 = 0)
    (hread : engReadN (finishBobbin s) { partyReq s s.focus .read with unit := none } (s.g a) 4352 = .ok (u, bs)) :
    (spoolOfImage bs = none → Traps (.bspool a) s .engine (BitVec.ofNat 64 (Instr.bspool a).firstWord.toNat)) ∧
    (∀ sp, spoolOfImage bs = some sp → Leaves (.bspool a) s u (pastWord (.bspool a) { s.cur with spool := sp })) := by
  have hstay := threadsStay_finishBobbin s
  have hempty := finishBobbin_empties hfocus
  have hg : (finishBobbin s).g a = s.g a := by rw [State.g, State.g, hstay.cur]
  have hreq : { partyReq (finishBobbin s) s.focus .read with unit := none } = { partyReq s s.focus .read with unit := none } := by
    simp only [partyReq, hfocus, partyCtx, partyPriv, partyPanel, State.thread, hstay.threads]
  have hucur : u.cur = s.cur := (homeFrame_engRead _ hread).cur.trans hstay.cur
  have hbody : ∀ r, (match spoolOfImage bs with
      | none => trapOf .engine (wordVal (.bspool a))
      | some sp => .ok ((countFor u u.focus 66 1).setCur { u.cur with spool := sp })) = r →
      exec (.bspool a) s = finishRes (.bspool a) s r := by
    intro r hr
    rw [exec_bspool, issue_eq hi.toMayIssue]
    simp only [stitchBefore_core hfocus, hstay.focus, hempty, List.isEmpty_nil, Bool.not_true, Bool.false_eq_true, if_false, hg,
      aligned_of ha, hreq, hread, Res.bindX, hr]
  refine ⟨fun h => ?_, fun sp h => ?_⟩
  · rw [Traps, hbody (.trap ⟨.engine, wordOfForm (.bspool a), none⟩) (by rw [h, wordVal_eq]; rfl)]
    rfl
  · have hcur : ((countFor u u.focus 66 1).setCur { u.cur with spool := sp }).cur = { s.cur with spool := sp } := by rw [cur_setCur, hucur]
    obtain ⟨t, h1, h2, h3⟩ := finish_ok (.bspool a) s ((countFor u u.focus 66 1).setCur { u.cur with spool := sp })
      (by rw [hcur]; exact hi.noTrip)
    refine ⟨t, (hbody _ (by rw [h])).trans h1, ?_, by rw [h3, hcur]⟩
    exact elsewhere_trans (elsewhere_countFor u u.focus 66 1) (elsewhere_trans (elsewhere_setCur ..) h2)

end Sys2Proof.Machine
end

section
namespace Sys2Proof

open Machine

/-- Settles O31: each form through its body; the commands ahead of `bspool` leave a service core's queue, each step shortening it. -/
theorem bobbinFormsComplete : Obligations.BobbinFormsComplete := by
  refine ⟨fun a b c s hi => bdraw_complete hi, fun a b c s u m ms hi hfocus hsel ha hv hparts => ?_, fun a b s hi => ?_,
    fun a s hi => ⟨fun h => ?_, fun h => ?_⟩, fun a s u bs m hi hfocus ha hread => bspool_complete hi hfocus ha hread,
    fun a s u m ms hi hfocus ha hv hparts => ?_⟩
  · refine accepted_leaves (ev := 65) hi _ (exec_bdrawv a b c s) (homeFrame_bobbinParts _ hparts) ?_
    simp only [stitchBefore_core hfocus, selectOk_eq, decide_eq_true hsel, aligned_of ha, Bool.not_true, Bool.false_eq_true, if_false,
      bitsOf_0_5]
    exact queueWrite_memory hfocus hv (by rw [length_drawBytes]; exact hparts)
  · exact spool_runs hi _ (exec_bseed a b s) (by rw [bitsOf_0_5])
  · exact ends_trap hi.toMayIssue _ (exec_bmode a s) (by rw [if_pos h, wordVal_eq]; rfl)
  · exact spool_runs hi _ (exec_bmode a s) (if_neg (Nat.not_lt.mpr h))
  · have htag : isTagged (s.g a) = false := by simpa [isTagged_eq] using hv
    refine accepted_leaves (ev := 67) hi _ (exec_bspsave a s) (homeFrame_bobbinParts _ hparts) ?_
    simp only [stitchBefore_core hfocus, aligned_of ha, htag, Bool.not_true, Bool.false_eq_true, if_false]
    exact queueWrite_memory hfocus hv (by rw [length_spoolImage]; exact hparts)

end Sys2Proof
end

section
/-! SUPPORT. The order of a merge (R117), what the fence of an arrival leaves, and the two outcomes of an arrival at the garment barrier (R120). -/

namespace Sys2Proof.Machine

open Sys2Proof

/-! ## Merges -/

/-- The order of R117 on two logged entries: by address, issuer, strand and sequence. -/
def Before (a b : DEntry) : Prop :=
  a.addr < b.addr ∨ (a.addr = b.addr ∧ (a.issuer < b.issuer ∨ (a.issuer = b.issuer ∧
    (a.strand < b.strand ∨ (a.strand = b.strand ∧ a.seq ≤ b.seq)))))

theorem dentryLe_iff (a b : DEntry) : dentryLe a b = true ↔ Before a b := by
  simp only [dentryLe, Before, Bool.or_eq_true, Bool.and_eq_true, beq_iff_eq, decide_eq_true_eq]

theorem Before.trans {a b c : DEntry} (h : Before a b) (k : Before b c) : Before a c := by
  unfold Before at *; omega

theorem before_total (a b : DEntry) : Before a b ∨ Before b a := by
  unfold Before; omega

theorem entriesOf_pairwise (s : State) (entry : Nat) : (entriesOf s entry).Pairwise Before := by
  have htrans (a b c : DEntry) (h : dentryLe a b = true) (k : dentryLe b c = true) : dentryLe a c = true :=
    (dentryLe_iff a c).mpr (((dentryLe_iff a b).mp h).trans ((dentryLe_iff b c).mp k))
  have htotal (a b : DEntry) : (dentryLe a b || dentryLe b a) = true := by
    simpa [dentryLe_iff] using before_total a b
  exact (List.pairwise_mergeSort htrans htotal _).imp fun h => (dentryLe_iff _ _).mp h

theorem applyEntry_eq (s : State) {d : DEntry} (hk : d.kind ≤ 8) :
    applyEntry s d = writeHomeNow (flushSlice s (sliceOf d.addr)) d.dom (taskId (flushSlice s (sliceOf d.addr)) d.entry) d.addr
      (toBytes (if d.wide then 8 else 4) (amoRule d.kind (if d.wide then 8 else 4)
        (ofBytes (homeBytes (flushSlice s (sliceOf d.addr)) d.dom d.addr (if d.wide then 8 else 4)))
        (d.operand.toNat % 2 ^ (8 * if d.wide then 8 else 4)) 0)) (entryUnit (flushSlice s (sliceOf d.addr)) d) := by
  have hold := ofBytes_lt (homeBytes (flushSlice s (sliceOf d.addr)) d.dom d.addr (if d.wide then 8 else 4))
  rw [length_homeBytes] at hold
  rw [← amoResult_eq_amoRule hk (by split <;> decide) hold (Nat.mod_lt _ (by positivity))]
  rfl

theorem homeFrame_merge (s : State) (entry : Nat) : HomeFrame { s with dlog := (merge s entry).dlog } (merge s entry) := by
  have h := HomeFrame.foldl homeFrame_applyEntry (entriesOf s entry) s
  exact ⟨congrArg (fun w : State => { w with dlog := (merge s entry).dlog }) h.rest, h.panels, h.tasks⟩

theorem entry_ne_of_mem_merge {s : State} {entry h : Nat} {d : DEntry} (hd : d ∈ FMap.getD (merge s entry).dlog h []) : d.entry ≠ entry := by
  simp only [merge, FMap.getD, get_mapVals] at hd
  cases hl : FMap.get? (List.foldl applyEntry s (entriesOf s entry)).dlog h with
  | none => simp [hl] at hd
  | some l =>
    simp only [hl, Option.map_some, Option.getD_some, List.mem_filter, bne_iff_ne] at hd
    exact hd.2

/-! ## The fence of an arrival -/

theorem stitchFrame_drainLine (s : State) (p n line : Nat) : StitchFrame s (drainLine s p n line) := by
  unfold drainLine
  split
  · exact .refl s
  · next x hx =>
    dsimp only
    split
    · exact .refl s
    · exact (stitchFrame_setPanel hx ((published_setTile ..).trans (published_count ..))).trans <|
        (homeFrame_countPoison ..).stitch.trans <| .foldl (fun s d => (homeFrame_pushReq s _ (.update _)).stitch) _ _

theorem stitchFrame_drainPanel (s : State) (p : Nat) (sel : Nat → Bool) : StitchFrame s (drainPanel s p sel) := by
  unfold drainPanel
  split
  · exact .refl s
  · exact .foldl (fun s c => .foldl (fun s l => stitchFrame_drainLine ..) _ s) _ s

theorem stitchFrame_dropClean (s : State) (p : Nat) (sel : Nat → Bool) : StitchFrame s (dropClean s p sel) := by
  refine stitchFrame_modPanel (fun x => ?_) s p
  refine ⟨rfl, fun _ => rfl⟩

theorem stitchFrame_dropCleanFor (s : State) (p k : Nat) (sel : Nat → Bool) : StitchFrame s (dropCleanFor s (.seq p k) sel) :=
  stitchFrame_dropClean s p sel

theorem stitchFrame_fenceFor (s : State) (p k : Nat) (sc : Scope) : StitchFrame s (fenceFor s (.seq p k) sc) := by
  unfold fenceFor
  split
  · exact .refl s
  · exact (stitchFrame_drainPanel ..).trans <| (homeFrame_flushRanges ..).stitch.trans <|
      (stitchFrame_touch _ p k []).trans (stitchFrame_dropCleanFor ..)

/-! ## An arrival -/

/-- The state after the fence of an arrival, which ev42 counts. -/
def gbarFenced (s : State) (p : Nat) : State := countFor (fenceFor (publishPanel s p) s.focus .dev) s.focus 42 1

/-- A task with a strand's arrival held, and with the merge where the strand asks for it. -/
def arrivalHeld (e : TaskEntry) (z : Nat × Nat) (m : Bool) : TaskEntry :=
  { e with gbarArrived := (z :: e.gbarArrived).dedup, gbarMerge := e.gbarMerge || m }

/-- A task with its arrivals released. -/
def arrivalsReleased (e : TaskEntry) : TaskEntry := { e with gbarArrived := [], gbarMerge := false }

/-- A strand's panel and thread as the fence and the arrival leave them. -/
structure Arrives (s a : State) (p k : Nat) (x : Panel) : Prop where
  focus : a.focus = .seq p k
  panel : ∃ y, a.panel? p = some y ∧ Published x y
  cur : a.cur = { s.cur with touched := a.cur.touched }
  cycle : a.cycle = s.cycle

theorem StitchFrame.arrives {i : Instr} {s a : State} {p k : Nat} {x : Panel} (h : StitchFrame s a) (hs : Strands i s p k x) : Arrives s a p k x :=
  ⟨h.focus.trans hs.focus, h.panel hs.panel, h.cur, h.cycle⟩

theorem stitchFrame_gbarFenced {i : Instr} {s : State} {p k : Nat} {x : Panel} (hs : Strands i s p k x) : StitchFrame s (gbarFenced s p) := by
  rw [gbarFenced, hs.focus]
  exact (stitchFrame_publishPanel s p).trans ((stitchFrame_fenceFor ..).trans (homeFrame_countFor ..).stitch)

theorem Arrives.homeFrame {s a t : State} {p k : Nat} {x : Panel} (h : Arrives s a p k x) (ht : HomeFrame a t) : Arrives s t p k x := by
  obtain ⟨y, hy, hpub⟩ := h.panel
  obtain ⟨z, hz, hpub'⟩ := ht.stitch.panel hy
  exact ⟨ht.focus.trans h.focus, ⟨z, hz, hpub.trans hpub'⟩, by rw [ht.cur]; exact h.cur, ht.cycle.trans h.cycle⟩

theorem Arrives.setTasks {s a : State} {p k : Nat} {x : Panel} (h : Arrives s a p k x) (m : FMap Nat TaskEntry) :
    Arrives s { a with tasks := m } p k x := ⟨h.focus, h.panel, h.cur, h.cycle⟩

theorem Arrives.mergeFor {s a : State} {p k : Nat} {x : Panel} (h : Arrives s a p k x) (q : Party) (entry : Nat) :
    Arrives s (mergeFor a q entry) p k x := by
  have hdlog : Arrives s { a with dlog := (merge a entry).dlog } p k x := ⟨h.focus, h.panel, h.cur, h.cycle⟩
  exact ((hdlog.homeFrame (homeFrame_merge a entry)).homeFrame (homeFrame_countFor ..)).homeFrame (homeFrame_countFor ..)

theorem gbarArrive_eq {i : Instr} {s : State} {p k : Nat} {x : Panel} {e : TaskEntry} (hs : Strands i s p k x)
    (he : FMap.get? (gbarFenced s p).tasks x.entry = some e) (m : Bool) :
    gbarArrive s m = gbarComplete (withTask (gbarFenced s p) x.entry (arrivalHeld e (x.index, k) m)) x.entry := by
  obtain ⟨y, hy, hpub⟩ := (stitchFrame_gbarFenced hs).panel hs.panel
  have hentry : partyEntry s s.focus = x.entry := by simp [partyEntry, hs.focus, partyPanel, hs.panel]
  have hindex : panelIndex (gbarFenced s p) p = x.index := by rw [panelIndex, hy, hpub.rest]; rfl
  rw [gbarArrive, hentry, ← hindex]
  rw [gbarFenced, hs.focus] at he ⊢
  simp only [he]
  rfl

theorem gbarComplete_all {s : State} {entry : Nat} {e : TaskEntry} (he : FMap.get? s.tasks entry = some e)
    (hall : ∀ z ∈ garmentStrands s entry, z ∈ e.gbarArrived) :
    gbarComplete s entry = modTask (if e.gbarMerge then mergeFor s s.focus entry else s) entry arrivalsReleased := by
  have harrived : ((garmentStrands s entry).all fun x => e.gbarArrived.contains x) = true := by simpa using hall
  simp only [gbarComplete, he, harrived, if_true]
  rfl

theorem gbarComplete_some {s : State} {entry : Nat} {e : TaskEntry} (he : FMap.get? s.tasks entry = some e)
    (hmiss : ∃ z ∈ garmentStrands s entry, z ∉ e.gbarArrived) : gbarComplete s entry = s := by
  have harrived : ((garmentStrands s entry).all fun x => e.gbarArrived.contains x) = false := by simpa using hmiss
  simp only [gbarComplete, he, harrived, Bool.false_eq_true, if_false]

theorem Arrives.gbarHeld {s a : State} {p k : Nat} {x : Panel} {e : TaskEntry} (h : Arrives s a p k x)
    (he : FMap.get? a.tasks x.entry = some e) : gbarHeld a a.focus = e.gbarArrived.contains (x.index, k) := by
  obtain ⟨y, hy, hpub⟩ := h.panel
  have hentry : y.entry = x.entry := by rw [hpub.rest]
  have hindex : y.index = x.index := by rw [hpub.rest]
  simp [Machine.gbarHeld, h.focus, partyEntry, partyPanel, hy, hentry, he, panelIndex, hindex]

/-! ## The two outcomes -/

theorem exec_gbar {i : Instr} {c : Reg} (hi : i = .gbar c ∨ i = .gbarM c) (s : State) :
    exec i s = issue i s (gbarBody i (decide (i = .gbarM c)) c) := by
  rcases hi with rfl | rfl
  · rfl
  · rw [decide_eq_true rfl]; rfl

theorem gbarBody_eq {i j : Instr} {s : State} {p k : Nat} {x : Panel} (hs : Strands i s p k x) (m : Bool) (c : Reg) :
    gbarBody j m c s = arrivedOr j (gbarArrive s m) (gbarPoll (gbarArrive s m)) (s.g c) := by
  simp only [gbarBody, hs.focus]

/-- The state after the last arrival: the merge where one is asked for, then every arrival released. -/
def gbarReleased (a : State) (entry : Nat) (merges : Bool) : State :=
  modTask (if merges then mergeFor a a.focus entry else a) entry arrivalsReleased

theorem get_mergeFor_tasks {s : State} {entry : Nat} {e : TaskEntry} (he : FMap.get? s.tasks entry = some e) (p : Party) :
    ∃ e', FMap.get? (mergeFor s p entry).tasks entry = some e' :=
  (((kept_merge s entry).trans ((homeFrame_countFor ..).trans (homeFrame_countFor ..)).kept).some he).imp fun _ h => h.1

theorem Arrives.released {s a : State} {p k : Nat} {x : Panel} (h : Arrives s a p k x) (merges : Bool) :
    Arrives s (gbarReleased a x.entry merges) p k x := by
  have hmod (w : State) (hw : Arrives s w p k x) : Arrives s (modTask w x.entry arrivalsReleased) p k x := by
    unfold modTask
    split
    · exact hw.setTasks _
    · exact hw
  cases merges
  · exact hmod a h
  · exact hmod _ (h.mergeFor ..)

/-- The released arrivals let the strand go on: its arrival is no longer held. -/
theorem gbarPoll_released {s a : State} {p k : Nat} {x : Panel} {e : TaskEntry} (h : Arrives s a p k x)
    (he : FMap.get? a.tasks x.entry = some e) (merges : Bool) :
    gbarPoll (gbarReleased a x.entry merges) =
      some (.ok (dropCleanFor (gbarReleased a x.entry merges) (.seq p k) fun _ => true)) := by
  have hr := h.released merges
  obtain ⟨e', he'⟩ : ∃ e', FMap.get? (if merges then mergeFor a a.focus x.entry else a).tasks x.entry = some e' := by
    cases merges
    · exact ⟨e, he⟩
    · exact get_mergeFor_tasks he _
  have hget : FMap.get? (gbarReleased a x.entry merges).tasks x.entry = some (arrivalsReleased e') := by
    rw [gbarReleased, get_modTask_same, he']; rfl
  have hheld : gbarHeld (gbarReleased a x.entry merges) (gbarReleased a x.entry merges).focus = false := by
    rw [hr.gbarHeld hget]; rfl
  rw [gbarPoll, hheld, hr.focus]; rfl

/-- The last arrival: the strand drops its clean bytes in the released state and goes on. -/
theorem gbar_completes {i : Instr} {c : Reg} {s a : State} {p k : Nat} {x : Panel} {held : TaskEntry} (hi : i = .gbar c ∨ i = .gbarM c)
    (hs : Strands i s p k x) (harr : Arrives s a p k x) (hheld : FMap.get? a.tasks x.entry = some held)
    (ha : gbarArrive s (decide (i = .gbarM c)) = gbarComplete a x.entry)
    (hall : ∀ z ∈ garmentStrands a x.entry, z ∈ held.gbarArrived) :
    ∃ t, exec i s = .next t ∧ Elsewhere (dropCleanFor (gbarReleased a x.entry held.gbarMerge) (.seq p k) fun _ => true) t ∧
      unmarked t.cur = unmarked (pastWord i (gbarReleased a x.entry held.gbarMerge).cur) := by
  have hcur : (dropCleanFor (gbarReleased a x.entry held.gbarMerge) (.seq p k) fun _ => true).cur = (gbarReleased a x.entry held.gbarMerge).cur :=
    (threadsStay_dropCleanFor ..).cur
  have hbody : gbarBody i (decide (i = .gbarM c)) c s =
      .ok (dropCleanFor (gbarReleased a x.entry held.gbarMerge) (.seq p k) fun _ => true) := by
    have hdone : gbarComplete a x.entry = gbarReleased a x.entry held.gbarMerge := gbarComplete_all hheld hall
    rw [gbarBody_eq hs, ha, hdone, gbarPoll_released harr hheld]; rfl
  have hnoTrip : NoTrip i (dropCleanFor (gbarReleased a x.entry held.gbarMerge) (.seq p k) fun _ => true).cur := by
    rw [hcur, (harr.released _).cur]; exact hs.issues.noTrip
  rw [← hcur]
  exact leaves_ok hs.issues.toMayIssue _ (exec_gbar hi s) hbody hnoTrip

/-- An arrival before the last: the strand waits, or traps with a timeout of 0, its arrival held. -/
theorem gbar_waits {i : Instr} {c : Reg} {s a : State} {p k : Nat} {x : Panel} {held : TaskEntry} (hi : i = .gbar c ∨ i = .gbarM c)
    (hs : Strands i s p k x) (harr : Arrives s a p k x) (hheld : FMap.get? a.tasks x.entry = some held)
    (ha : gbarArrive s (decide (i = .gbarM c)) = gbarComplete a x.entry) (hmine : (x.index, k) ∈ held.gbarArrived)
    (hmiss : ∃ z ∈ garmentStrands a x.entry, z ∉ held.gbarArrived) :
    (s.g c ≠ 0#64 → Leaves i s a { a.cur with wait := some ⟨i, s.cycle, some (s.g c).toNat, true⟩ }) ∧
    (s.g c = 0#64 → ∃ u, exec i s = .next (raise (noteIssue u) ⟨.waitBound, 0#64, none⟩) ∧
      Elsewhere a u ∧ u.cur = { a.cur with wait := some ⟨i, s.cycle, some 0, true⟩ }) := by
  have hpoll : gbarPoll a = none := by
    rw [gbarPoll, harr.gbarHeld hheld, List.contains_iff_mem.mpr hmine]; rfl
  have hbody : gbarBody i (decide (i = .gbarM c)) c s = arrivedOr i a none (s.g c) := by
    rw [gbarBody_eq hs, ha, gbarComplete_some hheld hmiss, hpoll]
  constructor
  · intro h0
    exact leaves_wait hs.issues.toMayIssue _ (exec_gbar hi s) (by rw [hbody, arrivedOr]; simp [h0])
  · intro h0
    have hshadow := commitShadow_elsewhere i (a.setCur { a.cur with wait := some ⟨i, s.cycle, some 0, true⟩ })
    refine ⟨_, ?_, elsewhere_trans (elsewhere_setCur ..) hshadow.1, by rw [hshadow.2, cur_setCur]⟩
    rw [exec_gbar hi, issue_eq hs.issues.toMayIssue, hbody, h0, arrivedOr, if_pos rfl, harr.cycle]
    rfl

theorem outside_dropClean (s : State) (p : Nat) (sel : Nat → Bool) : outside (dropClean s p sel) = outside s := by
  unfold dropClean State.modPanel
  split <;> rfl

theorem lines_dropClean_all {s : State} {p : Nat} {y : Panel} (hy : (dropClean s p fun _ => true).panel? p = some y) (n : Nat) :
    (y.tile n).lines = [] := by
  cases hx : s.panel? p with
  | none => rw [dropClean, modPanel_none hx, hx] at hy; cases hy
  | some x =>
    rw [dropClean, modPanel_some hx, panel_setPanel] at hy
    cases hy
    simp only [Panel.tile, FMap.getD, get_mapVals]
    cases FMap.get? x.tiles n with
    | none => rfl
    | some t => simp

theorem alike_mergeFor (s : State) (p : Party) (entry : Nat) : Alike (merge s entry) (mergeFor s p entry) :=
  (alike_countFor ..).trans (alike_countFor ..)

/-- What the release of the arrivals leaves as the merge left it. -/
structure ReleasedFrom (v r : State) (entry : Nat) : Prop where
  mem : r.mem = v.mem
  homeQ : r.homeQ = v.homeQ
  dlog : r.dlog = v.dlog
  contexts : r.contexts = v.contexts
  task : FMap.get? r.tasks entry = (FMap.get? v.tasks entry).map arrivalsReleased

theorem releasedFrom_modTask (v : State) (entry : Nat) : ReleasedFrom v (modTask v entry arrivalsReleased) entry := by
  refine ⟨?_, ?_, ?_, ?_, get_modTask_same ..⟩ <;> unfold modTask <;> split <;> rfl

theorem releasedFrom_gbarReleased (a : State) (entry : Nat) (merges : Bool) :
    ReleasedFrom (if merges then merge a entry else a) (gbarReleased a entry merges) entry := by
  cases merges with
  | false => exact releasedFrom_modTask a entry
  | true =>
    have hlike := (alike_mergeFor a a.focus entry).rest
    obtain ⟨hmem, hq, hd, hc, htask⟩ := releasedFrom_modTask (mergeFor a a.focus entry) entry
    exact ⟨hmem.trans (by rw [hlike]; rfl), hq.trans (by rw [hlike]; rfl), hd.trans (by rw [hlike]; rfl), hc.trans (by rw [hlike]; rfl),
      htask.trans (by rw [hlike]; rfl)⟩

/-- The registers, the wait and the program counter of a thread that a mark of its live cycle and its touched lines leave. -/
theorem visible_of_unmarked {t u : Thread} (h : unmarked t = unmarked u) : t.pc = u.pc ∧ t.wait = u.wait ∧ ∀ r, t.get r = u.get r := by
  have hwait := congrArg Thread.wait h
  exact ⟨pc_of_unmarked h, hwait, get_of_unmarked h⟩

theorem same_of_outside {s t : State} (h : outside t = outside s) :
    t.mem = s.mem ∧ t.homeQ = s.homeQ ∧ t.dlog = s.dlog ∧ t.contexts = s.contexts ∧ t.tasks = s.tasks := by
  have hmem := congrArg State.mem h
  have hq := congrArg State.homeQ h
  have hd := congrArg State.dlog h
  have hc := congrArg State.contexts h
  have ht := congrArg State.tasks h
  exact ⟨hmem, hq, hd, hc, ht⟩

end Sys2Proof.Machine
end

section
namespace Sys2Proof

open Machine

/-- Settles O40: the arrival's outcome is read off whether every strand of the garment has arrived; a merge is a fold over the sorted entries. -/
theorem garmentBarriers : Obligations.GarmentBarriers := by
  refine ⟨?_, fun s entry => ⟨entriesOf s entry, List.mergeSort_perm .., entriesOf_pairwise s entry, rfl⟩, fun s d hk => applyEntry_eq s hk⟩
  intro i c s p k x e hi hs u he held a
  have ha : gbarArrive s (decide (i = .gbarM c)) = gbarComplete a x.entry := gbarArrive_eq hs he _
  have hheld : FMap.get? a.tasks x.entry = some held := get_set_same ..
  have harr : Arrives s a p k x := ((stitchFrame_gbarFenced hs).arrives hs).setTasks _
  refine ⟨?_, ?_⟩
  · intro hall v
    obtain ⟨t, hexec, helse, hcur⟩ := gbar_completes hi hs harr hheld ha hall
    obtain ⟨hmem, hq, hd, hc, htask⟩ := releasedFrom_gbarReleased a x.entry held.gbarMerge
    obtain ⟨htmem, htq, htd, htc, httasks⟩ := same_of_outside (helse.rest.trans (outside_dropClean ..))
    obtain ⟨hpc, hwait, hget⟩ := visible_of_unmarked hcur
    have hrcur := (harr.released held.gbarMerge).cur
    have hdlog : t.dlog = v.dlog := htd.trans hd
    refine ⟨t, hexec, ?_, ?_, ?_, htmem.trans hmem, htq.trans hq, hdlog, htc.trans hc, ?_, ?_, ?_⟩
    · rw [hwait, hrcur]; rfl
    · rw [hpc, hrcur]; rcases hi with rfl | rfl <;> rfl
    · intro r
      exact (hget r).trans (by rw [hrcur]; rfl)
    · intro hm h d hmem
      rw [hdlog] at hmem
      exact entry_ne_of_mem_merge (by simpa only [v, hm, if_true] using hmem)
    · intro y n hy
      have hp := helse.panels p
      rw [hy] at hp
      obtain ⟨z, hz, hzy⟩ := Option.map_eq_some_iff.mp hp.symm
      have htiles : y.tiles = z.tiles := (congrArg Panel.tiles hzy).symm
      rw [Panel.tile, htiles]
      exact lines_dropClean_all hz n
    · rw [httasks]; exact htask
  · intro hmiss stays
    have hmine : (x.index, k) ∈ held.gbarArrived := List.mem_dedup.mpr List.mem_cons_self
    obtain ⟨hwaits, htraps⟩ := gbar_waits hi hs harr hheld ha hmine hmiss
    have hstays {t : State} (helse : Elsewhere a t) : stays t := by
      obtain ⟨hmem, hq, hd, hc, htasks⟩ := same_of_outside helse.rest
      exact ⟨hmem, hq, hd, hc, by rw [htasks]; exact hheld⟩
    refine ⟨fun h0 => ?_, fun h0 => ?_⟩
    · obtain ⟨t, hexec, helse, hcur⟩ := hwaits h0
      obtain ⟨hpc, hwait, hget⟩ := visible_of_unmarked hcur
      refine ⟨t, hexec, hwait, ?_, fun r => (hget r).trans ?_, hstays helse⟩
      · rw [hpc, harr.cur]
      · rw [harr.cur]; rfl
    · obtain ⟨w, hexec, helse, hcur⟩ := htraps h0
      exact ⟨w, hexec, hstays helse, by rw [hcur]⟩

end Sys2Proof
end

section
/-! SUPPORT. What the words of the LS element (R243-R247) answer: a change of their tile, or the fault of a row or a lane. -/

namespace Sys2Proof.Machine

open Sys2Proof

/-! ## Words of a tile -/

theorem onTile_eq {s : State} {p : Nat} {x : Panel} (hx : s.panel? p = some x) (n : Nat) (f : Panel → Tile → Tile) :
    onTile s p n f = s.setPanel p (x.setTile n (f x (x.tile n))) := by
  rw [onTile, modPanel_some hx]

theorem countPanel_eq {s : State} {p : Nat} {x : Panel} (hx : s.panel? p = some x) (ev n : Nat) :
    countPanel s p ev n = s.setPanel p (x.count ev n) := by
  rw [countPanel, modPanel_some hx]

/-- A word whose run replaces its panel completes, whatever else it counts. -/
theorem panelEnds_setPanel {i : Instr} {run : State → Nat → Nat → WRes} {s : State} {p n : Nat} {x y z : Panel} (hr : wordRun i = some run)
    (hw : TileWord i s p n x) (hrun : run s p n = .ok (s.setPanel p z)) (hz : uncounted z = uncounted y) : PanelEnds i s p y :=
  ⟨_, (exec_tileWord hr hw).1 _ hrun, rfl, rfl, rfl, fun _ hq => panel_setPanel_other _ _ hq, by rw [panel_setPanel, Option.map_some, hz]⟩

/-- A word whose run replaces its tile completes. -/
theorem panelEnds_onTile {i : Instr} {run : State → Nat → Nat → WRes} {s : State} {p n : Nat} {x : Panel} {f : Panel → Tile → Tile}
    (hr : wordRun i = some run) (hw : TileWord i s p n x) (hrun : run s p n = .ok (onTile s p n f)) :
    PanelEnds i s p (x.setTile n (f x (x.tile n))) :=
  panelEnds_setPanel hr hw (by rw [hrun, onTile_eq hw.panel]) rfl

/-- The count of a forwarded read changes a counter alone (R243). -/
theorem countForward_eq {s : State} {p : Nat} {x : Panel} (hx : s.panel? p = some x) (n off : Nat) :
    ∃ z, countForward s p n off = s.setPanel p z ∧ uncounted z = uncounted x := by
  refine ⟨_, by rw [countForward, modPanel_some hx], ?_⟩
  split <;> rfl

/-! ## Rows and lanes -/

theorem lsRow_inside {s : State} {p n : Nat} {x : Panel} {idx : BitVec 12} {ctr sh : BitVec 3} (hx : s.panel? p = some x)
    (h : lsOffset (x.tile n) idx ctr sh < scratchSize x) (f : Panel → Nat → WRes) :
    lsRow s p n idx ctr sh f = f x (lsOffset (x.tile n) idx ctr sh) := by
  simp [lsRow, hx, Nat.not_le.mpr h]

theorem lsRow_outside {s : State} {p n : Nat} {x : Panel} {idx : BitVec 12} {ctr sh : BitVec 3} (hx : s.panel? p = some x)
    (h : scratchSize x ≤ lsOffset (x.tile n) idx ctr sh) (f : Panel → Nat → WRes) :
    lsRow s p n idx ctr sh f = .error ⟨n, 2, none, ⟨.perm, scratchTagged x n (lsOffset (x.tile n) idx ctr sh), none⟩, false, none⟩ := by
  simp only [lsRow, hx, if_pos h]
  rfl

theorem rowRead_ok {s : State} {p n off : Nat} {x : Panel} (hx : s.panel? p = some x) (h : badIn (x.tile n).bad off 64 = none) (elem : Nat)
    (r : WRes) : rowRead s p n elem off r = r := by
  simp [rowRead, hx, h]

theorem laneFault_eq (x : Panel) (al base : Nat) (v : Lanes) :
    laneFault (scratchSize x) al base v = (List.range 16).findSome? (laneRaises x al base v) := rfl

theorem laneFault_none {x : Panel} {al base : Nat} {v : Lanes} (h : ∀ k, k < 16 → laneRaises x al base v k = none) :
    laneFault (scratchSize x) al base v = none := by
  rw [laneFault_eq, List.findSome?_eq_none_iff]
  exact fun k hk => h k (List.mem_range.mp hk)

/-- The first lane that raises a cause is the one found. -/
theorem laneFault_first {x : Panel} {al base k : Nat} {v : Lanes} {r : Cause × Nat} (hk : k < 16) (h : laneRaises x al base v k = some r)
    (hfirst : ∀ j, j < k → laneRaises x al base v j = none) : laneFault (scratchSize x) al base v = some r := by
  have hsplit : List.range 16 = List.range k ++ k :: (List.range 16).drop (k + 1) := by
    conv_lhs => rw [← List.take_append_drop k (List.range 16), List.drop_eq_getElem_cons (by simpa using hk)]
    simp [List.take_range, Nat.min_eq_left hk.le]
  rw [laneFault_eq, List.findSome?_eq_some_iff]
  exact ⟨_, _, _, hsplit, h, fun j hj => hfirst j (List.mem_range.mp hj)⟩

theorem lsG_faults {s : State} {p n : Nat} {x : Panel} {vi : Reg} {base : BitVec 12} {c : Cause} {off : Nat} (hx : s.panel? p = some x)
    (h : laneFault (scratchSize x) 64 (64 * base.toNat) (getV (x.tile n).v vi) = some (c, off)) :
    runLsG vi base s p n = .error ⟨n, 2, none, ⟨c, scratchTagged x n off, none⟩, false, none⟩ := by
  simp only [runLsG, hx, h]
  rfl

theorem lsS_faults {s : State} {p n : Nat} {x : Panel} {vd vi : Reg} {base : BitVec 12} {c : Cause} {off : Nat} (hx : s.panel? p = some x)
    (h : laneFault (scratchSize x) 4 (64 * base.toNat) (getV (x.tile n).v vi) = some (c, off)) :
    runLsS vd vi base s p n = .error ⟨n, 2, none, ⟨c, scratchTagged x n off, none⟩, false, none⟩ := by
  simp only [runLsS, hx, h]
  rfl

/-! ## The log's room (R260) -/

theorem logRoom_none {x : Panel} {n i m : Nat} (h : logSize ((x.tile n).log i) + m ≤ x.image.logmax.getD i 0) : logRoom x n i m = none :=
  if_neg (Nat.not_lt.mpr h)

/-- Writes with room in the log are appended to it in order. -/
theorem logScratch_ok {s : State} {p n m : Nat} {x : Panel} {ws : List (Nat × List Byte)} (hx : s.panel? p = some x)
    (hm : (ws.map fun w => logSpan w.1 w.2.length).sum = m)
    (h : logSize ((x.tile n).log (rowStrand x)) + m ≤ x.image.logmax.getD (rowStrand x) 0) (elem : Nat) :
    logScratch s p n elem ws = .ok (onTile s p n fun _ tl => scratchLogged tl (rowStrand x) n ws) := by
  simp only [logScratch, hx, hm, logRoom_none h]
  rfl

theorem logSpan_row (idx : Nat) : logSpan (64 * idx) 64 = 64 := by
  rw [logSpan, if_neg (by decide)]; omega

theorem logSpan_word {off : Nat} (h : off % 4 = 0) : logSpan off 4 = 8 := by
  rw [logSpan, if_neg (by decide)]; omega

/-- Lanes that raise nothing are aligned. -/
theorem aligned_of_laneRaises {x : Panel} {al base : Nat} {v : Lanes} {k : Nat} (h : laneRaises x al base v k = none) :
    (base + (lane v k).toNat % 2 ^ 18) % al = 0 := by
  by_contra hne
  simp only [laneRaises] at h
  rw [if_pos hne] at h
  cases h

/-- The 16 entries of a scatter take 8 bytes each. -/
theorem scatter_size {x : Panel} {base : Nat} {v : Lanes} (h : ∀ k, k < 16 → laneRaises x 4 base v k = none) (d : Nat → Nat) :
    (((List.range 16).map fun k => (base + (lane v k).toNat % 2 ^ 18, toBytes 4 (d k))).map fun w => logSpan w.1 w.2.length).sum = 128 := by
  rw [List.map_map, List.map_congr_left (g := fun _ => 8)]
  · rfl
  · intro k hk
    simpa using logSpan_word (aligned_of_laneRaises (h k (List.mem_range.mp hk)))

/-! ## The words that write -/

theorem runLsWr_bubble {s : State} {p n : Nat} {x : Panel} {idx : BitVec 12} {ctr sh : BitVec 3} (hx : s.panel? p = some x)
    (hin : lsOffset (x.tile n) idx ctr sh < scratchSize x) (hb : (latchIn (x.tile n) 2).bubble = true) : runLsWr idx ctr sh s p n = .ok s := by
  rw [runLsWr, lsRow_inside hx hin]
  exact if_pos hb

theorem runLsWr_logs {s : State} {p n : Nat} {x : Panel} {idx : BitVec 12} {ctr sh : BitVec 3} (hx : s.panel? p = some x)
    (hin : lsOffset (x.tile n) idx ctr sh < scratchSize x) (hb : (latchIn (x.tile n) 2).bubble = false)
    (hroom : logSize ((x.tile n).log (rowStrand x)) + 64 ≤ x.image.logmax.getD (rowStrand x) 0) :
    runLsWr idx ctr sh s p n = .ok (onTile s p n fun _ tl => scratchLogged tl (rowStrand x) n
      [(lsOffset (x.tile n) idx ctr sh, toBytes 64 (latchIn (x.tile n) 2).data.toNat)]) := by
  rw [runLsWr, lsRow_inside hx hin]
  refine (if_neg (by simp [hb])).trans (logScratch_ok hx ?_ hroom 2)
  simp [lanesBytes, lsOffset, logSpan_row]

theorem runLsS_logs {s : State} {p n : Nat} {x : Panel} {vd vi : Reg} {base : BitVec 12} (hx : s.panel? p = some x)
    (hlanes : ∀ k, k < 16 → laneRaises x 4 (64 * base.toNat) (getV (x.tile n).v vi) k = none)
    (hroom : logSize ((x.tile n).log (rowStrand x)) + 128 ≤ x.image.logmax.getD (rowStrand x) 0) :
    runLsS vd vi base s p n = .ok (onTile s p n fun _ tl => scratchLogged tl (rowStrand x) n ((List.range 16).map fun k =>
      (64 * base.toNat + (lane (getV (x.tile n).v vi) k).toNat % 2 ^ 18, toBytes 4 (lane (getV (x.tile n).v vd) k).toNat))) := by
  simp only [runLsS, hx, laneFault_none hlanes]
  exact logScratch_ok hx (scatter_size hlanes fun k => (lane (getV (x.tile n).v vd) k).toNat) hroom 2

theorem runLsUpd_bubble {s : State} {p n : Nat} {x : Panel} {idx : BitVec 12} {ctr sh op : BitVec 3} (hx : s.panel? p = some x)
    (hin : lsOffset (x.tile n) idx ctr sh < scratchSize x) (hb : (latchIn (x.tile n) 2).bubble = true) : runLsUpd idx ctr sh op s p n = .ok s := by
  rw [runLsUpd, lsRow_inside hx hin]
  exact if_pos hb

/-- The tile after an update of a row from a beat: the row written on the bank, its bytes before the update logged (R118, R247). -/
def rowUpdated (x : Panel) (n off : Nat) (op : BitVec 3) (b : Beat) (tl : Tile) : Tile :=
  { tl.addLog (rowStrand x) (.undo off (readBytes (x.tile n).scratch off 64) x.live) with
    scratch := writeBytes tl.scratch off (toBytes 64 (ofLanes fun k =>
      updOp op.toNat (lane (rowRegister (readBytes (x.tile n).scratch off 64)) k) (lane b.data k)).toNat) }

theorem runLsUpd_writes {s : State} {p n : Nat} {x : Panel} {idx : BitVec 12} {ctr sh op : BitVec 3} (hx : s.panel? p = some x)
    (hin : lsOffset (x.tile n) idx ctr sh < scratchSize x) (hb : (latchIn (x.tile n) 2).bubble = false)
    (hbad : badIn (x.tile n).bad (lsOffset (x.tile n) idx ctr sh) 64 = none)
    (hroom : logSize ((x.tile n).log (rowStrand x)) + 64 ≤ x.image.logmax.getD (rowStrand x) 0) :
    runLsUpd idx ctr sh op s p n =
      .ok (onTile s p n fun _ tl => rowUpdated x n (lsOffset (x.tile n) idx ctr sh) op (latchIn (x.tile n) 2) tl) := by
  rw [runLsUpd, lsRow_inside hx hin]
  refine (if_neg (by simp [hb])).trans ?_
  simp only [logRoom_none hroom]
  exact rowRead_ok hx hbad 2 _

end Sys2Proof.Machine
end

section
namespace Sys2Proof

open Machine

/-- Settles O44, word by word. -/
theorem lsWordsComplete : Obligations.LsWordsComplete := by
  refine ⟨fun pr idx ctr sh s p n x hw => ⟨fun hin hbad => ?_, fun hout => ?_⟩, fun pr idx ctr sh op s p n x hout i hi hw => ?_,
    fun pr vd vi base s p n x k c off i al hi hw hk hraise hfirst => ?_, fun pr idx ctr sh s p n x hw hin => ⟨fun hb => ?_, fun hb hroom => ?_⟩,
    fun pr vi base s p n x hw hlanes => ?_, fun pr vd vi base s p n x hw hlanes hroom => ?_, fun pr idx wd s p n x hw => ?_,
    fun pr idx ctr sh op s p n x hw hin => ⟨fun hb => ?_, fun hb hbad hroom => ?_⟩⟩
  · obtain ⟨z, hcount, hz⟩ := countForward_eq (panel_setPanel s p (x.setTile n (latched (x.tile n) 2
      ⟨rowRegister ((x.tile n).view n (rowStrand x) (lsOffset (x.tile n) idx ctr sh) 64), 0#32, false⟩))) n (lsOffset (x.tile n) idx ctr sh)
    refine panelEnds_setPanel rfl hw ?_ hz
    rw [runLsRd, lsRow_inside hw.panel hin, rowRead_ok hw.panel hbad, onTile_eq hw.panel]
    exact congrArg Except.ok (hcount.trans (setPanel_setPanel ..))
  · exact (exec_tileWord rfl hw).2 _ (lsRow_outside hw.panel hout _)
  · rcases hi with rfl | rfl <;> exact (exec_tileWord rfl hw).2 _ (lsRow_outside hw.panel hout _)
  · have hfault := laneFault_first hk hraise hfirst
    rcases hi with ⟨rfl, rfl⟩ | ⟨rfl, rfl⟩
    · exact (exec_tileWord rfl hw).2 _ (lsG_faults hw.panel hfault)
    · exact (exec_tileWord rfl hw).2 _ (lsS_faults hw.panel hfault)
  · exact (exec_tileWord rfl hw).1 _ (runLsWr_bubble hw.panel hin hb)
  · exact panelEnds_onTile rfl hw (runLsWr_logs hw.panel hin hb hroom)
  · refine panelEnds_setPanel rfl hw ?_ (uncounted_count _ 14 1)
    simp only [runLsG, hw.panel, laneFault_none hlanes]
    rw [onTile_eq hw.panel, countPanel_eq (panel_setPanel ..), setPanel_setPanel]
    rfl
  · exact panelEnds_onTile rfl hw (runLsS_logs hw.panel hlanes hroom)
  · have hword : 8 * idx.toNat + wd.toNat = (64 * idx.toNat + 8 * wd.toNat) / 8 := by omega
    rw [hword]
    exact panelEnds_onTile (f := fun _ tl => { tl with empties := ((64 * idx.toNat + 8 * wd.toNat) / 8 :: tl.empties).dedup }) rfl hw rfl
  · exact (exec_tileWord rfl hw).1 _ (runLsUpd_bubble hw.panel hin hb)
  · exact panelEnds_onTile rfl hw (runLsUpd_writes hw.panel hin hb hbad hroom)

end Sys2Proof
end

section
/-! SUPPORT. The steps of engine commands: node steps and completions of the quilt (R291), completions of the press (R299), the parts and the end
of a copy (R182), the lines of a bobbin unit (R189). -/

namespace Sys2Proof.Machine

open Sys2Proof

/-! ## Counts and queues -/

theorem outside_countFor (s : State) (p : Party) (ev n : Nat) : outside (countFor s p ev n) = outside s := (elsewhere_countFor s p ev n).rest

theorem outside_countCmd (s : State) (p : Party) (uid ev n : Nat) : outside (countCmd s p uid ev n) = outside s := by
  unfold countCmd
  split
  · rfl
  · exact outside_countFor ..

theorem outside_setCounters (s : State) (p : Party) (v : Vector Counter 4) : outside (setCounters s p v) = outside s := by
  unfold setCounters
  split
  · unfold State.modPanel; split <;> rfl
  · rfl

theorem outside_countPress (s : State) (q : PressCmd) (ev st : Nat) : outside (countPress s q ev st) = outside s := by
  unfold countPress
  split
  · exact outside_setCounters ..
  · rfl

theorem outside_quiltEvents (s : State) (c : QuiltCmd) : outside (quiltEvents s c) = outside s :=
  List.foldlRecOn c.evs _ (motive := fun t => outside t = outside s) rfl fun _ h _ _ => (outside_countCmd ..).trans h

/-- Bytes that enter the home queues change nothing else. -/
theorem pushParts_eq (dom : Nat) (task : BitVec 32) (w : Option Writer) (pa0 n : Nat) :
    ∀ (s : State) (a : Nat) (bs : List Byte), pushParts s dom task w pa0 n a bs = { s with homeQ := (pushParts s dom task w pa0 n a bs).homeQ } := by
  induction n with
  | zero => exact fun _ _ _ => rfl
  | succ n ih =>
    intro s a bs
    cases bs with
    | nil => rfl
    | cons b bs => exact ih _ _ _

theorem pushHome_eq (s : State) (dom : Nat) (task : BitVec 32) (pa : Nat) (bs : List Byte) (w : Option Writer) :
    pushHome s dom task pa bs w = { s with homeQ := (pushHome s dom task pa bs w).homeQ } := pushParts_eq ..

/-! ## Node steps (R291) -/

theorem quiltStep_begin {s : State} {n : Nat} {c : QuiltCmd} (hc : FMap.get? s.quilts n = some c) (hf : c.failed = none)
    (hh : c.heldFault = false) (h0 : c.stage = 0) : quiltStep s n = if mayBegin s n c then quiltReadPhase s n c else s := by
  simp [quiltStep, hc, hf, hh, h0]

/-- A node step after the read phase, by how its run ends. -/
def nodeStepEnds (s : State) (n : Nat) (c : QuiltCmd) (r : QRun) : Except QErr Unit → State
  | .error (.taken bs) => quiltEnd r.s n (c.keep r.c) (.taken bs)
  | .error e => quiltEnd s n c e
  | .ok _ => setQuilt s n { r.c with stage := 2, script := [] }

theorem quiltStep_run {s : State} {n : Nat} {c : QuiltCmd} {e : Except QErr Unit} {r : QRun} (hc : FMap.get? s.quilts n = some c)
    (hf : c.failed = none) (hh : c.heldFault = false) (h1 : c.stage = 1) (hr : qRun s n c false qProgram = (e, r)) :
    quiltStep s n = nodeStepEnds s n c r e := by
  simp [quiltStep, hc, hf, hh, h1, hr]
  rfl

/-- A step of the read phase, by how its run ends. -/
def readStepEnds (n : Nat) (d : QuiltCmd) (r : QRun) : Except QErr Unit → State
  | .error e => quiltEnd r.base n (d.keep r.c) e
  | .ok _ => setQuilt r.base n { d.keep r.c with stage := 1, script := [] }

/-- A step of the read phase once the address of the completion word is translated. -/
theorem quiltReadPhase_run {s u : State} {n : Nat} {c d : QuiltCmd} {e : Except QErr Unit} {r : QRun}
    (hfirst : c.script = [] → quiltWord s c = .ok (u, d)) (hlater : c.script ≠ [] → u = s ∧ d = c) (hr : qRun u n d true qDry = (e, r)) :
    quiltReadPhase s n c = readStepEnds n d r e := by
  have hword : (if c.script = [] then quiltWord s c else .ok (s, c)) = .ok (u, d) := by
    by_cases h : c.script = []
    · rw [if_pos h, hfirst h]
    · obtain ⟨rfl, rfl⟩ := hlater h
      rw [if_neg h]
  rw [quiltReadPhase, hword]
  simp only [hr]
  rfl

/-! ## The end of a quilt command (R291) -/

theorem quiltComplete_early {s : State} {n : Nat} {c : QuiltCmd} (hc : FMap.get? s.quilts n = some c) (hf : c.failed = none)
    (hs : c.stage ≠ 2) : quiltComplete s n = s := by
  simp only [quiltComplete, hc, hf, if_neg hs, ite_self]

theorem wordWaits_untagged {s : State} {c : QuiltCmd} (h : isTagged c.record = false) : wordWaits s c = false := by
  simp [wordWaits, h]

theorem writeQuiltWord_memory {s : State} {c : QuiltCmd} {pa dom : Nat} (hr : c.record ≠ 0#64) (ht : isTagged c.record = false)
    (hh : c.heldRecord = false) (hcw : c.cw = some (pa, dom)) (code fields : Nat) :
    writeQuiltWord s c code fields = pushHome s dom c.task pa (quiltDone code fields) (cmdWriter s c.party c.uid) := by
  simp [writeQuiltWord, hr, ht, hh, hcw, quiltDone]

theorem quiltComplete_done {s : State} {n : Nat} {c : QuiltCmd} (hc : FMap.get? s.quilts n = some c) (hf : c.failed = none)
    (hh : c.heldFault = false) (hw : wordWaits s c = false) (hs : c.stage = 2) :
    quiltComplete s n = quiltEvents { writeQuiltWord s c c.code c.word with
      quilts := FMap.erase (writeQuiltWord s c c.code c.word).quilts n } c := by
  simp only [quiltComplete, hc, hf, hh, hw, hs, Bool.false_eq_true, or_self, if_false, if_true]

theorem quiltComplete_failed {s : State} {n k : Nat} {c : QuiltCmd} (hc : FMap.get? s.quilts n = some c) (hf : c.failed = some k)
    (hh : c.heldFault = false) (hr : c.record = 0#64) :
    quiltComplete s n = offerQuilt { s with quilts := FMap.erase s.quilts n } c k := by
  have hw : wordWaits s c = false := by simp [wordWaits, hr]
  have hnone : writeQuiltWord s c k 0 = s := by simp [writeQuiltWord, hr]
  simp only [quiltComplete, hc, hf, hh, hw, hnone, Bool.false_eq_true, or_self, if_false]

/-! ## The end of a press command (R299) -/

theorem pressComplete_waits {s : State} {n : Nat} {c : PressCmd} (hc : FMap.get? s.press n = some c) (hf : c.failed = none)
    (h : writesWait s c = true ∨ pressDone c = false) : pressComplete s n = s := by
  simp only [pressComplete, hc, hf]
  rcases h with h | h <;> simp [h]

theorem pressComplete_done {s : State} {n : Nat} {c : PressCmd} (hc : FMap.get? s.press n = some c) (hf : c.failed = none)
    (hh : c.heldFault = false) (he : earlier s n c = []) (hw : writesWait s c = false) (hd : pressDone c = true) :
    pressComplete s n = endPress s n c 0 := by
  simp [pressComplete, hc, hf, hh, he, hw, hd]

/-- A command without a record that ends well changes its own entry and counters alone. -/
theorem endPress_unrecorded {s : State} {n : Nat} {c : PressCmd} (hr : c.record = 0#64) :
    ∃ v, endPress s n c 0 = { v with press := FMap.erase v.press n } ∧ outside v = outside s := by
  have hdone : writePressRecord s c 0 = .done s := by simp [writePressRecord, hr]
  simp only [endPress, hdone, closePress, offerPress, if_true]
  cases c.plan with
  | none => exact ⟨_, rfl, rfl⟩
  | some pl => exact ⟨_, rfl, outside_countPress ..⟩

/-! ## Copies (R182) -/

theorem copyHead_active {s : State} {c n : Nat} {cmd : Copy} {rest : List Copy} (h : CopyHead s c n cmd rest) : copyActive cmd = true := by
  obtain ⟨hh, hf⟩ := h.live
  simp [copyActive, hh, hf]

theorem copyRead_memory {s u : State} {c n k : Nat} {cmd : Copy} {rest : List Copy} {bs : List Byte} (h : CopyHead s c n cmd rest)
    (hk : k < copyParts cmd) (hread : cmd.readParts.any (fun r => r.1 == k) = false) (hwrote : cmd.wroteParts.contains k = false)
    (ht : isTagged (cmd.src + BitVec.ofNat 64 (partRange cmd k).1) = false)
    (hr : engReadN s (engReq c cmd.priv .read 5) (cmd.src + BitVec.ofNat 64 (partRange cmd k).1) (partRange cmd k).2 = .ok (u, bs)) :
    copyRead s c n k = setHead u c n { cmd with readParts := cmd.readParts ++ [(k, bs)] } := by
  simp only [copyRead, h.head, copyHead_active h, Nat.not_le.mpr hk, hread, hwrote, ht, hr, decide_false, Bool.not_true, Bool.or_self,
    Bool.false_eq_true, if_false]

theorem partRange_checked (cmd : Copy) (k : Nat) : partRange { cmd with cwChecked := true } k = partRange cmd k := rfl

/-- A copy with a part of it written. -/
def partWritten (cmd : Copy) (k : Nat) : Copy :=
  { cmd with cwChecked := true, readParts := cmd.readParts.filter fun r => r.1 != k, wroteParts := k :: cmd.wroteParts }

section
variable {s u : State} {c n k : Nat} {cmd : Copy} {rest : List Copy} {bs : List Byte} (h : CopyHead s c n cmd rest)
  (hread : cmd.readParts.find? (fun r => r.1 == k) = some (k, bs)) (hcw : checkCw s c cmd = .ok u)
include h hread hcw

theorem copyWrite_memory {v : State} (hp : cmd.peer = 0) (ht : isTagged (cmd.dst + BitVec.ofNat 64 (partRange cmd k).1) = false)
    (hw : engWriteN u (engReq c cmd.priv .write 5) cmd.task (cmdWriter u cmd.party cmd.uid)
      (cmd.dst + BitVec.ofNat 64 (partRange cmd k).1) bs = .ok v) :
    copyWrite s c n k = countCmd (setHead v c n { partWritten cmd k with
      ranges := cmd.ranges ++ regionRanges u c 2 (cmd.dst + BitVec.ofNat 64 (partRange cmd k).1).toNat
        ((cmd.dst + BitVec.ofNat 64 (partRange cmd k).1).toNat + bs.length) }) cmd.party cmd.uid 61 bs.length := by
  have hhome : ¬ cmd.peer ≠ 0 := not_not_intro hp
  simp only [copyWrite, h.head, hread, copyHead_active h, hcw, if_neg hhome, partRange_checked, ht, hw, Bool.not_true, Bool.false_eq_true, if_false]
  rfl

theorem copyWrite_peer (hp : cmd.peer ≠ 0) (hl : linkUp u cmd.peer = true) :
    copyWrite s c n k = countCmd (sendFlits (setHead u c n { partWritten cmd k with
        unanswered := cmd.unanswered + (payloadFlits c n (cmd.dst + BitVec.ofNat 64 (partRange cmd k).1).toNat bs).length }) (cmd.peer - 1)
      (payloadFlits c n (cmd.dst + BitVec.ofNat 64 (partRange cmd k).1).toNat bs)) cmd.party cmd.uid 61 bs.length := by
  simp only [copyWrite, h.head, hread, copyHead_active h, hcw, hp, hl, Bool.not_true, Bool.false_eq_true, if_false, ne_eq, not_false_eq_true, if_true]
  rfl

theorem copyWrite_linkDown (hp : cmd.peer ≠ 0) (hl : linkUp u cmd.peer = false) :
    copyWrite s c n k = setHead u c n { cmd with cwChecked := true, failed := true } := by
  simp only [copyWrite, h.head, hread, copyHead_active h, hcw, hp, hl, Bool.not_true, Bool.false_eq_true, if_false, ne_eq, not_false_eq_true, if_true]

end

theorem copyComplete_early {s : State} {c n : Nat} {cmd : Copy} {rest : List Copy} (h : CopyHead s c n cmd rest)
    (he : cmd.wroteParts.length < copyParts cmd ∨ cmd.unanswered ≠ 0 ∨ waitsIn s cmd.ranges = true) : copyComplete s c n = s := by
  obtain ⟨-, hf⟩ := h.live
  simp only [copyComplete, h.head, hf, Bool.false_eq_true, if_false]
  exact if_pos (.inr he)

section
variable {s : State} {c n : Nat} {cmd : Copy} {rest : List Copy} (h : CopyHead s c n cmd rest)
  (hparts : copyParts cmd ≤ cmd.wroteParts.length) (hans : cmd.unanswered = 0) (hwaits : waitsIn s cmd.ranges = false)
include h hparts hans hwaits

theorem copyComplete_silent (hcw : cmd.cw = false) : copyComplete s c n = popChan s c n false := by
  obtain ⟨hh, hf⟩ := h.live
  simp [copyComplete, h.head, hf, hh, Nat.not_lt.mpr hparts, hans, hwaits, hcw]

theorem copyComplete_memory {u : State} (hcw : cmd.cw = true) (ht : isTagged cmd.cwaddr = false)
    (hw : engWriteN s (engReq c cmd.priv .write 5) cmd.task (cmdWriter s cmd.party cmd.uid) cmd.cwaddr (toBytes 8 cmd.value.toNat) = .ok u) :
    copyComplete s c n = countCmd (popChan u c n false) cmd.party cmd.uid 63 1 := by
  obtain ⟨hh, hf⟩ := h.live
  simp [copyComplete, h.head, hf, hh, Nat.not_lt.mpr hparts, hans, hwaits, hcw, ht, hw]

end

theorem chanOf_popChan (s : State) (c n : Nat) (fault : Bool) :
    chanOf (popChan s c n fault) c n = ⟨(chanOf s c n).queue.drop 1, (chanOf s c n).fault || fault⟩ := by
  simp [popChan, setChan, chanOf, FMap.getD]

theorem copyComplete_failed {s : State} {c n : Nat} {cmd : Copy} {rest : List Copy} (h : (chanOf s c n).queue = cmd :: rest)
    (hf : cmd.failed = true) (hans : cmd.unanswered = 0) :
    copyComplete s c n = offerEngine (popChan s c n true) c cmd.task ⟨.engine, BitVec.ofNat 64 n, none⟩ 5 (issuerNo cmd.party) none := by
  simp [copyComplete, h, hf, hans, mkTrap]

/-! ## Bobbin units (R189) -/

theorem bobbinStep_line {s : State} {p : Party} {c : BobbinCmd} {q : List BobbinCmd} {m : MemPart} {ms : List MemPart}
    (hq : FMap.get? s.bobbin p = some (c :: q)) (hm : c.parts = m :: ms) :
    bobbinStep s p = setBobbin (pushHome s m.dom c.task m.pa m.bytes (cmdWriter s p c.uid)) p
      (if ms = [] ∧ c.scratch = none then q else { c with parts := ms } :: q) := by
  have hqueue : bobbinQ s p = c :: q := by simp [bobbinQ, FMap.getD, hq]
  simp only [bobbinStep, hqueue, hm, Bool.and_eq_true, List.isEmpty_iff, Option.isNone_iff_eq_none]

end Sys2Proof.Machine
end

section
namespace Sys2Proof

open Machine

/-- Settles O47, step by step. -/
theorem commandSteps : Obligations.CommandSteps := by
  refine ⟨fun n s c hc hf hh => ⟨fun h0 hbegin => ?_, fun u d r h0 hbegin hfirst hlater => ?_, fun r h1 hr => ?_, fun r bs h1 hr => ?_,
      fun r k h1 hr => ?_, fun hs => ?_, fun pa dom hs hrecord htag hheld hcw => ?_⟩,
    fun n s c k hc hh hf hrecord => ?_, fun n s c hc hh he hf => ⟨fun hw => ?_, fun hd => ?_, fun hw hd hrecord => ?_⟩,
    fun c n k s cmd rest h => ⟨fun u bs hk hread hwrote htag hr => ?_, fun u bs hread hcw => ⟨fun v hp htag hw => ?_, fun hp hl => ?_,
      fun hp hl => ?_⟩, fun he => ?_, fun hparts hans hwaits => ⟨fun hcw => ?_, fun u hcw htag hw => ?_⟩⟩,
    fun c n s cmd rest h hf hans => ?_, fun p k s c q m ms hq hm => ?_, fun _ _ _ => ⟨rfl, rfl, rfl, rfl⟩⟩
  · show Host.Outcome.next (quiltStep s n) = _
    rw [quiltStep_begin hc hf hh h0, hbegin]; rfl
  · have hstep {e : Except QErr Unit} (hr : qRun u n d true qDry = (e, r)) : exec (.nodeStep n) s = .next (readStepEnds n d r e) := by
      show Host.Outcome.next (quiltStep s n) = _
      rw [quiltStep_begin hc hf hh h0, if_pos hbegin, quiltReadPhase_run hfirst hlater hr]
    exact ⟨hstep, fun _ => hstep, fun _ => hstep⟩
  · exact congrArg Host.Outcome.next (quiltStep_run hc hf hh h1 hr)
  · exact congrArg Host.Outcome.next (quiltStep_run hc hf hh h1 hr)
  · exact congrArg Host.Outcome.next (quiltStep_run hc hf hh h1 hr)
  · exact congrArg Host.Outcome.next (quiltComplete_early hc hf hs)
  · have hpush := pushHome_eq s dom c.task pa (quiltDone c.code c.word) (cmdWriter s c.party c.uid)
    have hdone := quiltComplete_done hc hf hh (wordWaits_untagged htag) hs
    rw [writeQuiltWord_memory hrecord htag hheld hcw, hpush] at hdone
    have hout := outside_quiltEvents { s with
      homeQ := (pushHome s dom c.task pa (quiltDone c.code c.word) (cmdWriter s c.party c.uid)).homeQ, quilts := FMap.erase s.quilts n } c
    have hquilts := congrArg State.quilts hout
    obtain ⟨hmem, hq, -, hctx, -⟩ := same_of_outside hout
    refine ⟨_, congrArg Host.Outcome.next hdone, ?_, hmem, hq, hctx⟩
    exact (congrArg (FMap.get? · n) hquilts).trans (get_erase_same ..)
  · exact congrArg Host.Outcome.next (quiltComplete_failed hc hf hh hrecord)
  · exact congrArg Host.Outcome.next (pressComplete_waits hc hf (.inl hw))
  · exact congrArg Host.Outcome.next (pressComplete_waits hc hf (.inr hd))
  · obtain ⟨v, hend, hout⟩ := endPress_unrecorded (s := s) (n := n) hrecord
    obtain ⟨hmem, hq, -, hctx, -⟩ := same_of_outside hout
    exact ⟨_, congrArg Host.Outcome.next ((pressComplete_done hc hf hh he hw hd).trans hend), get_erase_same .., hmem, hq, hctx⟩
  · exact congrArg Host.Outcome.next (copyRead_memory h hk hread hwrote htag hr)
  · exact congrArg Host.Outcome.next (copyWrite_memory h hread hcw hp htag hw)
  · exact congrArg Host.Outcome.next (copyWrite_peer h hread hcw hp hl)
  · exact congrArg Host.Outcome.next (copyWrite_linkDown h hread hcw hp hl)
  · exact congrArg Host.Outcome.next (copyComplete_early h he)
  · refine ⟨_, congrArg Host.Outcome.next (copyComplete_silent h hparts hans hwaits hcw), ⟨?_, rfl⟩, rfl⟩
    rw [chanOf_popChan, h.head, Bool.or_false]; rfl
  · exact congrArg Host.Outcome.next (copyComplete_memory h hparts hans hwaits hcw htag hw)
  · exact congrArg Host.Outcome.next (copyComplete_failed h hf hans)
  · have hpush := pushHome_eq s m.dom c.task m.pa m.bytes (cmdWriter s p c.uid)
    refine ⟨_, congrArg Host.Outcome.next (bobbinStep_line hq hm), rfl, rfl, ?_, ?_, bobbinQ_setBobbin ..⟩
    · exact (congrArg State.contexts hpush :)
    · exact (congrArg State.threads hpush :)

end Sys2Proof
end

section
/-! SUPPORT. The decoders against the encoder (R128-R142): the fields of a word that a format put together, then each group of forms. -/

namespace Sys2Proof

/-! ## Fields of a concatenation -/

/-- A field that lies in the upper part of a concatenation. The width of a word is a numeral, which the sum of the widths of its parts
unifies with but is not indexed as. -/
@[simp] theorem extractLsb'_append_upper {m n start len : Nat} {x : BitVec m} {y : BitVec n} (h : n ≤ start) :
    (no_index (x ++ y)).extractLsb' start len = x.extractLsb' (start - n) len :=
  BitVec.extractLsb'_append_eq_of_le h

/-- A field that lies in the lower part of a concatenation. -/
@[simp] theorem extractLsb'_append_lower {m n start len : Nat} {x : BitVec m} {y : BitVec n} (h : start + len ≤ n) :
    (no_index (x ++ y)).extractLsb' start len = y.extractLsb' start len :=
  BitVec.extractLsb'_append_eq_of_add_le h

/-! ## Codes -/

@[simp] theorem CC.ofCode_code (cc : CC) : CC.ofCode cc.code = some cc := by cases cc <;> rfl

@[simp] theorem Size.ofCode_code (sz : Size) : Size.ofCode sz.code = sz := by cases sz <;> rfl

@[simp] theorem Scope.ofCode_code (sc : Scope) : Scope.ofCode sc.code = sc := by cases sc <;> rfl

@[simp] theorem Pred.ofCode_code (p : Pred) : Pred.ofCode p.code = p := by cases p <;> rfl

@[simp] theorem amoSo_beq (wide : Bool) : (amoSo wide == 3#2) = wide := by cases wide <;> rfl

@[simp] theorem VF.ofBits_bits (f : VF) : VF.ofBits f.bits = f := by simp [VF.ofBits, VF.bits]

@[simp] theorem extractLsb'_sizeField (sz : Size) : (sizeField sz).extractLsb' 0 2 = sz.code := by simp [sizeField]

/-! ## Formats (R129) -/

section
variable (op : BitVec 6) (d a b : Reg)

theorem packR_fn (fn : BitVec 11) : (packR op d a b fn).extractLsb' 0 11 = fn := by simp [packR]
theorem packR_aluFn (fn : BitVec 11) : (packR op d a b fn).extractLsb' 0 6 = fn.extractLsb' 0 6 := by simp [packR]
theorem packI_op (imm : BitVec 16) : (packI op d a imm).extractLsb' 26 6 = op := by simp [packI]
theorem packM_op (sz : BitVec 2) (off : BitVec 14) : (packM op d a sz off).extractLsb' 26 6 = op := by simp [packM]
theorem packM_d (sz : BitVec 2) (off : BitVec 14) : (packM op d a sz off).extractLsb' 21 5 = d := by simp [packM]

theorem decodeRaw_packR_alu (fn : BitVec 11) : decodeRaw (packR 0x01 d a b fn) = decodeAlu (packR 0x01 d a b fn) := by
  simp [decodeRaw, packR]
theorem decodeRaw_packR_system (fn : BitVec 11) : decodeRaw (packR 0x21 d a b fn) = decodeSystem (packR 0x21 d a b fn) := by
  simp [decodeRaw, packR]
theorem decodeRaw_packR_vector (fn : BitVec 11) : decodeRaw (packR 0x24 d a b fn) = decodeVector (packR 0x24 d a b fn) := by
  simp [decodeRaw, packR]
theorem decodeRaw_packM_cache (sz : BitVec 2) (off : BitVec 14) :
    decodeRaw (packM 0x1B d a sz off) = decodeCache (packM 0x1B d a sz off) := by
  simp [decodeRaw, packM]

end

section
variable (engine : BitVec 4) (fn : BitVec 5) (a b c : Reg) (so : BitVec 2)

theorem decodeRaw_packE : decodeRaw (packE engine fn a b c so) = decodeEngine (packE engine fn a b c so) := by
  simp [decodeRaw, packE]
theorem packE_engine : (packE engine fn a b c so).extractLsb' 22 4 = engine := by simp [packE]
theorem packE_fn : (packE engine fn a b c so).extractLsb' 17 5 = fn := by simp [packE]

end

/-! ## Control words (R132-R136) -/

/-- A control word of one word is decoded by its major opcode, its group and its fields (R129-R135). With the opcode and the group's own code
rewritten to numerals the tables compute to the form, and the form's fields are those of the format. -/
theorem decodeRaw_encode {i : Instr} {w : W32} (h : i.encode = .w32 w) : decodeRaw w = some i := by
  cases i with
  | add | sub | mul | mulh | mulhu | div | divu | rem | remu | and | or | xor | andn | shl | shr | sra | rol | ror | clz | ctz | popc
    | min | max | minu | maxu | bext | bins =>
    cases h
    rw [decodeRaw_packR_alu, decodeAlu, packR_aluFn]
    exact congrArg some (by simp [packR])
  | sel | cmp | lea => cases h; simp [decodeRaw, decodeAlu, packR]
  | cmpi => cases h; simp [decodeRaw, packI]
  | addi | muli | andi | ori | xori | shli | shri | srai | rori | mini | maxi | minui | maxui | cget | cset | jalr =>
    cases h
    rw [decodeRaw, packI_op]
    exact congrArg some (by simp [packI])
  | ld | ldZ | st | ldS | ldSZ | stS | stfill | ldsync | ldsyncE | vld | vst =>
    cases h
    rw [decodeRaw, packM_op]
    exact congrArg some (by simp [packM])
  | prefetch | clean | flush | inval | invalI =>
    cases h
    rw [decodeRaw_packM_cache, decodeCache, packM_d]
    exact congrArg some (by simp [packM])
  | br | jal => cases h; simp [decodeRaw, packJ]
  | bcc | lexit => cases h; simp [decodeRaw, packB]
  | nop | fin | trap | eret | tlbinv | ctxsave | ctxload =>
    cases h
    rw [decodeRaw_packR_system, decodeSystem, packR_fn]
    exact congrArg some (by simp [packR])
  | vgather | vscatter | vmovg | vmovz =>
    cases h
    rw [decodeRaw_packR_vector, decodeVector, packR_fn]
    exact congrArg some (by simp [packR])
  | bind | unbind | acq | rel | fence | bar | gbar | gbarM | tickget | tickwait | amoAdd | amoAnd | amoOr | amoXor | amoMin | amoMax
    | amoSwap | amoCas | amoFadd | bttpl | waitw | pinwait | bdraw | bdrawv | bseed | bspool | bspsave | bmode | qinit | qapp | qdesc
    | qsplit | qmerge | qfork | qevict | qmark | qtrim | qstat | qfree | prcopy | prfill | prand | pror | prxor | prnot | tsub | tdep
    | gpset | gpget | ldpat | arm | disarm | sgo | sstop | slice | cond | tack | tkwait | commit | mxhint | cpost | pmsel | pmrd
    | pmclr | fitbeg | fitend | fitstat | chalk =>
    cases h
    rw [decodeRaw_packE, decodeEngine, packE_engine, packE_fn]
    exact congrArg some (by simp [packE])
  | _ => cases h

/-- A long form is decoded by its kind and its fields (R136). -/
theorem decodeLongRaw_encode {i : Instr} {w0 w1 : W32} (h : i.encode = .w64 w0 w1) : decodeLongRaw w0 w1 = some i := by
  cases i with
  | movi d imm =>
    have himm : imm.extractLsb' 32 17 ++ imm.extractLsb' 0 32 = imm := by
      rw [BitVec.extractLsb'_append_extractLsb'_eq_extractLsb' (by rfl : 32 = 0 + 32), BitVec.extractLsb'_eq_self]
    cases h; simp [decodeLongRaw, packX, himm]
  | sspec | vop | loop | loopw => cases h; simp [decodeLongRaw, packX]
  | _ => cases h

/-! ## Phase words (R140-R142) -/

section
variable (opcode : BitVec 5) (p : Pred) (ops : BitVec 30)

theorem decodePhaseRaw_mx : decodePhaseRaw (packP 1 opcode p.code ops) = decodeMx p opcode ops := by simp [decodePhaseRaw, packP]
theorem decodePhaseRaw_vx : decodePhaseRaw (packP 2 opcode p.code ops) = decodeVx p opcode ops := by simp [decodePhaseRaw, packP]
theorem decodePhaseRaw_ls : decodePhaseRaw (packP 3 opcode p.code ops) = decodeLs p opcode ops := by simp [decodePhaseRaw, packP]
theorem decodePhaseRaw_xb : decodePhaseRaw (packP 4 opcode p.code ops) = decodeXb p opcode ops := by simp [decodePhaseRaw, packP]
theorem decodePhaseRaw_tk : decodePhaseRaw (packP 5 opcode p.code ops) = decodeTk p opcode ops := by simp [decodePhaseRaw, packP]

end

/-- `tk.cnt` with field 4 is the word of `tk.cnt` by the tick alone (R248). -/
theorem cntFits_field {c : BitVec 2} {field : BitVec 3} {value : BitVec 24} (h : cntFits c field value = true) : field ≠ 4#3 := by
  rintro rfl
  cases h

/-- A phase word is decoded by its kind, its opcode and its fields (R140-R142). Two of its opcodes stand for more than one form: 0x18 of VX
by aux, 0x01 of TK by its field. -/
theorem decodePhaseRaw_encode {i : Instr} {w : BitVec 40} (hi : i.wf = true) (h : i.encode = .w40 w) : decodePhaseRaw w = some i := by
  cases i with
  | mxNop | mxLd | mxMm | mxMmg | mxAcz | mxScl | mxFmt | mxAcsv | mxAcld =>
    cases h
    rw [decodePhaseRaw_mx]
    simp [decodeMx]
  | mxAcrd p acc row w =>
    have hw : (acc ++ row ++ BitVec.ofBool w ++ 0#22).getLsbD 22 = w := by
      rw [BitVec.getLsbD_append, BitVec.getLsbD_append]; simp
    cases h
    rw [decodePhaseRaw_mx]
    simpa [decodeMx] using hw
  | vmov p f | vmovIn p f | vmovOut p f =>
    obtain ⟨-, haux⟩ : _ ∧ f.aux = _ := by simpa [Instr.wf] using hi
    cases h
    rw [decodePhaseRaw_vx, decodeVx, VF.ofBits_bits]
    simp [haux]
  | vadd | vsub | vmul | vfma | vmax | vmin | vexp2 | vlog2 | vrcp | vrsq | vcvt | vcmp | vsel | vand | vor | vxor | vshl | vshr | vperm
    | vscan | vred | vbcast | vpack | vunpack | vidx | vcount | vminmax =>
    cases h
    rw [decodePhaseRaw_vx, decodeVx, VF.ofBits_bits]
    rfl
  | lsRd | lsWr | lsG | lsS | lsFe | lsUpd =>
    cases h
    rw [decodePhaseRaw_ls]
    simp [decodeLs]
  | xbRoute | xbEase | xbHold =>
    cases h
    rw [decodePhaseRaw_xb]
    simp [decodeXb]
  | tkCnt p c field value =>
    have hfield := cntFits_field hi
    cases h
    rw [decodePhaseRaw_tk]
    simp [decodeTk, hfield]
  | tkNop | tkCntTick | tkSend | tkWait | tkSel | tkStitch =>
    cases h
    rw [decodePhaseRaw_tk]
    simp [decodeTk]
  | _ => cases h

end Sys2Proof
end

section
namespace Sys2Proof

/-- Settles O58: each of the three decoders reads the form and its fields off the word that the encoder put together, and then finds that the
form is well-formed and has this word. -/
theorem decodeInvertsEncode : Obligations.DecodeInvertsEncode := by
  intro i hi
  cases h : i.encode with
  | w32 w => simp [decodeWord, decodeRaw_encode h, hi, h]
  | w64 a b => simp [decodeLong, decodeLongRaw_encode h, hi, h]
  | w40 w => simp [decodePhase, decodePhaseRaw_encode hi h, hi, h]
  | none => trivial

/-- Settles O57: the words are closed terms, which the decoders evaluate. -/
theorem decodeWords : Obligations.DecodeWords := by
  unfold Obligations.DecodeWords
  decide

end Sys2Proof
end

section
/-! SUPPORT. Control registers as `cget` and `cset` reach them (R127, R205): what each number reads, who may read and write it, what the two
forms answer. -/

namespace Sys2Proof.Machine

open Sys2Proof

/-! ## The tables -/

/-- A number that names a register reads that register, and asks for its privilege. -/
theorem cgetRule_eq {n : BitVec 16} {r : CReg} (h : cregOf n = some r) (s : State) :
    cgetRule s n.toNat = some (cregRead s s.focus r, cregSupervisor r) := by
  have hn := cregOf_numbered h
  cases r with
  | loopField i f =>
    obtain ⟨hlo, hhi, hi, hf⟩ := hn
    simp (disch := omega) only [cgetRule, ↓if_pos, ↓if_neg, ← hi, ← hf]
    obtain _ | _ | _ | f := f <;> rfl
  | frt w m =>
    obtain ⟨hlo, hhi, hw, hm⟩ := hn
    obtain rfl | rfl | rfl : w = 0 ∨ w = 1 ∨ w = 2 := by omega
    · simp (disch := omega) only [cgetRule, ↓if_pos, ↓if_neg, show n.toNat - 0x0300 = m by omega]
      rfl
    · simp (disch := omega) only [cgetRule, ↓if_pos, ↓if_neg, show n.toNat - 0x0310 = m by omega]
      rfl
    · simp (disch := omega) only [cgetRule, ↓if_pos, ↓if_neg, show n.toNat - 0x0320 = m by omega]
      rfl
  | seed m | hbmMode m | hbmMc m | hbmMp m =>
    obtain ⟨hlo, hhi, hm⟩ := hn
    simp (disch := omega) only [cgetRule, ↓if_pos, ↓if_neg, ← hm]
    rfl
  | _ => rw [show n.toNat = _ from hn]; rfl

/-- A number that names no register is in no row of the table of reads. -/
theorem cgetRule_none {n : BitVec 16} (h : cregOf n = none) (s : State) : cgetRule s n.toNat = none := by
  have hn := cregOf_none h
  simp (disch := omega) only [cgetRule, ↓if_neg]

/-- The privilege that R127 and R87 ask for a write, as the rule has it. -/
theorem mayWrite_eq {n : BitVec 16} {r : CReg} (h : cregOf n = some r) (s : State) :
    mayWrite s s.focus r = csetAllowed s (csetAt n.toNat) := by
  have hn := cregOf_numbered h
  have hsup : (partyPriv s s.focus).isSup = (partyPriv s s.focus != .user) := by cases partyPriv s s.focus <;> rfl
  cases r with
  | loopField | seed | frt | hbmMode | hbmMc | hbmMp =>
    simp only [CReg.Numbered] at hn
    simp (disch := omega) [mayWrite, mayWriteAs, csetAt, csetAllowed, mayMap, cregSupervisor, hsup, hn, if_pos, if_neg]
  | devid | party | tick | xlva | xlinfo | fwhere | fpc | fsum => rw [show n.toNat = _ from hn]; rfl
  | trapcause | trappc | trapval | fact | tvec | tscratch | preempt | save | chalkbase | hwin | gtab | ptroot =>
    rw [show n.toNat = _ from hn]; exact hsup

/-- A register is read at its own privilege (R127). -/
theorem mayRead_iff {s : State} {p : Party} {r : CReg} : mayRead s p r = true ↔ (cregSupervisor r = true → partyPriv s p ≠ .user) := by
  have hsup : (partyPriv s p).isSup = true ↔ partyPriv s p ≠ .user := by cases partyPriv s p <;> decide
  cases hr : cregSupervisor r <;> simp [mayRead, hr, hsup]

/-! ## Trips after a write -/

/-- A slot after another or itself is replaced. -/
theorem slot_setSlot (t : Thread) (i j : Nat) (h : LoopSlot) :
    (t.setSlot i h).slot j = if i % 4 = j % 4 then h else t.slot j := by
  simp [Thread.slot, Thread.setSlot, Vector.getElem_set]

/-- A write to a field of a loop slot leaves what the slot has latched: the same words end a trip (R166, R168). -/
theorem noTrip_loopWritten {i : Instr} {t : Thread} (h : NoTrip i t) (k f : Nat) (v : Word) :
    NoTrip i (t.setSlot k (loopWritten (t.slot k) f v)) := by
  have hlatched : (loopWritten (t.slot k) f v).active = (t.slot k).active ∧ (loopWritten (t.slot k) f v).lstop = (t.slot k).lstop := by
    unfold loopWritten
    split <;> exact ⟨rfl, rfl⟩
  intro j hj
  rw [slot_setSlot]
  split_ifs with hk
  · rw [hlatched.1, hlatched.2, slot_mod, hk, ← slot_mod]
    exact h j hj
  · exact h j hj

/-- A word that ends no trip before a write that the table gives a state for ends none after it. -/
theorem noTrip_csetRule {n : BitVec 16} {r : CReg} (h : cregOf n = some r) {i : Instr} {s u : State} {v : Word}
    (hu : csetRule s n.toNat v = some u) (hs : NoTrip i s.cur) : NoTrip i u.cur := by
  have hn := cregOf_numbered h
  rw [← cregWrite_of_rule h hu]
  cases r with
  | preempt | frt | hbmMode | hbmMc | hbmMp =>
    simp only [CReg.Numbered] at hn
    simp (disch := omega) [csetRule, hn, if_pos, if_neg] at hu
  | loopField k f =>
    rw [cregWrite, writeLoopField_eq, ← setCur_eq, cur_setCur]
    exact noTrip_loopWritten hs k f v
  | tscratch =>
    rw [cregWrite, ← setCur_eq, cur_setCur]
    exact hs
  | fact =>
    rw [cregWrite, writeFact_eq]
    split_ifs <;> exact hs
  | _ => exact hs

/-! ## The forms -/

section
variable {d a : Reg} {n : BitVec 16} {r : CReg} {s : State}

theorem exec_cget_some (h : cregOf n = some r) : exec (.cget d n) s = issue (.cget d n) s fun s =>
    if mayRead s s.focus r then .ok (s.setG d (cregRead s s.focus r)) else trapOf .priv (wordVal (.cget d n)) := by
  change execCget d n s = _
  simp only [execCget, h]

theorem exec_cset_some (h : cregOf n = some r) : exec (.cset a n) s = issue (.cset a n) s fun s =>
    if mayWrite s s.focus r then .ok (cregWrite s s.focus r (s.g a)) else trapOf .priv (wordVal (.cset a n)) := by
  change execCset a n s = _
  simp only [execCset, h]

theorem cget_illegal (h : cregOf n = none) (hi : MayIssue (.cget d n) s) : Traps (.cget d n) s .illegal (wordOfForm (.cget d n)) := by
  refine ends_trap hi (fun _ => trapOf .illegal (wordVal (.cget d n))) ?_ (by rw [trapOf, wordVal_eq])
  change execCget d n s = _
  simp only [execCget, h]

theorem cset_illegal (h : cregOf n = none) (hi : MayIssue (.cset a n) s) : Traps (.cset a n) s .illegal (wordOfForm (.cset a n)) := by
  refine ends_trap hi (fun _ => trapOf .illegal (wordVal (.cset a n))) ?_ (by rw [trapOf, wordVal_eq])
  change execCset a n s = _
  simp only [execCset, h]

theorem cget_runs (h : cregOf n = some r) (hi : Issues (.cget d n) s) (hr : mayRead s s.focus r = true) :
    RunsTo (.cget d n) s (pastWord (.cget d n) (s.cur.put d (cregRead s s.focus r))) :=
  leaves_setG hi.toMayIssue _ (exec_cget_some h) (if_pos hr) hi.noTrip

theorem cget_priv (h : cregOf n = some r) (hi : MayIssue (.cget d n) s) (hr : ¬ mayRead s s.focus r = true) :
    Traps (.cget d n) s .priv (wordOfForm (.cget d n)) :=
  ends_trap hi _ (exec_cget_some h) (by rw [if_neg hr, trapOf, wordVal_eq])

theorem cset_leaves (h : cregOf n = some r) (hi : MayIssue (.cset a n) s) (hw : mayWrite s s.focus r = true)
    (hn : NoTrip (.cset a n) (cregWrite s s.focus r (s.g a)).cur) :
    Leaves (.cset a n) s (cregWrite s s.focus r (s.g a)) (pastWord (.cset a n) (cregWrite s s.focus r (s.g a)).cur) :=
  leaves_ok hi _ (exec_cset_some h) (if_pos hw) hn

theorem cset_priv (h : cregOf n = some r) (hi : MayIssue (.cset a n) s) (hw : ¬ mayWrite s s.focus r = true) :
    Traps (.cset a n) s .priv (wordOfForm (.cset a n)) :=
  ends_trap hi _ (exec_cset_some h) (by rw [if_neg hw, trapOf, wordVal_eq])

end

end Sys2Proof.Machine
end

section
namespace Sys2Proof

open Machine

/-- Settles O13: the number names a register, which is read or asks for more privilege than the party has, or it names none. What a slice engine
reads in `c.party` and in the fields of loop slots (log 117), and how its `cget` that traps is reported (log 129), are the model's choices. -/
theorem cgetReadsRegisters : Obligations.CgetReadsRegisters := by
  intro d n s hi
  dsimp only
  cases h : cregOf n with
  | none =>
    rw [cgetRule_none h]
    exact ⟨nofun, nofun, fun _ => cget_illegal h hi.toMayIssue⟩
  | some r =>
    rw [cgetRule_eq h]
    refine ⟨?_, ?_, nofun⟩
    · rintro v sup ⟨⟩ hpriv
      exact cget_runs h hi (mayRead_iff.mpr hpriv)
    · intro v hv hpriv
      obtain ⟨-, hsup⟩ : _ ∧ cregSupervisor r = true := by simpa using hv
      exact cget_priv h hi.toMayIssue fun hr => mayRead_iff.mp hr hsup hpriv

/-- Settles O14: the number names a register, whose write is that of the table or of its step, or asks for more privilege than the party has; or it
names none. That a user's write of a register marked ignored raises no trap is the model's reading (log 32). -/
theorem csetWritesRegisters : Obligations.CsetWritesRegisters := by
  intro a n s hi
  dsimp only
  cases h : cregOf n with
  | none =>
    have hk := cregOf_none h
    rw [cgetRule_none h]
    refine ⟨fun u _ hu => ?_, fun i _ hstep => ?_, nofun, fun _ => cset_illegal h hi.toMayIssue⟩
    · simp (disch := omega) [csetRule, if_neg] at hu
    · rcases hstep with ⟨hk', _⟩ | ⟨hlo, hhi, _⟩ | ⟨hk', _⟩ <;> omega
  | some r =>
    rw [← mayWrite_eq h, cgetRule_eq h]
    refine ⟨fun u hw hu => ?_, fun i hw hstep => ?_, fun _ hw => ?_, nofun⟩
    · have hn := noTrip_csetRule h hu hi.noTrip
      rw [← cregWrite_of_rule h hu] at hn ⊢
      exact cset_leaves h hi.toMayIssue hw hn
    · exact ⟨_, exec_of_csetStep h hstep, fun _ hn => cset_leaves h hi.toMayIssue hw hn⟩
    · exact cset_priv h hi.toMayIssue (by simp [hw])

end Sys2Proof
end

section
/-! SUPPORT. The values of the alu group and of the immediate forms as the rules' tables have them (R131, R161, R162). -/

namespace Sys2Proof.Machine

open Sys2Proof

/-! ## Immediates and conditions -/

theorem sext64_eq {n : Nat} (b : BitVec n) : sext64 b = BitVec.ofInt 64 b.toInt := rfl

theorem zext64_eq_ofNat {n : Nat} (b : BitVec n) : zext64 b = BitVec.ofNat 64 b.toNat := by
  apply BitVec.eq_of_toNat_eq
  simp [zext64]

theorem toNat_zeroExtended (b : BitVec 16) : (BitVec.ofNat 64 b.toNat).toNat = b.toNat := by
  rw [← zext64_eq_ofNat]
  exact BitVec.toNat_setWidth_of_le (by decide)

theorem toInt_signExtended (b : BitVec 16) : (BitVec.ofInt 64 b.toInt).toInt = b.toInt :=
  BitVec.toInt_signExtend_of_le (by decide)

theorem ccHolds_eq (cc : CC) (a b : Word) : ccHolds cc a b = ruleHolds cc a b := by
  have heq : (a == b) = decide (a.toNat = b.toNat) := (Bool.beq_eq_decide_eq a b).trans (decide_eq_decide.mpr BitVec.toNat_eq)
  cases cc <;> simp only [ccHolds, ruleHolds, BitVec.slt, BitVec.ult, bne, heq, ← decide_not, Int.not_lt, Nat.not_lt, ne_eq]

theorem boolWord_ccHolds (cc : CC) (a b : Word) : boolWord (ccHolds cc a b) = if ruleHolds cc a b then 1#64 else 0#64 := by
  rw [ccHolds_eq, boolWord]

/-! ## Sums, products and quotients -/

theorem ofInt_sub_toInt (a b : Word) : BitVec.ofInt 64 (a.toInt - b.toInt) = a - b := by
  rw [Int.sub_eq_add_neg, BitVec.ofInt_add, BitVec.ofInt_neg, BitVec.ofInt_toInt, BitVec.ofInt_toInt, BitVec.sub_eq_add_neg]

theorem eq_zero_iff_toNat (b : Word) : b = 0#64 ↔ b.toNat = 0 := BitVec.toNat_eq

/-- The quotient of the least value by −1 is the one whose true value does not fit: it wraps (R161). -/
theorem divS_eq (a b : Word) : divS a b =
    if b.toNat = 0 then BitVec.allOnes 64
    else if a.toInt = -(2 ^ 63) ∧ b.toInt = -1 then BitVec.ofInt 64 (-(2 ^ 63))
    else BitVec.ofInt 64 (a.toInt.tdiv b.toInt) := by
  simp only [divS, eq_zero_iff_toNat]
  split_ifs with h0 hmin
  · rfl
  · rw [hmin.1, hmin.2]; decide
  · rfl

theorem remS_eq (a b : Word) : remS a b =
    if b.toNat = 0 then a
    else if a.toInt = -(2 ^ 63) ∧ b.toInt = -1 then 0#64
    else BitVec.ofInt 64 (a.toInt - b.toInt * a.toInt.tdiv b.toInt) := by
  simp only [remS, eq_zero_iff_toNat]
  split_ifs with h0 hmin
  · rfl
  · rw [hmin.1, hmin.2]; decide
  · rw [Int.tmod_def]

theorem divU_eq (a b : Word) : divU a b = if b.toNat = 0 then BitVec.allOnes 64 else BitVec.ofNat 64 (a.toNat / b.toNat) := by
  simp only [divU, eq_zero_iff_toNat]

theorem remU_eq (a b : Word) : remU a b = if b.toNat = 0 then a else BitVec.ofNat 64 (a.toNat % b.toNat) := by
  simp only [remU, eq_zero_iff_toNat]

/-! ## The smaller and the larger -/

theorem minS_eq (a b : Word) : minS a b = if a.toInt ≤ b.toInt then a else b := by simp only [minS, BitVec.sle, decide_eq_true_eq]
theorem maxS_eq (a b : Word) : maxS a b = if a.toInt ≤ b.toInt then b else a := by simp only [maxS, BitVec.sle, decide_eq_true_eq]
theorem minU_eq (a b : Word) : minU a b = if a.toNat ≤ b.toNat then a else b := by simp only [minU, BitVec.ule, decide_eq_true_eq]
theorem maxU_eq (a b : Word) : maxU a b = if a.toNat ≤ b.toNat then b else a := by simp only [maxU, BitVec.ule, decide_eq_true_eq]

/-! ## Shifts, rotations and fields -/

theorem shl_eq_ofNat (a : Word) (n : Nat) : a <<< n = BitVec.ofNat 64 (a.toNat * 2 ^ n) := by
  apply BitVec.eq_of_toNat_eq
  rw [BitVec.toNat_shiftLeft, Nat.shiftLeft_eq, BitVec.toNat_ofNat]

theorem shr_eq_ofNat (a : Word) (n : Nat) : a >>> n = BitVec.ofNat 64 (a.toNat / 2 ^ n) := by
  rw [← Nat.shiftRight_eq_div_pow, ← BitVec.toNat_ushiftRight, BitVec.ofNat_toNat, BitVec.setWidth_eq]

theorem sra_eq_ofInt (a : Word) (n : Nat) : a.sshiftRight n = BitVec.ofInt 64 (a.toInt / 2 ^ n) := by
  rw [BitVec.sshiftRight, Int.shiftRight_eq_div_pow]
  norm_cast

theorem rotateRight_eq_ruleRor (a : Word) {n : Nat} (h : n < 64) : a.rotateRight n = ruleRor a n := by
  rw [BitVec.rotateRight_def, Nat.mod_eq_of_lt h, ruleRor]

theorem rotateLeft_eq_ruleRor (a : Word) {n : Nat} (h : n < 64) : a.rotateLeft n = ruleRor a (64 - n) := by
  rw [BitVec.rotateLeft_def, Nat.mod_eq_of_lt h, ruleRor, Nat.sub_sub_self h.le, BitVec.or_comm]

theorem shAmt_eq (b : Word) : shAmt b = b.toNat % 64 := by
  rw [shAmt, bitsOf_eq, Nat.pow_zero, Nat.div_one]; rfl

theorem fieldWidth_eq (b : Word) : fieldWidth b = b.toNat / 256 % 64 + 1 := by
  rw [fieldWidth, bitsOf_eq]; rfl

theorem binsVal_eq (d a b : Word) : binsVal d a b = BitVec.ofFnLE fun j : Fin 64 =>
    let p := b.toNat % 64
    if p ≤ j.val ∧ j.val < p + (b.toNat / 256 % 64 + 1) then a.getLsbD (j.val - p) else d.getLsbD j.val := by
  apply BitVec.eq_of_getLsbD_eq
  intro j hj
  have hmask : (BitVec.ofNat 64 ((2 ^ fieldWidth b - 1) * 2 ^ shAmt b)).getLsbD j =
      decide (shAmt b ≤ j ∧ j < shAmt b + fieldWidth b) := by
    rw [BitVec.getLsbD_ofNat, ← Nat.shiftLeft_eq, Nat.testBit_shiftLeft, Nat.testBit_two_pow_sub_one]
    simp only [hj, decide_true, Bool.true_and, ← Bool.decide_and, decide_eq_decide]
    omega
  simp only [binsVal, BitVec.getLsbD_or, BitVec.getLsbD_and, BitVec.getLsbD_not, BitVec.getLsbD_shiftLeft, hmask, BitVec.getLsbD_ofFnLE, hj,
    dif_pos, ← shAmt_eq, ← fieldWidth_eq]
  split_ifs with h
  · simp [h]
  · simp [h]

/-! ## Counts of bits -/

theorem bitAt_eq_testBit (x i : Nat) : bitAt x i = x.testBit i := by
  rw [bitAt, Nat.testBit_eq_decide_div_mod_eq, Bool.beq_eq_decide_eq]

theorem bitAt_toNat (a : Word) (i : Nat) : bitAt a.toNat i = a.getLsbD i := by rw [bitAt_eq_testBit, BitVec.testBit_toNat]

/-- The first number below `n + 1` that passes a test: 0, or one past the first that passes it one further on. -/
theorem find_range_succ (f : Nat → Bool) (n : Nat) : ((List.range (n + 1)).find? f).getD (n + 1) =
    if f 0 then 0 else 1 + ((List.range n).find? fun i => f (i + 1)).getD n := by
  rw [List.range_succ_eq_map, List.find?_cons, List.find?_map]
  cases hf : f 0 with
  | true => rfl
  | false =>
    have hcomp : (f ∘ Nat.succ) = fun i => f (i + 1) := rfl
    rw [hcomp]
    cases (List.range n).find? fun i => f (i + 1) <;> simp [Nat.add_comm]

theorem leadZeros_eq (a n : Nat) : leadZeros a n = ((List.range n).find? fun i => bitAt a (n - 1 - i)).getD n := by
  induction n with
  | zero => rfl
  | succ n ih =>
    have hnext : (fun i => bitAt a (n + 1 - 1 - (i + 1))) = fun i => bitAt a (n - 1 - i) := funext fun i => by congr 1; omega
    rw [find_range_succ, hnext, ← ih]
    rfl

theorem trailZeros_eq (a n : Nat) : ∀ i, trailZeros a i n = ((List.range n).find? fun j => bitAt a (i + j)).getD n := by
  induction n with
  | zero => exact fun _ => rfl
  | succ n ih =>
    intro i
    have hnext : (fun j => bitAt a (i + (j + 1))) = fun j => bitAt a (i + 1 + j) := funext fun j => by congr 1; omega
    rw [find_range_succ, hnext, ← ih]
    rfl

theorem popBits_eq (a n : Nat) : popBits a n = (List.range n).countP fun i => bitAt a i := by
  induction n with
  | zero => rfl
  | succ n ih => simp only [popBits, ih, List.range_succ, List.countP_append, List.countP_singleton]

theorem clz_eq (a : Word) : BitVec.ofNat 64 (leadZeros a.toNat 64) = ruleFirst fun i => a.getLsbD (63 - i) := by
  simp only [leadZeros_eq, bitAt_toNat, ruleFirst]

theorem ctz_eq (a : Word) : BitVec.ofNat 64 (trailZeros a.toNat 0 64) = ruleFirst fun i => a.getLsbD i := by
  simp only [trailZeros_eq, bitAt_toNat, ruleFirst, Nat.zero_add]

theorem popc_eq (a : Word) : popBits a.toNat 64 = (List.range 64).countP fun i => a.getLsbD i := by
  simp only [popBits_eq, bitAt_toNat]

/-! ## The two tables -/

/-- Every form of the alu group sets its register to the value of the table (R161). -/
theorem exec_alu {i : Instr} {s : State} {d : Reg} {v : Word} (h : aluRule s.g i = some (d, v)) : exec i s = setting i s d v := by
  have hlt (b : Word) : b.toNat % 64 < 64 := Nat.mod_lt _ (by decide)
  unfold aluRule at h
  split at h <;> cases h <;> refine congrArg (setting _ s _) ?_ <;>
    simp only [BitVec.ofNat_add, BitVec.ofNat_mul, BitVec.ofNat_toNat, BitVec.setWidth_eq, ofInt_sub_toInt, mulhS, mulhU, divS_eq, divU_eq,
      remS_eq, remU_eq, shAmt_eq, shl_eq_ofNat, shr_eq_ofNat, sra_eq_ofInt, rotateLeft_eq_ruleRor _ (hlt _), rotateRight_eq_ruleRor _ (hlt _),
      clz_eq, ctz_eq, popc_eq, minS_eq, maxS_eq, minU_eq, maxU_eq, ne_eq, eq_zero_iff_toNat, boolWord_ccHolds, bextVal, fieldWidth_eq, binsVal_eq]

/-- Every immediate form, and `movi`, sets its register to the value of the table (R162). -/
theorem exec_immediate {i : Instr} {s : State} {d : Reg} {v : Word} (h : immediateRule s.g i = some (d, v)) : exec i s = setting i s d v := by
  have hlt (sh : BitVec 6) : sh.toNat < 64 := sh.isLt
  unfold immediateRule at h
  split at h <;> cases h <;> refine congrArg (setting _ s _) ?_ <;>
    simp only [BitVec.ofInt_add, BitVec.ofInt_mul, BitVec.ofInt_toInt, sext64_eq, zext64_eq_ofNat, shl_eq_ofNat, shr_eq_ofNat, sra_eq_ofInt,
      rotateRight_eq_ruleRor _ (hlt _), boolWord_ccHolds, minS_eq, maxS_eq, minU_eq, maxU_eq, toNat_zeroExtended, toInt_signExtended]

end Sys2Proof.Machine
end

section
/-! PROOFS. Integer and address arithmetic. -/

namespace Sys2Proof

open Machine

/-- Settles O1: a form of either group has its register's value as its whole effect. -/
theorem arithmeticResults : Obligations.ArithmeticResults :=
  ⟨fun _ _ d v h hi => by rw [RunsTo, Leaves, Ends, exec_alu h]; exact setting_runs hi d v,
    fun _ _ d v h hi => by rw [RunsTo, Leaves, Ends, exec_immediate h]; exact setting_runs hi d v⟩

end Sys2Proof
end

section
/-! SUPPORT. Branches and calls (R163): the target, what the thread is after the transfer. -/

namespace Sys2Proof

open Machine

theorem relTarget_eq_ruleTarget {n : Nat} (pc : Word) (off : BitVec n) : relTarget pc off = ruleTarget pc off := by
  simp [relTarget, ruleTarget, sext64_eq, BitVec.ofInt_add, BitVec.ofInt_mul]

/-- A decision leaves everything but the thread's signature (R203). -/
theorem elsewhere_sign (s : State) (b : Bool) : Elsewhere s (s.sign b) := elsewhere_setCur s _

@[simp] theorem cur_sign (s : State) (b : Bool) : (s.sign b).cur = s.cur.sign b := cur_setCur s _

@[simp] theorem cur_setG (s : State) (d : Reg) (v : Word) : (s.setG d v).cur = s.cur.put d v := cur_setCur s _

section
variable {i : Instr} {s u : State} {pc : Word}

/-- A form that branches runs to the target, its thread otherwise as the state it branches from has it. -/
theorem branch_runs (hi : MayIssue i s) (body : State → Res) (he : exec i s = issue i s body) (hu : Elsewhere s u)
    (hb : body s = branchTo u pc) : RunsTo i s { u.cur with pc := pc } := by
  have h := leaves_jump hi body he hb
  rw [cur_countFor] at h
  exact runs_of_leaves h (elsewhere_trans hu (elsewhere_countFor _ _ _ _))

end

theorem exec_br (off : BitVec 26) (s : State) :
    exec (.br off) s = issue (.br off) s fun s => branchTo s (relTarget s.cur.pc off) := rfl

theorem exec_jal (off : BitVec 26) (s : State) :
    exec (.jal off) s = issue (.jal off) s fun s => branchTo (s.setG 1#5 (s.cur.pc + 4#64)) (relTarget s.cur.pc off) := rfl

theorem exec_jalr (d a : Reg) (imm : BitVec 16) (s : State) : exec (.jalr d a imm) s = issue (.jalr d a imm) s fun s =>
    if aligned (s.g a + sext64 imm) 4 then branchTo (s.setG d (s.cur.pc + 4#64)) (s.g a + sext64 imm)
    else trapOf .align (s.g a + sext64 imm) := rfl

theorem exec_bcc (cc : CC) (a b : Reg) (off : BitVec 12) (s : State) : exec (.bcc cc a b off) s = issue (.bcc cc a b off) s fun s =>
    if ccHolds cc (s.g a) (s.g b) then branchTo (s.sign true) (relTarget s.cur.pc off) else .ok (s.sign false) := rfl

theorem exec_nop (s : State) : exec .nop s = issue .nop s fun s => .ok s := rfl

theorem aligned_eq_true {A : Word} {n : Nat} : aligned A n = true ↔ A.toNat % n = 0 := by simp [aligned]

/-- No slot ends at the word of a thread that differs in its signature alone. -/
theorem noTrip_sign {i : Instr} {t : Thread} (h : NoTrip i t) (b : Bool) : NoTrip i (t.sign b) := h

/-- A `bcc` runs to its target or to the next word, its outcome in the signature (R163, R203). -/
theorem bcc_runs {cc : CC} {a b : Reg} {off : BitVec 12} {s : State} (hi : MayIssue (.bcc cc a b off) s) :
    (ruleHolds cc (s.g a) (s.g b) = true → RunsTo (.bcc cc a b off) s { s.cur.sign true with pc := ruleTarget s.cur.pc off }) ∧
    (ruleHolds cc (s.g a) (s.g b) = false → NoTrip (.bcc cc a b off) s.cur →
      RunsTo (.bcc cc a b off) s { s.cur.sign false with pc := s.cur.pc + 4#64 }) := by
  refine ⟨fun hc => ?_, fun hc hn => ?_⟩
  · have h := branch_runs hi _ (exec_bcc cc a b off s) (elsewhere_sign s true) (by rw [ccHolds_eq, if_pos hc])
    rwa [cur_sign, relTarget_eq_ruleTarget] at h
  · have h := leaves_ok_elsewhere hi _ (exec_bcc cc a b off s) (by rw [ccHolds_eq, if_neg (by simp [hc])]) (elsewhere_sign s false)
      (by rw [cur_sign]; exact noTrip_sign hn false)
    rwa [cur_sign] at h

/-- `jalr` runs to its target with the link set, and traps where the target is no word's address (R163). -/
theorem jalr_runs {d a : Reg} {imm : BitVec 16} {s : State} (hi : MayIssue (.jalr d a imm) s) :
    let t : Word := s.g a + BitVec.ofInt 64 imm.toInt
    (t.toNat % 4 = 0 → RunsTo (.jalr d a imm) s { s.cur.put d (s.cur.pc + 4#64) with pc := t }) ∧
    (t.toNat % 4 ≠ 0 → Traps (.jalr d a imm) s .align t) := by
  refine ⟨fun ht => ?_, fun ht => ?_⟩
  · have h := branch_runs hi _ (exec_jalr d a imm s) (elsewhere_setCur s _) (if_pos (aligned_eq_true.mpr ht))
    rwa [cur_setCur] at h
  · exact ends_trap hi _ (exec_jalr d a imm s) (if_neg (mt aligned_eq_true.mp ht))

end Sys2Proof
end

section
/-! PROOFS. Branches and calls. -/

namespace Sys2Proof

open Machine

/-- Settles O2, form by form. -/
theorem flowFormsComplete : Obligations.FlowFormsComplete := by
  refine ⟨?_, fun d a imm s hi => (jalr_runs hi).2⟩
  intro i s th h hi htrip
  match i, h with
  | .br off, rfl =>
    have hrun := branch_runs hi _ (exec_br off s) (elsewhere_refl s) rfl
    rwa [relTarget_eq_ruleTarget] at hrun
  | .jal off, rfl =>
    have hrun := branch_runs hi _ (exec_jal off s) (elsewhere_setCur s _) rfl
    rwa [relTarget_eq_ruleTarget, cur_setCur] at hrun
  | .jalr d a imm, h =>
    obtain ⟨ht, ⟨⟩⟩ := Option.ite_none_right_eq_some.mp h
    exact (jalr_runs hi).1 ht
  | .bcc cc a b off, h =>
    cases hc : ruleHolds cc (s.g a) (s.g b) with
    | true =>
      obtain rfl : _ = th := Option.some.inj ((if_pos hc).symm.trans h)
      exact (bcc_runs hi).1 hc
    | false =>
      obtain rfl : _ = th := Option.some.inj ((if_neg (by simp [hc])).symm.trans h)
      exact (bcc_runs hi).2 hc (htrip.resolve_left (by simp [transfers, hc]))
  | .nop, rfl => exact leaves_ok hi _ (exec_nop s) rfl (htrip.resolve_left (by simp [transfers]))

end Sys2Proof
end

section
/-! SUPPORT. The entry of a loop slot (R136, R167): its limits, what it refuses, the thread after it. -/

namespace Sys2Proof

open Machine

theorem bodyOk_eq_false {st en : Word} : bodyOk st en = false ↔
    st.toNat % 4 ≠ 0 ∨ en.toNat % 4 ≠ 0 ∨ en.toNat < st.toNat ∨ 32768 ≤ (en.toNat - st.toNat) / 4 := by
  simp only [bodyOk, aligned, Bool.and_eq_false_iff, beq_eq_false_iff_ne, decide_eq_false_iff_not, or_assoc, Nat.not_le, Nat.not_lt]

/-- The entry of a slot at limits that are known: `enterLoop` from there on. -/
def enterAt (s : State) (slot : Nat) (bound : BitVec 24) (exits : Bool) (l : Word × Word × Word) : Res :=
  let h : LoopSlot := ⟨l.1, l.2.1, l.2.2, l.2.2, l.1, l.2.1, l.2.2, false, false, false, l.2.2 != 0#64, exits⟩
  if bound = 0#24 ∨ (exits = false ∧ bound.toNat < l.2.2.toNat) ∨ bodyOk l.1 l.2.1 = false then
    trapOf .loopSpec (s.cur.pc + BitVec.ofNat 64 slot)
  else if l.2.2 = 0#64 then .jump (s.setCur (s.cur.setSlot slot h)) (l.2.1 + 4#64)
  else .jump (s.setCur { s.cur.setSlot slot h with order := slot :: s.cur.order.filter fun j => j != slot }) l.1

section
variable {s : State} {slot : Nat} {e : BitVec 15} {bound : BitVec 24} {n : Word} {counted : Bool}

theorem enterLoop_eq_enterAt (s : State) (slot : Nat) (e : BitVec 15) (bound : BitVec 24) (n : Word) (counted : Bool) :
    enterLoop s slot e bound n (!counted) = enterAt s slot bound (!counted) (loopLimits s slot e n counted) := by
  have hstop : s.cur.pc + 8#64 + BitVec.ofNat 64 (4 * e.toNat) = s.cur.pc + 8#64 + 4#64 * zext64 e := by
    rw [zext64_eq_ofNat, BitVec.ofNat_mul]
  have hcount : (counted && (s.cur.slot slot).pcount) = ((s.cur.slot slot).pcount && !!counted) := by rw [Bool.not_not, Bool.and_comm]
  rw [loopLimits, hstop, hcount]
  rfl

theorem enterAt_refuses {l : Word × Word × Word} :
    (bound = 0#24 ∨ ((!counted) = false ∧ bound.toNat < l.2.2.toNat) ∨ bodyOk l.1 l.2.1 = false) ↔ loopRefused bound counted l := by
  rw [bodyOk_eq_false, Bool.not_eq_false', BitVec.toNat_eq]
  rfl

/-- A loop form traps on limits that it refuses. -/
theorem loop_refused {i : Instr} (hi : MayIssue i s) (he : exec i s = issue i s fun s => enterLoop s slot e bound n (!counted))
    (h : loopRefused bound counted (loopLimits s slot e n counted)) :
    Traps i s .loopSpec (s.cur.pc + BitVec.ofNat 64 slot) :=
  ends_trap hi _ he ((enterLoop_eq_enterAt s slot e bound n counted).trans (if_pos (enterAt_refuses.mpr h)))

/-- A form that jumps from a state in which the thread alone has changed. -/
theorem jump_runs {i : Instr} {t : Thread} {pc : Word} (hi : MayIssue i s) (body : State → Res) (he : exec i s = issue i s body)
    (hb : body s = .jump (s.setCur t) pc) : RunsTo i s { t with pc := pc } := by
  have h := leaves_jump hi body he hb
  rw [cur_setCur] at h
  exact runs_of_leaves h (elsewhere_setCur s t)

/-- A loop form enters its slot with limits that it takes. -/
theorem loop_enters {i : Instr} (hi : MayIssue i s) (body : State → Res) (he : exec i s = issue i s body)
    (hb : body s = enterLoop s slot e bound n (!counted)) (h : ¬ loopRefused bound counted (loopLimits s slot e n counted)) :
    RunsTo i s (loopEntered s slot counted (loopLimits s slot e n counted)) := by
  rw [enterLoop_eq_enterAt, enterAt, if_neg (mt enterAt_refuses.mp h)] at hb
  by_cases h0 : (loopLimits s slot e n counted).2.2 = 0#64
  · rw [if_pos h0] at hb
    rw [loopEntered, if_pos (eq_zero_iff_toNat _ |>.mp h0)]
    exact jump_runs hi body he hb
  · rw [if_neg h0] at hb
    rw [loopEntered, if_neg (mt (eq_zero_iff_toNat _).mpr h0)]
    exact jump_runs hi body he hb

end

theorem exec_loop (slot : BitVec 2) (a : Reg) (e : BitVec 15) (bound : BitVec 24) (s : State) : exec (.loop slot a e bound) s =
    issue (.loop slot a e bound) s fun s => enterLoop s slot.toNat e bound (s.g a) (!true) := rfl

theorem exec_loopw (slot : BitVec 2) (e : BitVec 15) (bound : BitVec 24) (s : State) : exec (.loopw slot e bound) s =
    issue (.loopw slot e bound) s fun s => enterLoop s slot.toNat e bound (BitVec.ofNat 64 bound.toNat) (!false) := by
  rw [← zext64_eq_ofNat]; rfl

end Sys2Proof
end

section
/-! PROOFS. The loop forms. -/

namespace Sys2Proof

open Machine

/-- Settles O3: both forms enter a slot by the one rule, a `loopw` with its bound as its count. -/
theorem loopFormsEnter : Obligations.LoopFormsEnter := by
  constructor
  · intro slot a e bound s i l hi
    exact ⟨fun h => loop_refused hi (exec_loop slot a e bound s) h, loop_enters hi _ (exec_loop slot a e bound s) rfl⟩
  · intro slot e bound s i l hi
    exact ⟨loop_refused hi (exec_loopw slot e bound s), loop_enters hi _ (exec_loopw slot e bound s) rfl⟩

end Sys2Proof
end

section
/-! SUPPORT. The end of a trip (R168): which slot it is of, and how the instruction ends by it. -/

namespace Sys2Proof

open Machine

theorem slot_setSlot_other (t : Thread) (h : LoopSlot) {i j : Nat} (hij : j % 4 ≠ i % 4) : (t.setSlot i h).slot j = t.slot j :=
  Vector.getElem_set_ne (Nat.mod_lt _ (by decide)) (Nat.mod_lt _ (by decide)) (Ne.symm hij)

/-! ## The walk over the slots in entry order -/

section
variable {addrs : List Word} {rest : List Nat} {t : Thread} {n j : Nat}

/-- Slots that do not end at the word are passed over. -/
theorem tripEnds_skip {before : List Nat} (h : ∀ k ∈ before, ((t.slot k).active && addrs.contains (t.slot k).lstop) = false) :
    tripEnds addrs (before ++ rest) t n = tripEnds addrs rest t n := by
  induction before with
  | nil => rfl
  | cons k ks ih =>
    rw [List.cons_append, tripEnds, if_neg (by rw [h k List.mem_cons_self]; decide)]
    exact ih fun k' hk' => h k' (List.mem_cons_of_mem k hk')

/-- A slot with trips left branches back. -/
theorem tripEnds_again (h : ((t.slot j).active && addrs.contains (t.slot j).lstop) = true) (hl : 2 ≤ (t.slot j).left.toNat) :
    tripEnds addrs (j :: rest) t n =
      ({ (t.setSlot j { t.slot j with left := (t.slot j).left - 1#64 }).sign true with pc := (t.slot j).lstart }, n + 1, none) := by
  have h0 : (t.slot j).left ≠ 0#64 := by bv_omega
  have h1 : (t.slot j).left - 1#64 ≠ 0#64 := by bv_omega
  simp only [tripEnds, h, if_true, if_neg h0, if_pos h1]

/-- A slot on its last trip is left. -/
theorem tripEnds_last (h : ((t.slot j).active && addrs.contains (t.slot j).lstop) = true) (hl : (t.slot j).left.toNat ≤ 1) :
    tripEnds addrs (j :: rest) t n = if (t.slot j).exits then
      ({ slotLeft t j with pc := (t.slot j).lstop + 4#64 }, n + 1,
        some ⟨.loopBound, (t.slot j).lstart + BitVec.ofNat 64 (j % 4), none⟩)
      else tripEnds addrs rest (slotLeft t j) (n + 1) := by
  have h1 : ¬ (if (t.slot j).left = 0#64 then 0#64 else (t.slot j).left - 1#64) ≠ 0#64 := by
    split_ifs <;> bv_omega
  simp only [tripEnds, h, if_true, if_neg h1]
  rfl

end

/-! ## The forms -/

/-- A form that needs no privilege, stitches nothing and commits nothing. -/
abbrev isPlain (i : Instr) : Prop := needsSupervisor i = false ∧ stitches i = false ∧ commitAfter i = false

theorem isPlain_of_alu {g : Reg → Word} {i : Instr} {r : Reg × Word} (h : aluRule g i = some r) : isPlain i := by
  unfold aluRule at h
  split at h <;> cases h <;> exact ⟨rfl, rfl, rfl⟩

theorem isPlain_of_immediate {g : Reg → Word} {i : Instr} {r : Reg × Word} (h : immediateRule g i = some r) : isPlain i := by
  unfold immediateRule at h
  split at h <;> cases h <;> exact ⟨rfl, rfl, rfl⟩

/-- The thread of a form that moves no slot: its pc, its loops and their order stand. -/
structure SameLoops (t th : Thread) : Prop where
  pc : th.pc = t.pc
  order : th.order = t.order
  slot : ∀ j, th.slot j = t.slot j

theorem sameLoops_put (t : Thread) (d : Reg) (v : Word) : SameLoops t (t.put d v) :=
  ⟨pc_put t d v, by unfold Thread.put; split <;> rfl, slot_put t d v⟩

/-- A form of `plainRule` is plain, and its body changes the thread alone. -/
theorem exec_plainRule {i : Instr} {s : State} {th : Thread} (h : plainRule s i = some th) :
    isPlain i ∧ SameLoops s.cur th ∧ ∃ body u, exec i s = issue i s body ∧ body s = .ok u ∧ Elsewhere s u ∧ u.cur = th := by
  unfold plainRule at h
  split at h
  case h_1 d v _ ha =>
    obtain rfl := Option.some.inj h
    exact ⟨isPlain_of_alu ha, sameLoops_put .., _, _, exec_alu ha, rfl, elsewhere_setCur s _, cur_setG ..⟩
  case h_2 d v _ hm =>
    obtain rfl := Option.some.inj h
    exact ⟨isPlain_of_immediate hm, sameLoops_put .., _, _, exec_immediate hm, rfl, elsewhere_setCur s _, cur_setG ..⟩
  case h_3 =>
    match i, h with
    | .nop, rfl => exact ⟨⟨rfl, rfl, rfl⟩, ⟨rfl, rfl, fun _ => rfl⟩, _, _, exec_nop s, rfl, elsewhere_refl s, rfl⟩
    | .bcc cc a b off, h =>
      obtain ⟨hc, ⟨⟩⟩ := Option.ite_none_left_eq_some.mp h
      exact ⟨⟨rfl, rfl, rfl⟩, ⟨rfl, rfl, fun _ => rfl⟩, _, _, exec_bcc cc a b off s, by rw [ccHolds_eq, if_neg hc], elsewhere_sign s false,
        cur_sign s false⟩

/-- A plain form that its party may issue ends by its retirement alone. -/
theorem issue_plain {i : Instr} {s u : State} {body : State → Res} (hm : mayIssue s.focus i = true) (hp : isPlain i)
    (hb : body s = .ok u) : issue i s body = .next (noteIssue (retire i u)) := by
  obtain ⟨hsup, hst, hc⟩ := hp
  have hi : MayIssue i s := ⟨hm, by simp [hsup], by simp [stitchWaits, hst]⟩
  have hcommit (v : State) : commitShadow i v = v := by unfold commitShadow; split <;> simp [hc]
  rw [issue_eq hi, hb, finishRes, hcommit]

/-- A retirement with an active slot takes what the walk over the slots answers. -/
theorem retire_trips {i : Instr} {u : State} {j : Nat} (ha : (u.cur.slot j).active = true) {t : Thread} {n : Nat} {tr : Option Trap}
    (hw : tripEnds (tripAddrs i u.cur.pc) u.cur.order (pastWord i u.cur) 0 = (t, n, tr)) :
    retire i u = tr.elim (countFor (u.setCur t) u.focus 90 n) (raise (countFor (u.setCur t) u.focus 90 n)) := by
  have hall : (u.cur.loops.toList.all fun h => !h.active) = false := by
    rw [List.all_eq_false]
    exact ⟨u.cur.slot j, Vector.mem_toList_iff.mpr (Vector.getElem_mem _), by simp [ha]⟩
  unfold pastWord at hw
  simp only [retire, hall, Bool.false_eq_true, if_false, hw]
  cases tr <;> rfl

/-- A plain form whose word ends a trip ends as the walk over the slots from the first that ends there answers. -/
theorem exec_tripEnd {i : Instr} {s : State} {th : Thread} {j : Nat} {before after : List Nat} (h : plainRule s i = some th)
    (hm : mayIssue s.focus i = true) (horder : s.cur.order = before ++ j :: after) (hbefore : ∀ k ∈ before, endsAt i s.cur k = false)
    (hat : endsAt i s.cur j = true) {t : Thread} {n : Nat} {tr : Option Trap}
    (hw : tripEnds (tripAddrs i s.cur.pc) (j :: after) (pastWord i th) 0 = (t, n, tr)) :
    ∃ v, exec i s = .next (noteIssue (tr.elim v (raise v))) ∧ Elsewhere s v ∧ v.cur = t := by
  obtain ⟨hplain, hloops, body, u, he, hb, hu, rfl⟩ := exec_plainRule h
  have hact : (u.cur.slot j).active = true := by
    rw [hloops.slot]
    exact (Bool.and_eq_true_iff.mp hat).1
  have hwalk : tripEnds (tripAddrs i u.cur.pc) u.cur.order (pastWord i u.cur) 0 = (t, n, tr) := by
    rw [hloops.pc, hloops.order, horder, ← hw]
    exact tripEnds_skip fun k hk => (congrArg (fun h : LoopSlot => h.active && (tripAddrs i s.cur.pc).contains h.lstop) (hloops.slot k)).trans
      (hbefore k hk)
  refine ⟨countFor (u.setCur t) u.focus 90 n, ?_, ?_, by rw [cur_countFor, cur_setCur]⟩
  · rw [he, issue_plain hm hplain hb, retire_trips hact hwalk]
  · exact elsewhere_trans hu (elsewhere_trans (elsewhere_setCur u t) (elsewhere_countFor _ _ _ _))

theorem runs_tripEnd {i : Instr} {s : State} {t : Thread}
    (h : ∃ v, exec i s = .next (noteIssue ((none : Option Trap).elim v (raise v))) ∧ Elsewhere s v ∧ v.cur = t) : RunsTo i s t := by
  obtain ⟨v, he, hv, rfl⟩ := h
  obtain ⟨hn, hcur⟩ := noteIssue_elsewhere v
  exact ⟨_, he, elsewhere_trans hv hn, hcur⟩

/-- Where no slot but the first of the list ends at the word, and that one is left, the walk ends there. -/
theorem tripEnds_slotLeft {addrs : List Word} {after : List Nat} {t : Thread} {n j : Nat} (hj : j < 4)
    (h : ∀ k ∈ after, k % 4 ≠ j ∧ ((t.slot k).active && addrs.contains (t.slot k).lstop) = false) :
    tripEnds addrs after (slotLeft t j) n = (slotLeft t j, n, none) := by
  have hskip : tripEnds addrs (after ++ []) (slotLeft t j) n = tripEnds addrs [] (slotLeft t j) n := tripEnds_skip fun k hk => by
    obtain ⟨hkj, hends⟩ := h k hk
    have hslot : (slotLeft t j).slot k = t.slot k := slot_setSlot_other _ _ (by rwa [Nat.mod_eq_of_lt hj])
    rwa [hslot]
  rwa [List.append_nil] at hskip

end Sys2Proof
end

section
/-! PROOFS. Trip ends. -/

namespace Sys2Proof

open Machine

/-- Settles O4: the walk over the slots in entry order passes those that do not end at the word, and the first that does decides. -/
theorem tripEnds : Obligations.TripEnds := by
  intro i s th j before after h hm hj horder hbefore hat
  obtain ⟨-, hloops, -⟩ := exec_plainRule h
  have hslot (k : Nat) : (pastWord i th).slot k = s.cur.slot k := hloops.slot k
  have hends : (((pastWord i th).slot j).active && (tripAddrs i s.cur.pc).contains ((pastWord i th).slot j).lstop) = true := by
    rw [hslot]
    exact hat
  refine ⟨fun hl => ?_, fun hl hx hafter => ?_, fun hl hx => ?_⟩
  · have hw := tripEnds_again (rest := after) (n := 0) hends (by rwa [hslot])
    rw [hslot] at hw
    exact runs_tripEnd (exec_tripEnd h hm horder hbefore hat hw)
  · have hw := tripEnds_last (rest := after) (n := 0) hends (by rwa [hslot])
    rw [hslot, hx, if_neg (by decide), tripEnds_slotLeft hj fun k hk => by rw [hslot]; exact hafter k hk] at hw
    exact runs_tripEnd (exec_tripEnd h hm horder hbefore hat hw)
  · have hw := tripEnds_last (rest := after) (n := 0) hends (by rwa [hslot])
    rw [hslot, hx, if_pos rfl, Nat.mod_eq_of_lt hj] at hw
    exact exec_tripEnd h hm horder hbefore hat hw

end Sys2Proof
end

section
/-! SUPPORT. The end of a loop by `lexit` (R169) and of a thread by `fin` (R164): the logs that the stitch leaves empty. -/

namespace Sys2Proof

open Machine

theorem exec_lexit (cc : CC) (a b : Reg) (slot : BitVec 2) (s : State) : exec (.lexit cc a b slot) s = issue (.lexit cc a b slot) s fun s =>
    if ccHolds cc (s.g a) (s.g b) then
      if (s.cur.slot slot.toNat).active then
        .jump ((s.setCur ((s.cur.deactivate (enteredAfter s.cur.order slot.toNat)).setSlot slot.toNat
          { s.cur.slot slot.toNat with left := 0#64, active := false })).sign true) ((s.cur.slot slot.toNat).lstop + 4#64)
      else trapOf .loopSpec (s.cur.pc + BitVec.ofNat 64 slot.toNat)
    else .ok (s.sign false) := rfl

theorem exec_fin (s : State) : exec .fin s = issue .fin s fun s =>
    match failedLoad s, s.focus with
    | some t, .seq p i => .set (raise (dropLoad s p i) t)
    | _, .seq p i => .set (finSeq s p i)
    | _, _ => .set (finCore s) := rfl

theorem strand_of_uncounted {x y : Panel} (h : uncounted y = uncounted x) (k : Nat) : y.strand k = x.strand k := by
  have := congrArg (fun z : Panel => z.strand k) h
  exact this

theorem status_of_unmarked {t u : Thread} (h : unmarked t = unmarked u) : t.status = u.status := by
  have := congrArg Thread.status h
  exact this

/-! ## Logs after a stitch -/

/-- A strand of a panel has nothing in its sequencer's log. -/
def LogEmpty (s : State) (p k : Nat) : Prop := ∀ x, s.panel? p = some x → (x.strand k).log = []

section
variable {s t : State} {p k : Nat}

theorem LogEmpty.of_panel (h : LogEmpty s p k) (hp : ∀ y, t.panel? p = some y → ∃ x, s.panel? p = some x ∧ (y.strand k).log = (x.strand k).log) :
    LogEmpty t p k := by
  intro y hy
  obtain ⟨x, hx, hlog⟩ := hp y hy
  rw [hlog, h x hx]

theorem LogEmpty.home (h : LogEmpty s p k) (hf : HomeFrame s t) : LogEmpty t p k := by
  refine h.of_panel fun y hy => ?_
  have hp := hf.panels p
  rw [hy] at hp
  cases hx : s.panel? p with
  | none => rw [hx] at hp; cases hp
  | some x =>
    rw [hx] at hp
    exact ⟨x, rfl, congrArg Strand.log (strand_of_uncounted (Option.some.inj hp) k)⟩

/-- A change of panels that leaves a strand's log, or empties it. -/
theorem LogEmpty.modPanel {q : Nat} {f : Panel → Panel} (h : LogEmpty s p k)
    (hf : ∀ x, (x.strand k).log = [] → ((f x).strand k).log = []) : LogEmpty (s.modPanel q f) p k := by
  intro y hy
  cases hx : s.panel? q with
  | none => rw [modPanel_none hx] at hy; exact h y hy
  | some x =>
    rw [modPanel_some hx] at hy
    by_cases hq : p = q
    · subst hq
      rw [panel_setPanel] at hy
      obtain rfl := Option.some.inj hy
      exact hf x (h x hx)
    · rw [panel_setPanel_other _ _ hq] at hy
      exact h y hy

theorem LogEmpty.setPanel {q : Nat} {x y : Panel} (h : LogEmpty s p k) (hx : s.panel? q = some x) (hy : (y.strand k).log = (x.strand k).log) :
    LogEmpty (s.setPanel q y) p k := by
  have hm := h.modPanel (q := q) (f := fun z => if z = x then y else z) fun z hz => by
    by_cases hzx : z = x
    · subst hzx; rw [if_pos rfl, hy, hz]
    · rw [if_neg hzx, hz]
  rwa [modPanel_some hx, if_pos rfl] at hm

theorem LogEmpty.foldl {α : Type} {f : State → α → State} (hf : ∀ u x, LogEmpty u p k → LogEmpty (f u x) p k) (l : List α)
    (h : LogEmpty s p k) : LogEmpty (l.foldl f s) p k :=
  List.foldlRecOn l f (motive := fun u => LogEmpty u p k) h fun u hu x _ => hf u x hu

theorem LogEmpty.publishTileMem {q n pa dom : Nat} {bs : List Byte} {wt : Bool} (h : LogEmpty s p k) :
    LogEmpty (publishTileMem s q n pa bs wt dom) p k := by
  unfold Machine.publishTileMem
  split
  · exact h
  · next x hx =>
    dsimp only
    split
    · exact LogEmpty.home (h.setPanel hx (by rfl)) (homeFrame_pushHome ..)
    · exact h.setPanel hx (by rfl)

theorem LogEmpty.publishTileEntry {q n : Nat} {e : LogEntry} (h : LogEmpty s p k) : LogEmpty (publishTileEntry q n s e) p k := by
  cases e with
  | scratch _ off bs full => exact h.modPanel fun x hx => hx
  | memory parts => exact h.foldl (fun u m hu => hu.publishTileMem) parts
  | undo _ _ _ => exact h
  | side pa b dom => exact h.home ((homeFrame_l2Meet ..).trans ((homeFrame_fillLine ..).trans (homeFrame_setSides ..)))

theorem LogEmpty.publishSeqEntry {q : Nat} {e : LogEntry} (h : LogEmpty s p k) : LogEmpty (publishSeqEntry q s e) p k := by
  cases e with
  | scratch t off bs full => exact h.modPanel fun x hx => hx
  | memory parts => exact h.foldl (fun u m hu => hu.home (homeFrame_pushHome ..)) parts
  | undo _ _ _ => exact h
  | side _ _ _ => exact h

/-- The publish of a strand's logs leaves another log as it was. -/
theorem LogEmpty.publishStrand {q i : Nat} (h : LogEmpty s p k) : LogEmpty (publishStrand s q i) p k := by
  unfold Machine.publishStrand
  split
  · exact h
  · refine LogEmpty.modPanel (LogEmpty.foldl (fun u e hu => hu.publishSeqEntry) _ ?_) fun x hx => ?_
    · exact h.foldl (fun u c hu => hu.foldl (fun v e hv => hv.publishTileEntry) _) _
    · dsimp only
      rw [strand_setStrand]
      split
      · rfl
      · exact hx

/-- The publish of a strand's logs empties its sequencer's. -/
theorem logEmpty_publishStrand {i : Nat} (hi : i % 4 = k % 4) : LogEmpty (publishStrand s p i) p k := by
  unfold publishStrand
  split
  case h_1 hx => intro y hy; rw [hx] at hy; cases hy
  · intro y hy
    change State.panel? (State.modPanel _ p _) p = some y at hy
    unfold State.modPanel at hy
    split at hy
    · rw [panel_setPanel] at hy
      obtain rfl := Option.some.inj hy
      rw [strand_setStrand, if_pos hi]
    · next hnone => rw [hnone] at hy; cases hy

theorem logEmpty_publishStrands (l : List Nat) : ∀ s : State, k % 4 ∈ l → LogEmpty (l.foldl (fun s i => publishStrand s p i) s) p k := by
  induction l with
  | nil => exact fun _ h => by cases h
  | cons i l ih =>
    intro s hk
    rw [List.foldl_cons]
    by_cases hki : k % 4 = i
    · exact (logEmpty_publishStrand (by rw [← hki, Nat.mod_mod])).foldl (fun u j hu => hu.publishStrand) l
    · exact ih _ ((List.mem_cons.mp hk).resolve_left hki)

/-- A publish empties the log of every strand of its panel (R259). -/
theorem logEmpty_publishPanel (s : State) (p k : Nat) : LogEmpty (publishPanel s p) p k := by
  unfold publishPanel publishLogs
  split
  case h_1 hx => intro y hy; rw [hx] at hy; cases hy
  · refine LogEmpty.modPanel (logEmpty_publishStrands strandIds _ ?_) fun x hx => hx
    have hk := Nat.mod_lt k (show 0 < 4 by decide)
    simp only [strandIds, List.mem_cons, List.not_mem_nil, or_false]
    omega

end

/-- After `fin` the thread and its strand are finished, with nothing in its log (R164). -/
theorem finSeq_finished {s : State} {p i : Nat} {x : Panel} (hf : s.focus = .seq p i) (hx : s.panel? p = some x) :
    ((finSeq s p i).focus = .seq p i ∧ (finSeq s p i).cur.status = .finished) ∧
    ∃ y, (finSeq s p i).panel? p = some y ∧ (y.strand i).finished = true ∧ (y.strand i).log = [] := by
  have hframe := stitchFrame_publishPanel s p
  obtain ⟨y, hy, -⟩ := hframe.panel hx
  have hlog := logEmpty_publishPanel s p i y hy
  simp only [finSeq, modPanel_some hy]
  obtain ⟨sh, hsh⟩ := panel_takeShadow (s := State.setCur (State.setPanel (publishPanel s p) p _) _) (panel_setPanel ..)
  rw [hsh]
  refine ⟨⟨hframe.focus.trans hf, congrArg Thread.status (cur_setCur ..)⟩, _, panel_setPanel .., ?_, ?_⟩
  · exact congrArg Strand.finished (strand_setStrand_same y i _)
  · exact (congrArg Strand.log (strand_setStrand_same y i _)).trans hlog

end Sys2Proof
end

section
/-! PROOFS. `lexit` and `fin`. -/

namespace Sys2Proof

open Machine

/-- Settles O5, by the condition and then by the slot. -/
theorem lexitLeavesLoops : Obligations.LexitLeavesLoops := by
  intro cc a b slot s i h hi
  refine ⟨fun hc hn => ?_, fun hc ha => ?_, fun hc ha => ?_⟩
  · have hrun := leaves_ok_elsewhere hi _ (exec_lexit cc a b slot s) (by rw [ccHolds_eq, if_neg (by simp [hc])]) (elsewhere_sign s false)
      (by rw [cur_sign]; exact noTrip_sign hn false)
    rwa [cur_sign] at hrun
  · exact ends_trap hi _ (exec_lexit cc a b slot s) (by rw [ccHolds_eq, if_pos hc, if_neg (by rw [ha]; decide)]; rfl)
  · have hleaves := leaves_jump hi _ (exec_lexit cc a b slot s) (by rw [ccHolds_eq, if_pos hc, if_pos ha])
    rw [cur_sign, cur_setCur] at hleaves
    exact runs_of_leaves hleaves (elsewhere_trans (elsewhere_setCur s _) (elsewhere_sign ..))

/-- Settles O6: a service core's thread alone changes; a strand's stitch empties its log before it is finished. -/
theorem finEndsThread : Obligations.FinEndsThread := by
  constructor
  · intro s n hf
    have hi : MayIssue .fin s := ⟨by rw [hf]; rfl, nofun, by rw [stitchWaits, hf]; rfl⟩
    have hleaves := leaves_set (u := finCore s) hi _ (exec_fin s) (by simp only [failedLoad, hf])
    rw [finCore, cur_setCur] at hleaves
    exact runs_of_leaves hleaves (elsewhere_setCur s _)
  · intro s p i x hf hx hload hbar
    have hi : MayIssue .fin s := ⟨by rw [hf]; rfl, nofun, by rw [stitchWaits, hf, hbar]; rfl⟩
    have hno : failedLoad s = none := by simp only [failedLoad, hf, hx, Option.bind_some, hload, Option.map_none]
    obtain ⟨t, he, ht, hcur⟩ := leaves_set (u := finSeq s p i) hi _ (exec_fin s) (by simp only [hno, hf])
    obtain ⟨⟨hfocus, hstatus⟩, y, hy, hfin, hlog⟩ := finSeq_finished hf hx
    have hpanel := ht.panels p
    rw [hy] at hpanel
    obtain ⟨z, hz, hzy⟩ := Option.map_eq_some_iff.mp hpanel
    have hstrand : z.strand i = y.strand i := strand_of_uncounted hzy i
    refine ⟨t, he, ?_, z, hz, by rw [hstrand, hfin], by rw [hstrand, hlog]⟩
    have ht' : t.cur = t.thread (.seq p i) := by rw [State.cur, elsewhere_focus ht, hfocus]
    rw [← ht', status_of_unmarked hcur, hstatus]

end Sys2Proof
end

section
/-! SUPPORT. A service-core thread's own fault (R315, R318, R321): the trap counted, then its handler entered at once. -/

namespace Sys2Proof

open Machine

/-- A service-core thread stopped by a trap that is counted (R197, R320). -/
def trapCounted (s : State) (n : Nat) (cause : Cause) : State :=
  let u := countFor (s.setThread (.core n) { s.thread (.core n) with status := .stopped, wait := none }) (.core n) 95 1
  if cause = .logFull then countFor u (.core n) 38 1 else u

section
variable (s : State) (n : Nat) (cause : Cause)

/-- The stop and its counts change the thread and its core alone. -/
theorem trapCounted_rest : trapCounted s n cause =
    { s with threads := (trapCounted s n cause).threads, cores := (trapCounted s n cause).cores } := by
  unfold trapCounted
  split <;> rfl

theorem trapCounted_thread : (trapCounted s n cause).thread (.core n) = { s.thread (.core n) with status := .stopped, wait := none } := by
  unfold trapCounted
  split <;> simp

theorem trapCounted_others {p : Party} (h : p ≠ .core n) : (trapCounted s n cause).thread p = s.thread p := by
  unfold trapCounted
  split <;> simp [thread_setThread_other _ _ h]

theorem trapCounted_ctxt (c : Nat) : (trapCounted s n cause).ctxt c = s.ctxt c := by rw [trapCounted_rest]; rfl

theorem trapCounted_partyCtx : partyCtx (trapCounted s n cause) (.core n) = partyCtx s (.core n) := by
  simp only [partyCtx, partyPanel, trapCounted_thread]

end

theorem raiseWith_core (off : State → Nat → FaultRec → State) (s : State) (n : Nat) (t : Trap) (pz : Bool) :
    raiseWith off s (.core n) t pz =
      if partyPriv (trapCounted s n t.cause) (.core n) = .machine then trapCounted s n t.cause
      else if faultOfHandler (trapCounted s n t.cause) (partyCtx s (.core n)) (.core n) then
        killContext (countFault (trapCounted s n t.cause) (partyCtx s (.core n)) 32 16 t.cause) (partyCtx s (.core n))
      else off (trapCounted s n t.cause) (partyCtx s (.core n)) (threadFault (trapCounted s n t.cause) (.core n) t pz) := rfl

section
variable {s : State} {n : Nat}

/-- Where its context takes a fault at once, a thread's trap is counted and its handler entered. -/
theorem raise_deliverable (h : Deliverable s n) (t : Trap) : raise s t =
    takeTrap (trapCounted s n t.cause) (partyCtx s (.core n)) (threadFault (trapCounted s n t.cause) (.core n) t false) n := by
  obtain ⟨hfocus, hpriv, htvec, hidle, hqueue, hdue⟩ := h
  have hpriv' : partyPriv (trapCounted s n t.cause) (.core n) ≠ .machine := by rwa [partyPriv, trapCounted_thread]
  have hown : faultOfHandler (trapCounted s n t.cause) (partyCtx s (.core n)) (.core n) = false := by
    unfold faultOfHandler
    rw [trapCounted_ctxt, hidle]
    split <;> simp
  have hparty : (threadFault (trapCounted s n t.cause) (.core n) t false).party = some (.core n) := rfl
  rw [raise, hfocus, raiseFor, raiseWith_core, if_neg hpriv', hown, if_neg (by decide), offer, offerWith]
  simp only [trapCounted_ctxt, htvec, hidle, hqueue, hdue, Bool.not_true, Bool.false_eq_true, if_false, List.isEmpty_nil, Option.isSome_none,
    or_self, deliverFault, hparty]

/-- A handler's entry for a thread's own fault changes the context's trap registers and the thread alone. -/
theorem takeTrap_own {u : State} {c : Nat} {f : FaultRec} (hf : f.party = some (.core n)) : takeTrap u c f n =
    (u.setCtxt c { u.ctxt c with
      trapcause := BitVec.ofNat 64 (2 ^ 63 + (u.thread (.core n)).priv.code * 2 ^ 61 + f.source % 16 * 2 ^ 56 + f.task.toNat * 2 ^ 8 + f.cause.num)
      trappc := (u.thread (.core n)).pc, trapval := f.val, fwhere := f.fwhere, fpc := f.fpc
      xlva := (f.xl.getD ((u.ctxt c).xlva, (u.ctxt c).xlinfo)).1, xlinfo := (f.xl.getD ((u.ctxt c).xlva, (u.ctxt c).xlinfo)).2
      fact := none, handling := some (f, n), voided := false, delivery := none }).setThread (.core n)
        { (u.thread (.core n)).put 31#5 (u.thread (.core n)).tscratch with
          tscratch := (u.thread (.core n)).get 31#5, priv := .supervisor, pc := handlerPc (u.ctxt c).tvec, status := .running, wait := none
          ctx := c, before := .running } := by
  unfold takeTrap
  rw [hf]
  cases hx : f.xl <;> simp [trapcauseOf, g31]

/-- The handler entered (R315, R318, R321). -/
theorem raise_tookTrap (h : Deliverable s n) (t : Trap) : TookTrap s (raise s t) n t.cause t.val := by
  rw [raise_deliverable h, takeTrap_own rfl]
  have hrest := trapCounted_rest s n t.cause
  have hthread := trapCounted_thread s n t.cause
  have hctxt := trapCounted_ctxt s n t.cause (partyCtx s (.core n))
  constructor
  case cause =>
    rw [ctxt_setThread, ctxt_setCtxt]
    simp [threadFault, partyTask, partyPanel, partyPriv, hthread]
  case pc => simp only [ctxt_setThread, ctxt_setCtxt, hthread]
  case val => simp only [ctxt_setThread, ctxt_setCtxt, threadFault]
  case beside => simp only [ctxt_setThread, ctxt_setCtxt, hctxt, besideTrap]
  case contexts =>
    intro c hc
    rw [ctxt_setThread, ctxt_setCtxt_other _ _ hc, trapCounted_ctxt]
  case regs =>
    intro x
    have hget : ((trapCounted s n t.cause).thread (.core n)).get = (s.thread (.core n)).get := by rw [hthread]; rfl
    rw [thread_setThread]
    exact (get_put _ _ _ _).trans (by rw [hget, hthread]; simp)
  case scratch =>
    rw [thread_setThread, hthread]
    rfl
  case priv => rw [thread_setThread]
  case handler =>
    simp only [thread_setThread, hctxt, handlerPc, bitsOf_eq, Nat.reducePow]
  case running => simp only [thread_setThread, and_self]
  case memory =>
    intro dom pa
    rw [hrest]
    rfl
  case others =>
    intro p hp
    rw [thread_setThread_other _ _ hp, thread_setCtxt, trapCounted_others _ _ _ hp]
  case panels =>
    intro p
    rw [panel_setThread, panel_setCtxt, hrest]
    rfl

end

theorem noteIssue_core {s : State} {n : Nat} (hf : s.focus = .core n) : noteIssue s = s := by simp only [noteIssue, hf]

/-- A service-core thread may issue a form of its own that asks for no privilege and stitches nothing. -/
theorem mayIssue_core {i : Instr} {s : State} {n : Nat} (hf : s.focus = .core n) (hform : isFabric i = false)
    (hsup : needsSupervisor i = true → partyPriv s s.focus ≠ .user) : MayIssue i s :=
  ⟨by rw [hf]; exact congrArg not hform, hsup, by rw [stitchWaits, hf]; exact Bool.and_false _⟩

theorem exec_trap (a : Reg) (s : State) : exec (.trap a) s = issue (.trap a) s fun s =>
    if partyPriv s s.focus = .supervisor then .ok (firmwareRequest s (s.g a)) else trapOf .priv (s.g a) := rfl

theorem exec_unassignedOpcode (w : W32) (s : State) :
    exec (.unassignedOpcode w) s = .next (raise (noteIssue s) (mkTrap .illegal (zext64 w))) := rfl

theorem exec_fetchFault {s : State} {t : Trap} (h : fetchTrap s s.focus s.cur.pc = some t) : exec .fetchFault s = .next (raise s t) := by
  simp only [exec, execFetchFault, h]

end Sys2Proof
end

section
/-! PROOFS. Traps, and words that cannot be issued. -/

namespace Sys2Proof

open Machine

/-- Settles O9: each trap enters the handler as a thread's own fault does; a supervisor's is a request that firmware finds in its context (log 24). -/
theorem trapFormsEnterHandler : Obligations.TrapFormsEnterHandler := by
  refine ⟨?_, ?_, ?_, ?_⟩
  · intro a s n h huser
    have hi : MayIssue (.trap a) s := mayIssue_core h.focus rfl nofun
    have he := ends_trap hi _ (exec_trap a s) (if_neg (by rw [h.focus, huser]; decide))
    rw [noteIssue_core h.focus] at he
    exact ⟨_, he, raise_tookTrap h _⟩
  · intro a s n hf hi hn hsup x
    have hbody : firmwareRequest s (s.g a) = countFor (s.setCtxt s.cur.ctx { x with
        fwreq := x.fwreq ++ [(n, s.g a)], trapval := s.g a, trappc := s.cur.pc }) s.focus 95 1 := by
      simp only [firmwareRequest, hf, x]
    have hcur : (firmwareRequest s (s.g a)).cur = s.cur := by
      rw [hbody, cur_countFor]
      rfl
    have hleaves := leaves_ok_elsewhere (v := firmwareRequest s (s.g a)) hi _ (exec_trap a s) (if_pos (by rw [hf]; exact hsup))
      (by rw [hbody]; exact elsewhere_countFor ..) (by rwa [hcur])
    rwa [hcur] at hleaves
  · intro w s n h
    refine ⟨_, exec_unassignedOpcode w s, ?_⟩
    rw [noteIssue_core h.focus, zext64_eq_ofNat]
    exact raise_tookTrap h _
  · intro s n t h ht
    exact ⟨_, exec_fetchFault (h.focus ▸ ht), raise_tookTrap h t⟩

end Sys2Proof
end

section
/-! SUPPORT. The switching forms (R207, R335): what their bodies answer. -/

namespace Sys2Proof

open Machine

/-- The state of a restored image but for its thread: one free value drawn (log 23), the trap registers of the context those of the image. -/
def imageRestored (u : State) (img : List Byte) : State :=
  State.setCtxt { u with fresh := u.fresh + 1 } (partyCtx u u.focus) (imgContext (u.ctxt (partyCtx u u.focus)) img)

theorem exec_ctxsave (a : Reg) (s : State) : exec (.ctxsave a) s = issue (.ctxsave a) s fun s =>
    if aligned (s.g a) 256 then
      .bindX (storeParts s s.focus 32 (s.g a) (saveImage s.cur (s.ctxt (partyCtx s s.focus))
        (if inHandler s then s.cur.tscratch else s.cur.get 31#5))) fun s => .ok s
    else trapOf .align (s.g a) := rfl

theorem exec_ctxload (a : Reg) (s : State) : exec (.ctxload a) s = issue (.ctxload a) s fun s =>
    if aligned (s.g a) 256 then .bindX (loadParts s s.focus 32 (s.g a)) fun r =>
      match imgThread r.1.cur r.2 (inHandler r.1) r.1.fresh with
      | some t => .ok ((imageRestored r.1 r.2).setCur { t with before := .running })
      | none => trapOf .engine (wordVal (.ctxload a))
    else trapOf .align (s.g a) := rfl

end Sys2Proof
end

section
/-! PROOFS. The switching forms. -/

namespace Sys2Proof

open Machine

/-- Settles O12: a store of the image is the whole of `ctxsave`; `ctxload` restores what its image makes of the thread, or refuses it. -/
theorem switchingImages : Obligations.SwitchingImages := by
  refine ⟨?_, ?_, ?_⟩
  · intro a s u hi ha hstore _ hn
    exact leaves_ok hi.toMayIssue _ (exec_ctxsave a s) (by rw [if_pos (aligned_eq_true.mpr ha), hstore]; rfl) hn
  · intro a s u img th hi ha hload _ hth hn
    have h := leaves_ok_elsewhere hi.toMayIssue _ (exec_ctxload a s) (u := imageRestored u img)
      (by rw [if_pos (aligned_eq_true.mpr ha), hload]; simp only [Res.bindX, hth])
      (elsewhere_setCur _ { th with before := .running }) (by rw [cur_setCur]; exact hn)
    rwa [cur_setCur] at h
  · intro a s u img hi ha hload hth
    exact ends_trap hi.toMayIssue _ (exec_ctxload a s)
      (by rw [if_pos (aligned_eq_true.mpr ha), hload]; simp only [Res.bindX, hth, trapOf, wordVal_eq, wordOfForm])

end Sys2Proof
end

section
/-! SUPPORT. A thread's access (R100, R170, R340): how it is refused, and what its read answers. -/

namespace Sys2Proof.Machine

open Sys2Proof

/-! ## What a read answers -/

theorem HomeFrame.paKind {s t : State} (h : HomeFrame s t) (pa : Nat) : paKind t pa = paKind s pa := by rw [h.rest]; rfl

theorem length_of_homeRead {s t : State} {dom pa n : Nat} {bs : List Byte} (h : homeRead s dom pa n = .ok (t, bs)) : bs.length = n := by
  unfold homeRead at h
  dsimp only at h
  split at h
  · cases h
  · cases h
    exact length_homeBytes ..

/-- A party takes as many bytes as its access has from the home's answer to what it asked. -/
theorem takeAnswer_frame {s t : State} {p : Party} {pa n : Nat} {bs : List Byte} (hst : HomeFrame s t)
    (hbs : bs.length = (asksHome s p pa n).2) :
    HomeFrame s (takeAnswer t p pa n (asksHome s p pa n).1 bs).1 ∧ (takeAnswer t p pa n (asksHome s p pa n).1 bs).2.length = n := by
  cases p with
  | core c =>
    by_cases hk : Machine.paKind s pa = .host
    · have hk' : Machine.paKind t pa = .host := by rw [hst.paKind, hk]
      rw [asksHome, if_pos hk] at hbs
      rw [takeAnswer, if_pos hk']
      exact ⟨hst, hbs⟩
    · have hk' : Machine.paKind t pa ≠ .host := by rwa [hst.paKind]
      rw [takeAnswer, if_neg hk']
      exact ⟨hst.trans (homeFrame_setCore ..), by simp [cachedBytes]⟩
  | seq q k => exact ⟨hst, (length_overlayMem ..).trans hbs⟩
  | slice q k => exact ⟨hst, (length_overlayMem ..).trans hbs⟩
  | tile q k => exact ⟨hst, (length_overlayMem ..).trans hbs⟩

/-- A read that answers has its bytes, and changes the memory system alone. -/
theorem readFor_frame {s t : State} {p : Party} {tg : Target} {n : Nat} {bs : List Byte}
    (h : readFor s p tg n = .ok (t, bs)) : HomeFrame s t ∧ bs.length = n := by
  unfold readFor at h
  dsimp only at h
  split at h
  case isTrue h0 =>
    have hframe := takeAnswer_frame (n := n) (bs := []) (.refl s) h0.symm
    rwa [Except.ok.inj h] at hframe
  case isFalse =>
    split at h
    · cases h
    · next u got hgot =>
      have hframe := takeAnswer_frame (n := n) ((homeFrame_l2Fill ..).trans (homeFrame_homeRead hgot)) (length_of_homeRead hgot)
      rwa [Except.ok.inj h] at hframe

/-! ## How an access is refused -/

section
variable {s u : State} {p : Party} {acc : Access} {va : Word} {n : Nat} {tg : Target}

theorem accessTarget_untranslated {t : Trap} (h : translate s (partyReq s p acc) va = .error t) : accessTarget s p acc va n = .error t := by
  simp only [accessTarget, h]

theorem accessTarget_misaligned (h : translate s (partyReq s p acc) va = .ok (u, tg)) (ha : va.toNat % n ≠ 0) :
    accessTarget s p acc va n = .error (mkTrap .align va) := by
  have hal : aligned va n = false := by rwa [← Bool.not_eq_true, aligned_eq_true]
  simp only [accessTarget, h, hal, if_true]

theorem accessTarget_failed (h : translate s (partyReq s p .read) va = .ok (u, tg)) (ha : va.toNat % n = 0) (hh : hostFails u tg.pa = true) :
    accessTarget s p .read va n = .error (mkTrap .perm va) := by
  have hfails : accessFails u .read tg.pa = true := hh
  simp only [accessTarget, h, aligned_eq_true.mpr ha, hfails, Bool.true_eq_false, if_false, if_true]

theorem accessTarget_answered (h : translate s (partyReq s p .read) va = .ok (u, tg)) (ha : va.toNat % n = 0)
    (hh : hostFails u tg.pa = false) : accessTarget s p .read va n = .ok (u, tg) := by
  have hfails : accessFails u .read tg.pa = false := hh
  simp only [accessTarget, h, aligned_eq_true.mpr ha, hfails, Bool.true_eq_false, Bool.false_eq_true, if_false]

end

/-- A load traps with what its access is refused for. -/
theorem load_refused {i : Instr} {n : Nat} {d a : Reg} {off : BitVec 14} {signed : Bool} {s : State} {t : Trap}
    (hf : loadForm i = some (n, d, a, off, signed)) (hi : Issues i s)
    (ht : accessTarget s s.focus .read (ruleAddr s a off n) n = .error t) : exec i s = .next (raise (noteIssue s) t) :=
  ends_trap hi.toMayIssue _ (exec_load hf s) (by rw [loadInto, memAddr_eq_ruleAddr, ht]; rfl)

end Sys2Proof.Machine
end

section
/-! PROOFS. Loads. -/

namespace Sys2Proof

open Machine

/-- Settles O17, in the order of the checks: translation, alignment, the host's status, the read. -/
theorem loadsComplete : Obligations.LoadsComplete := by
  intro i n d a off signed s hf hi
  refine ⟨fun t ht => load_refused hf hi (accessTarget_untranslated ht), fun u tg ht => ⟨fun ha => ?_, fun ha hh => ?_, fun ha hh hk => ?_⟩⟩
  · exact load_refused hf hi (accessTarget_misaligned ht ha)
  · exact load_refused hf hi (accessTarget_failed ht ha hh)
  · have htarget := accessTarget_answered (p := s.focus) ht ha hh
    have hframe := homeFrame_translate ht
    have hsize := loadForm_size hf
    constructor
    · intro w bs hread
      obtain ⟨hw, hlen⟩ := readFor_frame hread
      exact load_leaves hf hi htarget hk (by rwa [hframe.focus]) (by omega) (by rw [hw.cur, hframe.cur])
    · intro t hread
      refine ends_trap hi.toMayIssue _ (exec_load hf s) ?_
      simp only [loadInto, memAddr_eq_ruleAddr, htarget, Res.bindX, if_neg hk, hframe.focus, hread]

end Sys2Proof
end

section
/-! SUPPORT. The vector forms of a service core (R159, R208-R211): lanes of a register, the frames of their accesses, what their bodies answer. -/

namespace Sys2Proof.Machine

open Sys2Proof

/-! ## Lanes -/

theorem lanesOfList_div_mod (l : List W32) : ∀ k, k < l.length → lanesOfList l / 2 ^ (32 * k) % 2 ^ 32 = (l.getD k 0).toNat := by
  induction l with
  | nil => intro k hk; cases hk
  | cons x xs ih =>
    intro k hk
    have hx : x.toNat < 2 ^ 32 := x.isLt
    cases k with
    | zero =>
      rw [lanesOfList, Nat.mul_zero, Nat.pow_zero, Nat.div_one, Nat.add_mul_mod_self_left, Nat.mod_eq_of_lt hx]
      rfl
    | succ k =>
      have hp : 2 ^ (32 * (k + 1)) = 2 ^ 32 * 2 ^ (32 * k) := by rw [Nat.mul_succ, Nat.pow_add, Nat.mul_comm]
      rw [lanesOfList, hp, ← Nat.div_div_eq_div_mul, Nat.add_mul_div_left _ _ (by decide), Nat.div_eq_of_lt hx, Nat.zero_add,
        ih k (by simpa using hk)]
      rfl

theorem toNat_lane (v : Lanes) (k : Nat) : (lane v k).toNat = v.toNat / 2 ^ (32 * k) % 2 ^ 32 := by
  rw [lane, BitVec.extractLsb'_toNat, Nat.shiftRight_eq_div_pow]

theorem mod_two_pow_div_mod (v : Nat) {a b c : Nat} (h : a + b ≤ c) : v % 2 ^ c / 2 ^ a % 2 ^ b = v / 2 ^ a % 2 ^ b := by
  have hdvd : 2 ^ a * 2 ^ b ∣ 2 ^ c := by
    rw [← Nat.pow_add]
    exact Nat.pow_dvd_pow 2 h
  rw [← Nat.mod_mul_right_div_self, Nat.mod_mod_of_dvd _ hdvd, Nat.mod_mul_right_div_self]

theorem extractLsb_ofNat {w v a b : Nat} (h : a + b ≤ w) : (BitVec.ofNat w v).extractLsb' a b = BitVec.ofNat b (v / 2 ^ a) := by
  apply BitVec.eq_of_toNat_eq
  rw [BitVec.extractLsb'_toNat, BitVec.toNat_ofNat, BitVec.toNat_ofNat, Nat.shiftRight_eq_div_pow, mod_two_pow_div_mod _ h]

/-- A lane of the register of a function on lane numbers. -/
theorem lane_ofLanes (f : Nat → W32) {k : Nat} (hk : k < 16) : lane (ofLanes f) k = f k := by
  have hlane : lane (ofLanes f) k = BitVec.ofNat 32 (lanesOfList (laneIds.map f) / 2 ^ (32 * k)) := extractLsb_ofNat (by omega)
  apply BitVec.eq_of_toNat_eq
  rw [hlane, BitVec.toNat_ofNat, lanesOfList_div_mod _ k (by simpa [laneIds] using hk)]
  simp [laneIds, List.getD_eq_getElem?_getD, List.getElem?_range hk]

@[simp] theorem getV_putV_same (vs : Vector Lanes 32) (x : Reg) (v : Lanes) : getV (putV vs x v) x = v := by simp [getV, putV]

theorem getV_putV_other (vs : Vector Lanes 32) {x y : Reg} (v : Lanes) (h : y ≠ x) : getV (putV vs x v) y = getV vs y := by
  have hne : x.toNat ≠ y.toNat := fun he => h (BitVec.eq_of_toNat_eq he.symm)
  simp [getV, putV, hne]

/-! ## Frames -/

/-- The addresses of lanes translated. -/
theorem homeFrame_laneTargets {acc : Access} (l : List Word) : ∀ {s u : State} {tgs : List Target},
    laneTargets s acc l = .ok (u, tgs) → HomeFrame s u := by
  induction l with
  | nil => intro s u tgs h; cases h; exact .refl s
  | cons A As ih =>
    intro s u tgs h
    unfold laneTargets at h
    split at h
    · cases h
    · next v tg hv =>
      split_ifs at h
      split at h
      · cases h
      · next w l hw =>
        cases h
        exact (homeFrame_translate hv).trans (ih hw)

theorem homeFrame_readLanes (tgs : List Target) : ∀ {s u : State} {l : List W32}, readLanes s tgs = .ok (u, l) → HomeFrame s u := by
  induction tgs with
  | nil => intro s u l h; cases h; exact .refl s
  | cons tg tgs ih =>
    intro s u l h
    unfold readLanes at h
    split at h
    · cases h
    · next v bs hv =>
      split at h
      · cases h
      · next w l hw =>
        cases h
        exact (readFor_frame hv).1.trans (ih hw)

/-- A thread's write leaves the thread but for the lines that it notes as written. -/
theorem writeFor_sameLoops {s u : State} {tg : Target} {bs : List Byte} (h : writeFor s s.focus tg bs = .ok u) :
    u.focus = s.focus ∧ SameLoops s.cur u.cur := by
  have htouch (v : State) (hv : HomeFrame s v) :
      (touch v s.focus tg.pa).focus = s.focus ∧ SameLoops s.cur (touch v s.focus tg.pa).cur := by
    have hcur : (touch v s.focus tg.pa).cur = { s.cur with touched := (lineOf tg.pa :: s.cur.touched).dedup } := by
      rw [touch, State.cur, setThread_focus, hv.focus, thread_setThread, hv.thread]
      rfl
    rw [hcur]
    exact ⟨hv.focus, rfl, rfl, fun _ => rfl⟩
  unfold writeFor at h
  split at h
  case h_1 c hf =>
    obtain rfl := Except.ok.inj h
    exact htouch _ ((homeFrame_setCore ..).trans (homeFrame_pushHome ..))
  case h_2 x i hf =>
    unfold appendSeq at h
    dsimp only at h
    split_ifs at h
    obtain rfl := Except.ok.inj h
    have hcur (f : Panel → Panel) : (s.modPanel x f).cur = s.cur := by rw [State.cur, focus_modPanel, thread_modPanel]; rfl
    rw [hcur]
    exact ⟨focus_modPanel .., rfl, rfl, fun _ => rfl⟩
  case h_3 =>
    cases h
    exact ⟨rfl, rfl, rfl, fun _ => rfl⟩

theorem writeLanes_sameLoops (l : List (Target × W32)) : ∀ {s u : State}, writeLanes s l = .ok u → u.focus = s.focus ∧ SameLoops s.cur u.cur := by
  induction l with
  | nil => intro s u h; cases h; exact ⟨rfl, rfl, rfl, fun _ => rfl⟩
  | cons c l ih =>
    intro s u h
    obtain ⟨tg, v⟩ := c
    unfold writeLanes at h
    split at h
    · cases h
    · next w hw =>
      obtain ⟨hf, hl⟩ := writeFor_sameLoops hw
      obtain ⟨hf', hl'⟩ := ih h
      exact ⟨hf'.trans hf, hl'.pc.trans hl.pc, hl'.order.trans hl.order, fun j => (hl'.slot j).trans (hl.slot j)⟩

theorem noTrip_of_sameLoops {i : Instr} {t th : Thread} (h : SameLoops t th) (hn : NoTrip i t) : NoTrip i th := by
  intro n hlt hact
  rw [h.slot] at hact
  rw [h.pc, h.slot]
  exact hn n hlt hact

/-! ## The forms -/

theorem exec_vld (d a : Reg) (off : BitVec 14) (s : State) : exec (.vld d a off) s = issue (.vld d a off) s fun s =>
    if isTagged (ruleAddr s a off 64) then
      .bindX (vectorScratch s (ruleAddr s a off 64)) fun l => .readOk s l 64 (.ok (s.setZ d (rowRegister (readScratch s s.focus l 64))))
    else
      .bindX (accessTarget s s.focus .read (ruleAddr s a off 64) 64) fun r =>
        if paKind r.1 r.2.pa = .device then .bindDev (deviceLoad r.1 r.1.focus (ruleAddr s a off 64) r.2.pa 64) fun r => .ok r.1
        else .bindX (readFor r.1 r.1.focus r.2 64) fun q => .ok (q.1.setZ d (rowRegister q.2)) := by
  simp only [← memAddr_eq_ruleAddr]
  rfl

theorem exec_vst (d a : Reg) (off : BitVec 14) (s : State) : exec (.vst d a off) s = issue (.vst d a off) s fun s =>
    if isTagged (ruleAddr s a off 64) then
      .bindX (vectorScratch s (ruleAddr s a off 64)) fun l => .bindX (writeScratch s s.focus l (toBytes 64 (getV s.cur.z d).toNat) false) fun s => .ok s
    else
      .bindX (accessTarget s s.focus .write (ruleAddr s a off 64) 64) fun r =>
        if paKind r.1 r.2.pa = .device then
          .bindDev (deviceStore r.1 r.1.focus (wordVal (.vst d a off)) (ruleAddr s a off 64) r.2.pa 64 0#64) fun s => .ok s
        else .bindX (writeFor r.1 r.1.focus r.2 (toBytes 64 (getV s.cur.z d).toNat)) fun s => .ok s := by
  simp only [← memAddr_eq_ruleAddr]
  rfl

theorem exec_vgather (d a b : Reg) (s : State) : exec (.vgather d a b) s = issue (.vgather d a b) s fun s =>
    if !aligned (s.g a) 4 then trapOf .align (s.g a)
    else .bindX (laneTargets s .read (laneAddrs s a b)) fun r =>
      .bindX (readLanes r.1 r.2) fun q => .ok (q.1.setZ d (ofLanes fun i => q.2.getD i 0#32)) := rfl

theorem exec_vscatter (d a b : Reg) (s : State) : exec (.vscatter d a b) s = issue (.vscatter d a b) s fun s =>
    if !aligned (s.g a) 4 then trapOf .align (s.g a)
    else .bindX (laneTargets s .write (laneAddrs s a b)) fun r =>
      .bindX (writeLanes r.1 (r.2.zip (laneIds.map fun i => lane (getV r.1.cur.z d) i))) fun s => .ok s := rfl

theorem exec_vmovg (d a b : Reg) (s : State) : exec (.vmovg d a b) s = issue (.vmovg d a b) s fun s =>
    .ok (s.setG d (zext64 (lane (getV s.cur.z a) ((s.g b).toNat % 16)))) := rfl

theorem exec_vmovz (d a b : Reg) (s : State) : exec (.vmovz d a b) s = issue (.vmovz d a b) s fun s =>
    .ok (s.setZ d (ofLanes fun i => if i = (s.g b).toNat % 16 then (s.g a).setWidth 32 else lane (getV s.cur.z d) i)) := rfl

theorem exec_vop (op : BitVec 5) (w : BitVec 30) (s : State) : exec (.vop op w) s = issue (.vop op w) s fun s =>
    if vopFits op w then .ok (s.setCur { s.cur with
      z := (vxCompute op.toNat (VF.ofBits w) ⟨s.cur.z, s.cur.k⟩).v
      k := (vxCompute op.toNat (VF.ofBits w) ⟨s.cur.z, s.cur.k⟩).k })
    else trapOf .illegal (wordVal (.vop op w)) := rfl

section
variable {i : Instr} {s u : State} {d : Reg} {v : Lanes}

/-- A form whose body writes a z register and else leaves a state whose thread is that of the issue. -/
theorem leaves_setZ (hi : Issues i s) (body : State → Res) (he : exec i s = issue i s body) (hb : body s = .ok (u.setZ d v))
    (hcur : u.cur = s.cur) : Leaves i s u (pastWord i { s.cur with z := putV s.cur.z d v }) := by
  have h := leaves_ok_elsewhere hi.toMayIssue body he hb (elsewhere_setCur u { u.cur with z := putV u.cur.z d v })
    (by rw [State.setZ, cur_setCur, hcur]; exact hi.noTrip)
  rwa [State.setZ, cur_setCur, hcur] at h

end

/-- The bytes of a whole row as a register. -/
theorem rowRegister_of_length {bs : List Byte} (h : bs.length = 64) : rowRegister bs = BitVec.ofNat 512 (ofBytes bs) := by
  rw [rowRegister, List.take_of_length_le h.le]

section
variable {i : Instr} {s : State} {n : Nat} {A : Word} {l : ScratchLoc}

theorem vectorScratch_ok (hf : s.focus = .core n) (hl : partyTagged s (.core n) A 64 = some l) (ha : A.toNat % 64 = 0) :
    vectorScratch s A = .ok l := by
  simp only [vectorScratch, hf, hl, aligned_eq_true.mpr ha, if_true]

/-- A form on a scratch-tagged address traps where the address is none of the core's own scratch, then where it is misaligned (R159). -/
theorem vectorScratch_traps {f : ScratchLoc → Res} (hf : s.focus = .core n) (hi : MayIssue i s) (body : State → Res)
    (he : exec i s = issue i s body) (hb : body s = .bindX (vectorScratch s A) f) :
    (partyTagged s (.core n) A 64 = none → Traps i s .perm A) ∧
    (∀ l, partyTagged s (.core n) A 64 = some l → A.toNat % 64 ≠ 0 → Traps i s .align A) := by
  refine ⟨fun hl => ends_trap hi body he ?_, fun l hl ha => ends_trap hi body he ?_⟩
  · simp only [hb, vectorScratch, hf, hl, Res.bindX, mkTrap]
  · simp only [hb, vectorScratch, hf, hl, if_neg (mt aligned_eq_true.mp ha), Res.bindX, mkTrap]

end

theorem isTagged_iff {A : Word} : isTagged A = true ↔ 2 ^ 63 ≤ A.toNat := by
  rw [isTagged, ← BitVec.msb_eq_getLsbD_last, BitVec.msb_eq_decide, decide_eq_true_eq]

end Sys2Proof.Machine
end

section
/-! PROOFS. The vector forms of a service core. -/

namespace Sys2Proof

open Machine

/-- Settles O24, form by form. -/
theorem vectorFormsComplete : Obligations.VectorFormsComplete := by
  refine ⟨?_, ?_, ?_, ?_, ?_, ?_, ?_, ?_⟩
  · intro d a off s u w tg bs hi hA ht hk hr
    have hframe := homeFrame_accessTarget ht
    obtain ⟨hw, hlen⟩ := readFor_frame hr
    rw [← rowRegister_of_length hlen]
    refine leaves_setZ hi _ (exec_vld d a off s) ?_ (by rw [hw.cur, hframe.cur])
    rw [if_neg (mt isTagged_iff.mp (by omega)), ht]
    simp only [Res.bindX, if_neg hk, hframe.focus, hr]
  · intro d a off s u w tg hi hA ht hk hw
    have hframe := homeFrame_accessTarget ht
    obtain ⟨-, hloops⟩ := writeFor_sameLoops (by rwa [hframe.focus])
    refine leaves_ok hi.toMayIssue _ (exec_vst d a off s) ?_ (noTrip_of_sameLoops hloops (by rw [hframe.cur]; exact hi.noTrip))
    rw [if_neg (mt isTagged_iff.mp (by omega)), ht]
    simp only [Res.bindX, if_neg hk, hframe.focus, hw]
  · intro d a off s n hf hA A
    refine ⟨fun hi => ?_, fun hi => ?_⟩
    · obtain ⟨hperm, halign⟩ := vectorScratch_traps hf hi.toMayIssue _ (exec_vld d a off s) (if_pos (isTagged_iff.mpr hA))
      refine ⟨hperm, halign, fun c o hl ha he => leaves_setZ hi _ (exec_vld d a off s) ?_ rfl⟩
      rw [if_pos (isTagged_iff.mpr hA), vectorScratch_ok hf hl ha]
      simp only [Res.bindX, Res.readOk, hf, he]
      rfl
    · obtain ⟨hperm, halign⟩ := vectorScratch_traps hf hi.toMayIssue _ (exec_vst d a off s) (if_pos (isTagged_iff.mpr hA))
      refine ⟨hperm, halign, fun c o hl ha => ?_⟩
      refine leaves_ok (u := landCore s c o _ false) hi.toMayIssue _ (exec_vst d a off s) ?_ hi.noTrip
      rw [if_pos (isTagged_iff.mpr hA), vectorScratch_ok hf hl ha]
      rfl
  · intro d a b s u w tgs l hi ha ht hr
    have hframe := (homeFrame_laneTargets _ ht).trans (homeFrame_readLanes _ hr)
    refine leaves_setZ hi _ (exec_vgather d a b s) ?_ hframe.cur
    rw [if_neg (by simp [aligned, ha]), ht]
    simp only [Res.bindX, hr]
  · intro d a b s u w tgs hi ha ht hw
    have hframe := homeFrame_laneTargets _ ht
    obtain ⟨-, hloops⟩ := writeLanes_sameLoops _ hw
    refine leaves_ok hi.toMayIssue _ (exec_vscatter d a b s) ?_ (noTrip_of_sameLoops hloops (by rw [hframe.cur]; exact hi.noTrip))
    rw [if_neg (by simp [aligned, ha]), ht]
    simp only [Res.bindX, hframe.cur, hw]
  · intro d a b s hi
    have hval : zext64 (lane (getV s.cur.z a) ((s.g b).toNat % 16)) =
        BitVec.ofNat 64 ((getV s.cur.z a).toNat / 2 ^ (32 * ((s.g b).toNat % 16)) % 2 ^ 32) := by rw [zext64_eq, toNat_lane]
    rw [← hval]
    exact leaves_setG hi.toMayIssue _ (exec_vmovg d a b s) rfl hi.noTrip
  · intro d a b s hi
    refine ⟨_, leaves_setZ hi _ (exec_vmovz d a b s) rfl rfl, fun x hx => getV_putV_other _ _ hx, fun k hk => ?_⟩
    rw [getV_putV_same, lane_ofLanes _ hk]
  · intro op w s hi hwf
    have h := leaves_ok_elsewhere hi.toMayIssue _ (exec_vop op w s) (if_pos hwf) (elsewhere_setCur ..)
      (by rw [cur_setCur]; exact hi.noTrip)
    rwa [cur_setCur] at h

end Sys2Proof
end

section
/-! PROOFS. O29: a copy template loads or traps (R178, R179). -/

namespace Sys2Proof.Machine

open Sys2Proof

theorem StitchFrame.partyPriv {s t : State} (h : StitchFrame s t) (p : Party) : partyPriv t p = partyPriv s p := by
  cases p <;> simp only [Machine.partyPriv]
  rw [h.threads]

/-- An address is refused where it has tag 0b11 and its core has no thread assigned to the context (R178). -/
theorem coreTagOk_eq_false {s : State} {c : Nat} {x : Word} : coreTagOk s c x = false ↔
    isCoreTag x = true ∧ (s.ctxt c).scmap.getLsbD (2 * (x.toNat / 2 ^ 32 % 16)) = false ∧
      (s.ctxt c).scmap.getLsbD (2 * (x.toNat / 2 ^ 32 % 16) + 1) = false := by
  rw [coreTagOk, bitsOf_eq]
  simp [and_assoc]

/-- What bttpl does with the record that it has read, in the state after the read. -/
def takeTemplate (a b : Reg) (p : Party) (c : Nat) (u : State) (bs : List Byte) : Res :=
  match templateOf bs with
  | none => trapOf .engine (wordVal (.bttpl a b))
  | some t =>
    if !(coreTagOk u c t.src && coreTagOk u c t.dst && coreTagOk u c t.cwaddr) then trapOf .engine (wordVal (.bttpl a b))
    else if t.peer ≠ 0 ∧ partyPriv u p = .user then trapOf .priv (wordVal (.bttpl a b))
    else .ok (u.setCtxt c { u.ctxt c with templates := FMap.set (u.ctxt c).templates (u.g a).toNat t })

/-- The body of bttpl after its stitch. -/
def bttplBody (a b : Reg) (s : State) : Res :=
  if 255 < (s.g a).toNat then trapOf .engine (wordVal (.bttpl a b))
  else if !aligned (s.g b) 64 then trapOf .align (s.g b)
  else .bindX (engReadN s (engReq (partyCtx s s.focus) (partyPriv s s.focus) .read 5) (s.g b) 64)
    fun r => takeTemplate a b s.focus (partyCtx s s.focus) r.1 r.2

theorem exec_bttpl (a b : Reg) (s : State) :
    exec (.bttpl a b) s = issue (.bttpl a b) s fun s => bttplBody a b (stitchBefore s) := rfl

section
variable {a b : Reg} {s : State} (hi : Issues (.bttpl a b) s)
include hi

theorem bttpl_slot_traps (h : 255 < (s.g a).toNat) : Traps (.bttpl a b) s .engine (wordOfForm (.bttpl a b)) := by
  refine ends_trap hi.toMayIssue _ (exec_bttpl a b s) ?_
  rw [bttplBody, (stitchFrame_stitchBefore s).g, if_pos h, wordVal_eq]
  rfl

theorem bttpl_misaligned_traps (h : (s.g a).toNat ≤ 255) (hb : (s.g b).toNat % 64 ≠ 0) : Traps (.bttpl a b) s .align (s.g b) := by
  refine ends_trap hi.toMayIssue _ (exec_bttpl a b s) ?_
  have hal : aligned (s.g b) 64 = false := by
    rw [← Bool.not_eq_true, aligned_eq_true]
    exact hb
  rw [bttplBody, (stitchFrame_stitchBefore s).g, (stitchFrame_stitchBefore s).g, if_neg (by omega), hal]
  rfl

variable (ha : (s.g a).toNat ≤ 255) (hb : (s.g b).toNat % 64 = 0)
include ha hb

omit hi in
/-- The body where slot and address are allowed: the read, then the record's rules. -/
theorem bttplBody_read : bttplBody a b (stitchBefore s) =
    .bindX (engReadN (stitchBefore s) (engReq (partyCtx s s.focus) (partyPriv s s.focus) .read 5) (s.g b) 64)
      fun r => takeTemplate a b s.focus (partyCtx s s.focus) r.1 r.2 := by
  have hf := stitchFrame_stitchBefore s
  have hal : aligned (s.g b) 64 = true := aligned_eq_true.2 hb
  rw [bttplBody, hf.g, hf.g, hf.focus, hf.partyCtx, hf.partyPriv, if_neg (by omega), hal]
  rfl

theorem bttpl_read_traps {t : Trap}
    (hr : engReadN (stitchBefore s) (engReq (partyCtx s s.focus) (partyPriv s s.focus) .read 5) (s.g b) 64 = .error t) :
    exec (.bttpl a b) s = .next (raise (noteIssue s) t) := by
  refine ends_trap hi.toMayIssue _ (exec_bttpl a b s) ?_
  rw [bttplBody_read ha hb, hr]
  rfl

variable {u : State} {bs : List Byte}
  (hr : engReadN (stitchBefore s) (engReq (partyCtx s s.focus) (partyPriv s s.focus) .read 5) (s.g b) 64 = .ok (u, bs))
include hr

/-- After the read, a trap of the record's rules is the form's. -/
theorem bttpl_record_traps {cause : Cause} {v : Word}
    (ht : takeTemplate a b s.focus (partyCtx s s.focus) u bs = trapOf cause v) : Traps (.bttpl a b) s cause v := by
  refine ends_trap hi.toMayIssue _ (exec_bttpl a b s) ?_
  rw [bttplBody_read ha hb, hr]
  exact ht

/-- After the read, a record that keeps the rules is loaded. -/
theorem bttpl_record_loads {v : State} (ht : takeTemplate a b s.focus (partyCtx s s.focus) u bs = .ok v) (hv : v.cur = u.cur) :
    Leaves (.bttpl a b) s v (pastWord (.bttpl a b) u.cur) := by
  have hread : HomeFrame (stitchBefore s) u := by
    rw [engReadN] at hr
    exact homeFrame_engRead _ hr
  have hcur : v.cur = (stitchBefore s).cur := hv.trans hread.cur
  rw [← hv]
  refine leaves_ok hi.toMayIssue _ (exec_bttpl a b s) ?_ (hcur ▸ (stitchFrame_stitchBefore s).noTrip hi.noTrip)
  rw [bttplBody_read ha hb, hr]
  exact ht

omit hi ha hb in
/-- The read leaves the register that names the slot, and the privilege. -/
theorem bttpl_read_stays : u.g a = s.g a ∧ partyPriv u s.focus = partyPriv s s.focus := by
  rw [engReadN] at hr
  have hread := (stitchFrame_stitchBefore s).trans (homeFrame_engRead _ hr).stitch
  exact ⟨hread.g a, hread.partyPriv _⟩

end

/-- The three addresses of a record are allowed where none is refused. -/
theorem coreTags_eq_true {s : State} {c : Nat} {x y z : Word}
    (h : ¬ (coreTagOk s c x = false ∨ coreTagOk s c y = false ∨ coreTagOk s c z = false)) :
    (coreTagOk s c x && coreTagOk s c y && coreTagOk s c z) = true := by
  simpa [not_or, and_assoc] using h

theorem coreTags_eq_false {s : State} {c : Nat} {x y z : Word}
    (h : coreTagOk s c x = false ∨ coreTagOk s c y = false ∨ coreTagOk s c z = false) :
    (coreTagOk s c x && coreTagOk s c y && coreTagOk s c z) = false := by
  obtain h | h | h := h <;> simp [h]

end Sys2Proof.Machine
end

section
namespace Sys2Proof

open Machine

/-- Settles O29: the checks in R179's order, the record's rules after its read. -/
theorem bttplLoadsTemplate : Obligations.BttplLoadsTemplate := by
  intro a b s hi
  dsimp only
  refine ⟨bttpl_slot_traps hi, bttpl_misaligned_traps hi, fun ha hb => ⟨fun t hr => bttpl_read_traps hi ha hb hr, fun u bs hr => ⟨fun hn => ?_,
    fun t ht => ?_⟩⟩⟩
  · exact bttpl_record_traps hi ha hb hr (by rw [takeTemplate, hn, wordVal_eq]; rfl)
  · obtain ⟨hg, hpriv⟩ := bttpl_read_stays (a := a) hr
    simp only [← coreTagOk_eq_false]
    refine ⟨fun h => bttpl_record_traps hi ha hb hr ?_, fun h hp hu => bttpl_record_traps hi ha hb hr ?_, fun h hp => ?_⟩
    · rw [takeTemplate, ht]
      simp only [coreTags_eq_false h]
      rw [if_pos (by decide), wordVal_eq]
      rfl
    · rw [takeTemplate, ht]
      simp only [coreTags_eq_true h, hpriv, wordVal_eq]
      rw [if_neg (by decide), if_pos ⟨hp, hu⟩]
      rfl
    · refine bttpl_record_loads hi ha hb hr ?_ rfl
      rw [takeTemplate, ht]
      simp only [coreTags_eq_true h, hpriv, hg]
      rw [if_neg (by decide), if_neg (by tauto)]

end Sys2Proof
end

section
/-! PROOFS. O33: tasks submitted, their dependences, graph parameters (R192, R194-R196). -/

namespace Sys2Proof.Machine

open Sys2Proof

/-! ## What the forms do to the table -/

theorem threadsStay_modTask (s : State) (e : Nat) (f : TaskEntry → TaskEntry) : ThreadsStay s (modTask s e f) := by
  unfold modTask
  split
  · exact ⟨rfl, rfl⟩
  · exact .refl s

theorem threadsStay_addDep (s : State) (e : Nat) (d : Dep) (met : Bool) : ThreadsStay s (addDep s e d met) := threadsStay_modTask ..

theorem threadsStay_submitted (s : State) (e c : Nat) (r : TaskRec) (priv : Priv) (replay : Bool) :
    ThreadsStay s (submitted s e c r priv replay) :=
  .trans (t := addTask s e c r priv replay) ⟨rfl, rfl⟩ (.foldl (fun s id => threadsStay_addDep s e (.task id) (!taskLive s id)) r.deps _)

theorem addDep_eq {s : State} {e : Nat} {t : TaskEntry} (h : FMap.get? s.tasks e = some t) (d : Dep) (met : Bool) :
    addDep s e d met = withTask s e (oneDepMore t d met) := get_modTask h _

theorem submit_eq_none {s : State} {c : Nat} (h : quotaOf s c ≤ entriesUsed s c ∨ lowestFree s = none) (r : TaskRec) (priv : Priv) (replay : Bool) :
    submit s c r priv replay = none := by
  rw [submit]
  obtain h | h := h
  · rw [if_pos h]
  · rw [h, Option.map_none, ite_self]

theorem submit_eq_some {s : State} {c e : Nat} (h : entriesUsed s c < quotaOf s c) (he : lowestFree s = some e) (r : TaskRec) (priv : Priv)
    (replay : Bool) : submit s c r priv replay = some (addTask s e c r priv replay, e) := by
  rw [submit, if_neg (by omega), he, Option.map_some]

theorem homeFrame_ownRead {s u : State} {va : Word} {n : Nat} {bs : List Byte} (h : ownRead s va n = .ok (u, bs)) : HomeFrame s u := by
  rw [ownRead, engReadN] at h
  exact homeFrame_engRead _ h

theorem homeFrame_depWord {s u : State} {q : XReq} {va : Word} {pa old : Nat} (h : depWord s q va = .ok (u, pa, old)) : HomeFrame s u := by
  unfold depWord at h
  split at h
  · cases h
  · next v tg hv =>
    split_ifs at h
    cases h
    exact (homeFrame_engTarget hv).trans (homeFrame_readHome v tg.dom tg.pa 8)

/-! ## tsub (R194) -/

/-- What tsub does with the record that it has read. -/
def takeTask (a b : Reg) (va : Word) (u : State) (bs : List Byte) : Res :=
  match parseTask va bs with
  | none => engineTrap (.tsub a b)
  | some r =>
    match submit u (partyCtx u u.focus) r (partyPriv u u.focus) (submitsInReplay u u.focus) with
    | none => engineTrap (.tsub a b)
    | some (v, e) =>
      let w := r.deps.foldl (fun s id => addDep s e (.task id) (!taskLive s id)) v
      .ok (countFor (w.setG a (zext64 (taskId w e))) w.focus 76 1)

theorem exec_tsub (a b : Reg) (s : State) : exec (.tsub a b) s = issue (.tsub a b) s fun s =>
    if !aligned (s.g b) 64 then trapOf .align (s.g b)
    else .bindX (ownRead (stitchBefore s) (s.g b) 128) fun r => takeTask a b (s.g b) r.1 r.2 := rfl

section
variable {a b : Reg} {s : State} (hi : Issues (.tsub a b) s)
include hi

theorem tsub_misaligned_traps (hb : (s.g b).toNat % 64 ≠ 0) : Traps (.tsub a b) s .align (s.g b) := by
  refine ends_trap hi.toMayIssue _ (exec_tsub a b s) ?_
  have hal : aligned (s.g b) 64 = false := by
    rw [← Bool.not_eq_true, aligned_eq_true]
    exact hb
  simp only [hal]
  rfl

variable (hb : (s.g b).toNat % 64 = 0)
include hb

theorem tsub_read_traps {t : Trap} (hr : ownRead (stitchBefore s) (s.g b) 128 = .error t) :
    exec (.tsub a b) s = .next (raise (noteIssue s) t) := by
  refine ends_trap hi.toMayIssue _ (exec_tsub a b s) ?_
  simp only [aligned_eq_true.2 hb, hr]
  rfl

variable {u : State} {bs : List Byte} (hr : ownRead (stitchBefore s) (s.g b) 128 = .ok (u, bs))
include hr

/-- After the read, a refusal of the record is the form's. -/
theorem tsub_record_traps (ht : takeTask a b (s.g b) u bs = engineTrap (.tsub a b)) :
    Traps (.tsub a b) s .engine (wordOfForm (.tsub a b)) := by
  refine ends_trap hi.toMayIssue _ (exec_tsub a b s) ?_
  simp only [aligned_eq_true.2 hb, hr]
  rw [← engineTrap_eq]
  exact ht

/-- After the read, a record that keeps the rules is submitted at the lowest free entry. -/
theorem tsub_record_submits {r : TaskRec} {e : Nat} (hp : parseTask (s.g b) bs = some r)
    (hq : entriesUsed u (partyCtx u u.focus) < quotaOf u (partyCtx u u.focus)) (he : lowestFree u = some e) :
    let w := submitted u e (partyCtx u u.focus) r (partyPriv u u.focus) (submitsInReplay u u.focus)
    Leaves (.tsub a b) s w (pastWord (.tsub a b) (w.cur.put a ((taskId w e).setWidth 64))) := by
  intro w
  have hw : NoTrip (.tsub a b) w.cur := by
    rw [(threadsStay_submitted ..).cur, (homeFrame_ownRead hr).cur]
    exact (stitchFrame_stitchBefore s).noTrip hi.noTrip
  have hcur : (countFor (w.setG a (zext64 (taskId w e))) w.focus 76 1).cur = w.cur.put a ((taskId w e).setWidth 64) := by
    rw [cur_countFor, State.setG, cur_setCur]
    rfl
  rw [← hcur]
  refine leaves_ok_elsewhere hi.toMayIssue _ (exec_tsub a b s) ?_
    (elsewhere_trans (elsewhere_setCur ..) (elsewhere_countFor ..)) (by rw [hcur]; exact noTrip_put hw)
  simp only [aligned_eq_true.2 hb, hr]
  have ht : takeTask a b (s.g b) u bs = .ok (countFor (w.setG a (zext64 (taskId w e))) w.focus 76 1) := by
    rw [takeTask, hp]
    simp only [submit_eq_some hq he]
    rfl
  exact ht

end

/-! ## tdep (R195) -/

/-- What tdep does with the open task e, whose entry held t, in the state after its stitch. -/
def tdepBody (a b c : Reg) (e : Nat) (t : TaskEntry) (s : State) : Res :=
  if c ≠ 0#5 then
    if maxDeps ≤ t.ndeps then engineTrap (.tdep a b c)
    else if !aligned (s.g b) 8 then trapOf .align (s.g b)
    else .bindX (depWord s (engReq (partyCtx s s.focus) (partyPriv s s.focus) .read (partyReq s s.focus .read).src) (s.g b))
      fun r => .ok (addDep r.1 e (.word r.2.1 (r.1.g c)) (decide ((r.1.g c).toNat ≤ r.2.2)))
  else if s.g b = 0#64 then .ok (modTask s e fun t => { t with state := .waiting })
  else if maxDeps ≤ t.ndeps then engineTrap (.tdep a b c)
  else .ok (addDep s e (.task ((s.g b).setWidth 32)) (decide (2 ^ 32 ≤ (s.g b).toNat) || !taskLive s ((s.g b).setWidth 32)))

theorem exec_tdep (a b c : Reg) (s : State) : exec (.tdep a b c) s = issue (.tdep a b c) s fun s =>
    match openTask s (s.g a) with
    | none => engineTrap (.tdep a b c)
    | some (e, t) => tdepBody a b c e t (stitchBefore s) := rfl

section
variable {a b c : Reg} {s : State} (hi : Issues (.tdep a b c) s) {e : Nat} {t : TaskEntry} (ho : openTask s (s.g a) = some (e, t))
include hi ho

/-- A trap of the body on an open task is the form's. -/
theorem tdep_traps {x : Trap} (hb : tdepBody a b c e t (stitchBefore s) = .trap x) : exec (.tdep a b c) s = .next (raise (noteIssue s) x) :=
  ends_trap hi.toMayIssue _ (exec_tdep a b c s) (by rw [ho]; exact hb)

theorem tdep_engine_traps (hb : tdepBody a b c e t (stitchBefore s) = engineTrap (.tdep a b c)) :
    Traps (.tdep a b c) s .engine (wordOfForm (.tdep a b c)) :=
  tdep_traps hi ho (by rw [hb, engineTrap_eq])

/-- The state that the body answers is left. -/
theorem tdep_leaves {u : State} (hb : tdepBody a b c e t (stitchBefore s) = .ok u) (hu : u.cur = (stitchBefore s).cur) :
    Leaves (.tdep a b c) s u (pastWord (.tdep a b c) u.cur) :=
  leaves_ok hi.toMayIssue _ (exec_tdep a b c s) (by rw [ho]; exact hb) (by rw [hu]; exact (stitchFrame_stitchBefore s).noTrip hi.noTrip)

end

section
variable {a b c : Reg} {e : Nat} {t : TaskEntry} {s : State}

/-- A task with eight dependences takes no other (R195). -/
theorem tdepBody_full (hn : 8 ≤ t.ndeps) (h : c ≠ 0#5 ∨ s.g b ≠ 0#64) : tdepBody a b c e t s = engineTrap (.tdep a b c) := by
  by_cases hc : c = 0#5
  · have hb : s.g b ≠ 0#64 := h.resolve_left fun h => h hc
    rw [tdepBody, if_neg (by simpa using hc), if_neg hb, maxDeps, if_pos hn]
  · rw [tdepBody, if_pos hc, maxDeps, if_pos hn]

theorem tdepBody_misaligned (hc : c ≠ 0#5) (hn : t.ndeps < 8) (hb : (s.g b).toNat % 8 ≠ 0) :
    tdepBody a b c e t s = .trap ⟨.align, s.g b, none⟩ := by
  have hal : aligned (s.g b) 8 = false := by
    rw [← Bool.not_eq_true, aligned_eq_true]
    exact hb
  rw [tdepBody, if_pos hc, if_neg (by rw [maxDeps]; omega), hal]
  rfl

/-- A dependence on a word: its read, then the dependence added. -/
theorem tdepBody_word (hc : c ≠ 0#5) (hn : t.ndeps < 8) (hb : (s.g b).toNat % 8 = 0) : tdepBody a b c e t s =
    .bindX (depWord s (engReq (partyCtx s s.focus) (partyPriv s s.focus) .read (partyReq s s.focus .read).src) (s.g b))
      fun r => .ok (addDep r.1 e (.word r.2.1 (r.1.g c)) (decide ((r.1.g c).toNat ≤ r.2.2))) := by
  rw [tdepBody, if_pos hc, if_neg (by rw [maxDeps]; omega), aligned_eq_true.2 hb]
  rfl

theorem tdepBody_close (hc : c = 0#5) (hb : s.g b = 0#64) :
    tdepBody a b c e t s = .ok (modTask s e fun t => { t with state := .waiting }) := by
  rw [tdepBody, if_neg (by simpa using hc), if_pos hb]

theorem tdepBody_task (hc : c = 0#5) (hn : t.ndeps < 8) (hb : s.g b ≠ 0#64) : tdepBody a b c e t s =
    .ok (addDep s e (.task ((s.g b).setWidth 32)) (decide (2 ^ 32 ≤ (s.g b).toNat) || !taskLive s ((s.g b).setWidth 32))) := by
  rw [tdepBody, if_neg (by simpa using hc), if_neg hb, if_neg (by rw [maxDeps]; omega)]

end

section
variable {a b c : Reg} {s : State} (hi : Issues (.tdep a b c) s) {e : Nat} {t : TaskEntry} (ho : openTask s (s.g a) = some (e, t))

/-- A dependence on a word in a stitched state reads it for the party. -/
theorem tdepBody_word_stitched (hc : c ≠ 0#5) (hn : t.ndeps < 8) (hb : (s.g b).toNat % 8 = 0) : tdepBody a b c e t (stitchBefore s) =
    .bindX (depWord (stitchBefore s) (engReq (partyCtx s s.focus) (partyPriv s s.focus) .read (partyReq s s.focus .read).src) (s.g b))
      fun r => .ok (addDep r.1 e (.word r.2.1 (r.1.g c)) (decide ((r.1.g c).toNat ≤ r.2.2))) := by
  have hf := stitchFrame_stitchBefore s
  have hsrc : (partyReq (stitchBefore s) s.focus .read).src = (partyReq s s.focus .read).src := rfl
  rw [tdepBody_word hc hn (by rw [hf.g]; exact hb), hf.g, hf.focus, hf.partyCtx, hf.partyPriv, hsrc]

include hi ho

theorem tdep_word_leaves {u : State} {pa old : Nat} {t' : TaskEntry} (hc : c ≠ 0#5) (hn : t.ndeps < 8) (hb : (s.g b).toNat % 8 = 0)
    (hr : depWord (stitchBefore s) (engReq (partyCtx s s.focus) (partyPriv s s.focus) .read (partyReq s s.focus .read).src) (s.g b) =
      .ok (u, pa, old)) (ht : FMap.get? u.tasks e = some t') :
    Leaves (.tdep a b c) s (withTask u e (oneDepMore t' (.word pa (s.g c)) (decide ((s.g c).toNat ≤ old)))) (pastWord (.tdep a b c) u.cur) := by
  have hread := homeFrame_depWord hr
  have hg : u.g c = s.g c := by rw [hread.stitch.g, (stitchFrame_stitchBefore s).g]
  refine tdep_leaves hi ho ?_ hread.cur
  rw [tdepBody_word_stitched hc hn hb, hr, ← addDep_eq ht, ← hg]
  rfl

end

/-! ## Graph parameters (R196) -/

theorem exec_gpset (a b c : Reg) (s : State) : exec (.gpset a b c) s = issue (.gpset a b c) s fun s =>
    if 63 < (s.g b).toNat ∨ 255 < (s.g c).toNat then engineTrap (.gpset a b c)
    else
      let u := stitchBefore s
      let k := partyCtx u u.focus
      .ok (u.setCtxt k { u.ctxt k with gps := FMap.set (u.ctxt k).gps ((s.g c).toNat, (s.g b).toNat) (u.g a) }) := rfl

theorem exec_gpget (a b c : Reg) (s : State) : exec (.gpget a b c) s = issue (.gpget a b c) s fun s =>
    if 63 < (s.g b).toNat ∨ 255 < (s.g c).toNat then engineTrap (.gpget a b c)
    else .ok (s.setG a (gpOf s (partyCtx s s.focus) (s.g c).toNat (s.g b).toNat)) := rfl

theorem gpset_writes {a b c : Reg} {s : State} (hi : Issues (.gpset a b c) s) (hb : (s.g b).toNat ≤ 63) (hc : (s.g c).toNat ≤ 255) :
    let u := stitchBefore s
    Leaves (.gpset a b c) s
      (u.setCtxt (partyCtx s s.focus) { u.ctxt (partyCtx s s.focus) with
        gps := FMap.set (u.ctxt (partyCtx s s.focus)).gps ((s.g c).toNat, (s.g b).toNat) (s.g a) })
      (pastWord (.gpset a b c) u.cur) := by
  have hf := stitchFrame_stitchBefore s
  refine leaves_ok hi.toMayIssue _ (exec_gpset a b c s) ?_ (hf.noTrip hi.noTrip)
  dsimp only
  rw [if_neg (by omega), hf.focus, hf.partyCtx, hf.g]

theorem gpget_reads {a b c : Reg} {s : State} (hi : Issues (.gpget a b c) s) (hb : (s.g b).toNat ≤ 63) (hc : (s.g c).toNat ≤ 255) :
    RunsTo (.gpget a b c) s (pastWord (.gpget a b c)
      (s.cur.put a (FMap.getD (s.ctxt (partyCtx s s.focus)).gps ((s.g c).toNat, (s.g b).toNat) 0#64))) :=
  leaves_setG hi.toMayIssue _ (exec_gpget a b c s) (by rw [if_neg (by omega)]; rfl) hi.noTrip

end Sys2Proof.Machine
end

section
namespace Sys2Proof

open Machine

/-- Settles O33: tsub after its read, tdep by what it adds, the graph parameters by their bounds. -/
theorem taskFormsComplete : Obligations.TaskFormsComplete := by
  refine ⟨fun a b s hi => ?tsub, fun a b c s hi => ?tdep, fun a b c s hi => ?gpset, fun a b c s hi => ?gpget⟩
  case tsub =>
    refine ⟨tsub_misaligned_traps hi, fun hb => ⟨fun t => tsub_read_traps hi hb, fun u bs hr => ⟨fun hn => ?_, fun r hp => ⟨fun hq => ?_, ?_⟩⟩⟩⟩
    · exact tsub_record_traps hi hb hr (by rw [takeTask, hn])
    · exact tsub_record_traps hi hb hr (by rw [takeTask, hp]; simp only [submit_eq_none hq])
    · exact fun e => tsub_record_submits hi hb hr hp
  case tdep =>
    have hf := stitchFrame_stitchBefore s
    refine ⟨fun hn => ends_trap hi.toMayIssue _ (exec_tdep a b c s) (by rw [hn, ← engineTrap_eq]), fun e t ho => ⟨?_, ?_, ?_, ?_, ?_, ?_, ?_⟩⟩
    · exact fun hc hn => tdep_engine_traps hi ho (tdepBody_full hn (.inl hc))
    · exact fun hc hn hb => tdep_traps hi ho (by rw [tdepBody_misaligned hc hn (by rw [hf.g]; exact hb), hf.g])
    · exact fun x hc hn hb hr => tdep_traps hi ho (by rw [tdepBody_word_stitched hc hn hb, hr]; rfl)
    · exact fun u pa old t' hc hb hn => tdep_word_leaves hi ho hc hn hb
    · exact fun t' hc hb ht => tdep_leaves hi ho (u := withTask _ _ _) (by rw [tdepBody_close hc (by rw [hf.g]; exact hb), get_modTask ht]; rfl) rfl
    · exact fun hc hb hn => tdep_engine_traps hi ho (tdepBody_full hn (.inr (by rw [hf.g]; exact hb)))
    · exact fun t' hc hb hn ht => tdep_leaves hi ho (u := withTask _ _ _)
        (by rw [tdepBody_task hc hn (by rw [hf.g]; exact hb), addDep_eq ht, hf.g]) rfl
  case gpset =>
    exact ⟨fun h => ends_trap hi.toMayIssue _ (exec_gpset a b c s) (by rw [if_pos h, ← engineTrap_eq]), gpset_writes hi⟩
  case gpget =>
    exact ⟨fun h => ends_trap hi.toMayIssue _ (exec_gpget a b c s) (by rw [if_pos h, ← engineTrap_eq]), gpget_reads hi⟩

end Sys2Proof
end

section
/-! SUPPORT. Event counters (R197-R199): a stitch keeps what each counter of a panel is selected for, an issue adds ev88 alone. -/

namespace Sys2Proof.Machine

open Sys2Proof

/-! ## What a stitch keeps -/

/-- The event and the qualifier of each counter of a panel. -/
def selections (x : Panel) : Vector (Option Nat × Nat) 4 := x.counters.map fun c => (c.event, c.qual)

/-- Every panel keeps what its counters are selected for. -/
structure SelectionsStay (s t : State) : Prop where
  panels : ∀ p, (t.panel? p).map selections = (s.panel? p).map selections

theorem SelectionsStay.of_panels {s t : State} (h : t.panels = s.panels) : SelectionsStay s t := ⟨fun p => by rw [State.panel?, State.panel?, h]⟩

theorem SelectionsStay.refl (s : State) : SelectionsStay s s := ⟨fun _ => rfl⟩

theorem SelectionsStay.trans {s t u : State} (h : SelectionsStay s t) (k : SelectionsStay t u) : SelectionsStay s u :=
  ⟨fun p => (k.panels p).trans (h.panels p)⟩

theorem SelectionsStay.foldl {α : Type} {f : State → α → State} (hf : ∀ s x, SelectionsStay s (f s x)) (l : List α) (s : State) :
    SelectionsStay s (l.foldl f s) :=
  List.foldlRecOn l f (motive := SelectionsStay s) (.refl s) fun _ h x _ => h.trans (hf _ x)

theorem SelectionsStay.ite {s t u : State} {P : Prop} [Decidable P] (h : SelectionsStay s t) (k : SelectionsStay s u) :
    SelectionsStay s (if P then t else u) := by
  split
  · exact h
  · exact k

/-- What neither reads nor changes a panel keeps the selections. -/
theorem SelectionsStay.of_blind {g : State → State} (hg : Blind g) (s : State) : SelectionsStay s (g s) := by
  have hs : g s = withUnits (g s) s.panels s.cores := hg s s.panels s.cores
  have hpanels := congrArg State.panels hs
  exact .of_panels hpanels

theorem SelectionsStay.modPanel {f : Panel → Panel} (hf : ∀ x, selections (f x) = selections x) (s : State) (p : Nat) :
    SelectionsStay s (s.modPanel p f) := by
  cases hx : s.panel? p with
  | none => rw [modPanel_none hx]; exact .refl s
  | some x =>
    rw [modPanel_some hx]
    refine ⟨fun q => ?_⟩
    by_cases hq : q = p
    · subst hq; rw [panel_setPanel, hx]; exact congrArg some (hf x)
    · rw [panel_setPanel_other _ _ hq]

theorem SelectionsStay.setPanel {s : State} {p : Nat} {x y : Panel} (hx : s.panel? p = some x) (h : selections y = selections x) :
    SelectionsStay s (s.setPanel p y) := by
  have := SelectionsStay.modPanel (f := fun z => if z = x then y else z) (fun z => by split <;> simp_all) s p
  rwa [modPanel_some hx, if_pos rfl] at this

theorem selection_add (c : Counter) (ev n : Nat) : ((c.add ev n).event, (c.add ev n).qual) = (c.event, c.qual) := by
  unfold Counter.add
  split <;> rfl

theorem selection_addAt (c : Counter) (ev st pc : Nat) : ((c.addAt ev st pc).event, (c.addAt ev st pc).qual) = (c.event, c.qual) := by
  unfold Counter.addAt
  split
  · exact selection_add ..
  · rfl

/-- Counters that a function changes with their selections kept. -/
theorem selections_map (x : Panel) {f : Counter → Counter} (hf : ∀ c, ((f c).event, (f c).qual) = (c.event, c.qual)) :
    selections { x with counters := x.counters.map f } = selections x := by
  simp only [selections, Vector.map_map]
  exact Vector.map_congr_left fun c _ => hf c

theorem selections_count (x : Panel) (ev n : Nat) : selections (x.count ev n) = selections x := selections_map x fun c => selection_add c ev n

/-- The counters of the panels that a test selects take a change. -/
theorem selectionsStay_mapPanels (s : State) (sel : Panel → Bool) (f : Panel → Panel) (hf : ∀ x, selections (f x) = selections x) :
    SelectionsStay s { s with panels := mapVals (fun _ x => if sel x then f x else x) s.panels } := by
  refine ⟨fun p => ?_⟩
  simp only [State.panel?, get_mapVals, Option.map_map]
  congr 1
  funext x
  by_cases h : sel x <;> simp [h, hf]

theorem selectionsStay_countBurst (s : State) (w : Option Writer) (ev sec : Nat) : SelectionsStay s (countBurst s w ev sec) := by
  unfold countBurst
  split
  split
  · exact .of_panels rfl
  · simpa using selectionsStay_mapPanels s (fun x => x.uid == _) _ fun x => selections_map x fun c => selection_addAt c ev _ _
  · exact .refl s

theorem selectionsStay_countWriter (s : State) (w : Option Writer) (ev n : Nat) : SelectionsStay s (countWriter s w ev n) := by
  unfold countWriter
  split
  · exact .of_panels rfl
  · simpa using selectionsStay_mapPanels s (fun x => x.uid == _) (fun x => x.count ev n) fun x => selections_count x ev n
  · exact .refl s

theorem selectionsStay_evictWith {wr : State → Nat → Update → State} (hwr : ∀ s pa u, SelectionsStay s (wr s pa u)) (s : State) (line : Nat) :
    SelectionsStay s (evictWith wr s line) := by
  have hside : SelectionsStay s (evictSideWith wr s line) := by
    unfold evictSideWith
    split
    · exact .refl s
    · next sb _ =>
      have herase : SelectionsStay s { s with sides := FMap.erase s.sides line } := .of_panels rfl
      dsimp only
      split
      · exact herase.ite (herase.trans (hwr ..))
      · exact herase.trans (selectionsStay_countWriter ..)
  have hclean (s : State) : SelectionsStay s (cleanLine s line) :=
    .trans (.foldl (f := fun s c => countBurst s c.2 48 c.1) (fun s c => selectionsStay_countBurst s c.2 48 c.1)
      ((dirtyIn s.l2Dirty (8 * line) (8 * line + 8)).filter fun c => paKind s (32 * c.1) == .first) s) (.of_panels rfl)
  exact hside.trans <| (SelectionsStay.of_blind (blind_countPoison line) _).trans <| (hclean _).trans (.of_blind (blind_l2Drop line) _)

/-! ## Home queues and fills -/

theorem selectionsStay_landReq (s : State) (r : HomeReq) : SelectionsStay s (landReq s r) := by
  have hland (s : State) (u : Update) : SelectionsStay s (landUpdate s u) := .of_blind (blind_landUpdate u) s
  cases r with
  | update u => exact hland s u
  | ask a =>
    have hl1 (bs : List Byte) : SelectionsStay s (answerL1 s a bs) := by
      unfold answerL1
      split
      · exact .ite (.refl s) (.of_panels rfl)
      · exact .refl s
    refine .trans ?_ (.of_blind (blind_noteReply a (homeBytes s a.dom a.pa a.n, badSector s a.pa a.n)) _)
    split
    · exact .ite (.refl s) (hland ..)
    · exact .ite (.refl s) (hl1 _)

theorem selectionsStay_setHomeQ (s : State) (q : FMap Nat (List HomeReq)) : SelectionsStay s { s with homeQ := q } := .of_panels rfl

theorem selectionsStay_flushWith {f : State → HomeReq → State} (hf : ∀ s r, SelectionsStay s (f s r)) (s : State) (h : Nat) :
    SelectionsStay s (flushWith f s h) := by
  unfold flushWith
  split
  · exact .refl s
  · exact (selectionsStay_setHomeQ ..).trans (.foldl hf _ _)

theorem selectionsStay_performAt (n : Nat) (s : State) (r : HomeReq) : SelectionsStay s (performAt n s r) := by
  induction n generalizing s r with
  | zero => exact selectionsStay_landReq s r
  | succ n ih =>
    have hevict (s : State) (l : Nat) := selectionsStay_evictWith (wr := fun s pa v => performAt n (flushWith (performAt n) s (sliceOf pa)) (.update v))
      (fun s pa u => (selectionsStay_flushWith ih s _).trans (ih ..)) s l
    exact .trans (.foldl (fun s l => .ite (hevict s l) (.refl s)) _ s) (selectionsStay_landReq ..)

theorem selectionsStay_perform (s : State) (r : HomeReq) : SelectionsStay s (perform s r) := selectionsStay_performAt ..

theorem selectionsStay_flushSlice (s : State) (h : Nat) : SelectionsStay s (flushSlice s h) :=
  selectionsStay_flushWith selectionsStay_perform s h

theorem selectionsStay_evictL2 (s : State) (line : Nat) : SelectionsStay s (evictL2 s line) := by
  refine selectionsStay_evictWith (fun s pa u => ?_) s line
  unfold writeBehind applyUpdate
  exact (selectionsStay_flushSlice s _).trans (selectionsStay_perform ..)

theorem selectionsStay_l2Meet (s : State) (dom line : Nat) : SelectionsStay s (l2Meet s dom line) :=
  .ite (selectionsStay_evictL2 s line) (.refl s)

theorem selectionsStay_fillSector (w : Option Writer) (dom : Nat) (s : State) (sec : Nat) : SelectionsStay s (fillSector w dom s sec) := by
  have hset : SelectionsStay s (setL2Dom { s with l2 := sec :: s.l2 } dom (sec / 8)) := .of_panels rfl
  exact .ite (.ite (hset.trans (selectionsStay_countBurst ..)) hset) (.refl s)

theorem selectionsStay_fillLine (w : Option Writer) (dom : Nat) (s : State) (line : Nat) : SelectionsStay s (fillLine w dom s line) := by
  have hside : SelectionsStay s (fillSide s line) := by
    unfold fillSide
    refine .ite (.refl s) ?_
    split
    · exact .refl s
    · exact .of_panels rfl
  unfold fillLine
  refine .ite (.refl s) ?_
  split
  · exact .refl s
  · exact hside.trans <| (SelectionsStay.foldl (selectionsStay_fillSector w dom) _ _).trans <|
      (selectionsStay_l2Meet ..).trans (selectionsStay_fillSector ..)

theorem selectionsStay_pushHome (s : State) (dom : Nat) (task : BitVec 32) (pa : Nat) (bs : List Byte) (w : Option Writer) :
    SelectionsStay s (pushHome s dom task pa bs w) := .of_panels (by rw [pushHome_eq])

/-! ## The publish and the stitch -/

theorem selectionsStay_publishTileMem (s : State) (p t pa : Nat) (bs : List Byte) (wt : Bool) (dom : Nat) :
    SelectionsStay s (publishTileMem s p t pa bs wt dom) := by
  unfold publishTileMem
  split
  · exact .refl s
  · next x hx =>
    have hset (tl : Tile) : SelectionsStay s (s.setPanel p (x.setTile t tl)) := .setPanel hx rfl
    exact .ite ((hset _).trans (selectionsStay_pushHome ..)) (hset _)

theorem selectionsStay_publishTileEntry (p t : Nat) (s : State) (e : LogEntry) : SelectionsStay s (publishTileEntry p t s e) := by
  cases e with
  | scratch _ off bs full =>
    refine .modPanel ?_ s p
    exact fun _ => rfl
  | memory parts => exact .foldl (fun s m => selectionsStay_publishTileMem ..) parts s
  | undo _ _ _ => exact .refl s
  | side pa b dom => exact (selectionsStay_l2Meet ..).trans ((selectionsStay_fillLine ..).trans (.of_panels rfl))

theorem selectionsStay_publishSeqEntry (p : Nat) (s : State) (e : LogEntry) : SelectionsStay s (publishSeqEntry p s e) := by
  cases e with
  | scratch t off bs full =>
    refine .modPanel ?_ s p
    exact fun _ => rfl
  | memory parts => exact .foldl (fun s m => selectionsStay_pushHome ..) parts s
  | undo _ _ _ => exact .refl s
  | side _ _ _ => exact .refl s

theorem selectionsStay_setThread (s : State) (p : Party) (t : Thread) : SelectionsStay s (s.setThread p t) := .of_panels rfl

theorem selectionsStay_publishStrand (s : State) (p i : Nat) : SelectionsStay s (publishStrand s p i) := by
  unfold publishStrand
  split
  · exact .refl s
  · dsimp only
    refine .trans ?_ (selectionsStay_setThread ..)
    refine .trans ?_ (.modPanel (fun y => ?_) _ p)
    · refine .trans ?_ (.foldl (selectionsStay_publishSeqEntry p) _ _)
      exact .foldl (fun s c => .foldl (fun s e => selectionsStay_publishTileEntry ..) _ _) _ _
    · rfl

theorem selectionsStay_publishLogs (s : State) (p : Nat) : SelectionsStay s (publishLogs s p) := by
  unfold publishLogs
  split
  · exact .refl s
  · next x hx =>
    refine (SelectionsStay.setPanel hx (selections_count x 8 (panelLogBytes x))).trans ?_
    refine .trans (.foldl (fun s i => selectionsStay_publishStrand s p i) strandIds _) ?_
    refine .modPanel ?_ _ p
    exact fun _ => rfl

theorem selectionsStay_stitchPanel (s : State) (p : Nat) : SelectionsStay s (stitchPanel s p) := by
  have hpublish : SelectionsStay s (publishPanel s p) :=
    (SelectionsStay.modPanel (fun x => selections_count x 7 1) s p).trans (selectionsStay_publishLogs ..)
  unfold stitchPanel takeShadow
  refine hpublish.trans ?_
  refine .modPanel ?_ _ p
  exact fun _ => rfl

theorem selectionsStay_stitchBefore (s : State) : SelectionsStay s (stitchBefore s) := by
  unfold stitchBefore
  split
  · exact selectionsStay_stitchPanel ..
  · exact selectionsStay_stitchPanel ..
  · exact .refl s

/-! ## The counters of a party -/

/-- What an issue adds to a counter of the party's: a sequencer's is counted in ev88 (R198). -/
def ownCount : Party → Counter → Counter
  | .seq _ _, c => c.add 88 1
  | _, c => c

theorem countersOf_modPanel (s : State) (p : Nat) (f : Panel → Panel) {q : Party} (hq : partyPanel q = some p) :
    countersOf (s.modPanel p f) q = ((s.panel? p).map fun x => (f x).counters).getD (Vector.replicate 4 Counter.clear) := by
  rw [countersOf, hq]
  cases hx : s.panel? p with
  | none => simp [modPanel_none hx, hx]
  | some x => simp [modPanel_some hx]

theorem countersOf_panel (s : State) {p : Nat} {q : Party} (hq : partyPanel q = some p) :
    countersOf s q = ((s.panel? p).map (·.counters)).getD (Vector.replicate 4 Counter.clear) := by
  rw [countersOf, hq]

theorem countersOf_setCur (s : State) (t : Thread) (p : Party) : countersOf (s.setCur t) p = countersOf s p := by
  unfold countersOf
  split <;> rfl

theorem add_nothing (c : Counter) (ev : Nat) : c.add ev 0 = c := by
  unfold Counter.add
  split
  · have hlt := c.count.isLt
    have hle : decide (2 ^ 48 ≤ c.count.toNat) = false := decide_eq_false (by omega)
    rw [Nat.add_zero, hle, Bool.or_false, BitVec.ofNat_toNat, BitVec.setWidth_eq]
  · rfl

theorem count_nothing (x : Panel) (ev : Nat) : x.count ev 0 = x := by
  simp [Panel.count, add_nothing]

theorem countersOf_countFor_nothing (s : State) (p q : Party) (ev : Nat) : countersOf (countFor s p ev 0) q = countersOf s q := by
  have hpanel (x : Nat) : countersOf (s.modPanel x fun y => y.count ev 0) q = countersOf s q := by
    cases hx : s.panel? x with
    | none => rw [modPanel_none hx]
    | some y =>
      rw [modPanel_some hx, count_nothing]
      unfold countersOf
      split
      · next z _ =>
        by_cases hz : z = x
        · subst hz; simp [hx]
        · rw [panel_setPanel_other _ _ hz]
      · rfl
  cases p with
  | core c =>
    unfold countersOf
    split
    · rfl
    · by_cases h : coreOf q = c / 2
      · simp [countFor, h, add_nothing]
      · simp [countFor, core_setCore_other _ _ h]
  | seq x _ => exact hpanel x
  | slice x _ => exact hpanel x
  | tile x _ => exact hpanel x

/-- A word that ends no trip moves the pc alone, or counts no trip beside (R168). -/
theorem retire_noTrip {i : Instr} {s : State} (h : NoTrip i s.cur) :
    retire i s = s.setCur (pastWord i s.cur) ∨ retire i s = countFor (s.setCur (pastWord i s.cur)) s.focus 90 0 := by
  unfold retire
  dsimp only
  split
  · exact .inl rfl
  · rw [tripEnds_none]
    · exact .inr rfl
    · exact h

theorem countersOf_retire {i : Instr} {s : State} (h : NoTrip i s.cur) (p : Party) : countersOf (retire i s) p = countersOf s p := by
  obtain hr | hr := retire_noTrip h
  · rw [hr, countersOf_setCur]
  · rw [hr, countersOf_countFor_nothing, countersOf_setCur]

theorem focus_retire {i : Instr} {s : State} (h : NoTrip i s.cur) : (retire i s).focus = s.focus := by
  obtain hr | hr := retire_noTrip h
  · rw [hr]; rfl
  · rw [hr, focus_countFor]; rfl

theorem countersOf_noteIssue (s : State) : countersOf (noteIssue s) s.focus = (countersOf s s.focus).map (ownCount s.focus) := by
  have hown (v : Vector Counter 4) : v.map (fun c => c) = v := Vector.map_id' v
  unfold noteIssue
  split
  · next p k hf =>
    have hp : partyPanel s.focus = some p := by rw [hf]; rfl
    rw [countersOf_panel s hp]
    split
    · next x hx => rw [countersOf_panel _ hp, hf]; simp [hx, Panel.count, ownCount]
    · next hx =>
      rw [countersOf_panel _ hp, hx, hf]
      simp [ownCount, Counter.add, Counter.clear]
  · next hf =>
    have hid : ownCount s.focus = fun c => c := by
      cases hp : s.focus with
      | seq p k => exact absurd hp (hf p k)
      | _ => rfl
    rw [hid, hown]

theorem countersOf_takeShadow (s : State) (p : Nat) (q : Party) : countersOf (takeShadow s p) q = countersOf s q := by
  unfold takeShadow
  cases hx : s.panel? p with
  | none => rw [modPanel_none hx]
  | some x =>
    rw [modPanel_some hx]
    unfold countersOf
    split
    · next z _ =>
      by_cases hz : z = p
      · subst hz; simp [hx]
      · rw [panel_setPanel_other _ _ hz]
    · rfl

theorem countersOf_commitShadow (i : Instr) (s : State) (p : Party) : countersOf (commitShadow i s) p = countersOf s p := by
  unfold commitShadow
  split
  · split
    · exact countersOf_takeShadow ..
    · rfl
  · split
    · exact countersOf_takeShadow ..
    · rfl
  · rfl

/-- A form whose body answers a state leaves it, the thread past the word, each counter of the party's with the issue counted. -/
theorem ends_ok {i : Instr} {s u : State} (hi : MayIssue i s) (body : State → Res) (he : exec i s = issue i s body) (hb : body s = .ok u)
    (hn : NoTrip i u.cur) : Ends i s fun t => Elsewhere u t ∧ unmarked t.cur = unmarked (pastWord i u.cur) ∧
      countersOf t u.focus = (countersOf u u.focus).map (ownCount u.focus) := by
  rw [issue_eq hi, hb, finishRes] at he
  obtain ⟨t, ht, helse, hcur⟩ := finish_ok i s u hn
  obtain rfl : commitShadow i (noteIssue (retire i u)) = t := Host.Outcome.next.inj ht
  refine ⟨_, he, helse, hcur, ?_⟩
  rw [countersOf_commitShadow, ← focus_retire hn, countersOf_noteIssue, countersOf_retire hn]

end Sys2Proof.Machine
end

section
/-! PROOFS. O34: the counter, fitting and chalk forms (R199-R202). -/

namespace Sys2Proof.Machine

open Sys2Proof

/-! ## pmsel and pmclr (R199) -/

theorem elsewhere_setCounters (s : State) (p : Party) (v : Vector Counter 4) : Elsewhere s (setCounters s p v) := by
  unfold setCounters
  split
  · next x _ =>
    cases hx : s.panel? x with
    | none => rw [modPanel_none hx]; exact elsewhere_refl s
    | some y =>
      rw [modPanel_some hx]
      refine ⟨rfl, fun _ _ => rfl, fun q => ?_, fun _ => rfl⟩
      by_cases hq : q = x
      · subst hq; simp [hx, uncounted]
      · rw [panel_setPanel_other _ _ hq]
  · refine ⟨rfl, fun _ _ => rfl, fun _ => rfl, fun d => ?_⟩
    by_cases h : d = coreOf p
    · subst h; simp [uncountedCore]
    · rw [core_setCore_other _ _ h]

theorem cur_setCounters (s : State) (p : Party) (v : Vector Counter 4) : (setCounters s p v).cur = s.cur := by
  unfold setCounters
  split
  · rw [State.cur, focus_modPanel, thread_modPanel]; rfl
  · rfl

/-- Counters set are the party's where its panel stands. -/
theorem countersOf_setCounters {s : State} {p : Party} (h : ∀ x, partyPanel p = some x → (s.panel? x).isSome = true) (v : Vector Counter 4) :
    countersOf (setCounters s p v) p = v := by
  unfold setCounters
  split
  · next x hp =>
    obtain ⟨y, hy⟩ := Option.isSome_iff_exists.1 (h x hp)
    rw [countersOf_modPanel _ _ _ hp, hy]
    rfl
  · next hp =>
    rw [countersOf, hp]
    dsimp only
    rw [core_setCore]

/-- A form that the slice subset lacks is run by a core or a sequencer (R138). -/
theorem runs_core_or_seq {i : Instr} {s : State} (hi : mayIssue s.focus i = true) (hs : isSliceForm i = false) :
    (∃ n, s.focus = .core n) ∨ ∃ p k, s.focus = .seq p k := by
  cases hf : s.focus with
  | core n => exact .inl ⟨n, rfl⟩
  | seq p k => exact .inr ⟨p, k, rfl⟩
  | slice p k => rw [hf, mayIssue, hs] at hi; cases hi
  | tile p k => rw [hf] at hi; cases hi

/-- What a cleared counter holds after the issue (R198). -/
theorem ownCount_cleared {s : State} (hf : (∃ n, s.focus = .core n) ∨ ∃ p k, s.focus = .seq p k) {c : Counter}
    (h : c.event = some 88 → ∀ x, partyPanel s.focus = some x → (s.panel? x).isSome = true) :
    (ownCount s.focus { c with count := 0, ovf := false }).count = ownIssue s c.event ∧
      (ownCount s.focus { c with count := 0, ovf := false }).ovf = false := by
  obtain ⟨n, hf⟩ | ⟨p, k, hf⟩ := hf
  · rw [hf, ownIssue, hf]
    simp [ownCount, partyPanel]
  · rw [hf] at h ⊢
    by_cases h88 : c.event = some 88
    · have hp := h h88 p rfl
      rw [ownIssue, hf]
      simp [ownCount, Counter.add, h88, partyPanel, hp]
    · rw [ownIssue, if_neg (by simp [h88])]
      simp [ownCount, Counter.add, h88]

theorem selection_ownCount (p : Party) (c : Counter) : ((ownCount p c).event, (ownCount p c).qual) = (c.event, c.qual) := by
  cases p with
  | seq _ _ => exact selection_add ..
  | _ => rfl

theorem ownCount_other (p : Party) {c : Counter} (h : c.event ≠ some 88) : ownCount p c = c := by
  cases p <;> simp [ownCount, Counter.add, h]

theorem panel_stitchBefore_isSome (s : State) (p : Nat) : ((stitchBefore s).panel? p).isSome = (s.panel? p).isSome := by
  have h := (stitchFrame_stitchBefore s).panels p
  cases hs : s.panel? p with
  | none =>
    rw [hs] at h
    cases ht : (stitchBefore s).panel? p with
    | none => rfl
    | some y => rw [ht] at h; cases h
  | some x =>
    obtain ⟨y, hy, -⟩ := (stitchFrame_stitchBefore s).panel hs
    rw [hy]; rfl

/-- What the counters of a panel's party are selected for stays. -/
theorem SelectionsStay.counters {s t : State} (h : SelectionsStay s t) {q : Party} {x : Nat} (hp : partyPanel q = some x) :
    (countersOf t q).map (fun c => (c.event, c.qual)) = (countersOf s q).map fun c => (c.event, c.qual) := by
  have hx := h.panels x
  rw [countersOf_panel _ hp, countersOf_panel _ hp]
  cases hs : s.panel? x <;> cases ht : t.panel? x <;> rw [hs, ht] at hx
  case some.some y z => exact Option.some.inj hx
  all_goals cases hx

/-- A stitch keeps what the counters of the party are selected for. -/
theorem selection_stitchBefore (s : State) (k : Fin 4) : selection (stitchBefore s) k = selection s k := by
  cases hp : partyPanel s.focus with
  | none =>
    have hs : stitchBefore s = s := by
      unfold stitchBefore
      split <;> simp_all [partyPanel]
    rw [hs]
  | some x =>
    have hk := congrArg (·[k]) ((selectionsStay_stitchBefore s).counters hp)
    rw [selection, selection, (stitchFrame_stitchBefore s).focus]
    simpa using hk

/-- A party's own counters after a form that sets them. -/
theorem counter_of_map {t u : State} {v : Vector Counter 4} (ht : Elsewhere u t)
    (h : countersOf t u.focus = v.map (ownCount u.focus)) (k : Fin 4) :
    (countersOf t u.focus)[k] = ownCount u.focus v[k] ∧ selection t k = (v[k].event, v[k].qual) := by
  have hk : (countersOf t u.focus)[k] = ownCount u.focus v[k] := by rw [h]; simp
  refine ⟨hk, ?_⟩
  rw [selection, elsewhere_focus ht, hk]
  exact selection_ownCount ..

theorem exec_pmsel (a b c : Reg) (s : State) : exec (.pmsel a b c) s = issue (.pmsel a b c) s fun s =>
    if 3 < (s.g a).toNat ∨ 95 < (s.g b).toNat ∨ badQualifier (s.g b).toNat (s.g c) = true ∨ underFit s s.focus = true then
      engineTrap (.pmsel a b c)
    else
      let u := stitchBefore s
      .ok (setCounters u u.focus ((countersOf u u.focus).set ((s.g a).toNat % 4) ⟨some (s.g b).toNat, bitsOf (s.g c) 0 11, 0, false⟩
        (Nat.mod_lt _ (by decide)))) := rfl

theorem pmsel_selects {a b c : Reg} {s : State} (hi : Issues (.pmsel a b c) s)
    (h : ¬ (3 < (s.g a).toNat ∨ 95 < (s.g b).toNat ∨ badQualifier (s.g b).toNat (s.g c) = true ∨ underFit s s.focus = true)) :
    let u := stitchBefore s
    Ends (.pmsel a b c) s fun t => Elsewhere u t ∧ unmarked t.cur = unmarked (pastWord (.pmsel a b c) u.cur) ∧
      ((∀ x, partyPanel s.focus = some x → (s.panel? x).isSome = true) → ∀ k : Fin 4,
        (selection t k = if k.val = (s.g a).toNat then (some (s.g b).toNat, (s.g c).toNat % 2 ^ 11) else selection u k) ∧
        (k.val = (s.g a).toNat → countedAs t s.focus k (ownIssue s (some (s.g b).toNat)))) := by
  intro u
  have hu : StitchFrame s u := stitchFrame_stitchBefore s
  have hna : (s.g a).toNat < 4 := by omega
  let new : Counter := ⟨some (s.g b).toNat, bitsOf (s.g c) 0 11, 0, false⟩
  let v := (countersOf u u.focus).set ((s.g a).toNat % 4) new (Nat.mod_lt _ (by decide))
  obtain ⟨t, hexec, helse, hcur, hcount⟩ := ends_ok (u := setCounters u u.focus v) hi.toMayIssue _ (exec_pmsel a b c s) (if_neg h)
    (by rw [cur_setCounters]; exact hu.noTrip hi.noTrip)
  have hset := elsewhere_setCounters u u.focus v
  have hfocus : (setCounters u u.focus v).focus = u.focus := elsewhere_focus hset
  rw [cur_setCounters] at hcur
  refine ⟨t, hexec, elsewhere_trans hset helse, hcur, fun hpanel k => ?_⟩
  rw [hfocus, countersOf_setCounters (by rw [hu.focus]; exact fun x hx => (panel_stitchBefore_isSome s x).trans (hpanel x hx))] at hcount
  obtain ⟨hk, hsel⟩ := counter_of_map (elsewhere_trans hset helse) hcount k
  have hv : v[k] = if k.val = (s.g a).toNat then new else (countersOf u u.focus)[k] := by
    simp [v, Vector.getElem_set, Nat.mod_eq_of_lt hna, eq_comm]
  rw [hv] at hk hsel
  constructor
  · rw [hsel]
    split
    · simp [new, bitsOf_eq]
    · rfl
  · intro hka
    rw [if_pos hka] at hk
    have hclear := ownCount_cleared (runs_core_or_seq hi.form rfl) (c := new) fun _ => hpanel
    rw [countedAs, ← hu.focus, hk, hu.focus]
    exact hclear

theorem exec_pmclr (a : Reg) (s : State) : exec (.pmclr a) s = issue (.pmclr a) s fun s =>
    if underFit s s.focus = true then engineTrap (.pmclr a)
    else
      let u := stitchBefore s
      .ok (setCounters u u.focus (Vector.ofFn fun i : Fin 4 =>
        if (s.g a).getLsbD i.val then { (countersOf u u.focus)[i] with count := 0, ovf := false } else (countersOf u u.focus)[i])) := rfl

/-- The counters with those of a mask cleared. -/
def clearCounters (m : Word) (v : Vector Counter 4) : Vector Counter 4 :=
  Vector.ofFn fun i : Fin 4 => if m.getLsbD i.val then { v[i] with count := 0, ovf := false } else v[i]

theorem getElem_clearCounters (m : Word) (v : Vector Counter 4) (k : Fin 4) :
    (clearCounters m v)[k] = if m.getLsbD k.val then { v[k] with count := 0, ovf := false } else v[k] := by
  simp [clearCounters]

/-- Counters of no panel stay as they are when they are cleared. -/
theorem clearCounters_none (m : Word) : clearCounters m (Vector.replicate 4 Counter.clear) = Vector.replicate 4 Counter.clear := by
  apply Vector.ext
  intro k hk
  simp [clearCounters, Counter.clear]

theorem countersOf_clearCounters (s : State) (p : Party) (m : Word) :
    countersOf (setCounters s p (clearCounters m (countersOf s p))) p = clearCounters m (countersOf s p) := by
  by_cases h : ∀ x, partyPanel p = some x → (s.panel? x).isSome = true
  · exact countersOf_setCounters h _
  · obtain ⟨x, hp, hx⟩ : ∃ x, partyPanel p = some x ∧ s.panel? x = none := by simpa using h
    have hclear : countersOf s p = Vector.replicate 4 Counter.clear := by rw [countersOf_panel _ hp, hx]; rfl
    have hset : setCounters s p (clearCounters m (countersOf s p)) = s := by
      rw [setCounters, hp]
      exact modPanel_none hx _
    rw [hset, hclear, clearCounters_none]

/-- A counter that is selected is of a panel that stands, or of a core. -/
theorem panel_of_selected {s : State} {k : Fin 4} {ev : Nat} (h : (selection s k).1 = some ev) (x : Nat) (hp : partyPanel s.focus = some x) :
    (s.panel? x).isSome = true := by
  cases hx : s.panel? x with
  | some y => rfl
  | none =>
    rw [selection, countersOf_panel _ hp, hx] at h
    simp [Counter.clear] at h

theorem pmclr_clears {a : Reg} {s : State} (hi : Issues (.pmclr a) s) (h : underFit s s.focus = false) :
    Ends (.pmclr a) s fun t => Elsewhere (stitchBefore s) t ∧
      unmarked t.cur = unmarked (pastWord (.pmclr a) (stitchBefore s).cur) ∧ ∀ k : Fin 4, selection t k = selection s k ∧
        ((s.g a).getLsbD k.val = true → countedAs t s.focus k (ownIssue s (selection s k).1)) ∧
        ((s.g a).getLsbD k.val = false → (selection s k).1 ≠ some 88 →
          (countersOf t s.focus)[k] = (countersOf (stitchBefore s) s.focus)[k]) := by
  have hu := stitchFrame_stitchBefore s
  generalize hus : stitchBefore s = u at hu
  let v := clearCounters (s.g a) (countersOf u u.focus)
  obtain ⟨t, hexec, helse, hcur, hcount⟩ := ends_ok (u := setCounters u u.focus v) hi.toMayIssue _ (exec_pmclr a s)
    (by rw [if_neg (by simp [h]), hus]; rfl) (by rw [cur_setCounters]; exact hu.noTrip hi.noTrip)
  have hset := elsewhere_setCounters u u.focus v
  have hfocus : (setCounters u u.focus v).focus = u.focus := elsewhere_focus hset
  rw [cur_setCounters] at hcur
  refine ⟨t, hexec, elsewhere_trans hset helse, hcur, fun k => ?_⟩
  rw [hfocus, countersOf_clearCounters] at hcount
  obtain ⟨hk, hsel⟩ := counter_of_map (elsewhere_trans hset helse) hcount k
  have hstay : selection s k = ((countersOf u u.focus)[k].event, (countersOf u u.focus)[k].qual) := by
    rw [← selection_stitchBefore, hus]; rfl
  rw [getElem_clearCounters] at hk hsel
  rw [hu.focus] at hk hsel hstay
  refine ⟨?_, fun hm => ?_, fun hm hne => ?_⟩
  · rw [hsel, hstay]
    split <;> rfl
  · rw [if_pos hm] at hk
    rw [countedAs, hk, hstay]
    refine ownCount_cleared (runs_core_or_seq hi.form rfl) fun h88 => panel_of_selected (k := k) (ev := 88) ?_
    rw [hstay]
    exact h88
  · rw [if_neg (by simp [hm])] at hk
    rw [hstay] at hne
    rw [hk, ownCount_other _ hne]

end Sys2Proof.Machine
end

section
/-! PROOFS. O34: fitting and chalk (R200-R202), and the counter forms assembled. -/

namespace Sys2Proof.Machine

open Sys2Proof

theorem ofBytes_of_zero {bs : List Byte} (h : bs.all (· == 0#8) = true) : ofBytes bs = 0 := by
  induction bs with
  | nil => rfl
  | cons b bs ih =>
    rw [List.all_cons, Bool.and_eq_true, beq_iff_eq] at h
    rw [ofBytes, h.1, ih h.2]
    rfl

theorem planField_of_zero {bs : List Byte} {i n : Nat} (h : zeroField bs i n = true) : planField bs i n = 0 := ofBytes_of_zero h

theorem toNat_imgWord (bs : List Byte) (i : Nat) : (imgWord bs i).toNat = planField bs i 8 := by
  rw [imgWord, wordOf, planField, BitVec.toNat_ofNat, Nat.mod_eq_of_lt]
  calc ofBytes ((bs.drop i).take 8) < 2 ^ (8 * ((bs.drop i).take 8).length) := ofBytes_lt _
    _ ≤ 2 ^ 64 := Nat.pow_le_pow_right (by decide) (by rw [List.length_take]; omega)

/-- A plan that breaks R201 is refused. -/
theorem parsePlan_eq_none {bs : List Byte} (h : planBreaks bs) : parsePlan bs = none := by
  refine if_neg fun ⟨hlo, hhi, hz1, hal, hp1, hp2, hz2, hz3, hslots⟩ => ?_
  have hbuf : planField bs 8 8 % 65536 = 0 := by
    rw [← toNat_imgWord]
    exact aligned_eq_true.1 hal
  have hslot (j : Nat) (hj : j < 32) : planField bs (0x23 + 4 * j) 1 = 0 :=
    beq_iff_eq.1 (List.all_eq_true.1 hslots j (List.mem_range.2 hj))
  have hone : 1 ≤ planField bs 0 1 ∧ planField bs 0 1 ≤ 8 := ⟨hlo, hhi⟩
  have hpages : 1 ≤ planField bs 0x10 2 ∧ planField bs 0x10 2 ≤ 1024 := ⟨hp1, hp2⟩
  obtain h | h | h | h | h | h | ⟨j, hj, h⟩ := h
  · exact h hone
  · exact h hbuf
  · exact h hpages
  · exact h (planField_of_zero hz1)
  · exact h (planField_of_zero hz2)
  · exact h (planField_of_zero hz3)
  · exact h (hslot j hj)

theorem homeFrame_bufferPages {q : XReq} {va : Word} (l : List Nat) : ∀ {s u : State} {pas : List Nat},
    bufferPages q va l s = .ok (u, pas) → HomeFrame s u := by
  induction l with
  | nil => intro s u pas h; cases h; exact .refl s
  | cons i is ih =>
    intro s u pas h
    rw [bufferPages] at h
    split at h
    · cases h
    · next v tg hv =>
      split at h
      · cases h
      · next w l hw =>
        cases h
        exact (homeFrame_engTarget hv).trans (ih hw)

theorem get_of_findTask {s : State} {id : BitVec 32} {e : Nat} {t : TaskEntry} (h : findTask s id = some (e, t)) :
    FMap.get? s.tasks e = some t := by
  unfold findTask at h
  dsimp only at h
  split at h
  · split_ifs at h
    cases h
    assumption
  · cases h

theorem get_of_fitTask {s : State} {v : Word} {e : Nat} {t : TaskEntry} (h : fitTask s v = some (e, t)) : FMap.get? s.tasks e = some t := by
  unfold fitTask at h
  split_ifs at h
  obtain ⟨x, hx, h⟩ := Option.bind_eq_some_iff.1 h
  dsimp only at h
  split_ifs at h
  cases h
  exact get_of_findTask hx

/-! ## The forms -/

theorem exec_pmrd (a b : Reg) (s : State) : exec (.pmrd a b) s = issue (.pmrd a b) s fun s =>
    if 3 < (s.g b).toNat then engineTrap (.pmrd a b)
    else
      let r := counterRead s ((countersOf s s.focus)[(s.g b).toNat % 4]'(Nat.mod_lt _ (by decide)))
      .ok (r.1.setG a (countWord r.2.1 r.2.2)) := rfl

theorem cur_counterRead (s : State) (c : Counter) : (counterRead s c).1.cur = s.cur := by
  unfold counterRead
  split
  · split <;> rfl
  · rfl

theorem pmrd_reads {a b : Reg} {s : State} (hi : Issues (.pmrd a b) s) (h : (s.g b).toNat < 4) :
    let r := counterRead s ((countersOf s s.focus)[(s.g b).toNat])
    Leaves (.pmrd a b) s r.1 (pastWord (.pmrd a b) (s.cur.put a (countWord r.2.1 r.2.2))) := by
  intro r
  have hcur : r.1.cur = s.cur := cur_counterRead ..
  rw [← hcur]
  refine leaves_setG hi.toMayIssue _ (exec_pmrd a b s) ?_ (hcur ▸ hi.noTrip)
  rw [if_neg (by omega)]
  simp only [Nat.mod_eq_of_lt h]
  rfl

/-- What fitbeg does with the plan that it has read for the open task e. -/
def takePlan (a b : Reg) (e : Nat) (u : State) (bs : List Byte) : Res :=
  match parsePlan bs with
  | none => engineTrap (.fitbeg a b)
  | some f =>
    .bindX (bufferPages (engReq (partyCtx u u.focus) (partyPriv u u.focus) .write (partyReq u u.focus .write).src) f.buffer (List.range f.pages) u)
      fun r => .ok (modTask r.1 e fun t => { t with fit := some { f with bufferPas := r.2 } })

/-- The body of fitbeg. -/
def fitbegBody (a b : Reg) (s : State) : Res :=
  match openTask s (s.g a) with
  | none => engineTrap (.fitbeg a b)
  | some (e, t) =>
    if t.fit.isSome ∨ aligned (s.g b) 64 = false then engineTrap (.fitbeg a b)
    else .bindX (ownRead s (s.g b) 256) fun r => takePlan a b e r.1 r.2

theorem exec_fitbeg (a b : Reg) (s : State) : exec (.fitbeg a b) s = issue (.fitbeg a b) s (fitbegBody a b) := rfl

section
variable {a b : Reg} {s : State} (hi : Issues (.fitbeg a b) s) {e : Nat} {t : TaskEntry} (ho : openTask s (s.g a) = some (e, t))
include hi ho

theorem fitbeg_refused (h : t.fit.isSome = true ∨ (s.g b).toNat % 64 ≠ 0) : Traps (.fitbeg a b) s .engine (wordOfForm (.fitbeg a b)) := by
  refine ends_trap hi.toMayIssue _ (exec_fitbeg a b s) ?_
  have hal : (s.g b).toNat % 64 ≠ 0 → aligned (s.g b) 64 = false := fun h => by
    rw [← Bool.not_eq_true, aligned_eq_true]
    exact h
  rw [fitbegBody, ho]
  dsimp only
  rw [if_pos (h.imp id hal), engineTrap_eq]

variable (hfit : t.fit = none) (hb : (s.g b).toNat % 64 = 0) {u : State} {bs : List Byte} (hr : ownRead s (s.g b) 256 = .ok (u, bs))
include hfit hb hr

omit hi in
/-- The body where the task has no plan and the address is allowed, after the read of the plan. -/
theorem fitbegBody_read : fitbegBody a b s = takePlan a b e u bs := by
  rw [fitbegBody, ho]
  dsimp only
  rw [if_neg (by simp [hfit, aligned_eq_true.2 hb]), hr]
  rfl

theorem fitbeg_plan_traps (h : planBreaks bs) : Traps (.fitbeg a b) s .engine (wordOfForm (.fitbeg a b)) := by
  refine ends_trap hi.toMayIssue _ (exec_fitbeg a b s) ?_
  rw [fitbegBody_read ho hfit hb hr, takePlan, parsePlan_eq_none h, ← engineTrap_eq]

theorem fitbeg_attaches {w : State} {f : Fitting} {pas : List Nat} {t' : TaskEntry} (hf : parsePlan bs = some f)
    (hw : bufferPages (engReq (partyCtx u u.focus) (partyPriv u u.focus) .write (partyReq u u.focus .write).src) f.buffer (List.range f.pages) u =
      .ok (w, pas)) (ht : FMap.get? w.tasks e = some t') :
    Leaves (.fitbeg a b) s (withTask w e { t' with fit := some { f with bufferPas := pas } }) (pastWord (.fitbeg a b) w.cur) := by
  have hcur : w.cur = s.cur := ((homeFrame_ownRead hr).trans (homeFrame_bufferPages _ hw)).cur
  refine leaves_ok (u := withTask w e _) hi.toMayIssue _ (exec_fitbeg a b s) ?_ (hcur ▸ hi.noTrip)
  rw [fitbegBody_read ho hfit hb hr, takePlan, hf]
  dsimp only
  rw [hw, Res.bindX]
  dsimp only
  rw [get_modTask ht, withTask]

end

theorem exec_fitend (a : Reg) (s : State) : exec (.fitend a) s = issue (.fitend a) s fun s =>
    match fitTask s (s.g a) with
    | none => if namesPast s (s.g a) then .ok s else engineTrap (.fitend a)
    | some (e, t) => if t.state.isOver then .ok (modTask s e fun t => { t with fit := none }) else engineTrap (.fitend a) := rfl

theorem exec_fitstat (a b c : Reg) (s : State) : exec (.fitstat a b c) s = issue (.fitstat a b c) s fun s =>
    match (fitTask s (s.g b)).bind fun x => x.2.fit.bind fun f => fitItem x.2 f (s.g c).toNat with
    | some v => .ok (s.setG a v)
    | none => engineTrap (.fitstat a b c) := rfl

/-- What chalk does by its number in the state after its stitch. -/
def chalkDoes (u : State) (k n : Nat) (v : Word) : State :=
  match n with
  | 0 => fireChalk u k
  | 1 => setTriggers u k (some (.onTick v))
  | 2 => setTriggers u k (some (.onOverflow (v.setWidth 4)))
  | 3 => setTriggers u k (some (.onTack (bitsOf v 0 4)))
  | _ => setTriggers u k none

theorem exec_chalk (a b : Reg) (s : State) : exec (.chalk a b) s = issue (.chalk a b) s fun s =>
    if 4 < (s.g a).toNat then engineTrap (.chalk a b)
    else if 0 < (s.g a).toNat ∧ (partyPriv s s.focus).isSup = false then trapOf .priv (wordVal (.chalk a b))
    else .ok (chalkDoes (stitchBefore s) (partyCtx s s.focus) (s.g a).toNat (s.g b)) := rfl

theorem isSup_eq_false {p : Priv} : p.isSup = false ↔ p = .user := by cases p <;> decide

theorem cur_chalkDoes (u : State) (k n : Nat) (v : Word) : (chalkDoes u k n v).cur = u.cur := by
  unfold chalkDoes
  split <;> rfl

theorem chalk_does {a b : Reg} {s : State} (hi : Issues (.chalk a b) s) (hn : (s.g a).toNat ≤ 4)
    (hp : s.g a = 0#64 ∨ partyPriv s s.focus ≠ .user) :
    Leaves (.chalk a b) s (chalkDoes (stitchBefore s) (partyCtx s s.focus) (s.g a).toNat (s.g b)) (pastWord (.chalk a b) (stitchBefore s).cur) := by
  have hcur := cur_chalkDoes (stitchBefore s) (partyCtx s s.focus) (s.g a).toNat (s.g b)
  rw [← hcur]
  refine leaves_ok hi.toMayIssue _ (exec_chalk a b s) ?_ (hcur ▸ (stitchFrame_stitchBefore s).noTrip hi.noTrip)
  have hallowed : ¬ (0 < (s.g a).toNat ∧ (partyPriv s s.focus).isSup = false) := by
    rw [isSup_eq_false]
    obtain h | h := hp
    · simp [h]
    · exact fun hx => h hx.2
  rw [if_neg (by omega), if_neg hallowed]

end Sys2Proof.Machine
end

section
namespace Sys2Proof

open Machine

/-- Settles O34: the counters by what an issue adds to them, the others by their bodies. -/
theorem counterFormsComplete : Obligations.CounterFormsComplete := by
  refine ⟨fun a b c s hi => ?pmsel, fun a b s hi => ?pmrd, fun a s hi => ?pmclr, fun a b s hi => ?fitbeg, fun a s hi => ?fitend,
    fun a b c s e t f hi ht hf => ?fitstat, fun a b s hi => ?chalk⟩
  case pmsel =>
    exact ⟨fun h => ends_trap hi.toMayIssue _ (exec_pmsel a b c s) (by rw [if_pos h, engineTrap_eq]), pmsel_selects hi⟩
  case pmrd =>
    exact ⟨fun h => ends_trap hi.toMayIssue _ (exec_pmrd a b s) (by rw [if_pos h, engineTrap_eq]), pmrd_reads hi⟩
  case pmclr =>
    exact ⟨fun h => ends_trap hi.toMayIssue _ (exec_pmclr a s) (by rw [if_pos h, engineTrap_eq]), pmclr_clears hi⟩
  case fitbeg =>
    exact ⟨fun h => ends_trap hi.toMayIssue _ (exec_fitbeg a b s) (by rw [fitbegBody, h, ← engineTrap_eq]), fun e t ho => fitbeg_refused hi ho,
      fun e t u bs ho hfit hb hr => fitbeg_plan_traps hi ho hfit hb hr,
      fun e t u w bs f pas t' ho hfit hb hr hf hw ht => fitbeg_attaches hi ho hfit hb hr hf hw ht⟩
  case fitend =>
    refine ⟨fun hn => ⟨fun hp => ?_, fun hp => ?_⟩, fun e t ht => ⟨fun h => ?_, fun h => ?_⟩⟩
    · exact leaves_ok hi.toMayIssue _ (exec_fitend a s) (by rw [hn]; exact if_pos hp) hi.noTrip
    · exact ends_trap hi.toMayIssue _ (exec_fitend a s) (by rw [hn, ← engineTrap_eq]; exact if_neg (by simp [hp]))
    · refine leaves_ok (u := withTask s e _) hi.toMayIssue _ (exec_fitend a s) ?_ hi.noTrip
      rw [ht, withTask, ← get_modTask (get_of_fitTask ht) fun t => { t with fit := none }]
      exact if_pos h
    · exact ends_trap hi.toMayIssue _ (exec_fitend a s) (by rw [ht, ← engineTrap_eq]; exact if_neg (by simp [h]))
  case fitstat =>
    refine ⟨fun v hv => leaves_setG hi.toMayIssue _ (exec_fitstat a b c s) ?_ hi.noTrip,
      fun hn => ends_trap hi.toMayIssue _ (exec_fitstat a b c s) ?_⟩
    · simp only [ht, Option.bind_some, hf, hv]
    · simp only [ht, Option.bind_some, hf, hn, engineTrap_eq]
  case chalk =>
    have hdoes (n : Nat) (hn : n ≤ 4) (h : s.g a = BitVec.ofNat 64 n) (hp : s.g a = 0#64 ∨ partyPriv s s.focus ≠ .user) :
        Leaves (.chalk a b) s (chalkDoes (stitchBefore s) (partyCtx s s.focus) n (s.g b)) (pastWord (.chalk a b) (stitchBefore s).cur) := by
      have hval : (s.g a).toNat = n := by rw [h, BitVec.toNat_ofNat]; omega
      exact hval ▸ chalk_does hi (hval ▸ hn) hp
    refine ⟨fun h => ?_, fun h1 h4 hu => ?_, fun h => hdoes 0 (by decide) h (.inl h), fun hp => ⟨fun h => hdoes 1 (by decide) h (.inr hp),
      fun h => hdoes 2 (by decide) h (.inr hp), fun h => ?_, fun h => hdoes 4 (by decide) h (.inr hp)⟩⟩
    · exact ends_trap hi.toMayIssue _ (exec_chalk a b s) (by rw [if_pos h, engineTrap_eq])
    · refine ends_trap hi.toMayIssue _ (exec_chalk a b s) ?_
      rw [if_neg (by omega), if_pos ⟨h1, isSup_eq_false.2 hu⟩, wordVal_eq]
      rfl
    · have h3 := hdoes 3 (by decide) h (.inr hp)
      rwa [chalkDoes, bitsOf_eq, Nat.pow_zero, Nat.div_one] at h3

end Sys2Proof
end

section
/-! SUPPORT. A snapshot of a panel that stops for a freeze (R224, R336): its record's state byte names the cause. -/

namespace Sys2Proof.Machine

open Sys2Proof

/-- A panel of one block that has begun to stop for a freeze (R329). -/
def stoppingPanel : Panel := { placedPanel 0 [] with state := .stopping }

/-- That panel in context 0, whose snapshot is due at an address that translates. -/
def stoppingState : State :=
  let s := placeBytes State.reset (.seq 0 0) []
  { s.setCtxt 0 { s.ctxt 0 with chalkFired := [4], chalkbase := 0x40001#64 } with cycle := 4, panels := [(0, stoppingPanel)] }

/-- The state with the snapshot taken off the context. -/
def stoppingLatched : State :=
  stoppingState.setCtxt 0 { stoppingState.ctxt 0 with chalkFired := (stoppingState.ctxt 0).chalkFired.drop 1 }

/-- The write of the record that names no cause. -/
def stoppingWrite : Except Trap State :=
  engWriteN stoppingLatched (engReq 0 .supervisor .write 7) 0 (some (.panel stoppingPanel.uid))
    (((stoppingState.ctxt 0).chalkbase &&& 0x007FFFFFFFFF0000#64) + BitVec.ofNat 64 (128 * 0)) (snapshotRecord stoppingState 0 stoppingPanel)

/-- The bytes that wait in the home queues to be written at a physical address. -/
def waitingAt (s : State) (pa : Nat) : List Byte :=
  s.homeQ.flatMap fun q => q.2.flatMap fun r => match r with
    | .update u => (u.cells.filter fun c => c.1 == pa).map (·.2)
    | .ask _ => []

/-- The record that the step writes has 2 in its state byte, the one that names no cause 0. -/
theorem stoppingRecord_stateByte : (match stoppingWrite, exec (.chalkLatch 0) stoppingState with
    | .ok u, .next t => waitingAt u 0x4000D == [0#8] && waitingAt t 0x4000D == [2#8]
    | _, _ => false) = true := by decide +kernel

end Sys2Proof.Machine
end

section
namespace Sys2Proof

open Machine

/-- Refutes O55: the clause on the record of a snapshot leaves out a panel that stops for a freeze, which R224 and R336 name as a cause of its
clamp. In `stoppingState` the panel has no hold, publish, fault or wait, yet the step writes the freeze into the record's state byte, where the
clause has the record of a panel that nothing clamps. -/
theorem not_platformSteps : ¬ Obligations.PlatformSteps := by
  rintro ⟨-, -, -, -, -, -, -, -, -, -, -, -, -, hlatch, -⟩
  have hbyte := stoppingRecord_stateByte
  have hdue : ∃ k ∈ (stoppingState.ctxt 0).chalkFired, k ≤ stoppingState.cycle := ⟨4, by decide +kernel, by decide +kernel⟩
  have hrecord := ((hlatch 0 stoppingState).2 hdue).2.2 0 stoppingPanel 0
  cases hw : stoppingWrite with
  | error t => rw [hw] at hbyte; cases hbyte
  | ok u =>
    have hexec := hrecord u (by decide +kernel) (by decide +kernel) (by decide +kernel) (by decide +kernel) (by decide +kernel) (by decide +kernel)
      (by decide +kernel) (by decide +kernel) (by decide +kernel) hw
    rw [hw, hexec] at hbyte
    simp only [Bool.and_eq_true, beq_iff_eq] at hbyte
    obtain ⟨hnone, hfreeze⟩ := hbyte
    rw [hnone] at hfreeze
    exact absurd hfreeze (by decide)

end Sys2Proof
end

section
/-! SUPPORT. What the words of the TK element (R248-R252) answer. -/

namespace Sys2Proof.Machine

open Sys2Proof

/-! ## Counters (R248, R249) -/

theorem extractLsb'_low {w : Nat} (v : BitVec w) (b : Nat) : v.extractLsb' 0 b = v.setWidth b := BitVec.eq_of_toNat_eq (by simp)

theorem toNat_extractLsb' {w : Nat} (v : BitVec w) (a b : Nat) : (v.extractLsb' a b).toNat = v.toNat / 2 ^ a % 2 ^ b := by
  rw [BitVec.extractLsb'_toNat, Nat.shiftRight_eq_div_pow]

/-- A counter with one of its three fields written (R248). -/
def counterWritten (c : TkCounter) (field : Nat) (v : BitVec 24) : TkCounter :=
  if field = 0 then { c with start := v } else if field = 1 then { c with bound := v } else { c with step := v.setWidth 16 }

theorem runTkCnt_counter {field : BitVec 3} (h : field.toNat < 3) (c : BitVec 2) (v : BitVec 24) (s : State) (p n : Nat) :
    runTkCnt c field v s p n = .ok (onTile s p n fun _ tl => tl.setCounter c.toNat (counterWritten (tl.counter c.toNat) field.toNat v)) := by
  obtain hf | hf | hf : field.toNat = 0 ∨ field.toNat = 1 ∨ field.toNat = 2 := by omega
  · simp only [runTkCnt, hf]; rfl
  · simp only [runTkCnt, hf]; rfl
  · simp only [runTkCnt, hf, extractLsb'_low]; rfl

theorem runTkCnt_link {field : BitVec 3} (h : field.toNat = 3) (c : BitVec 2) (v : BitVec 24) (s : State) (p n : Nat) :
    runTkCnt c field v s p n = .ok (onTile s p n fun _ tl => { tl with
      chainLen := v.toNat / 2 ^ 22 + 1, startCh := v.toNat / 2 ^ 18 % 16, doneCh := v.toNat / 2 ^ 14 % 16 }) := by
  have hlen : v.toNat / 2 ^ 22 % 2 ^ 2 = v.toNat / 2 ^ 22 := Nat.mod_eq_of_lt (by omega)
  simp only [runTkCnt, h, toNat_extractLsb', hlen]
  rfl

/-- Counters are numbered below 4, so that a two-bit number names its own. -/
theorem setCounter_eq (tl : Tile) (c : BitVec 2) (k : TkCounter) :
    tl.setCounter c.toNat k = { tl with counters := tl.counters.set c.toNat k c.isLt } := by
  have hc : c.toNat % 4 = c.toNat := Nat.mod_eq_of_lt c.isLt
  simp only [Tile.setCounter, hc]

theorem counter_eq (tl : Tile) (c : BitVec 2) : tl.counter c.toNat = tl.counters[c.toNat]'c.isLt := by
  have hc : c.toNat % 4 = c.toNat := Nat.mod_eq_of_lt c.isLt
  simp only [Tile.counter, hc]

/-- A chain's trips leave the link setting. -/
theorem doneCh_tickFrom (ms : List Nat) : ∀ tl, (tickFrom ms tl).1.doneCh = tl.doneCh := by
  induction ms with
  | nil => exact fun _ => rfl
  | cons m ms ih =>
    intro tl
    unfold tickFrom
    dsimp only
    split
    · exact ih _
    · rfl

theorem runTkCntTick_idle {s : State} {p n : Nat} {x : Panel} (hx : s.panel? p = some x) (h : (x.tile n).running = false) :
    runTkCntTick s p n = .ok (s.setPanel p x) := by
  simp [runTkCntTick, modPanel_some hx, h]

/-- The trip of a running chain; where it ends the chain the done tack is sent (R249). -/
theorem runTkCntTick_trip {s : State} {p n : Nat} {x : Panel} (hx : s.panel? p = some x) (h : (x.tile n).running = true) :
    let r := tickFrom (List.range (x.tile n).chainLen) (x.tile n)
    runTkCntTick s p n = .ok (s.setPanel p (if r.2 then sendTack (x.setTile n r.1) r.1.doneCh else x.setTile n r.1)) := by
  simp only [runTkCntTick, modPanel_some hx, h, if_true, Tile.chain, doneCh_tickFrom]
  rfl

/-! ## Tacks and the schedule (R250, R251) -/

theorem setPend_eq (tl : Tile) (ch : BitVec 4) (k : Nat) : tl.setPend ch.toNat k = { tl with pending := tl.pending.set ch.toNat k ch.isLt } := by
  have hc : ch.toNat % 16 = ch.toNat := Nat.mod_eq_of_lt ch.isLt
  simp only [Tile.setPend, hc]

theorem pend_eq (tl : Tile) (ch : BitVec 4) : tl.pend ch.toNat = tl.pending[ch.toNat]'ch.isLt := by
  have hc : ch.toNat % 16 = ch.toNat := Nat.mod_eq_of_lt ch.isLt
  simp only [Tile.pend, hc]

/-- The state after a choice of the next turn's schedule by a word of a strand, the panel otherwise `y`: the choice enters the strand's
signature (R203, R251). -/
def schedChosen (s : State) (p k : Nat) (y : Panel) (b : Bool) : State :=
  (s.setPanel p { y with nextB := b }).setThread (.seq p k) ((s.thread (.seq p k)).sign b)

theorem runTkSel_queue {s : State} {p n : Nat} {x : Panel} {v : Word} {q : List CondEntry} (hx : s.panel? p = some x)
    (hq : (x.strand (rowStrand x)).queue = .value v :: q) :
    runTkSel 0#2 s p n = .ok (schedChosen s p (rowStrand x) (tookHead x (rowStrand x) q) (v.getLsbD 0)) := by
  simp only [runTkSel, hx, BitVec.toNat_ofNat, Nat.zero_mod, hq, modPanel_some (panel_setPanel ..), setPanel_setPanel]
  rfl

theorem runTkSel_const {s : State} {p n : Nat} {x : Panel} (hx : s.panel? p = some x) :
    runTkSel 1#2 s p n = .ok (schedChosen s p (rowStrand x) x (x.tile n).cond) ∧
    runTkSel 2#2 s p n = .ok (schedChosen s p (rowStrand x) x false) ∧
    runTkSel 3#2 s p n = .ok (schedChosen s p (rowStrand x) x true) := by
  and_intros <;> (simp only [runTkSel, hx, modPanel_some hx]; rfl)

/-- A choice changes the panel and the signature of the row's strand alone. -/
theorem schedChosen_ends {i : Instr} {run : State → Nat → Nat → WRes} {s : State} {p n : Nat} {x y : Panel} {b : Bool}
    (hr : wordRun i = some run) (hw : TileWord i s p n x) (hrun : run s p n = .ok (schedChosen s p (rowStrand x) y b)) :
    Ends i s fun t => outside t = outside s ∧ t.cores = s.cores ∧ (∀ q, q ≠ p → t.panel? q = s.panel? q) ∧
      (t.panel? p).map uncounted = some (uncounted { y with nextB := b }) ∧
      t.thread (.seq p (rowStrand x)) = (s.thread (.seq p (rowStrand x))).sign b ∧
      ∀ r, r ≠ .seq p (rowStrand x) → t.thread r = s.thread r :=
  ⟨_, (exec_tileWord hr hw).1 _ hrun, rfl, rfl, fun _ hq => panel_setPanel_other _ _ hq,
    by rw [schedChosen, panel_setThread, panel_setPanel]; rfl, thread_setThread .., fun _ hne => thread_setThread_other _ _ hne⟩

end Sys2Proof.Machine
end

section
namespace Sys2Proof

open Machine

/-- Settles O46, word by word. -/
theorem tkWordsComplete : Obligations.TkWordsComplete := by
  refine ⟨fun pr s p n x hw => (exec_tileWord rfl hw).1 _ rfl, fun pr c field v s p n x hw => ⟨fun hf => ?_, fun hf => ?_⟩,
    fun pr s p n x hw => ⟨fun hidle => ?_, fun hrun => ⟨fun hr => ?_, fun hr => ?_⟩⟩, fun pr ch s p n x hw => ?_, fun pr ch w s p n x hw => ?_,
    fun pr src w s p n x hw => ⟨fun v q hsrc hq => ?_, fun hsrc => ?_, fun hsrc => ?_, fun hsrc => ?_⟩, fun pr s p n x hw => ?_⟩
  · have hends := panelEnds_onTile rfl hw (runTkCnt_counter hf c v s p n)
    rw [setCounter_eq] at hends
    refine ⟨_, hends, fun k hk => Vector.getElem_set_ne _ _ (Ne.symm hk), ?_⟩
    rw [Vector.getElem_set_self, counter_eq]
    rfl
  · exact panelEnds_onTile rfl hw (runTkCnt_link hf c v s p n)
  · exact (exec_tileWord rfl hw).1 _ (runTkCntTick_idle hw.panel hidle)
  · exact panelEnds_setPanel rfl hw (runTkCntTick_trip hw.panel hrun) (by rw [hr]; rfl)
  · exact panelEnds_setPanel rfl hw (runTkCntTick_trip hw.panel hrun) (by rw [hr]; rfl)
  · have hch : ch.toNat % 16 = ch.toNat := Nat.mod_eq_of_lt ch.isLt
    refine panelEnds_setPanel (z := sendTack x ch.toNat) rfl hw ?_ (by rw [sendTack, hch])
    rw [runTkSend, modPanel_some hw.panel]
  · have hends := panelEnds_onTile (f := fun _ tl => tl.setPend ch.toNat (tl.pend ch.toNat - 1)) rfl hw rfl
    rwa [setPend_eq, pend_eq] at hends
  · subst hsrc; exact schedChosen_ends rfl hw (runTkSel_queue hw.panel hq)
  · subst hsrc; exact schedChosen_ends rfl hw (runTkSel_const hw.panel).1
  · subst hsrc; exact schedChosen_ends rfl hw (runTkSel_const hw.panel).2.1
  · subst hsrc; exact schedChosen_ends rfl hw (runTkSel_const hw.panel).2.2
  · exact panelEnds_setPanel rfl hw (by rw [runTkStitch, modPanel_some hw.panel]) rfl

end Sys2Proof
end

section
/-! SUPPORT. What the words of the XB element (R215, R225-R227) answer. -/

namespace Sys2Proof.Machine

open Sys2Proof

/-- An entry set to the value that it has. -/
theorem set_present {κ α : Type} [DecidableEq κ] {m : FMap κ α} {k : κ} {v : α} (h : FMap.get? m k = some v) : FMap.set m k v = m := by
  induction m with
  | nil => cases h
  | cons c l ih =>
    obtain ⟨k', v'⟩ := c
    by_cases hk : k' = k
    · subst hk
      simp only [FMap.get?, if_true, Option.some.injEq] at h
      simp [FMap.set, h]
    · simp only [FMap.get?, if_neg hk] at h
      simp [FMap.set, hk, ih h]

/-- A panel replaced by itself changes nothing. -/
theorem setPanel_self {s : State} {p : Nat} {x : Panel} (hx : s.panel? p = some x) : s.setPanel p x = s := by
  rw [State.setPanel, set_present hx]

/-! ## The beat of a source (R215, R221, R227) -/

theorem sourceBeat_input {src : BitVec 4} (h : src.toNat < 7) (tl : Tile) : sourceBeat tl src = presented tl src.toNat := by
  have h15 : src ≠ 15#4 := by bv_omega
  have h8 : src ≠ 8#4 := by bv_omega
  rw [sourceBeat, if_neg h15, if_neg h8]

/-- A source that is no stream presents its beat and changes nothing. -/
theorem source_beat {s : State} {p n q : Nat} {x : Panel} {src : BitVec 4} (hx : s.panel? p = some x) (h7 : src ≠ 7#4) (h8 : src.toNat ≤ 8) :
    source s p n src.toNat q = .ok (s, sourceBeat (x.tile n) src) := by
  obtain hlt | rfl : src.toNat < 7 ∨ src = 8#4 := by bv_omega
  · simp [source, hx, sourceBeat_input, hlt]
  · simp [source, hx, sourceBeat]

/-- Source st presents and pops the beat that waits (R221). -/
theorem source_stream {s : State} {p n q : Nat} {x : Panel} {b : Beat} (hx : s.panel? p = some x)
    (hb : streamHead x (rowStrand x) q n = .beat b) : source s p n (7#4).toNat q = .ok (s.setPanel p (popStream x (rowStrand x) q n), b) := by
  simp [source, hx, hb]

/-- The fault that is held for a beat is raised by the word that consumes it (R95, R221). -/
theorem source_fault {s : State} {p n q : Nat} {x : Panel} {e : Trap} (hx : s.panel? p = some x)
    (he : streamHead x (rowStrand x) q n = .fault e) : source s p n (7#4).toNat q = .error ⟨n, 3, some q, e, false, none⟩ := by
  simp [source, hx, he, xbFault]

/-- The beat that a group of a route takes: no connection gives a bubble. -/
def groupBeat (s : State) (p n : Nat) (src : BitVec 4) (q : Nat) : Except WFault (State × Beat) :=
  if src = 15#4 then .ok (s, Beat.bubbleBeat) else source s p n src.toNat q

theorem groupBeat_beat {s : State} {p n q : Nat} {x : Panel} {src : BitVec 4} (hx : s.panel? p = some x) (h7 : src ≠ 7#4)
    (h : src = 15#4 ∨ src.toNat ≤ 8) : groupBeat s p n src q = .ok (s, sourceBeat (x.tile n) src) := by
  obtain rfl | h8 := h
  · simp [groupBeat, sourceBeat]
  · have hne15 : src ≠ 15#4 := by bv_omega
    rw [groupBeat, if_neg hne15, source_beat hx h7 h8]

/-! ## Deliveries (R225) -/

/-- Outputs that are no streams take the beat one after another. -/
theorem deliverAll_eq {p n q : Nat} {b : Beat} {outs : BitVec 8} (h7 : outs.getLsbD 7 = false) (os : List Nat) :
    ∀ (s : State) (x : Panel), s.panel? p = some x → deliverAll p n q b outs os s =
      .ok (s.setPanel p ((os.filter fun o => outs.getLsbD o).foldl (fun x o => deliver x n o b) x)) := by
  induction os with
  | nil =>
    intro s x hx
    exact congrArg Except.ok (setPanel_self hx).symm
  | cons o os ih =>
    intro s x hx
    by_cases ho : outs.getLsbD o
    · have hne : o ≠ 7 := fun h => by subst h; rw [h7] at ho; cases ho
      rw [deliverAll, if_pos ho, if_neg hne, modPanel_some hx, ih _ _ (panel_setPanel ..), setPanel_setPanel,
        List.filter_cons_of_pos ho, List.foldl_cons]
    · rw [deliverAll, if_neg ho, ih _ _ hx, List.filter_cons_of_neg ho]

theorem outputs_noStream {outs : BitVec 8} (h : outs.getLsbD 7 = false) :
    outputs.filter (fun o => outs.getLsbD o) = (List.range 7).filter fun o => outs.getLsbD o := by
  rw [outputs, List.range_succ, List.filter_append, List.filter_singleton, h]
  simp

/-- A route with the beats of its two groups found delivers them, group A first. -/
theorem runXbRoute_delivers {sa sb q : BitVec 4} {oa ob : BitVec 8} {s u v : State} {p n : Nat} {a b : Beat} {y : Panel}
    (ha : groupBeat s p n sa q.toNat = .ok (u, a)) (hb : groupBeat u p n sb q.toNat = .ok (v, b)) (hne : ¬ (sb = 7#4 ∧ sa = 7#4))
    (hy : v.panel? p = some y) (hoa : oa.getLsbD 7 = false) (hob : ob.getLsbD 7 = false) :
    runXbRoute sa oa sb ob q s p n = .ok (v.setPanel p (routed y n a b oa ob)) := by
  have hsecond : (if sb = 0xF#4 then .ok (u, Beat.bubbleBeat) else if sb = 7#4 ∧ sa = 7#4 then .ok (u, a)
        else source u p n sb.toNat q.toNat) = (.ok (v, b) : Except WFault (State × Beat)) := by rw [if_neg hne]; exact hb
  rw [groupBeat] at ha
  simp only [runXbRoute, ha, hsecond, deliverAll_eq hoa _ _ _ hy, deliverAll_eq hob _ _ _ (panel_setPanel ..), setPanel_setPanel, outputs_noStream hoa,
    outputs_noStream hob]
  rfl

theorem runXbRoute_fault {sb q : BitVec 4} {oa ob : BitVec 8} {s : State} {p n : Nat} {f : WFault}
    (hf : source s p n (7#4).toNat q.toNat = .error f) : runXbRoute 7#4 oa sb ob q s p n = .error f := by
  have hst : ¬ (7#4 = 0xF#4) := by decide
  simp only [runXbRoute, if_neg hst, hf]

/-- A word that keeps the beat of a source. -/
theorem runXbHold_keeps {src q : BitVec 4} {s u : State} {p n : Nat} {b : Beat} {y : Panel}
    (hb : source s p n src.toNat q.toNat = .ok (u, b)) (hy : u.panel? p = some y) :
    runXbHold src q s p n = .ok (u.setPanel p (y.setTile n { y.tile n with hold := b })) := by
  simp only [runXbHold, hb, onTile_eq hy]

end Sys2Proof.Machine
end

section
namespace Sys2Proof

open Machine

/-- Settles O45, word by word: a route finds the beats of its groups, then delivers them. -/
theorem xbWordsComplete : Obligations.XbWordsComplete := by
  refine ⟨fun pr sa oa sb ob q s p n x hw hoa hob => ⟨fun ha7 hb7 ha hb => ?_, fun b hsa hsb h0 hhead => ?_, fun e hsa hhead => ?_⟩,
    fun pr sn se ss sw mx vx ls s p n x hw => ?_, fun pr src q s p n x hw => ⟨fun hsrc => ?_, fun b hsrc hhead => ?_⟩⟩
  · exact panelEnds_setPanel rfl hw
      (runXbRoute_delivers (groupBeat_beat hw.panel ha7 ha) (groupBeat_beat hw.panel hb7 hb) (fun h => hb7 h.1) hw.panel hoa hob) rfl
  · subst hsa hsb h0
    have hgroup : groupBeat s p n 7#4 q.toNat = .ok (s.setPanel p (popStream x (rowStrand x) q.toNat n), b) := source_stream hw.panel hhead
    have hrun := runXbRoute_delivers (sb := 15#4) hgroup rfl (by decide) (panel_setPanel ..) hoa hob
    rw [setPanel_setPanel] at hrun
    exact panelEnds_setPanel rfl hw hrun rfl
  · subst hsa
    exact (exec_tileWord rfl hw).2 _ (runXbRoute_fault (source_fault hw.panel hhead))
  · refine ⟨_, panelEnds_onTile rfl hw rfl, fun k => ?_⟩
    rw [Fin.getElem_fin, Vector.getElem_ofFn]
    exact ⟨rfl, rfl, rfl⟩
  · have hst : src ≠ 7#4 := by bv_omega
    have hrun := runXbHold_keeps (n := n) (source_beat (q := q.toNat) hw.panel hst hsrc.le.step) hw.panel
    rw [sourceBeat_input hsrc] at hrun
    exact panelEnds_setPanel rfl hw hrun rfl
  · subst hsrc
    have hrun := runXbHold_keeps (source_stream hw.panel hhead) (panel_setPanel ..)
    rw [setPanel_setPanel] at hrun
    exact panelEnds_setPanel rfl hw hrun rfl

end Sys2Proof
end

section
/-! SUPPORT. What the words of the MX element (R228-R234) answer. -/

namespace Sys2Proof.Machine

open Sys2Proof

/-! ## Accumulator rows (R228) -/

theorem accRow_setAccRow (tl : Tile) (a b : BitVec 3) (r q : BitVec 4) (v : Lanes) :
    (tl.setAccRow a r v).accRow b q = if b = a ∧ q = r then v else tl.accRow b q := by
  unfold Tile.setAccRow Tile.accRow
  dsimp only
  by_cases hb : b = a
  · subst hb
    by_cases hq : q = r
    · subst hq; simp
    · have hne : r.toNat ≠ q.toNat := fun h => hq (BitVec.eq_of_toNat_eq h.symm)
      simp [hq, hne]
  · have hne : a.toNat ≠ b.toNat := fun h => hb (BitVec.eq_of_toNat_eq h.symm)
    simp [hb, hne]

/-- The accumulators of a mask cleared (R234). -/
def accsZeroed (tl : Tile) (mask : BitVec 8) : Tile :=
  { tl with acc := Vector.ofFn fun i : Fin 8 => if mask.getLsbD i.val then Vector.replicate 16 0 else tl.acc[i] }

theorem accRow_accsZeroed (tl : Tile) (mask : BitVec 8) (a : BitVec 3) (r : BitVec 4) :
    (accsZeroed tl mask).accRow a r = if mask.getLsbD a.toNat then 0 else tl.accRow a r := by
  simp only [accsZeroed, Tile.accRow, Vector.getElem_ofFn]
  split
  · rw [Vector.getElem_replicate]
  · rfl

/-! ## Loads, intervals, rows saved and loaded (R230, R231, R233) -/

/-- A word that changes its tile and counts an event. -/
theorem panelEnds_counted {i : Instr} {run : State → Nat → Nat → WRes} {s : State} {p n ev k : Nat} {x : Panel} {f : Panel → Tile → Tile}
    {tl : Tile} (hr : wordRun i = some run) (hw : TileWord i s p n x) (hrun : run s p n = .ok (countPanel (onTile s p n f) p ev k))
    (hf : f x (x.tile n) = tl) : PanelEnds i s p (x.setTile n tl) := by
  rw [onTile_eq hw.panel, hf, countPanel_eq (panel_setPanel ..), setPanel_setPanel] at hrun
  exact panelEnds_setPanel hr hw hrun (uncounted_count ..)

theorem uncounted_issueInterval (x : Panel) (n : Nat) (tl : Tile) (a : BitVec 3) (r : BitVec 4) (feed : Beat) :
    uncounted (issueInterval x n tl a r feed) = uncounted (x.setTile n (intervalIssued tl a r feed)) := uncounted_count ..

/-- A read forwarded by the store-to-load table changes a counter beside the tile that takes it (R243). -/
theorem panelEnds_forwarded {i : Instr} {run : State → Nat → Nat → WRes} {s : State} {p n off : Nat} {x : Panel} {f : Panel → Tile → Tile}
    (hr : wordRun i = some run) (hw : TileWord i s p n x) (hrun : run s p n = .ok (countForward (onTile s p n f) p n off)) :
    PanelEnds i s p (x.setTile n (f x (x.tile n))) := by
  rw [onTile_eq hw.panel] at hrun
  obtain ⟨z, hcount, hz⟩ := countForward_eq (panel_setPanel s p (x.setTile n (f x (x.tile n)))) n off
  rw [hcount, setPanel_setPanel] at hrun
  exact panelEnds_setPanel hr hw hrun hz

theorem runMxAcsv_logs {s : State} {p n : Nat} {x : Panel} {a : BitVec 3} {r : BitVec 4} {i : BitVec 12} (hx : s.panel? p = some x)
    (hroom : logSize ((x.tile n).log (rowStrand x)) + 64 ≤ x.image.logmax.getD (rowStrand x) 0) :
    runMxAcsv a r i s p n = .ok (onTile s p n fun _ tl => scratchLogged tl (rowStrand x) n
      [(64 * i.toNat, toBytes 64 ((x.tile n).accRow a r).toNat)]) := by
  simp only [runMxAcsv, hx]
  exact logScratch_ok hx (by simp [lanesBytes, logSpan_row]) hroom 0

end Sys2Proof.Machine
end

section
namespace Sys2Proof

open Machine

/-- Settles O43, word by word. -/
theorem mxWordsComplete : Obligations.MxWordsComplete := by
  refine ⟨fun pr s p n x hw => (exec_tileWord rfl hw).1 _ rfl, fun pr c s p n x hw hb => ?_, fun pr s p n x hw hb => ?_,
    fun pr fa fb s p n x hw => panelEnds_onTile (f := fun _ tl => { tl with fa := fa, fb := fb }) rfl hw rfl,
    fun pr a r s p n x hw => ?_, fun pr a r j s p n x hw => ?_,
    fun pr mask s p n x hw =>
      ⟨accsZeroed (x.tile n) mask, panelEnds_onTile (f := fun _ tl => accsZeroed tl mask) rfl hw rfl, rfl, accRow_accsZeroed _ _⟩,
    fun pr a r w s p n x hw => panelEnds_onTile (f := fun _ tl => tl.produce 0 (accBeat tl a r)) rfl hw rfl,
    fun pr a r i s p n x hw hroom => panelEnds_onTile rfl hw (runMxAcsv_logs hw.panel hroom), fun pr a r i s p n x hw hbad => ?_⟩
  · exact panelEnds_counted rfl hw rfl (if_neg (Bool.eq_false_iff.mp hb))
  · exact panelEnds_counted rfl hw rfl (if_neg (Bool.eq_false_iff.mp hb))
  · exact panelEnds_setPanel rfl hw (congrArg Except.ok (modPanel_some hw.panel _)) (uncounted_issueInterval ..)
  · exact panelEnds_setPanel rfl hw (congrArg Except.ok (modPanel_some hw.panel _)) (uncounted_issueInterval ..)
  · exact ⟨_, panelEnds_forwarded rfl hw (rowRead_ok hw.panel hbad 0 _), rfl, fun b q => accRow_setAccRow ..⟩

end Sys2Proof
end

section
/-! SUPPORT. The lanes that a VX form writes (R235-R242), those of `vcmp` (R238) among them. -/

namespace Sys2Proof.Machine

open Sys2Proof

/-! ## Registers under a mask (R235) -/

/-- Lane k under the mask: the new one where the mask has a one, else the old. -/
theorem lane_maskLanes (m : BitVec 16) (new old : Lanes) {k : Nat} (hk : k < 16) :
    lane (maskLanes m new old) k = if m.getLsbD k then lane new k else lane old k := by
  unfold maskLanes
  split
  · next hm =>
    have hbit : (0xFFFF#16).getLsbD k = true := by
      rw [show 0xFFFF#16 = BitVec.allOnes 16 from rfl, BitVec.getLsbD_allOnes, decide_eq_true hk]
    rw [hm, hbit, if_pos rfl]
  · exact lane_ofLanes _ hk

/-- A register file in which a form has written register d: lane k is `g k`, or kept where the mask applies and leaves it out. -/
structure WritesLanes (r r' : VFile) (f : VF) (masked : Bool) (g : Nat → W32) : Prop where
  k : r'.k = r.k
  others : ∀ x, x ≠ f.d → getV r'.v x = getV r.v x
  lanes : ∀ k, k < 16 → lane (getV r'.v f.d) k =
    if masked = true ∧ (getK r.k f.k).getLsbD k = false then lane (getV r.v f.d) k else g k

theorem writesLanes_masked (r : VFile) (f : VF) {h g : Nat → W32} (hg : ∀ k, k < 16 → h k = g k) : WritesLanes r (r.masked f h) f true g where
  k := rfl
  others _ hx := getV_putV_other _ _ hx
  lanes k hk := by
    rw [VFile.masked, getV_putV_same, lane_maskLanes _ _ _ hk, lane_ofLanes _ hk, hg k hk]
    cases (getK r.k f.k).getLsbD k <;> rfl

theorem writesLanes_whole (r : VFile) (f : VF) {v : Lanes} {g : Nat → W32} (hg : ∀ k, k < 16 → lane v k = g k) :
    WritesLanes r (r.whole f v) f false g where
  k := rfl
  others _ hx := getV_putV_other _ _ hx
  lanes k hk := by rw [VFile.whole, getV_putV_same, hg k hk]; rfl

theorem writesLanes_ofLanes (r : VFile) (f : VF) {h g : Nat → W32} (hg : ∀ k, k < 16 → h k = g k) :
    WritesLanes r (r.whole f (ofLanes h)) f false g :=
  writesLanes_whole r f fun k hk => (lane_ofLanes h hk).trans (hg k hk)

/-! ## Arithmetic of a type (R64-R66, R236) -/

/-- The type of an assigned code is FP32 for code 0 alone (R235). -/
theorem ty_f32_iff {f : VF} (h : (tyOf f.aux).isSome = true) : VF.ty f = .f32 ↔ f.aux.toNat % 4 = 0 := by
  have hcode : (f.aux.extractLsb' 0 2).toNat = f.aux.toNat % 4 := by rw [toNat_extractLsb']; simp
  obtain h0 | h1 | h2 | h3 : f.aux.toNat % 4 = 0 ∨ f.aux.toNat % 4 = 1 ∨ f.aux.toNat % 4 = 2 ∨ f.aux.toNat % 4 = 3 := by omega
  · simp [VF.ty, tyOf, hcode, h0]
  · simp [VF.ty, tyOf, hcode, h1]
  · simp [VF.ty, tyOf, hcode, h2]
  · simp [tyOf, hcode, h3] at h

/-- A lane of a form of floating-point or modular arithmetic. -/
theorem laneRule_eq {f : VF} (h : (tyOf f.aux).isSome = true) (fp : Nat → W32) (int : Nat → Int) (k : Nat) :
    (if VF.ty f = .f32 then fp k else BitVec.ofInt 32 (int k)) = laneRule f fp int k := by
  simp only [laneRule, ty_f32_iff h]

theorem add_eq_ofInt (a b : W32) : a + b = BitVec.ofInt 32 (a.toNat + b.toNat) := by
  simp [BitVec.ofInt_add]

theorem sub_eq_ofInt (a b : W32) : a - b = BitVec.ofInt 32 (a.toNat - b.toNat) := by
  rw [Int.sub_eq_add_neg, BitVec.ofInt_add, BitVec.ofInt_neg, BitVec.sub_eq_add_neg]
  simp

theorem mul_eq_ofInt (a b : W32) : a * b = BitVec.ofInt 32 (a.toNat * b.toNat) := by
  simp [BitVec.ofInt_mul]

theorem fma_eq_ofInt (a b c : W32) : a * b + c = BitVec.ofInt 32 (a.toNat * b.toNat + c.toNat) := by
  rw [BitVec.ofInt_add, BitVec.ofInt_mul]
  simp

theorem laneMax_eq {ty : Ty} (a b : W32) : laneMax ty a b = if ty = .f32 then f32max a b else pickRule (decide (ty = .s32)) true a b := by
  cases ty <;> simp [laneMax, pickRule]

theorem laneMin_eq {ty : Ty} (a b : W32) : laneMin ty a b = if ty = .f32 then f32min a b else pickRule (decide (ty = .s32)) false a b := by
  cases ty <;> simp [laneMin, pickRule]

theorem laneShl_eq (a b : W32) : laneShl a b = BitVec.ofNat 32 (a.toNat * 2 ^ (b.toNat % 256)) := by
  apply BitVec.eq_of_toNat_eq
  rw [laneShl, BitVec.toNat_shiftLeft, Nat.shiftLeft_eq, BitVec.toNat_ofNat]

theorem laneShr_eq (ty : Ty) (a b : W32) : laneShr ty a b =
    if ty = .s32 then BitVec.ofInt 32 (a.toInt / 2 ^ (b.toNat % 256)) else BitVec.ofNat 32 (a.toNat / 2 ^ (b.toNat % 256)) := by
  rw [laneShr, BitVec.sshiftRight, Int.shiftRight_eq_div_pow, ← Nat.shiftRight_eq_div_pow, ← BitVec.toNat_ushiftRight, BitVec.ofNat_toNat,
    BitVec.setWidth_eq]
  norm_cast

theorem unpackFrom_lane (f : VF) (a : Lanes) {k : Nat} (hk : k < 16) :
    lane (unpackFrom (packWidth (f.aux.toNat % 4)) (f.aux.toNat / 4) a) k =
      let w := [4, 8, 16, 6].getD (f.aux.toNat % 4) 6
      BitVec.ofNat 32 (a.toNat / 2 ^ (16 * w * (f.aux.toNat / 4) + w * k) % 2 ^ w) := by
  have hw : packWidth (f.aux.toNat % 4) = [4, 8, 16, 6].getD (f.aux.toNat % 4) 6 := by
    have hlt : f.aux.toNat % 4 < 4 := Nat.mod_lt _ (by decide)
    interval_cases f.aux.toNat % 4 <;> rfl
  rw [unpackFrom, lane_ofLanes _ hk, toNat_extractLsb', hw]

theorem maskCount_eq (m : BitVec 16) : maskCount m = (List.range 16).countP fun j => m.getLsbD j := List.countP_eq_length_filter.symm

/-- A bubble is read as zeros (R237). -/
theorem lane_beatData (b : Beat) (k : Nat) : lane (if b.bubble then 0 else b.data) k = if b.bubble then 0#32 else lane b.data k := by
  split
  · simp [lane]
  · rfl

/-! ## The table of forms -/

/-- A form of arithmetic has an assigned type (R143, R235). -/
theorem tyOf_isSome {op : Nat} {f : VF} (hop : op < 4) (h : vxFits op f = true) : (tyOf f.aux).isSome = true := by
  interval_cases op <;> simp only [vxFits, auxIsTy, Bool.and_eq_true] at h <;> simp only [h]

/-- Each form of the rules' table is an operation of the element that writes the lanes of the table. -/
theorem vxRule_writes {i : Instr} {r : VFile} {f : VF} {masked : Bool} {g : Nat → W32} (hwf : i.wf = true)
    (h : vxRule r.at (getV r.v) (getK r.k) i = some (f, masked, g)) :
    ∃ op, wordRun i = some (runVx op f) ∧ WritesLanes r (vxCompute op f r) f masked g := by
  have hsum {op : Nat} (hop : op < 4) (hf : vxFits op f = true) := laneRule_eq (tyOf_isSome hop hf)
  cases i with
  | vadd _ f =>
    cases h
    refine ⟨_, rfl, writesLanes_masked r f fun k _ => ?_⟩
    rw [← hsum (op := 0) (by decide) hwf, ← add_eq_ofInt]
    rfl
  | vsub _ f =>
    cases h
    refine ⟨_, rfl, writesLanes_masked r f fun k _ => ?_⟩
    rw [← hsum (op := 1) (by decide) hwf, ← sub_eq_ofInt]
    rfl
  | vmul _ f =>
    cases h
    refine ⟨_, rfl, writesLanes_masked r f fun k _ => ?_⟩
    rw [← hsum (op := 2) (by decide) hwf, ← mul_eq_ofInt]
    rfl
  | vfma _ f =>
    cases h
    refine ⟨_, rfl, writesLanes_masked r f fun k _ => ?_⟩
    rw [← hsum (op := 3) (by decide) hwf, ← fma_eq_ofInt]
    rfl
  | vmax _ f => cases h; exact ⟨_, rfl, writesLanes_masked r f fun k _ => laneMax_eq ..⟩
  | vmin _ f => cases h; exact ⟨_, rfl, writesLanes_masked r f fun k _ => laneMin_eq ..⟩
  | vshl _ f => cases h; exact ⟨_, rfl, writesLanes_masked r f fun k _ => laneShl_eq ..⟩
  | vshr _ f => cases h; exact ⟨_, rfl, writesLanes_masked r f fun k _ => laneShr_eq ..⟩
  | vunpack _ f => cases h; exact ⟨_, rfl, writesLanes_whole r f fun k hk => unpackFrom_lane f _ hk⟩
  | vcount _ f => cases h; exact ⟨_, rfl, writesLanes_ofLanes r f fun k _ => by rw [maskCount_eq]⟩
  | vpack _ f => cases h; exact ⟨_, rfl, writesLanes_whole r f fun _ _ => rfl⟩
  | vcvt _ f | vsel _ f | vred _ f | vminmax _ f => cases h; exact ⟨_, rfl, writesLanes_ofLanes r f fun _ _ => rfl⟩
  | vexp2 _ f | vlog2 _ f | vrcp _ f | vrsq _ f | vand _ f | vor _ f | vxor _ f | vperm _ f | vscan _ f | vbcast _ f | vmov _ f | vidx _ f =>
    cases h; exact ⟨_, rfl, writesLanes_masked r f fun _ _ => rfl⟩
  | _ => cases h

/-! ## Comparison (R238) -/

/-- The number whose bits below n are those of a condition. -/
def bitSum (c : Nat → Bool) (n : Nat) : Nat := (List.range n).foldl (fun m i => m + if c i then 2 ^ i else 0) 0

theorem bitSum_succ (c : Nat → Bool) (n : Nat) : bitSum c (n + 1) = (if c n then 2 ^ n else 0) + bitSum c n := by
  rw [bitSum, List.range_succ, List.foldl_append, Nat.add_comm]
  rfl

theorem bitSum_lt (c : Nat → Bool) (n : Nat) : bitSum c n < 2 ^ n := by
  induction n with
  | zero => exact Nat.one_pos
  | succ n ih =>
    rw [bitSum_succ, Nat.pow_succ]
    split <;> omega

theorem testBit_bitSum (c : Nat → Bool) (n : Nat) : ∀ j, j < n → (bitSum c n).testBit j = c j := by
  induction n with
  | zero => exact fun j hj => absurd hj (Nat.not_lt_zero j)
  | succ n ih =>
    intro j hj
    have hlow : (bitSum c n).testBit n = false := Nat.testBit_lt_two_pow (bitSum_lt c n)
    rw [bitSum_succ]
    obtain hjn | rfl := Nat.lt_succ_iff_lt_or_eq.mp hj
    · rw [← ih j hjn]
      split
      · exact Nat.testBit_two_pow_add_gt hjn _
      · rw [Nat.zero_add]
    · cases hc : c j
      · simpa using hlow
      · simpa [Nat.testBit_two_pow_add_eq] using hlow

/-- The rule's comparison of two lanes is the element's. -/
theorem laneCmp_eq (f : VF) (a b : W32) : laneCmp (VF.ty f) (f.aux.toNat / 4) a b = vcmpRule f a b := by
  unfold laneCmp vcmpRule
  cases VF.ty f <;> rfl

/-- Lane j of the mask's lanes fulfils the comparison. -/
def cmpHit (r : VFile) (f : VF) (j : Nat) : Bool := (getK r.k f.k).getLsbD j && vcmpRule f (r.at f.a j) (r.at f.b j)

theorem cmpBits_eq (r : VFile) (f : VF) : cmpBits r f = BitVec.ofNat 16 (bitSum (cmpHit r f) 16) := by
  simp only [cmpBits, laneCmp_eq]
  rfl

theorem getLsbD_cmpBits (r : VFile) (f : VF) {j : Nat} (hj : j < 16) : (cmpBits r f).getLsbD j = cmpHit r f j := by
  rw [cmpBits_eq, BitVec.getLsbD_ofNat, testBit_bitSum _ _ _ hj, decide_eq_true hj, Bool.true_and]

/-- The condition bit is whether any lane fulfils the comparison. -/
theorem cmpBits_ne_zero (r : VFile) (f : VF) : (cmpBits r f != 0#16) = (List.range 16).any (cmpHit r f) := by
  rw [Bool.eq_iff_iff, bne_iff_ne, List.any_eq_true]
  constructor
  · intro hne
    by_contra hall
    refine hne (BitVec.eq_of_getLsbD_eq fun j hj => ?_)
    rw [getLsbD_cmpBits r f hj, BitVec.getLsbD_zero]
    exact Bool.eq_false_iff.mpr fun hit => hall ⟨j, List.mem_range.mpr hj, hit⟩
  · rintro ⟨j, hj, hit⟩ h0
    rw [← getLsbD_cmpBits r f (List.mem_range.mp hj), h0, BitVec.getLsbD_zero] at hit
    cases hit

theorem getK_putK_same {ks : Vector (BitVec 16) 8} {x : BitVec 3} (v : BitVec 16) (h : x ≠ 0#3) : getK (putK ks x v) x = v := by
  simp [getK, putK, h]

theorem getK_putK_other (ks : Vector (BitVec 16) 8) {x y : BitVec 3} (v : BitVec 16) (h : y ≠ x) : getK (putK ks x v) y = getK ks y := by
  have hne : x.toNat ≠ y.toNat := fun he => h (BitVec.eq_of_toNat_eq he.symm)
  unfold getK putK
  split
  · rfl
  · split
    · rfl
    · simp [hne]

theorem k_vxCompute_vcmp (f : VF) (r : VFile) : (vxCompute 0x0B f r).k = putK r.k (f.d.setWidth 3) (cmpBits r f) := by
  rw [← extractLsb'_low]
  rfl

end Sys2Proof.Machine
end

section
namespace Sys2Proof

open Machine

/-- Settles O42: the forms of the table by what each writes, then the comparison and the two moves of a latch. -/
theorem vxWordsComplete : Obligations.VxWordsComplete := by
  refine ⟨fun i f masked g s p n x hw hwf h => ?_, fun pr f s p n x hw => ?_, fun pr f s p n x hw => ?_, fun pr f s p n x hw => ?_⟩
  · obtain ⟨op, hrun, hk, hothers, hlanes⟩ := vxRule_writes (r := ⟨(x.tile n).v, (x.tile n).k⟩) hwf h
    exact ⟨_, panelEnds_counted hrun hw rfl (by dsimp only; rw [hk]), hothers, hlanes⟩
  · refine ⟨_, panelEnds_counted rfl hw rfl (by dsimp only; rw [cmpBits_ne_zero, k_vxCompute_vcmp]; rfl), fun j hj hd => ?_,
      fun r hr => getK_putK_other _ _ hr⟩
    have hk0 : f.d.setWidth 3 ≠ 0#3 := fun h => hd (by simpa using congrArg BitVec.toNat h)
    rw [getK_putK_same _ hk0, getLsbD_cmpBits _ _ hj]
    rfl
  · refine ⟨_, panelEnds_counted rfl hw rfl rfl, fun r hr => getV_putV_other _ _ hr, fun k hk => ?_⟩
    rw [getV_putV_same, lane_maskLanes _ _ _ hk]
    cases (getK (x.tile n).k f.k).getLsbD k
    · rfl
    · exact lane_beatData (latchIn (x.tile n) 1) k
  · exact panelEnds_counted rfl hw rfl rfl

end Sys2Proof
end

section
/-! PROOFS. Tacks, `commit` and `mxhint` (R232, R250, R258). -/

namespace Sys2Proof.Machine

open Sys2Proof

/-- A strand's form that stitches and then changes its panel leaves the panel so changed. -/
theorem leaves_stitched {i : Instr} {s : State} {p k : Nat} {x y : Panel} (h : Strands i s p k x) (hy : (stitchBefore s).panel? p = some y)
    {f : Panel → Panel} (body : State → Res) (he : exec i s = issue i s body) (hb : body s = .ok ((stitchBefore s).modPanel p f)) :
    Leaves i s ((stitchBefore s).setPanel p (f y)) (pastWord i (stitchBefore s).cur) := by
  rw [modPanel_some hy] at hb
  exact leaves_ok h.issues.toMayIssue body he hb ((stitchFrame_stitchBefore s).noTrip h.issues.noTrip)

/-- A strand's form that its check refuses traps E.ENGINE with the word. -/
theorem traps_engine {i : Instr} {s : State} (h : MayIssue i s) (body : State → Res) (he : exec i s = issue i s body)
    (hb : body s = engineTrap i) : Traps i s .engine (wordOfForm i) :=
  ends_trap h body he (by rw [hb, engineTrap_eq])

/-- A tack as a thread of the panel sends it: due by the live cycle, or from a held cycle of a wait by the fabric cycle (R250; log 26). -/
def tackSent (s : State) (p : Nat) (x : Panel) (ch : Nat) : Flight :=
  if waitClamped s p x then ⟨ch, s.cycle + 2, true⟩ else ⟨ch, x.live + 1, false⟩

theorem exec_tack (a : Reg) (s : State) : exec (.tack a) s = issue (.tack a) s fun s => onStrand s fun p _ x =>
    if 15 < (s.g a).toNat then engineTrap (.tack a)
    else .ok ((stitchBefore s).modPanel p fun y => { y with tacks := y.tacks ++ [tackSent s p x (s.g a).toNat] }) := rfl

theorem exec_tkwait (a b : Reg) (s : State) : exec (.tkwait a b) s = issue (.tkwait a b) s fun s =>
    if 15 < (s.g a).toNat then engineTrap (.tkwait a b)
    else waitOr (stitchBefore s) (tkPoll (stitchBefore s) a) ((stitchBefore s).g b) := rfl

theorem exec_mxhint (a : Reg) (s : State) : exec (.mxhint a) s = issue (.mxhint a) s fun s => onStrand s fun p _ _ =>
    if 65535 < (s.g a).toNat then engineTrap (.mxhint a)
    else .ok ((stitchBefore s).modPanel p fun y => { y with hint := y.hint ++ [y.live - 1 + ((s.g a).toNat - 8)] }) := rfl

/-- A channel in range is tested in the lead AG tile (R258). -/
theorem tkPoll_eq {s : State} {p k : Nat} {y : Panel} {a : Reg} (hf : s.focus = .seq p k) (hy : s.panel? p = some y) (h : (s.g a).toNat < 16) :
    tkPoll s a = if y.agPending[(s.g a).toNat] = 0 then none
      else some (.ok (s.setPanel p { y with agPending := y.agPending.set (s.g a).toNat (y.agPending[(s.g a).toNat] - 1) h })) := by
  have hmod : (s.g a).toNat % 16 = (s.g a).toNat := Nat.mod_eq_of_lt h
  simp only [tkPoll, hf, partyPanel, Option.bind_some, hy, hmod, modPanel_some hy]

/-- A tack in range is on its way after the stitch (R250, R258). -/
theorem tack_leaves {a : Reg} {s : State} {p k : Nat} {x y : Panel} (h : Strands (.tack a) s p k x) (hy : (stitchBefore s).panel? p = some y)
    (hch : (s.g a).toNat ≤ 15) : Leaves (.tack a) s ((stitchBefore s).setPanel p { y with tacks := y.tacks ++ [tackSent s p x (s.g a).toNat] })
      (pastWord (.tack a) (stitchBefore s).cur) :=
  leaves_stitched h hy _ (exec_tack ..) (by rw [onStrand_eq h, if_neg (by omega)])

theorem tkwait_complete {a b : Reg} {s : State} {p k : Nat} {x y : Panel} (h : Strands (.tkwait a b) s p k x)
    (hy : (stitchBefore s).panel? p = some y) (hch : (s.g a).toNat < 16) :
    (y.agPending[(s.g a).toNat] = 0 → WaitsStitched (.tkwait a b) s (s.g b)) ∧
    (y.agPending[(s.g a).toNat] ≠ 0 → Leaves (.tkwait a b) s
      ((stitchBefore s).setPanel p { y with agPending := y.agPending.set (s.g a).toNat (y.agPending[(s.g a).toNat] - 1) hch })
      (pastWord (.tkwait a b) (stitchBefore s).cur)) := by
  have hst := stitchFrame_stitchBefore s
  have hga : (stitchBefore s).g a = s.g a := hst.g a
  have hpoll := tkPoll_eq (hst.focus.trans h.focus) hy (hga ▸ hch)
  simp only [hga] at hpoll
  constructor
  · intro h0
    exact waitsStitched_of_none h.issues.toMayIssue _ (exec_tkwait ..) (by rw [if_neg (by omega), hpoll, if_pos h0, hst.g])
  · intro h0
    exact leaves_ok h.issues.toMayIssue _ (exec_tkwait ..) (by rw [if_neg (by omega), hpoll, if_neg h0]; rfl) (hst.noTrip h.issues.noTrip)

end Sys2Proof.Machine

namespace Sys2Proof

open Machine

/-- Settles O39, form by form. -/
theorem tackCommitForms : Obligations.TackCommitForms := by
  refine ⟨fun a s p k x y h hy => ⟨fun hch => ?_, fun hch hw => ?_, fun hch hw => ?_⟩,
    fun a b s p k x y h hy => ⟨fun hch => ?_, tkwait_complete h hy⟩, fun s hi => ?_, fun a s p k x y h hy => ⟨fun hn => ?_, fun hn => ?_⟩⟩
  · exact traps_engine h.issues.toMayIssue _ (exec_tack ..) (by rw [onStrand_eq h, if_pos hch])
  · have hleaves := tack_leaves h hy hch
    rwa [tackSent, if_neg (by simp [hw])] at hleaves
  · have hleaves := tack_leaves h hy hch
    rwa [tackSent, if_pos hw] at hleaves
  · exact traps_engine h.issues.toMayIssue _ (exec_tkwait ..) (if_pos hch)
  · exact leaves_ok hi.toMayIssue (fun s => .ok (stitchBefore s)) rfl rfl ((stitchFrame_stitchBefore s).noTrip hi.noTrip)
  · exact traps_engine h.issues.toMayIssue _ (exec_mxhint ..) (by rw [onStrand_eq h, if_pos hn])
  · exact leaves_stitched h hy _ (exec_mxhint ..) (by rw [onStrand_eq h, if_neg (by omega)])

end Sys2Proof
end

section
/-! SUPPORT. A strand's form whose body answers a state: the panel it leaves, its counters, and every other panel as it was. -/

namespace Sys2Proof.Machine

open Sys2Proof

theorem panel_modPanel_other (s : State) {p q : Nat} (f : Panel → Panel) (h : q ≠ p) : (s.modPanel p f).panel? q = s.panel? q := by
  cases hx : s.panel? p with
  | none => rw [modPanel_none hx]
  | some x => rw [modPanel_some hx, panel_setPanel_other _ _ h]

/-- A form of a strand that ends no trip changes no panel but its own as it retires. -/
theorem panel_finish_other {i : Instr} {u : State} {p k q : Nat} (hf : u.focus = .seq p k) (hn : NoTrip i u.cur) (hq : q ≠ p) :
    (commitShadow i (noteIssue (retire i u))).panel? q = u.panel? q := by
  have hretire : (retire i u).panel? q = u.panel? q := by
    obtain hr | hr := retire_noTrip hn
    · rw [hr]; rfl
    · rw [hr, hf]; exact panel_modPanel_other _ _ hq
  have hfr : (retire i u).focus = .seq p k := (focus_retire hn).trans hf
  have hnote : (noteIssue (retire i u)).panel? q = (retire i u).panel? q := by
    unfold noteIssue
    rw [hfr]
    dsimp only
    split
    · exact panel_setPanel_other _ _ hq
    · rfl
  have hshadow (v : State) (hv : v.focus = .seq p k) : (commitShadow i v).panel? q = v.panel? q := by
    unfold commitShadow
    rw [hv]
    dsimp only
    split
    · exact panel_modPanel_other _ _ hq
    · rfl
  have hfn : (noteIssue (retire i u)).focus = .seq p k := (elsewhere_focus (noteIssue_elsewhere _).1).trans hfr
  rw [hshadow _ hfn, hnote, hretire]

/-- What a form of a strand leaves whose body answers a state in which its panel is `z`. -/
structure StrandLeft (i : Instr) (u : State) (p : Nat) (z : Panel) (t : State) : Prop where
  cur : unmarked t.cur = unmarked (pastWord i u.cur)
  contexts : t.contexts = u.contexts
  mem : t.mem = u.mem
  others : ∀ q, q ≠ p → t.panel? q = u.panel? q
  panel : ∃ y, t.panel? p = some y ∧ uncounted y = uncounted z ∧ y.counters = z.counters.map fun c => c.add 88 1

theorem strand_leaves {i : Instr} {s u : State} {p k : Nat} {x z : Panel} (h : Strands i s p k x) (body : State → Res)
    (he : exec i s = issue i s body) (hb : body s = .ok u) (hf : u.focus = .seq p k) (hz : u.panel? p = some z) (hn : NoTrip i u.cur) :
    Ends i s (StrandLeft i u p z) := by
  obtain ⟨t, ht, helse, hcur, hcounters⟩ := ends_ok h.issues.toMayIssue body he hb hn
  have hexec := ht
  rw [he, issue_eq h.issues.toMayIssue, hb, finishRes] at hexec
  obtain rfl := Host.Outcome.next.inj hexec
  refine ⟨_, ht, hcur, elsewhere_contexts helse, elsewhere_mem helse, fun q hq => panel_finish_other hf hn hq, ?_⟩
  have hpanel := helse.panels p
  rw [hz] at hpanel
  obtain ⟨y, hy, hyz⟩ := Option.map_eq_some_iff.mp hpanel
  refine ⟨y, hy, hyz, ?_⟩
  rw [hf, countersOf_panel _ (q := .seq p k) rfl, countersOf_panel _ (q := .seq p k) rfl, hy, hz] at hcounters
  exact hcounters

end Sys2Proof.Machine
end

section
/-! SUPPORT. Stream slots of a strand changed one after another, with the queues of their tiles (R218, R222). -/

namespace Sys2Proof.Machine

open Sys2Proof

/-! ## Slots and queues -/

theorem slot?_setSlot (x : Panel) (k q j r : Nat) (sl : StreamSlot) :
    (x.setSlot k q sl).slot? j r = if j % 4 = k % 4 ∧ r = q then some sl else x.slot? j r := by
  rw [Panel.slot?, Panel.setSlot, strand_setStrand]
  by_cases hj : j % 4 = k % 4
  · have hstrand : x.strand k = x.strand j := by simp only [Panel.strand, hj]
    by_cases hr : r = q
    · subst hr; simp [hj]
    · simp [hj, hr, get_set_other, hstrand, Panel.slot?]
  · simp [hj, Ne.symm hj, Panel.slot?]

/-- Every tile's queue of a stream emptied. -/
def queuesEmptied (x : Panel) (k q : Nat) : Panel := { x with tiles := mapVals (fun _ t => t.setQueue k q []) x.tiles }

theorem queue_setQueue (t : Tile) (k q j r : Nat) (l : List Beat) :
    (t.setQueue k q l).queue j r = if queueKey j r = queueKey k q then l else t.queue j r := getD_set ..

/-- A tile that was never written has empty queues. -/
theorem queue_queuesEmptied (x : Panel) (k q n j r : Nat) :
    ((queuesEmptied x k q).tile n).queue j r = if queueKey j r = queueKey k q then [] else (x.tile n).queue j r := by
  simp only [queuesEmptied, Panel.tile, FMap.getD, get_mapVals]
  cases FMap.get? x.tiles n with
  | none => simp [Tile.queue, FMap.getD, Tile.clear]
  | some t => exact queue_setQueue ..

theorem queueKey_eq_iff {j k r q : Nat} (hj : j < 4) (hk : k < 4) (hr : r < 16) (hq : q < 16) :
    queueKey j r = queueKey k q ↔ j = k ∧ r = q := by
  unfold queueKey
  omega

/-! ## A change of named slots -/

/-- An operation on slots of a strand k: it changes the slot that it names by `g`, and empties its queues where `e` holds of the slot. -/
structure SlotOp (op : Panel → Nat → Panel) (k : Nat) (g : StreamSlot → StreamSlot) (e : StreamSlot → Bool) : Prop where
  slot : ∀ x q j r, (op x q).slot? j r = if j % 4 = k % 4 ∧ r = q then (x.slot? j r).map g else x.slot? j r
  queue : ∀ x q n j r, ((op x q).tile n).queue j r =
    if (x.slot? k q).any e = true ∧ queueKey j r = queueKey k q then [] else (x.tile n).queue j r

section
variable {op : Panel → Nat → Panel} {k : Nat} {g : StreamSlot → StreamSlot} {e : StreamSlot → Bool} (h : SlotOp op k g e)
include h

theorem SlotOp.slot_other (x : Panel) {q r : Nat} (hr : r ≠ q) (j : Nat) : (op x q).slot? j r = x.slot? j r := by
  rw [h.slot, if_neg fun hc => hr hc.2]

/-- Slots that a list names once are changed once. -/
theorem SlotOp.slot_foldl (qs : List Nat) (hqs : qs.Nodup) : ∀ (x : Panel) (j r : Nat),
    (qs.foldl op x).slot? j r = if j % 4 = k % 4 ∧ r ∈ qs then (x.slot? j r).map g else x.slot? j r := by
  induction qs with
  | nil => intro x j r; simp
  | cons q qs ih =>
    intro x j r
    obtain ⟨hq, hqs⟩ := List.nodup_cons.mp hqs
    rw [List.foldl_cons, ih hqs]
    by_cases hr : r = q
    · subst hr
      rw [if_neg fun hc => hq hc.2, h.slot]
      simp
    · rw [h.slot_other x hr]
      simp [hr]

/-- The queues of the slots so changed are empty where the operation empties them, all others as before. -/
theorem SlotOp.queue_foldl (hk : k < 4) (qs : List Nat) (hqs : qs.Nodup) (h16 : ∀ q ∈ qs, q < 16) : ∀ (x : Panel) (n j r : Nat),
    j < 4 → r < 16 → ((qs.foldl op x).tile n).queue j r =
      if j = k ∧ r ∈ qs ∧ (x.slot? k r).any e = true then [] else (x.tile n).queue j r := by
  induction qs with
  | nil => intro x n j r _ _; simp
  | cons q qs ih =>
    intro x n j r hj hr16
    obtain ⟨hq, hqs⟩ := List.nodup_cons.mp hqs
    obtain ⟨hq16, h16⟩ := List.forall_mem_cons.mp h16
    rw [List.foldl_cons, ih hqs h16 _ _ _ _ hj hr16, h.queue]
    simp only [queueKey_eq_iff hj hk hr16 hq16]
    by_cases hr : r = q
    · subst hr
      simp [hq, and_comm]
    · rw [h.slot_other x hr]
      simp [hr]

end

/-! ## sgo and sstop (R222) -/

/-- A slot at its first element. -/
def slotStarted (sl : StreamSlot) : StreamSlot :=
  { sl with state := .running, fetched := [], moved := [], parts := [], fault := [], past := [] }

/-- A strand that expects the path beats of a stream from the first on. -/
def pathRestarted (x : Panel) (k q : Nat) : Panel := x.setStrand k { x.strand k with pathGot := FMap.erase (x.strand k).pathGot q }

theorem slot?_pathRestarted (x : Panel) (k q j r : Nat) : (pathRestarted x k q).slot? j r = x.slot? j r := by
  rw [pathRestarted, Panel.slot?, strand_setStrand]
  split
  · next h => rw [Panel.slot?, show x.strand k = x.strand j by simp only [Panel.strand, h]]
  · rfl

theorem startSlot_eq (k : Nat) (x : Panel) (q : Nat) : startSlot k x q = match x.slot? k q with
    | none => x
    | some sl => (pathRestarted (queuesEmptied x k q) k q).setSlot k q (slotStarted sl) := by
  unfold startSlot
  cases x.slot? k q <;> rfl

/-- Strands are numbered modulo 4, so that two numbers may name one slot. -/
theorem slot?_mod {x : Panel} {j k : Nat} (h : j % 4 = k % 4) (q : Nat) : x.slot? j q = x.slot? k q := by
  simp only [Panel.slot?, Panel.strand, h]

theorem startSlot_slotOp (k : Nat) : SlotOp (startSlot k) k slotStarted fun _ => true where
  slot x q j r := by
    rw [startSlot_eq]
    cases hsl : x.slot? k q with
    | none =>
      dsimp only
      split
      · next h => rw [h.2, slot?_mod h.1, hsl]; rfl
      · rfl
    | some sl =>
      dsimp only
      rw [slot?_setSlot, slot?_pathRestarted]
      split
      · next h => rw [h.2, slot?_mod h.1, hsl]; rfl
      · rfl
  queue x q n j r := by
    rw [startSlot_eq]
    cases hsl : x.slot? k q with
    | none => simp
    | some sl => exact (queue_queuesEmptied x k q n j r).trans (by simp)

/-- A slot after `sstop`: ended, where it was running. -/
def slotStopped (sl : StreamSlot) : StreamSlot :=
  if sl.state = .running then { sl with state := .ended, parts := [], fault := [], past := [] } else sl

/-- A running in-stream: the beats that wait for it are discarded as it stops. -/
def discards (sl : StreamSlot) : Bool := decide (sl.state = .running ∧ sl.spec.dirOut = false)

/-- The panel with the beats that wait for a running in-stream discarded and counted (R222). -/
def beatsDiscarded (x : Panel) (k q : Nat) (sl : StreamSlot) : Panel :=
  if discards sl then (queuesEmptied x k q).count 19 (waitingBeats k x q sl) else x

theorem stopSlot_eq (k : Nat) (x : Panel) (q : Nat) : stopSlot k x q = match x.slot? k q with
    | none => x
    | some sl => if sl.state = .running then (beatsDiscarded x k q sl).setSlot k q (slotStopped sl) else x := by
  unfold stopSlot
  cases x.slot? k q with
  | none => rfl
  | some sl =>
    dsimp only
    split
    · next hrun =>
      cases hd : sl.spec.dirOut <;> simp [beatsDiscarded, discards, slotStopped, hrun, hd, queuesEmptied]
    · rfl

theorem slot?_beatsDiscarded (x : Panel) (k q : Nat) (sl : StreamSlot) (j r : Nat) : (beatsDiscarded x k q sl).slot? j r = x.slot? j r := by
  unfold beatsDiscarded
  split <;> rfl

theorem stopSlot_slotOp (k : Nat) : SlotOp (stopSlot k) k slotStopped discards where
  slot x q j r := by
    rw [stopSlot_eq]
    cases hsl : x.slot? k q with
    | none =>
      dsimp only
      split
      · next h => rw [h.2, slot?_mod h.1, hsl]; rfl
      · rfl
    | some sl =>
      dsimp only
      split
      · rw [slot?_setSlot, slot?_beatsDiscarded]
        split
        · next h => rw [h.2, slot?_mod h.1, hsl]; rfl
        · rfl
      · next hrun =>
        split
        · next h => rw [h.2, slot?_mod h.1, hsl, Option.map_some, slotStopped, if_neg hrun]
        · rfl
  queue x q n j r := by
    rw [stopSlot_eq]
    cases hsl : x.slot? k q with
    | none => simp
    | some sl =>
      dsimp only
      by_cases hrun : sl.state = .running
      · rw [if_pos hrun]
        have hqueue := queue_queuesEmptied x k q n j r
        by_cases hd : discards sl = true
        · rw [beatsDiscarded, if_pos hd]
          exact hqueue.trans (by simp [hd])
        · rw [beatsDiscarded, if_neg hd]
          simp only [Option.any_some, hd]
          rfl
      · simp [hrun, discards]

/-! ## The beats discarded (R222) -/

theorem image_stopSlot (k : Nat) (x : Panel) (q : Nat) : (stopSlot k x q).image = x.image := by
  rw [stopSlot_eq]
  cases x.slot? k q with
  | none => rfl
  | some sl =>
    dsimp only
    split
    · unfold beatsDiscarded
      split <;> rfl
    · rfl

theorem tiles_stopSlot (k : Nat) (x : Panel) (q : Nat) :
    (stopSlot k x q).tiles = x.tiles ∨ (stopSlot k x q).tiles = mapVals (fun _ t => t.setQueue k q []) x.tiles := by
  rw [stopSlot_eq]
  cases x.slot? k q with
  | none => exact .inl rfl
  | some sl =>
    dsimp only
    split
    · unfold beatsDiscarded
      split
      · exact .inr rfl
      · exact .inl rfl
    · exact .inl rfl

/-- The beats that wait for a stream are those of its own queues and parts: the end of another stream leaves their number. -/
theorem waitingBeats_stopSlot {k q r : Nat} (hne : queueKey k r ≠ queueKey k q) (x : Panel) (sl : StreamSlot) :
    waitingBeats k (stopSlot k x q) r sl = waitingBeats k x r sl := by
  have hparts (c : Nat) : elemsLeft (stopSlot k x q) sl c = elemsLeft x sl c := by
    simp only [elemsLeft, beatElems, tileElems, tileFirst, blockOf, image_stopSlot]
  have hqueue (t : Tile) : (t.setQueue k q []).queue k r = t.queue k r := by rw [queue_setQueue, if_neg hne]
  unfold waitingBeats
  simp only [hparts]
  obtain ht | ht := tiles_stopSlot k x q
  · rw [ht]
  · simp only [ht, mapVals, List.map_map, Function.comp_def, hqueue]

/-- The beats that wait for the slot q of a strand, where its end discards them. -/
def discarded (x : Panel) (k q : Nat) : Option Nat :=
  (x.slot? k q).bind fun sl => if discards sl then some (waitingBeats k x q sl) else none

theorem discarded_stopSlot {k q r : Nat} (hk : k < 4) (hq : q < 16) (hr : r < 16) (hne : r ≠ q) (x : Panel) :
    discarded (stopSlot k x q) k r = discarded x k r := by
  have hkey : queueKey k r ≠ queueKey k q := fun h => hne ((queueKey_eq_iff hk hk hr hq).mp h).2
  unfold discarded
  rw [(stopSlot_slotOp k).slot_other x hne]
  simp only [waitingBeats_stopSlot hkey]

theorem counter_stopSlot (k : Nat) (x : Panel) (q : Nat) (c : Fin 4) :
    (stopSlot k x q).counters[c] = (discarded x k q).elim x.counters[c] fun n => x.counters[c].add 19 n := by
  rw [stopSlot_eq, discarded]
  cases x.slot? k q with
  | none => rfl
  | some sl =>
    dsimp only [Option.bind_some, beatsDiscarded]
    by_cases hd : discards sl = true
    · have hrun : sl.state = .running := (of_decide_eq_true hd).1
      rw [if_pos hrun, if_pos hd, if_pos hd]
      exact Vector.getElem_map ..
    · rw [if_neg hd, if_neg hd]
      split <;> rfl

/-- The beats of the slots that stop one after another are counted slot by slot. -/
theorem counter_foldl_stopSlot {k : Nat} (hk : k < 4) (qs : List Nat) (hqs : qs.Nodup) (h16 : ∀ q ∈ qs, q < 16) (c : Fin 4) :
    ∀ x : Panel, (qs.foldl (stopSlot k) x).counters[c] = (qs.filterMap (discarded x k)).foldl (fun c n => c.add 19 n) x.counters[c] := by
  induction qs with
  | nil => intro x; rfl
  | cons q qs ih =>
    intro x
    obtain ⟨hq, hqs⟩ := List.nodup_cons.mp hqs
    obtain ⟨hq16, h16⟩ := List.forall_mem_cons.mp h16
    have hrest : qs.filterMap (discarded (stopSlot k x q) k) = qs.filterMap (discarded x k) :=
      List.filterMap_congr fun r hr => discarded_stopSlot hk hq16 (h16 r hr) (fun he => hq (he ▸ hr)) x
    rw [List.foldl_cons, ih hqs h16, hrest, counter_stopSlot]
    cases hd : discarded x k q with
    | none => rw [List.filterMap_cons_none hd]; rfl
    | some n => rw [List.filterMap_cons_some hd]; rfl

/-! ## The slots that a mask names -/

theorem mem_maskSlots {m : Word} {q : Nat} : q ∈ maskSlots m ↔ q < 16 ∧ m.getLsbD q = true := by simp [maskSlots]

theorem nodup_maskSlots (m : Word) : (maskSlots m).Nodup := List.nodup_range.filter _

theorem lt_of_mem_maskSlots (m : Word) : ∀ q ∈ maskSlots m, q < 16 := fun _ hq => (mem_maskSlots.mp hq).1

theorem discardedBeats_eq (x : Panel) (k : Nat) (m : Word) : discardedBeats x k m = (maskSlots m).filterMap (discarded x k) := by
  rw [maskSlots, List.filterMap_filter]
  simp only [discardedBeats, discarded, discards, decide_eq_true_eq]

/-- `sgo` goes on where every slot named holds a spec, none of them running (R222). -/
theorem loaded_of_slotsFree {x : Panel} {k : Nat} : ∀ {qs used : List Nat}, slotsFree x k qs used = true →
    ∀ q ∈ qs, ∃ sl, x.slot? k q = some sl
  | [], _, _, _, hq => absurd hq List.not_mem_nil
  | r :: qs, used, h, q, hq => by
    rw [slotsFree] at h
    split at h
    · contradiction
    · next sl hsl =>
      obtain rfl | hq := List.mem_cons.mp hq
      · exact ⟨sl, hsl⟩
      · exact loaded_of_slotsFree (Bool.and_eq_true_iff.mp h).2 q hq

theorem loaded_of_sgoCheck {s : State} {x : Panel} {k : Nat} {w : Word} {qs : List Nat} (h : sgoCheck s x k w qs = none) :
    ∀ q ∈ qs, ∃ sl, x.slot? k q = some sl := by
  refine loaded_of_slotsFree (used := busyGens x) ?_
  cases hfree : slotsFree x k qs (busyGens x) with
  | true => rfl
  | false => simp [sgoCheck, hfree] at h

end Sys2Proof.Machine
end

section
/-! PROOFS. sspec, sgo and sstop (R218, R222). -/

namespace Sys2Proof.Machine

open Sys2Proof

/-- A slot as `sspec` loads it: idle, with nothing fetched. -/
def slotLoaded (s : State) (x : Panel) (sp : StreamSpec) (ag : BitVec 2) (a : Reg) (entry : BitVec 11) (disp : BitVec 32) : StreamSlot :=
  ⟨sp, ag.toNat, s.g a + sext64 disp, .idle, [], [], [], [], pathNumber x.image entry.toNat, []⟩

theorem exec_sspec (stream : BitVec 4) (ag : BitVec 2) (a : Reg) (entry : BitVec 11) (disp : BitVec 32) (s : State) :
    exec (.sspec stream ag a entry disp) s = issue (.sspec stream ag a entry disp) s fun s => onStrand s fun p k x =>
      match x.image.specs[entry.toNat]? with
      | none => trapOf .illegal (wordVal (.sspec stream ag a entry disp))
      | some sp => if ((x.slot? k stream.toNat).map fun sl => sl.state == .running).getD false then engineTrap (.sspec stream ag a entry disp)
        else .ok (s.modPanel p fun x =>
          (queuesEmptied x k stream.toNat).setSlot k stream.toNat (slotLoaded s x sp ag a entry disp)) := rfl

theorem exec_sgo (a : Reg) (s : State) : exec (.sgo a) s = issue (.sgo a) s fun s => onStrand s fun p k x =>
    if !maskOk (s.g a) then engineTrap (.sgo a)
    else match sgoCheck s x k (wordVal (.sgo a)) (maskSlots (s.g a)) with
      | some t => .trap t
      | none => .ok ((stitchBefore s).modPanel p fun x => (maskSlots (s.g a)).foldl (startSlot k) x) := rfl

theorem exec_sstop (a : Reg) (s : State) : exec (.sstop a) s = issue (.sstop a) s fun s => onStrand s fun p k _ =>
    if !maskOk (s.g a) then engineTrap (.sstop a)
    else .ok ((stitchBefore s).modPanel p fun x => (maskSlots (s.g a)).foldl (stopSlot k) x) := rfl

/-- A counter counts no event but its own. -/
theorem add_other {c : Counter} {ev : Nat} (h : c.event ≠ some ev) (n : Nat) : c.add ev n = c := if_neg h

theorem event_foldl_add (ev : Nat) (ns : List Nat) : ∀ c : Counter, (ns.foldl (fun c n => c.add ev n) c).event = c.event := by
  induction ns with
  | nil => exact fun _ => rfl
  | cons n ns ih => exact fun c => (ih _).trans (congrArg Prod.fst (selection_add c ev n))

theorem maskOk_of_lt {m : Word} (h : m.toNat < 65536) : (!maskOk m) = false := by simp [maskOk, h]

theorem maskOk_of_le {m : Word} (h : 65536 ≤ m.toNat) : (!maskOk m) = true := by simp [maskOk, Nat.not_lt.mpr h]

/-- A form of a strand that changes its stitched panel by `f`. -/
theorem stitched_leaves {i : Instr} {s : State} {p k : Nat} {x z : Panel} (h : Strands i s p k x) (hz : (stitchBefore s).panel? p = some z)
    (body : State → Res) (he : exec i s = issue i s body) (f : Panel → Panel) (hb : body s = .ok ((stitchBefore s).modPanel p f)) :
    Ends i s fun t => unmarked t.cur = unmarked (pastWord i (stitchBefore s).cur) ∧ t.contexts = (stitchBefore s).contexts ∧
      t.mem = (stitchBefore s).mem ∧ (∀ q, q ≠ p → t.panel? q = (stitchBefore s).panel? q) ∧
      ∃ y, t.panel? p = some y ∧ uncounted y = uncounted (f z) ∧ y.counters = (f z).counters.map fun c => c.add 88 1 := by
  have hst := stitchFrame_stitchBefore s
  rw [modPanel_some hz] at hb
  obtain ⟨t, ht, hl⟩ := strand_leaves h body he hb (hst.focus.trans h.focus) (panel_setPanel _ _ _) (hst.noTrip h.issues.noTrip)
  exact ⟨t, ht, hl.cur, hl.contexts, hl.mem, fun q hq => (hl.others q hq).trans (panel_setPanel_other _ _ hq), hl.panel⟩

/-- A panel differs from another in its counters alone: it has the same slots. -/
theorem slot?_of_uncounted {y z : Panel} (h : uncounted y = uncounted z) (k q : Nat) : y.slot? k q = z.slot? k q := by
  change (uncounted y).slot? k q = (uncounted z).slot? k q
  rw [h]

theorem tile_of_uncounted {y z : Panel} (h : uncounted y = uncounted z) (n : Nat) : y.tile n = z.tile n := by
  change (uncounted y).tile n = (uncounted z).tile n
  rw [h]

/-- A stitch leaves the stream slots. -/
theorem Published.slot? {x y : Panel} (h : Published x y) (k q : Nat) : y.slot? k q = x.slot? k q := by
  rw [Panel.slot?, h.strands k]
  rfl

/-! ## sspec (R218) -/

theorem sspec_complete {stream : BitVec 4} {ag : BitVec 2} {a : Reg} {entry : BitVec 11} {disp : BitVec 32} {s : State} {p k : Nat} {x : Panel}
    {sp : StreamSpec} (h : Strands (.sspec stream ag a entry disp) s p k x) (hsp : x.image.specs[entry.toNat]? = some sp)
    (hidle : ∀ sl, x.slot? k stream.toNat = some sl → sl.state ≠ .running) (hk : k < 4) :
    Ends (.sspec stream ag a entry disp) s fun t => unmarked t.cur = unmarked (pastWord (.sspec stream ag a entry disp) s.cur) ∧
      (∀ q, q ≠ p → t.panel? q = s.panel? q) ∧ t.mem = s.mem ∧ t.contexts = s.contexts ∧
      ∃ y, t.panel? p = some y ∧ y.slot? k stream.toNat = some (slotLoaded s x sp ag a entry disp) ∧
        (∀ n, (y.tile n).queue k stream.toNat = []) ∧
        (∀ j q, j < 4 → ¬ (j = k ∧ q = stream.toNat) → y.slot? j q = x.slot? j q) := by
  have hfree : ((x.slot? k stream.toNat).map fun sl => sl.state == .running).getD false = false := by
    cases hsl : x.slot? k stream.toNat with
    | none => rfl
    | some sl => simpa using hidle sl hsl
  obtain ⟨t, ht, hl⟩ := strand_leaves h _ (exec_sspec ..)
    (u := s.setPanel p ((queuesEmptied x k stream.toNat).setSlot k stream.toNat (slotLoaded s x sp ag a entry disp)))
    (by rw [onStrand_eq h, hsp]; dsimp only; rw [hfree, modPanel_some h.panel]; rfl) h.focus (panel_setPanel ..) h.issues.noTrip
  obtain ⟨y, hy, hun, -⟩ := hl.panel
  have hslot (j q : Nat) : y.slot? j q = if j % 4 = k % 4 ∧ q = stream.toNat then some (slotLoaded s x sp ag a entry disp) else x.slot? j q :=
    (slot?_of_uncounted hun j q).trans (slot?_setSlot ..)
  refine ⟨t, ht, hl.cur, fun q hq => (hl.others q hq).trans (panel_setPanel_other _ _ hq), hl.mem, hl.contexts, y, hy, ?_, fun n => ?_,
    fun j q hj hne => ?_⟩
  · rw [hslot, if_pos ⟨rfl, rfl⟩]
  · rw [tile_of_uncounted hun]
    exact (queue_queuesEmptied x k stream.toNat n k stream.toNat).trans (if_pos rfl)
  · rw [hslot, if_neg (by rwa [Nat.mod_eq_of_lt hj, Nat.mod_eq_of_lt hk])]

/-! ## sgo (R222) -/

theorem sgo_complete {a : Reg} {s : State} {p k : Nat} {x z : Panel} (h : Strands (.sgo a) s p k x) (hz : (stitchBefore s).panel? p = some z)
    (hm : (s.g a).toNat < 65536) (hcheck : sgoCheck s x k (wordOfForm (.sgo a)) (maskSlots (s.g a)) = none) (hk : k < 4) :
    Ends (.sgo a) s fun t => unmarked t.cur = unmarked (pastWord (.sgo a) (stitchBefore s).cur) ∧ t.contexts = (stitchBefore s).contexts ∧
      t.mem = (stitchBefore s).mem ∧ (∀ q, q ≠ p → t.panel? q = (stitchBefore s).panel? q) ∧
      ∃ y, t.panel? p = some y ∧
        (∀ q, q < 16 → (s.g a).getLsbD q = true →
          (∃ sl, z.slot? k q = some sl ∧ y.slot? k q = some (slotStarted sl)) ∧ ∀ n, (y.tile n).queue k q = []) ∧
        (∀ j q, j < 4 → q < 16 → ¬ (j = k ∧ (s.g a).getLsbD q = true) → y.slot? j q = z.slot? j q ∧
          ∀ n, (y.tile n).queue j q = (z.tile n).queue j q) := by
  have hloaded (q : Nat) (hq : q < 16) (hbit : (s.g a).getLsbD q = true) : ∃ sl, z.slot? k q = some sl := by
    obtain ⟨z', hz', hpub⟩ := (stitchFrame_stitchBefore s).panel h.panel
    obtain rfl := Option.some.inj (hz.symm.trans hz')
    rw [hpub.slot?]
    exact loaded_of_sgoCheck hcheck q (mem_maskSlots.mpr ⟨hq, hbit⟩)
  obtain ⟨t, ht, hcur, hctx, hmem, hothers, y, hy, hun, -⟩ := stitched_leaves h hz _ (exec_sgo ..) _
    (by rw [onStrand_eq h, maskOk_of_lt hm, wordVal_eq, hcheck]; rfl)
  have hslot (j q : Nat) := (slot?_of_uncounted hun j q).trans ((startSlot_slotOp k).slot_foldl _ (nodup_maskSlots _) z j q)
  have hqueue (n j q : Nat) (hj : j < 4) (hq : q < 16) := (congrArg (fun u : Tile => u.queue j q) (tile_of_uncounted hun n)).trans
    ((startSlot_slotOp k).queue_foldl hk _ (nodup_maskSlots _) (lt_of_mem_maskSlots _) z n j q hj hq)
  refine ⟨t, ht, hcur, hctx, hmem, hothers, y, hy, fun q hq hbit => ?_, fun j q hj hq hne => ?_⟩
  · obtain ⟨sl, hsl⟩ := hloaded q hq hbit
    have hin : q ∈ maskSlots (s.g a) := mem_maskSlots.mpr ⟨hq, hbit⟩
    refine ⟨⟨sl, hsl, ?_⟩, fun n => ?_⟩
    · rw [hslot, if_pos ⟨rfl, hin⟩, hsl, Option.map_some]
    · exact (hqueue n k q hk hq).trans (if_pos ⟨rfl, hin, by rw [hsl, Option.any_some]⟩)
  · constructor
    · rw [hslot, if_neg (by rw [Nat.mod_eq_of_lt hj, Nat.mod_eq_of_lt hk, mem_maskSlots]; tauto)]
    · exact fun n => (hqueue n j q hj hq).trans (if_neg (by rw [mem_maskSlots]; tauto))

/-! ## sstop (R222) -/

theorem sstop_complete {a : Reg} {s : State} {p k : Nat} {x z : Panel} (h : Strands (.sstop a) s p k x)
    (hz : (stitchBefore s).panel? p = some z) (hm : (s.g a).toNat < 65536) (hk : k < 4) :
    Ends (.sstop a) s fun t => unmarked t.cur = unmarked (pastWord (.sstop a) (stitchBefore s).cur) ∧
      t.contexts = (stitchBefore s).contexts ∧ t.mem = (stitchBefore s).mem ∧ (∀ q, q ≠ p → t.panel? q = (stitchBefore s).panel? q) ∧
      ∃ y, t.panel? p = some y ∧
        (∀ q sl, q < 16 → (s.g a).getLsbD q = true → z.slot? k q = some sl → sl.state = .running →
          y.slot? k q = some { sl with state := .ended, parts := [], fault := [], past := [] } ∧
          ∀ n, (y.tile n).queue k q = if sl.spec.dirOut then (z.tile n).queue k q else []) ∧
        (∀ j q, j < 4 → q < 16 → ¬ (j = k ∧ (s.g a).getLsbD q = true ∧ ∃ sl, z.slot? k q = some sl ∧ sl.state = .running) →
          y.slot? j q = z.slot? j q ∧ ∀ n, (y.tile n).queue j q = (z.tile n).queue j q) ∧
        ∀ c : Fin 4, (z.counters[c]).event = some 19 →
          y.counters[c] = (discardedBeats z k (s.g a)).foldl (fun c n => c.add 19 n) z.counters[c] := by
  obtain ⟨t, ht, hcur, hctx, hmem, hothers, y, hy, hun, hcounters⟩ := stitched_leaves h hz _ (exec_sstop ..) _
    (by rw [onStrand_eq h, maskOk_of_lt hm]; rfl)
  have hslot (j q : Nat) := (slot?_of_uncounted hun j q).trans ((stopSlot_slotOp k).slot_foldl _ (nodup_maskSlots _) z j q)
  have hqueue (n j q : Nat) (hj : j < 4) (hq : q < 16) := (congrArg (fun u : Tile => u.queue j q) (tile_of_uncounted hun n)).trans
    ((stopSlot_slotOp k).queue_foldl hk _ (nodup_maskSlots _) (lt_of_mem_maskSlots _) z n j q hj hq)
  refine ⟨t, ht, hcur, hctx, hmem, hothers, y, hy, fun q sl hq hbit hsl hrun => ?_, fun j q hj hq hne => ?_, fun c hc => ?_⟩
  · have hin : q ∈ maskSlots (s.g a) := mem_maskSlots.mpr ⟨hq, hbit⟩
    refine ⟨?_, fun n => ?_⟩
    · rw [hslot, if_pos ⟨rfl, hin⟩, hsl, Option.map_some, slotStopped, if_pos hrun]
    · refine (hqueue n k q hk hq).trans ?_
      cases hd : sl.spec.dirOut <;> simp [hin, hsl, discards, hrun, hd]
  · have hkept (hin : j = k ∧ q ∈ maskSlots (s.g a)) (sl : StreamSlot) (hsl : z.slot? k q = some sl) : sl.state ≠ .running := fun hrun =>
      hne ⟨hin.1, (mem_maskSlots.mp hin.2).2, sl, hsl, hrun⟩
    constructor
    · rw [hslot]
      split
      · next hin =>
        have hin : j = k ∧ q ∈ maskSlots (s.g a) := by rwa [Nat.mod_eq_of_lt hj, Nat.mod_eq_of_lt hk] at hin
        obtain rfl := hin.1
        cases hsl : z.slot? j q with
        | none => rfl
        | some sl => rw [Option.map_some, slotStopped, if_neg (hkept hin sl hsl)]
      · rfl
    · refine fun n => (hqueue n j q hj hq).trans (if_neg ?_)
      rintro ⟨hjk, hin, hany⟩
      subst hjk
      cases hsl : z.slot? j q with
      | none => rw [hsl] at hany; contradiction
      | some sl =>
        rw [hsl, Option.any_some] at hany
        exact hkept ⟨rfl, hin⟩ sl hsl (of_decide_eq_true hany).1
  · have hcount := counter_foldl_stopSlot hk _ (nodup_maskSlots (s.g a)) (lt_of_mem_maskSlots _) c z
    have hevent := (congrArg Counter.event hcount).trans ((event_foldl_add ..).trans hc)
    rw [discardedBeats_eq, ← hcount, hcounters]
    exact (Vector.getElem_map ..).trans (add_other (by rw [← Fin.getElem_fin, hevent]; decide) 1)

end Sys2Proof.Machine

namespace Sys2Proof

open Machine

/-- Settles O37, form by form. -/
theorem streamFormsComplete : Obligations.StreamFormsComplete := by
  refine ⟨fun stream ag a entry disp s p k x h => ⟨fun hlen => ?_, fun sp hsp => ⟨fun sl hsl hrun => ?_, sspec_complete h hsp⟩⟩,
    fun a s p k x z h hz => ⟨fun hm => ?_, fun hm => ⟨fun t ht => ?_, sgo_complete h hz hm⟩⟩,
    fun a s p k x z h hz => ⟨fun hm => ?_, sstop_complete h hz⟩⟩
  · exact ends_trap h.issues.toMayIssue _ (exec_sspec ..) (by rw [onStrand_eq h, List.getElem?_eq_none hlen, wordVal_eq]; rfl)
  · exact traps_engine h.issues.toMayIssue _ (exec_sspec ..) (by rw [onStrand_eq h, hsp]; dsimp only; rw [hsl, Option.map_some, hrun]; rfl)
  · exact traps_engine h.issues.toMayIssue _ (exec_sgo ..) (by rw [onStrand_eq h, if_pos (maskOk_of_le hm)])
  · exact ends_trap h.issues.toMayIssue _ (exec_sgo ..) (by rw [onStrand_eq h, maskOk_of_lt hm, wordVal_eq, ht]; rfl)
  · exact traps_engine h.issues.toMayIssue _ (exec_sstop ..) (by rw [onStrand_eq h, if_pos (maskOk_of_le hm)])

end Sys2Proof
end

section
/-! PROOFS. A tack that comes due in a panel that lists no tile (R250). -/

namespace Sys2Proof.Machine

open Sys2Proof

/-- A panel of one block whose tiles were never written, so that it lists none of them, with a tack due. -/
def unlistedPanel : Panel := { placedPanel 0 [] with tiles := [], tacks := [⟨0, 0, false⟩] }

/-- A state whose panel 0 lists no tile. -/
def unlistedState : State := State.reset.setPanel 0 unlistedPanel

theorem panel_unlistedState : unlistedState.panel? 0 = some unlistedPanel := panel_setPanel ..

theorem exec_tackArrive_unlisted : exec (.tackArrive 0 0) unlistedState =
    .next (unlistedState.setPanel 0 (raiseTack { unlistedPanel with tacks := [] } 0)) := by
  rfl

/-- A tack raises the counts of the tiles that the panel lists; a tile that it does not list reads as clear after it as well. -/
theorem pend_raiseTack_unlisted : ((raiseTack { unlistedPanel with tacks := [] } 0).tile 0).pend 0 = 0 := by decide

end Sys2Proof.Machine

namespace Sys2Proof

open Machine

/-- Refutes O48: a due tack raises the counts of the tiles that a panel lists, and the clause asks it of every tile of the panel's blocks. The
state is one panel of one block that lists no tile, with a tack due: tile 0 reads a count of 0 before the step and after it. (A placement
lists every tile, see clearTiles; the statement does not ask for a panel so listed.) -/
theorem not_arraySteps : ¬ Obligations.ArraySteps := by
  rintro ⟨-, -, -, -, htack, -⟩
  obtain ⟨hraise, -⟩ := htack 0 0 unlistedState unlistedPanel ⟨0, 0, false⟩ panel_unlistedState rfl (by decide) (by decide)
  obtain ⟨y, hexec, ⟨hpend, -⟩, -⟩ := hraise (by decide)
  have hy : some y = some (raiseTack { unlistedPanel with tacks := [] } 0) := by
    have hstate := Host.Outcome.next.inj (hexec.symm.trans exec_tackArrive_unlisted)
    rw [← panel_setPanel unlistedState 0 y, hstate, panel_setPanel]
  have h0 := hpend 0 (by decide)
  rw [Option.some.inj hy, pend_raiseTack_unlisted] at h0
  contradiction

end Sys2Proof
end
